-- ==== Sys2Proof/Word.lean ====
section
/-! DEFINITION. The machine's words and the vocabulary types that name sizes (00:R8, 05:R147). -/
namespace Sys2Proof

/-- A 64-bit scalar register or virtual address (05:R147, 09:R252). -/
abbrev Word := BitVec 64
/-- The unit of memory. -/
abbrev Byte := BitVec 8
/-- One instruction parcel (04:R103). -/
abbrev Parcel := BitVec 32
/-- Number of an x, f or v register (04:R106). -/
abbrev Reg := BitVec 5
/-- A vector register, a shadow or an accumulator row, at the part's largest VLEN; a hart of fewer lane
groups uses the low VLEN bits and the rest stay zero (00:R2, 05:R147). -/
abbrev VReg := BitVec 16384
/-- A mask register: VLEN/4 bits (05:R147). -/
abbrev KReg := BitVec 4096
/-- A T tile register, 1 KiB (05:R147). -/
abbrev TReg := BitVec 8192
/-- A scale register, 256 E8M0 bytes, byte n at bits [8n+7:8n] (05:R147). -/
abbrev ScReg := BitVec 2048
/-- A code-table entry, an E8M10 value (06:R188). -/
abbrev CtEntry := BitVec 19

end Sys2Proof
end

