-- ==== Sys2Proof/Syntax.lean ====
section
/-! DEFINITION. The abstract syntax: operand vocabularies and Instr, one constructor per row of the opcode table
(04:R105-R135 for the encoded instructions; the table's event rows carry what the outside world or a device supplies). -/
namespace Sys2Proof

/-- Integer condition codes (04:R109). -/
inductive Cond | eq | ne | lt | ge | ltu | geu
  deriving DecidableEq, Repr
/-- Compare codes (04:R110). -/
inductive Cmp | eq | ne | lt | le | gt | ge | un
  deriving DecidableEq, Repr
/-- Scopes (04:R111). -/
inductive Scope | h | c | cl | p | s
  deriving DecidableEq, Repr
/-- Rounding modes (04:R112, 06:R175). -/
inductive Rm | rne | rtz | rup | rdn | rna | sr
  deriving DecidableEq, Repr
/-- The rm field of a vector instruction: a mode, or DYN (04:R112). -/
inductive RmDyn | st (m : Rm) | dyn
  deriving DecidableEq, Repr
/-- Scalar floating-point formats (04:R122). -/
inductive FFmt | fp64 | fp32 | fp16 | bf16
  deriving DecidableEq, Repr
/-- Element types (04:R113), in code order. -/
inductive ET
  | fp64 | fp32 | fp16 | bf16 | e4m3 | e5m2 | e3m2 | e2m3 | e2m1 | code8
  | int4 | int8 | int16 | int32 | int64 | uint4 | uint8 | uint16 | uint32 | uint64
  deriving DecidableEq, Repr
/-- Scale block lengths (04:R129). -/
inductive Bl | b16 | b32 | b64
  deriving DecidableEq, Repr
/-- Accumulator types (04:R129). -/
inductive Acc | fp32 | fp64 | int32
  deriving DecidableEq, Repr
/-- Atomic operations (04:R119). -/
inductive AmoOp | add | and | or | xor | min | max | minu | maxu | swap
  deriving DecidableEq, Repr
/-- LD sizes (04:R118). -/
inductive LdSize | b | h | w | d | bu | hu | wu
  deriving DecidableEq, Repr
/-- Plain sizes of ST, LDAQ and STRL (04:R118, R119). -/
inductive Size | b | h | w | d
  deriving DecidableEq, Repr
/-- Sizes of AMO, CAS and NAMO (04:R119). -/
inductive ASize | w | d
  deriving DecidableEq, Repr
/-- Access sets of FENCE (04:R120). -/
inductive AccSet | l | s | ls
  deriving DecidableEq, Repr
/-- VFENCE kinds (04:R120). -/
inductive VfKind | sv | vs | vv | all
  deriving DecidableEq, Repr
/-- Integer types of FCVT (04:R122). -/
inductive IntTy | i64 | i32 | ui64 | ui32
  deriving DecidableEq, Repr
/-- What FCVT converts (04:R122, b field). -/
inductive FcvtKind | toF (dst : FFmt) | toI (t : IntTy) | ofI (t : IntTy)
  deriving DecidableEq, Repr
/-- FMOV directions (04:R122). -/
inductive FmovDir | ff | xf | fx
  deriving DecidableEq, Repr
/-- The VTYPE fields (04:R129, 05:R154). -/
structure VType where
  et : ET
  bl : Bl
  sa : Bool
  sb : Bool
  acc : Acc
  rm : Rm
  deriving DecidableEq, Repr
/-- Second operand of the integer element-wise operations (16:R464). -/
inductive VSrc | vv (vb : Reg) | vx (xs : Reg) | vi (imm : BitVec 16)
  deriving DecidableEq, Repr
/-- Second operand of the floating element-wise operations (16:R464). -/
inductive FSrc | vv (vb : Reg) | vf (fs : Reg)
  deriving DecidableEq, Repr
/-- Operands two and three of VFMA (16:R478). -/
inductive FmaSrc | vv (vb vc : Reg) | vf (fs vb : Reg)
  deriving DecidableEq, Repr
/-- A predicate: mask number, and zeroing (04:R107, R108). -/
structure Pred where
  k : BitVec 3
  kz : Bool
  deriving DecidableEq, Repr
/-- Reduction operations (04:R131, major 54). -/
inductive RedOp | sum | max | min | and | or | xor
  deriving DecidableEq, Repr
/-- Convoy units (04:R135). -/
inductive VUnit | a | b | ls | mx | cv | pr | eng
  deriving DecidableEq, Repr
/-- Sparse forms of TMMA.S (04:R130). -/
inductive Sparse | n16 | n32
  deriving DecidableEq, Repr
/-- A tile register name, w0-w7 or ta0-ta1 (04:R130). -/
inductive Tile | w (n : BitVec 3) | ta (n : BitVec 1)
  deriving DecidableEq, Repr
/-- Identity of a hart: its gang and its index in it (02:R48); the firmware hart is gang 0, index 0. -/
structure HartId where
  gang : BitVec 32
  ix : Nat
  deriving DecidableEq, Repr
/-- Package rails (01:R24). -/
inductive Rail | string | c | base | hbm | io
  deriving DecidableEq, Repr
/-- What a remote packet carries (11:R320, R321). -/
inductive PacketKind
  | put | getReq (len : Nat) | getResp | amo (op : AmoOp) (sz : ASize) (operand : Word)
  deriving DecidableEq, Repr
/-- A packet at the receiving adapter (11:R320): its connection, its message's number in issue order and length,
the packet's own offset and bytes, and for a request the region it names. -/
structure Packet where
  conn : Nat
  msg : Nat
  kind : PacketKind
  region : Nat
  offset : Nat
  msgLen : Nat
  pktOff : Nat
  bytes : List Byte
  deriving DecidableEq, Repr
/-- What a host CXL.mem request asks (11:R326): a read of n bytes, as its own copy or a shared one, or a write. -/
inductive HdmReq | read (pa n : Nat) (own : Bool) | write (pa : Nat) (bytes : List Byte)
  deriving DecidableEq, Repr
/-- What the window before a measurement of a string shows (03:R84, R91, R92): each tile's cycles of blind issue under each setting of
its filler steps, and for each hart there its cycles and its own cycles of blind issue that its counters do not hold yet. `failed`: the ladder, the balancer or the rail
has failed (01:R21). -/
structure Window where
  fill : List (List Nat)
  harts : List (HartId × Nat × Nat)
  failed : Bool
  deriving DecidableEq, Repr
/-- What a debugger names (12:R345). -/
inductive DbgReg
  | x (r : Reg) | f (r : Reg) | pc | csr (n : BitVec 12)
  /-- Doubleword i of a wider register. -/
  | v (r : Reg) (i : BitVec 8) | k (r : BitVec 3) (i : BitVec 6) | m (t : BitVec 2) (row : BitVec 4) (i : BitVec 8)
  | sh (r : BitVec 1) (i : BitVec 8) | sc (r : BitVec 2) (i : BitVec 5) | ct (code : BitVec 8)
  | w (r : BitVec 3) (i : BitVec 7) | ta (r : BitVec 1) (i : BitVec 7)
  deriving DecidableEq, Repr

/-- One constructor per row of spec/opcode_table.json, in the table's order but for those without operands, which
stand last (Lean's runtime numbers at most 244 constructors with fields). -/
inductive Instr
  -- majors 0 to 10: integer (04:R115-R117)
  | add (d a b : Reg) (w : Bool)
  | addImm (d a : Reg) (i : BitVec 16)
  | sub (d a b : Reg) (w : Bool)
  | mul (d a b : Reg) (w : Bool)
  | mulh (d a b : Reg) (w u : Bool)
  | div (d a b : Reg) (w u : Bool)
  | rem (d a b : Reg) (w u : Bool)
  | and (d a b : Reg)
  | andImm (d a : Reg) (i : BitVec 16)
  | or (d a b : Reg)
  | orImm (d a : Reg) (i : BitVec 16)
  | xor (d a b : Reg)
  | xorImm (d a : Reg) (i : BitVec 16)
  | andn (d a b : Reg)
  | shl (d a b : Reg) (w : Bool)
  | shr (d a b : Reg) (w : Bool)
  | sar (d a b : Reg) (w : Bool)
  | ror (d a b : Reg) (w : Bool)
  | shlImm (d a : Reg) (w : Bool) (s : BitVec 6)
  | shrImm (d a : Reg) (w : Bool) (s : BitVec 6)
  | sarImm (d a : Reg) (w : Bool) (s : BitVec 6)
  | rorImm (d a : Reg) (w : Bool) (s : BitVec 6)
  | min (d a b : Reg) (u : Bool)
  | max (d a b : Reg) (u : Bool)
  | set (d a b : Reg) (c : Cond)
  | setImm (d a : Reg) (c : Cond) (i : BitVec 13)
  | sel (d a b : Reg)
  | clz (d a : Reg) (w : Bool)
  | ctz (d a : Reg) (w : Bool)
  | popc (d a : Reg) (w : Bool)
  | bswap (d a : Reg)
  | ext (d a b : Reg) (u : Bool)
  | ins (d a b : Reg)
  | extImm (d a : Reg) (u : Bool) (p l : BitVec 6)
  | insImm (d a : Reg) (p l : BitVec 6)
  | lim (d : Reg) (i : BitVec 21)
  | addpc (d : Reg) (i : BitVec 21)
  | lea (d a b : Reg) (s : BitVec 2)
  -- majors 16 to 19: memory and fences (04:R118-R120)
  | ld (d a : Reg) (z : LdSize) (i : BitVec 13)
  | st (s a : Reg) (z : Size) (i : BitVec 13)
  | ldaq (d a : Reg) (sc : Scope) (z : Size)
  | strl (a b : Reg) (sc : Scope) (z : Size)
  | amo (d a b : Reg) (sc : Scope) (z : ASize) (o : AmoOp)
  | cas (d a b : Reg) (sc : Scope) (z : ASize)
  | fence (sc : Scope) (before after : AccSet)
  | ifence (sc : Scope)
  | vfence (k : VfKind)
  -- majors 24 to 29: control (04:R121)
  | b (a b : Reg) (c : Cond) (i : BitVec 13)
  | j (i : BitVec 26)
  | call (i : BitVec 26)
  | jr (d a : Reg)
  | btab (a b : Reg) (n : BitVec 11)
  | bvany (k : BitVec 3) (i : BitVec 13)
  | bvall (k : BitVec 3) (i : BitVec 13)
  -- majors 32 and 33: scalar floating point (04:R122, R123)
  | fadd (d a b : Reg) (f : FFmt) (r : Rm)
  | fsub (d a b : Reg) (f : FFmt) (r : Rm)
  | fmul (d a b : Reg) (f : FFmt) (r : Rm)
  | fdiv (d a b : Reg) (f : FFmt) (r : Rm)
  | fsqrt (d a : Reg) (f : FFmt) (r : Rm)
  | fmin (d a b : Reg) (f : FFmt)
  | fmax (d a b : Reg) (f : FFmt)
  | fcmp (d a b : Reg) (f : FFmt) (c : Cmp)
  | fcvt (d a : Reg) (t : FcvtKind) (f : FFmt) (r : Rm)
  | fmov (d a : Reg) (t : FmovDir) (f : FFmt)
  | fclass (d a : Reg) (f : FFmt)
  | fma (d a b c : Reg) (f : FFmt) (r : Rm)
  -- major 34: communication registers and semaphores (04:R124)
  | crld (d : Reg) (n : BitVec 6)
  | crst (a : Reg) (n : BitVec 6)
  | semts (n : BitVec 8)
  | semtry (d : Reg) (n : BitVec 8)
  | semclr (n : BitVec 8)
  -- major 35: system (04:R125)
  | sysc (n : BitVec 12)
  | trap (a : Reg) (c : BitVec 8)
  | brk (n : BitVec 12)
  -- major 36: CSRs (04:R126)
  | csrr (d : Reg) (c : BitVec 12)
  | csrw (a : Reg) (c : BitVec 12)
  | csrx (d a : Reg) (c : BitVec 12)
  -- major 37: task and gang (04:R127)
  | launch (d a b : Reg)
  | signal (a b : Reg) (sc : Scope)
  | waitsig (a b : Reg) (c : Cond)
  -- majors 38 and 39 (04:R128, R129)
  | blind (c : BitVec 21)
  | setvl (d a : Reg)
  | setvt (d : Reg) (t : VType)
  | setmr (d a : Reg)
  -- majors 40 to 42: tensor tiles and exchange (04:R130)
  | tld (t : Tile) (a : Reg) (i : BitVec 13)
  | tst (t : Tile) (a : Reg) (i : BitVec 13)
  | tcvt (t : BitVec 3) (a : BitVec 1) (e : ET) (r : Rm)
  | tmma (d : BitVec 1) (a b : BitVec 3) (s : Bool) (e : ET)
  | tmmaS (d : BitVec 1) (a b : BitVec 3) (n : Sparse) (m : BitVec 3) (s : Bool) (e : ET)
  | tsend (a b : Reg) (l : BitVec 9)
  -- major 47 (04:R135)
  | convoy (us : List VUnit)
  -- major 48: vector memory and images
  | vld (d s : Reg) (disp : BitVec 21) (acq : Bool) (m : Pred)
  | vlds (d s t : Reg) (disp : BitVec 21) (acq : Bool) (m : Pred)
  | vldx (d s i : Reg) (sh : BitVec 2) (acq : Bool) (m : Pred)
  | vst (d s : Reg) (disp : BitVec 21) (k : BitVec 3)
  | vsts (d s t : Reg) (disp : BitVec 21) (k : BitVec 3)
  | vstx (d s i : Reg) (sh : BitVec 2) (k : BitVec 3)
  | vsave (s : Reg) (m : BitVec 12)
  | vrstr (s : Reg) (m : BitVec 12)
  -- major 49: integer element-wise
  | vadd (d a : Reg) (b : VSrc) (m : Pred)
  | vsub (d a : Reg) (b : VSrc) (m : Pred)
  | vmul (d a : Reg) (b : VSrc) (m : Pred)
  | vmulh (d a : Reg) (b : VSrc) (m : Pred)
  | vand (d a : Reg) (b : VSrc) (m : Pred)
  | vor (d a : Reg) (b : VSrc) (m : Pred)
  | vxor (d a : Reg) (b : VSrc) (m : Pred)
  | vshl (d a : Reg) (b : VSrc) (m : Pred)
  | vshr (d a : Reg) (b : VSrc) (m : Pred)
  | vsar (d a : Reg) (b : VSrc) (m : Pred)
  | vmin (d a : Reg) (b : VSrc) (m : Pred)
  | vmax (d a : Reg) (b : VSrc) (m : Pred)
  | vsadd (d a : Reg) (b : VSrc) (m : Pred)
  | vssub (d a : Reg) (b : VSrc) (m : Pred)
  -- major 50: floating element-wise
  | vfadd (d a : Reg) (b : FSrc) (r : RmDyn) (m : Pred)
  | vfsub (d a : Reg) (b : FSrc) (r : RmDyn) (m : Pred)
  | vfmul (d a : Reg) (b : FSrc) (r : RmDyn) (m : Pred)
  | vfdiv (d a : Reg) (b : FSrc) (r : RmDyn) (m : Pred)
  | vfma (d a : Reg) (b : FmaSrc) (r : RmDyn) (m : Pred)
  | vfsqrt (d a : Reg) (r : RmDyn) (m : Pred)
  | vfmin (d a : Reg) (b : FSrc) (m : Pred)
  | vfmax (d a : Reg) (b : FSrc) (m : Pred)
  | vfexp2 (d a : Reg) (r : RmDyn) (m : Pred)
  | vfrcp (d a : Reg) (r : RmDyn) (m : Pred)
  -- major 51: converter
  | vcvt (d a : Reg) (e : ET) (r : RmDyn) (m : Pred)
  | vqenc (d a : Reg) (m : Pred)
  | vqdec (d a : Reg) (m : Pred)
  | vhbfly (d a : Reg) (l : BitVec 5) (r : RmDyn) (m : Pred)
  | vscale (d a : Reg) (sc : BitVec 2) (r : RmDyn) (m : Pred)
  -- major 52: permutation
  | vperm (d a b : Reg) (m : Pred)
  | vslide (d a t : Reg) (dn : Bool) (m : Pred)
  | vsplat (d s : Reg) (m : Pred)
  | vmerge (d a b : Reg) (k : BitVec 3)
  | vcompr (d a : Reg) (m : Pred)
  | vidx (d : Reg) (m : Pred)
  | vmvx (x a : Reg) (i : BitVec 16)
  | vmxv (d s : Reg) (i : BitVec 16)
  -- major 53: masks
  | vcmp (kd : BitVec 3) (a : Reg) (b : VSrc) (c : Cmp) (m : Pred)
  | kop (kd ka kb : BitVec 3) (tt : BitVec 4) (m : Pred)
  | kpopc (x : Reg) (ka : BitVec 3) (k : BitVec 3)
  | kfirst (x : Reg) (ka : BitVec 3) (k : BitVec 3)
  | kmov (kd ka : BitVec 3) (m : Pred)
  -- major 54: reductions
  | vred (d a : Reg) (o : RedOp) (lin : Bool) (sh : BitVec 1) (r : RmDyn) (k : BitVec 3)
  | vscan (d a : Reg) (o : RedOp) (lin : Bool) (sh : BitVec 1) (r : RmDyn) (m : Pred)
  -- major 55: vector atomics
  | vamo (d a i s : Reg) (o : AmoOp) (sc : Scope) (ret : Bool) (sh : BitVec 2) (k : BitVec 3)
  | vamom (d a i s : Reg) (o : AmoOp) (sc : Scope) (ret : Bool) (sh : BitVec 2) (k : BitVec 3)
  -- major 56: matrix
  | mzero (md : BitVec 2)
  | mma (md : BitVec 2) (a b : Reg) (scA scB : BitVec 2)
  | mrd (d : Reg) (ms : BitVec 2) (row : BitVec 4) (r : RmDyn) (k : BitVec 3)
  | mwr (a : Reg) (md : BitVec 2) (row : BitVec 4)
  -- major 57: projection
  | xproj (md : BitVec 2) (a s : Reg) (kk : BitVec 8)
  | xprojb (md : BitVec 2) (a b s : Reg) (kk : BitVec 8)
  | xmerge (md ma : BitVec 2)
  | xhload (md : BitVec 2) (s : Reg) (disp : BitVec 21)
  | xhstore (md : BitVec 2) (s : Reg) (disp : BitVec 21)
  -- major 58: scales and code table
  | scld (n : BitVec 2) (s t : Reg) (disp : BitVec 21)
  | scst (n : BitVec 2) (s t : Reg) (disp : BitVec 21)
  | ctld (s : Reg) (disp : BitVec 21)
  | ctst (s : Reg) (disp : BitVec 21)
  -- major 59: copy engine; rel is the scope of CPY.REL
  | cpy (t s : Reg) (k : BitVec 3) (rel : Option Scope)
  | cpywt (t : Reg)
  | cpycan (t : Reg)
  -- major 60: collectives
  | colbind (d s : Reg)
  | colfree (d : Reg)
  | colwait (d : Reg)
  -- major 61: remote
  | nput (xn xl xo xc : Reg)
  | nget (xn xl xo xc : Reg)
  | namo (d xb xo xc : Reg) (o : AmoOp) (z : ASize)
  | nflush (xc : Reg) (sc : Scope)
  -- major 62
  | vloop (s : Reg) (n : BitVec 5)
  -- events of the package: bring-up and rails (01:R22-R34)
  | railFault (r : Rail)
  /-- A string, each tile's voltage in millivolts and mean current in microamperes (01:R19; 03:R84), and the window. -/
  | stringMeasurement (s : Nat) (mv cur : List Nat) (w : Window)
  | blindPeriodEnd (h : HartId)
  /-- Sensor readings in tenths of a degree (01:R26). -/
  | temperatureSample (t : List (Nat × Nat))
  /-- Measured power in milliwatts: of the fixed consumers, and of each string listed; bytes queued at each
  port, and the ports that carried nothing for 10 microseconds (03:R94, R96). -/
  | bellowsAllocation (fixedMw : Nat) (strMw : List (Nat × Nat)) (queued : List (Nat × Nat)) (quiet : List Nat)
  | portPointChangeDone (port : Nat)
  | mctpSetPowerLimit (watts : Nat)
  -- scheduler (03:R64-R80, 02:R39-R45)
  | queueDoorbell (q : Nat)
  | queueDisableObserved (q : Nat)
  | recordCheck (q : Nat)
  | recordReady (q : Nat)
  | gangDispatch (q : Nat)
  | priorityPromotion (q : Nat)
  | headPin (q : Nat)
  | gangDeschedule (g : BitVec 32)
  | gangRestore (g : BitVec 32)
  | gangSave (g : BitVec 32)
  | gangResume (g : BitVec 32)
  | gangRetire (g : BitVec 32)
  | mixWindowEnd (h : HartId)
  | peelArrival (h : HartId)
  | deadlockDetect (file : Nat)
  | exchangeStepBegin (g : BitVec 32)
  | exchangeStepComplete (g : BitVec 32)
  | computeStepBegin (g : BitVec 32)
  -- engines (11)
  | copyChunkComplete (c : Nat)
  /-- The contributions of the other ranks to the next chunk of a binding, in rank order (11:R314). -/
  | collectiveChunkReduced (h : HartId) (v : Reg) (peers : List (Nat × VReg)) (disagree : Bool)
  | remotePacketArrival (p : Packet)
  | adapterResume (conn : Nat)
  | remotePageFaultTimeout (conn : Nat)
  | remoteAckTimeout (conn : Nat)
  | remoteRefusalArrival (conn : Nat) (reason : BitVec 8)
  | namoResponseArrival (conn : Nat) (old : Word)
  | regionRevokeAccept (r : Nat)
  | regionRevokeComplete (r : Nat)
  | invalidateRange (n : Nat)
  | invalidateAsid (n : Nat)
  | invalidateAll (n : Nat)
  | invalidationComplete (n : Nat)
  -- host, pool, debug (11:R325-R328, 12:R345-R347)
  | hostSnpData (line : Nat)
  | hostSnpInv (line : Nat)
  | hostSnpCur (line : Nat)
  | hostHdmRequest (r : HdmReq)
  | poolBackInvalidate (line : Nat)
  | debugGrant (tenant : Option (BitVec 8)) (haltOnBrk : Bool) (key : BitVec 32) (sig : BitVec 4096)
  | debugHalt (h : HartId)
  | debugResume (h : HartId)
  | debugSingleStep (h : HartId)
  | debugRegisterAccess (h : HartId) (r : DbgReg) (v : Option Word)
  | debugMemoryAccess (h : HartId) (va : Word) (n : Nat) (v : Option (List Byte))
  /-- A write of a device register without a row of its own (11:R318, R328): offset in the Device range, value,
  and whether the host wrote it. -/
  | registerWrite (off : Nat) (v : Word) (host : Bool)
  | queueEnableObserved (q : Nat)
  /-- The tenants that presented a request in the interval just ended (09:R272). -/
  | refillBoundary (port : Nat) (spent : List (BitVec 8 × Nat))
  | collectivePeerFreed (h : HartId) (v : Reg)
  | collectivePeerUnreachable (h : HartId) (v : Reg)
  -- instructions and events without operands, last (majors 35, 37, 42; 01, 03, 11, 12)
  | tret
  | idle
  | idleX
  | migrC
  | migrV
  | gbar
  | tsync
  | powerUp
  | stringRailReady
  | systemFirmwareLoad
  | configRequestRetry
  | fundamentalReset
  | powerRemoval
  | mctpRemoveStringPower
  | mctpTelemetryRead
  | preemptDecision
  | asyncTrapTake
  | timerMatch
  | waitTimeout
  | waitsigSatisfied
  | tmmaComplete
  | acqLoadWaitEnd
  | rebeicaMapObject
  | rebeicaMapPatch
  | rebeicaUnmap
  | rebeicaRequestDone
  | hostDoorbell
  | mailboxPendClear
  | deviceDoorbell
  | hostDpendClear
  | poolPortDown
  | debugNonceRequest
  | debugRevoke
  | poolPortUp
  | managementControllerInterrupt
  deriving DecidableEq, Repr

/-- Why the decoder refuses a word: the ILLEGAL cases of 04:R133, by name. -/
inductive Reject
  /-- A major, function value or selector that the map does not assign. -/
  | unassigned
  /-- A non-zero bit in a field that must be zero. -/
  | reservedField
  /-- A reserved code: condition, compare, scope, rounding, type, size, operation, block, accumulator. -/
  | reservedCode
  /-- A register number outside a smaller file (04:R132). -/
  | smallFile
  /-- A zeroing or ordering bit where none is allowed (04:R108, R131). -/
  | maskField
  /-- An immediate combination the map forbids (04:R116, R130). -/
  | badImmediate
  /-- A CSR number that names no CSR (04:R126). -/
  | unknownCsr
  deriving DecidableEq, Repr

end Sys2Proof
end

