-- ==== Sys2Proof/WellFormed.lean ====
section
/-! DEFINITION. Which instructions have an encoding (04:R105-R135), and which events are of this part (00:R2). -/
namespace Sys2Proof

/-- Zeroing needs a mask (04:R108). -/
def Pred.wf (m : Pred) : Bool := !m.kz || m.k != 0

/-- Element types TMMA accepts (04:R130). -/
def ET.tmmaOk : ET → Bool
  | .fp16 | .bf16 | .e4m3 | .e5m2 | .e3m2 | .e2m3 | .e2m1 | .code8 => true
  | _ => false
/-- Element types TCVT accepts (15:R452). -/
def ET.tcvtOk : ET → Bool
  | .fp32 | .fp16 | .bf16 | .e4m3 | .e5m2 | .e3m2 | .e2m3 | .e2m1 | .code8 => true
  | _ => false
/-- The two-register element types of TMMA (04:R130). -/
def ET.is16Float : ET → Bool
  | .fp16 | .bf16 => true
  | _ => false

/-- The CSR numbers of 05:R150. -/
def csrNumbers : List Nat :=
  [0x000, 0x001, 0x002, 0x003, 0x004, 0x005, 0x006, 0x007, 0x010, 0x011, 0x012,
   0x020, 0x021, 0x022, 0x023, 0x024, 0x030, 0x031, 0x032, 0x040, 0x041, 0x042,
   0x100, 0x101, 0x102, 0x103, 0x104, 0x105, 0x106, 0x110, 0x111, 0x112, 0x113, 0x114,
   0x200, 0x201, 0x202]
/-- A number that names a CSR (04:R126). -/
def csrKnown (c : BitVec 12) : Bool := csrNumbers.contains c.toNat

/-- The operand registers of TMMA: even when the type fills two registers (04:R130). -/
def tmmaRegsOk (e : ET) (a b : BitVec 3) : Bool :=
  e.tmmaOk && (!e.is16Float || (a.toNat % 2 == 0 && b.toNat % 2 == 0))

/-- Well-formedness: what the encoding tables allow an instruction's fields to hold; for an event, that the
unit it names is one the part has (00:R2). -/
def wellFormed : Instr → Bool
  | .shlImm _ _ w s | .shrImm _ _ w s | .sarImm _ _ w s | .rorImm _ _ w s => !w || s.toNat < 32
  | .extImm _ _ _ p l | .insImm _ _ p l => p.toNat + l.toNat + 1 ≤ 64
  | .csrr _ c | .csrw _ c | .csrx _ _ c => csrKnown c
  | .tcvt _ _ e _ => e.tcvtOk
  | .tmma _ a b _ e | .tmmaS _ a b _ _ _ e => tmmaRegsOk e a b
  | .convoy us => 2 ≤ us.length && us.length ≤ 6
  | .vld _ _ _ acq m | .vlds _ _ _ _ acq m | .vldx _ _ _ _ acq m => m.wf && (!acq || m.k != 0)
  | .vadd _ _ _ m | .vsub _ _ _ m | .vmul _ _ _ m | .vmulh _ _ _ m | .vand _ _ _ m | .vor _ _ _ m
  | .vxor _ _ _ m | .vshl _ _ _ m | .vshr _ _ _ m | .vsar _ _ _ m | .vmin _ _ _ m | .vmax _ _ _ m
  | .vsadd _ _ _ m | .vssub _ _ _ m => m.wf
  | .vfadd _ _ _ _ m | .vfsub _ _ _ _ m | .vfmul _ _ _ _ m | .vfdiv _ _ _ _ m | .vfma _ _ _ _ m
  | .vfsqrt _ _ _ m | .vfmin _ _ _ m | .vfmax _ _ _ m | .vfexp2 _ _ _ m | .vfrcp _ _ _ m => m.wf
  | .vcvt _ _ _ _ m | .vqenc _ _ m | .vqdec _ _ m | .vhbfly _ _ _ _ m | .vscale _ _ _ _ m => m.wf
  | .vperm _ _ _ m | .vslide _ _ _ _ m | .vsplat _ _ m | .vcompr _ _ m | .vidx _ m => m.wf
  | .vcmp _ _ _ _ m | .kop _ _ _ _ m | .kmov _ _ m => m.wf
  | .vscan _ _ _ _ _ _ m => m.wf
  | .vamo d _ _ _ _ _ ret _ _ | .vamom d _ _ _ _ _ ret _ _ => ret || d == 0
  | .mma _ _ b _ _ => b.toNat ≤ 24
  | .cpy _ _ k rel => rel.isNone || k != 0
  | .stringMeasurement s mv cur w => s < 768 && mv.length == 4 && cur.length == 4 && w.fill.length == 4
  | .temperatureSample t => t.all (·.1 < 782)
  | .portPointChangeDone p => p < 16
  | .refillBoundary p _ => p < 3104
  | .mctpSetPowerLimit w => 1200 ≤ w && w ≤ 4800
  | .queueDoorbell q | .queueDisableObserved q | .recordCheck q | .recordReady q | .gangDispatch q
  | .priorityPromotion q | .headPin q | .queueEnableObserved q => q < 1024
  | .deadlockDetect f => f < 66
  | .invalidateRange n | .invalidateAsid n | .invalidateAll n | .invalidationComplete n => n < 64
  | _ => true

/-- The rows of the table that have an encoding; the others are events. -/
def isEvent : Instr → Bool
  | .powerUp | .stringRailReady | .systemFirmwareLoad | .configRequestRetry | .fundamentalReset | .powerRemoval
  | .railFault _ | .stringMeasurement .. | .blindPeriodEnd _ | .temperatureSample _ | .bellowsAllocation ..
  | .portPointChangeDone _ | .mctpSetPowerLimit _ | .mctpRemoveStringPower | .mctpTelemetryRead
  | .queueDoorbell _ | .queueDisableObserved _ | .recordCheck _ | .recordReady _ | .gangDispatch _
  | .priorityPromotion _ | .headPin _ | .preemptDecision | .gangDeschedule _ | .gangRestore _ | .gangSave _
  | .gangResume _ | .gangRetire _ | .mixWindowEnd _ | .peelArrival _ | .asyncTrapTake | .timerMatch
  | .deadlockDetect _ | .waitTimeout | .waitsigSatisfied | .exchangeStepBegin _ | .exchangeStepComplete _
  | .computeStepBegin _ | .tmmaComplete | .copyChunkComplete _ | .acqLoadWaitEnd | .collectiveChunkReduced ..
  | .remotePacketArrival _ | .adapterResume _ | .remotePageFaultTimeout _ | .remoteAckTimeout _
  | .remoteRefusalArrival .. | .namoResponseArrival .. | .regionRevokeAccept _ | .regionRevokeComplete _
  | .invalidateRange _ | .invalidateAsid _ | .invalidateAll _ | .invalidationComplete _ | .rebeicaMapObject
  | .rebeicaMapPatch | .rebeicaUnmap | .rebeicaRequestDone | .hostDoorbell | .mailboxPendClear | .deviceDoorbell
  | .hostDpendClear | .hostSnpData _ | .hostSnpInv _ | .hostSnpCur _ | .hostHdmRequest _ | .poolBackInvalidate _
  | .poolPortDown | .debugNonceRequest | .debugGrant .. | .debugRevoke | .debugHalt _ | .debugResume _
  | .debugSingleStep _ | .debugRegisterAccess .. | .debugMemoryAccess .. | .registerWrite ..
  | .queueEnableObserved _ | .poolPortUp | .managementControllerInterrupt | .refillBoundary ..
  | .collectivePeerFreed .. | .collectivePeerUnreachable .. => true
  | _ => false

end Sys2Proof
end

