-- ==== Sys2Proof/Decode.lean ====
section
/-! DEFINITION. The decoder (04:R103-R135), total on any two parcels and refusing by name, and after it the
encoder, written from the same tables. -/
namespace Sys2Proof

/-- Bits [lo+len-1:lo] of a parcel. -/
def fld (w : Parcel) (lo len : Nat) : BitVec len := w.extractLsb' lo len
/-- Bit n of a parcel. -/
def bit (w : Parcel) (n : Nat) : Bool := w.getLsbD n

/-- Go on only when a check holds. -/
def chk {α : Type} (c : Bool) (r : Reject) (k : Except Reject α) : Except Reject α := if c then k else .error r
/-- Go on with a code that names something. -/
def opt {α β : Type} (o : Option α) (k : α → Except Reject β) : Except Reject β :=
  match o with
  | some a => k a
  | none => .error .reservedCode

/-! ### Codes shared by many instructions -/

/-- 04:R109. -/
def condOf : Nat → Option Cond
  | 0 => some .eq | 1 => some .ne | 2 => some .lt | 3 => some .ge | 4 => some .ltu | 5 => some .geu | _ => none
/-- 04:R109. -/
def condCode : Cond → BitVec 3
  | .eq => 0 | .ne => 1 | .lt => 2 | .ge => 3 | .ltu => 4 | .geu => 5
/-- 04:R110. -/
def cmpOf : Nat → Option Cmp
  | 0 => some .eq | 1 => some .ne | 2 => some .lt | 3 => some .le | 4 => some .gt | 5 => some .ge | 6 => some .un
  | _ => none
/-- 04:R110. -/
def cmpCode : Cmp → BitVec 3
  | .eq => 0 | .ne => 1 | .lt => 2 | .le => 3 | .gt => 4 | .ge => 5 | .un => 6
/-- 04:R111. -/
def scopeOf : Nat → Option Scope
  | 0 => some .h | 1 => some .c | 2 => some .cl | 3 => some .p | 4 => some .s | _ => none
/-- 04:R111. -/
def scopeCode : Scope → BitVec 3
  | .h => 0 | .c => 1 | .cl => 2 | .p => 3 | .s => 4
/-- 04:R112, the six modes. -/
def rmOf : Nat → Option Rm
  | 0 => some .rne | 1 => some .rtz | 2 => some .rup | 3 => some .rdn | 4 => some .rna | 5 => some .sr | _ => none
/-- 04:R112. -/
def rmCode : Rm → BitVec 3
  | .rne => 0 | .rtz => 1 | .rup => 2 | .rdn => 3 | .rna => 4 | .sr => 5
/-- 04:R112, with DYN. -/
def rmDynOf (n : Nat) : Option RmDyn := if n = 7 then some .dyn else (rmOf n).map .st
/-- 04:R112, with DYN. -/
def rmDynCode : RmDyn → BitVec 3
  | .dyn => 7 | .st m => rmCode m
/-- 04:R122. -/
def ffmtOf : Nat → Option FFmt
  | 0 => some .fp64 | 1 => some .fp32 | 2 => some .fp16 | 3 => some .bf16 | _ => none
/-- 04:R122. -/
def ffmtCode : FFmt → BitVec 3
  | .fp64 => 0 | .fp32 => 1 | .fp16 => 2 | .bf16 => 3
/-- 04:R113. -/
def etOf : Nat → Option ET
  | 0 => some .fp64 | 1 => some .fp32 | 2 => some .fp16 | 3 => some .bf16 | 4 => some .e4m3 | 5 => some .e5m2
  | 6 => some .e3m2 | 7 => some .e2m3 | 8 => some .e2m1 | 9 => some .code8 | 10 => some .int4 | 11 => some .int8
  | 12 => some .int16 | 13 => some .int32 | 14 => some .int64 | 15 => some .uint4 | 16 => some .uint8
  | 17 => some .uint16 | 18 => some .uint32 | 19 => some .uint64 | _ => none
/-- 04:R113. -/
def etCode : ET → BitVec 5
  | .fp64 => 0 | .fp32 => 1 | .fp16 => 2 | .bf16 => 3 | .e4m3 => 4 | .e5m2 => 5 | .e3m2 => 6 | .e2m3 => 7
  | .e2m1 => 8 | .code8 => 9 | .int4 => 10 | .int8 => 11 | .int16 => 12 | .int32 => 13 | .int64 => 14
  | .uint4 => 15 | .uint8 => 16 | .uint16 => 17 | .uint32 => 18 | .uint64 => 19
/-- 04:R129. -/
def blOf : Nat → Option Bl
  | 0 => some .b16 | 1 => some .b32 | 2 => some .b64 | _ => none
/-- 04:R129. -/
def blCode : Bl → BitVec 2
  | .b16 => 0 | .b32 => 1 | .b64 => 2
/-- 04:R129. -/
def accOf : Nat → Option Acc
  | 0 => some .fp32 | 1 => some .fp64 | 2 => some .int32 | _ => none
/-- 04:R129. -/
def accCode : Acc → BitVec 2
  | .fp32 => 0 | .fp64 => 1 | .int32 => 2
/-- 04:R119. -/
def amoOf : Nat → Option AmoOp
  | 0 => some .add | 1 => some .and | 2 => some .or | 3 => some .xor | 4 => some .min | 5 => some .max
  | 6 => some .minu | 7 => some .maxu | 8 => some .swap | _ => none
/-- 04:R119. -/
def amoCode : AmoOp → BitVec 4
  | .add => 0 | .and => 1 | .or => 2 | .xor => 3 | .min => 4 | .max => 5 | .minu => 6 | .maxu => 7 | .swap => 8
/-- 04:R118. -/
def ldSizeOf : Nat → Option LdSize
  | 0 => some .b | 1 => some .h | 2 => some .w | 3 => some .d | 4 => some .bu | 5 => some .hu | 6 => some .wu
  | _ => none
/-- 04:R118. -/
def ldSizeCode : LdSize → BitVec 3
  | .b => 0 | .h => 1 | .w => 2 | .d => 3 | .bu => 4 | .hu => 5 | .wu => 6
/-- 04:R118, R119. -/
def sizeOf : Nat → Option Size
  | 0 => some .b | 1 => some .h | 2 => some .w | 3 => some .d | _ => none
/-- 04:R118, R119. -/
def sizeCode : Size → BitVec 2
  | .b => 0 | .h => 1 | .w => 2 | .d => 3
/-- 04:R119. -/
def asizeOf : Nat → Option ASize
  | 2 => some .w | 3 => some .d | _ => none
/-- 04:R119. -/
def asizeCode : ASize → BitVec 2
  | .w => 2 | .d => 3
/-- 04:R120. -/
def accSetOf : Nat → Option AccSet
  | 1 => some .l | 2 => some .s | 3 => some .ls | _ => none
/-- 04:R120. -/
def accSetCode : AccSet → BitVec 2
  | .l => 1 | .s => 2 | .ls => 3
/-- 04:R120. -/
def vfKindOf : Nat → VfKind
  | 0 => .sv | 1 => .vs | 2 => .vv | _ => .all
/-- 04:R120. -/
def vfKindCode : VfKind → BitVec 2
  | .sv => 0 | .vs => 1 | .vv => 2 | .all => 3
/-- 04:R122, FCVT's b field. -/
def fcvtOf : Nat → Option FcvtKind
  | 0 => some (.toF .fp64) | 1 => some (.toF .fp32) | 2 => some (.toF .fp16) | 3 => some (.toF .bf16)
  | 4 => some (.toI .i64) | 5 => some (.toI .i32) | 6 => some (.toI .ui64) | 7 => some (.toI .ui32)
  | 8 => some (.ofI .i64) | 9 => some (.ofI .i32) | 10 => some (.ofI .ui64) | 11 => some (.ofI .ui32)
  | _ => none
/-- 04:R122. -/
def intTyCode : IntTy → BitVec 5
  | .i64 => 0 | .i32 => 1 | .ui64 => 2 | .ui32 => 3
/-- 04:R122. -/
def fcvtCode : FcvtKind → BitVec 5
  | .toF .fp64 => 0 | .toF .fp32 => 1 | .toF .fp16 => 2 | .toF .bf16 => 3
  | .toI t => 4 + intTyCode t | .ofI t => 8 + intTyCode t
/-- 04:R122, FMOV's b field. -/
def fmovOf : Nat → Option FmovDir
  | 0 => some .ff | 1 => some .xf | 2 => some .fx | _ => none
/-- 04:R122. -/
def fmovCode : FmovDir → BitVec 5
  | .ff => 0 | .xf => 1 | .fx => 2
/-- 04:R131, major 54. -/
def redOf : Nat → Option RedOp
  | 0 => some .sum | 1 => some .max | 2 => some .min | 3 => some .and | 4 => some .or | 5 => some .xor | _ => none
/-- 04:R131. -/
def redCode : RedOp → BitVec 4
  | .sum => 0 | .max => 1 | .min => 2 | .and => 3 | .or => 4 | .xor => 5
/-- 04:R135. -/
def unitOf : Nat → Option VUnit
  | 0 => some .a | 1 => some .b | 2 => some .ls | 3 => some .mx | 4 => some .cv | 5 => some .pr | 6 => some .eng
  | _ => none
/-- 04:R135. -/
def unitCode : VUnit → BitVec 3
  | .a => 0 | .b => 1 | .ls => 2 | .mx => 3 | .cv => 4 | .pr => 5 | .eng => 6
/-- 04:R130. -/
def tileOf (n : Nat) : Option Tile :=
  if n < 8 then some (.w (BitVec.ofNat 3 n)) else if n < 10 then some (.ta (BitVec.ofNat 1 (n - 8))) else none
/-- 04:R130. -/
def tileCode : Tile → BitVec 5
  | .w n => n.setWidth 5 | .ta n => 8 + n.setWidth 5
/-- 04:R130: the scope of CPY.REL is the only optional scope. -/
def bitB (b : Bool) : BitVec 1 := if b then 1 else 0

/-- The VTYPE fields of SETVT's imm16[13:0], and of the CSR (04:R129, 05:R154). -/
def vtypeOf (w : BitVec 14) : Option VType :=
  match etOf (w.extractLsb' 9 5).toNat, blOf (w.extractLsb' 7 2).toNat, accOf (w.extractLsb' 3 2).toNat,
        rmOf (w.extractLsb' 0 3).toNat with
  | some et, some bl, some acc, some rm => some ⟨et, bl, w.getLsbD 6, w.getLsbD 5, acc, rm⟩
  | _, _, _, _ => none
/-- The bits of a VTYPE (05:R154). -/
def vtypeBits (t : VType) : BitVec 14 :=
  etCode t.et ++ blCode t.bl ++ bitB t.sa ++ bitB t.sb ++ accCode t.acc ++ rmCode t.rm

/-! ### 32-bit instructions -/

/-- Major 0 (04:R115). -/
def decAlu (h : Parcel) : Except Reject Instr :=
  let d := fld h 21 5
  let a := fld h 16 5
  let b := fld h 11 5
  let w := bit h 5
  let u := bit h 1
  let c := fld h 2 3
  let noW := chk (!w) .reservedField (α := Instr)
  let noU := chk (!u) .reservedField (α := Instr)
  let noC := chk (c == 0) .reservedField (α := Instr)
  let noB := chk (b == 0) .reservedField (α := Instr)
  chk (!bit h 0) .reservedField <|
  match (fld h 6 5).toNat with
  | 0 => noU <| noC <| .ok (.add d a b w)
  | 1 => noU <| noC <| .ok (.sub d a b w)
  | 2 => noU <| noC <| .ok (.mul d a b w)
  | 3 => noC <| .ok (.mulh d a b w u)
  | 4 => noC <| .ok (.div d a b w u)
  | 5 => noC <| .ok (.rem d a b w u)
  | 6 => noW <| noU <| noC <| .ok (.and d a b)
  | 7 => noW <| noU <| noC <| .ok (.or d a b)
  | 8 => noW <| noU <| noC <| .ok (.xor d a b)
  | 9 => noW <| noU <| noC <| .ok (.andn d a b)
  | 10 => noU <| noC <| .ok (.shl d a b w)
  | 11 => noU <| noC <| .ok (.shr d a b w)
  | 12 => noU <| noC <| .ok (.sar d a b w)
  | 13 => noU <| noC <| .ok (.ror d a b w)
  | 14 => noW <| noC <| .ok (.min d a b u)
  | 15 => noW <| noC <| .ok (.max d a b u)
  | 16 => noW <| noU <| opt (condOf c.toNat) fun cc => .ok (.set d a b cc)
  | 17 => noW <| noU <| noC <| .ok (.sel d a b)
  | 18 => noU <| noC <| noB <| .ok (.clz d a w)
  | 19 => noU <| noC <| noB <| .ok (.ctz d a w)
  | 20 => noU <| noC <| noB <| .ok (.popc d a w)
  | 21 => noW <| noU <| noC <| noB <| .ok (.bswap d a)
  | 22 => noW <| noC <| .ok (.ext d a b u)
  | 23 => noW <| noU <| noC <| .ok (.ins d a b)
  | _ => .error .unassigned

/-- Major 5 (04:R116). -/
def decShiftImm (h : Parcel) : Except Reject Instr :=
  let d := fld h 21 5
  let a := fld h 16 5
  let w := bit h 11
  let s := fld h 0 6
  chk (fld h 6 5 == 0) .reservedField <|
  chk (!w || s.toNat < 32) .badImmediate <|
  match (fld h 12 4).toNat with
  | 0 => .ok (.shlImm d a w s)
  | 1 => .ok (.shrImm d a w s)
  | 2 => .ok (.sarImm d a w s)
  | 3 => .ok (.rorImm d a w s)
  | _ => .error .unassigned

/-- Major 7 (04:R116). -/
def decFieldImm (h : Parcel) : Except Reject Instr :=
  let d := fld h 21 5
  let a := fld h 16 5
  let p := fld h 6 6
  let l := fld h 0 6
  chk (fld h 12 2 == 0) .reservedField <|
  chk (p.toNat + l.toNat + 1 ≤ 64) .badImmediate <|
  if bit h 15 then chk (!bit h 14) .reservedField <| .ok (.insImm d a p l)
  else .ok (.extImm d a (bit h 14) p l)

/-- Major 18 (04:R119). -/
def decAtomic (h : Parcel) : Except Reject Instr :=
  let d := fld h 21 5
  let a := fld h 16 5
  let b := fld h 11 5
  opt (scopeOf (fld h 6 3).toNat) fun p =>
  match (fld h 9 2).toNat with
  | 0 => chk (b == 0) .reservedField <| chk (fld h 0 4 == 0) .reservedField <|
         opt (sizeOf (fld h 4 2).toNat) fun z => .ok (.ldaq d a p z)
  | 1 => chk (d == 0) .reservedField <| chk (fld h 0 4 == 0) .reservedField <|
         opt (sizeOf (fld h 4 2).toNat) fun z => .ok (.strl a b p z)
  | 2 => opt (asizeOf (fld h 4 2).toNat) fun z => opt (amoOf (fld h 0 4).toNat) fun o => .ok (.amo d a b p z o)
  | _ => chk (fld h 0 4 == 0) .reservedField <| opt (asizeOf (fld h 4 2).toNat) fun z => .ok (.cas d a b p z)

/-- Major 19 (04:R120). -/
def decFence (h : Parcel) : Except Reject Instr :=
  chk (fld h 11 15 == 0) .reservedField <|
  match (fld h 9 2).toNat with
  | 0 => chk (fld h 0 2 == 0) .reservedField <| opt (scopeOf (fld h 6 3).toNat) fun p =>
         opt (accSetOf (fld h 4 2).toNat) fun x => opt (accSetOf (fld h 2 2).toNat) fun y => .ok (.fence p x y)
  | 1 => chk (fld h 0 6 == 0) .reservedField <| opt (scopeOf (fld h 6 3).toNat) fun p => .ok (.ifence p)
  | 2 => chk (fld h 4 5 == 0) .reservedField <| chk (fld h 0 2 == 0) .reservedField <|
         .ok (.vfence (vfKindOf (fld h 2 2).toNat))
  | _ => .error .unassigned

/-- Major 32 (04:R122). -/
def decFp (h : Parcel) : Except Reject Instr :=
  let d := fld h 21 5
  let a := fld h 16 5
  let b := fld h 11 5
  let r := (fld h 0 3).toNat
  opt (ffmtOf (fld h 3 3).toNat) fun f =>
  match (fld h 6 5).toNat with
  | 0 => opt (rmOf r) fun m => .ok (.fadd d a b f m)
  | 1 => opt (rmOf r) fun m => .ok (.fsub d a b f m)
  | 2 => opt (rmOf r) fun m => .ok (.fmul d a b f m)
  | 3 => opt (rmOf r) fun m => .ok (.fdiv d a b f m)
  | 4 => chk (b == 0) .reservedField <| opt (rmOf r) fun m => .ok (.fsqrt d a f m)
  | 5 => chk (r == 0) .reservedField <| .ok (.fmin d a b f)
  | 6 => chk (r == 0) .reservedField <| .ok (.fmax d a b f)
  | 7 => opt (cmpOf r) fun c => .ok (.fcmp d a b f c)
  | 8 => opt (fcvtOf b.toNat) fun t => opt (rmOf r) fun m => .ok (.fcvt d a t f m)
  | 9 => chk (r == 0) .reservedField <| opt (fmovOf b.toNat) fun t => .ok (.fmov d a t f)
  | 10 => chk (b == 0) .reservedField <| chk (r == 0) .reservedField <| .ok (.fclass d a f)
  | _ => .error .unassigned

/-- Major 34 (04:R124). -/
def decCluster (h : Parcel) : Except Reject Instr :=
  let d := fld h 21 5
  let a := fld h 16 5
  match (fld h 13 3).toNat with
  | 0 => chk (a == 0) .reservedField <| chk (fld h 6 7 == 0) .reservedField <| .ok (.crld d (fld h 0 6))
  | 1 => chk (d == 0) .reservedField <| chk (fld h 6 7 == 0) .reservedField <| .ok (.crst a (fld h 0 6))
  | 2 => chk (d == 0) .reservedField <| chk (a == 0) .reservedField <| chk (fld h 8 5 == 0) .reservedField <|
         .ok (.semts (fld h 0 8))
  | 3 => chk (a == 0) .reservedField <| chk (fld h 8 5 == 0) .reservedField <| .ok (.semtry d (fld h 0 8))
  | 4 => chk (d == 0) .reservedField <| chk (a == 0) .reservedField <| chk (fld h 8 5 == 0) .reservedField <|
         .ok (.semclr (fld h 0 8))
  | _ => .error .unassigned

/-- Major 35 (04:R125). -/
def decSystem (h : Parcel) : Except Reject Instr :=
  let d := fld h 21 5
  let a := fld h 16 5
  chk (d == 0) .reservedField <|
  match (fld h 12 4).toNat with
  | 0 => chk (a == 0) .reservedField <| .ok (.sysc (fld h 0 12))
  | 1 => chk (fld h 8 4 == 0) .reservedField <| .ok (.trap a (fld h 0 8))
  | 2 => chk (a == 0) .reservedField <| chk (fld h 0 12 == 0) .reservedField <| .ok .tret
  | 3 => chk (a == 0) .reservedField <| chk (fld h 1 11 == 0) .reservedField <|
         .ok (if bit h 0 then .idleX else .idle)
  | 4 => chk (a == 0) .reservedField <| .ok (.brk (fld h 0 12))
  | 5 => chk (a == 0) .reservedField <| chk (fld h 2 10 == 0) .reservedField <|
         match (fld h 0 2).toNat with
         | 0 => .ok .migrC
         | 1 => .ok .migrV
         | _ => .error .unassigned
  | _ => .error .unassigned

/-- Major 36 (04:R126). -/
def decCsr (h : Parcel) : Except Reject Instr :=
  let d := fld h 21 5
  let a := fld h 16 5
  let c := fld h 0 12
  chk (fld h 12 2 == 0) .reservedField <| chk (csrKnown c) .unknownCsr <|
  match (fld h 14 2).toNat with
  | 0 => chk (a == 0) .reservedField <| .ok (.csrr d c)
  | 1 => chk (d == 0) .reservedField <| .ok (.csrw a c)
  | 2 => .ok (.csrx d a c)
  | _ => .error .unassigned

/-- Major 37 (04:R127). -/
def decTask (h : Parcel) : Except Reject Instr :=
  let d := fld h 21 5
  let a := fld h 16 5
  let b := fld h 11 5
  let p := fld h 5 3
  let c := fld h 2 3
  chk (fld h 0 2 == 0) .reservedField <|
  match (fld h 8 3).toNat with
  | 0 => chk (p == 0) .reservedField <| chk (c == 0) .reservedField <| .ok (.launch d a b)
  | 1 => chk (d == 0) .reservedField <| chk (c == 0) .reservedField <|
         opt (scopeOf p.toNat) fun s => .ok (.signal a b s)
  | 2 => chk (d == 0) .reservedField <| chk (p == 0) .reservedField <|
         opt (condOf c.toNat) fun cc => .ok (.waitsig a b cc)
  | 3 => chk (fld h 11 15 == 0) .reservedField <| chk (p == 0) .reservedField <|
         chk (c == 0) .reservedField <| .ok .gbar
  | _ => .error .unassigned

/-- Major 39 (04:R129). -/
def decConfig (h : Parcel) : Except Reject Instr :=
  let d := fld h 21 5
  let a := fld h 16 5
  match (fld h 14 2).toNat with
  | 0 => chk (fld h 0 14 == 0) .reservedField <| .ok (.setvl d a)
  | 1 => chk (a == 0) .reservedField <| opt (vtypeOf (fld h 0 14)) fun t => .ok (.setvt d t)
  | 2 => chk (fld h 0 14 == 0) .reservedField <| .ok (.setmr d a)
  | _ => .error .unassigned

/-- Major 40 (04:R130). -/
def decTile (h : Parcel) : Except Reject Instr :=
  let a := fld h 16 5
  match (fld h 13 3).toNat with
  | 0 => opt (tileOf (fld h 21 5).toNat) fun t => .ok (.tld t a (fld h 0 13))
  | 1 => opt (tileOf (fld h 21 5).toNat) fun t => .ok (.tst t a (fld h 0 13))
  | 2 => chk ((fld h 21 5).toNat < 8) .smallFile <| chk (fld h 17 4 == 4) .smallFile <|
         chk (fld h 3 5 == 0) .reservedField <|
         opt (etOf (fld h 8 5).toNat) fun e => chk e.tcvtOk .reservedCode <|
         opt (rmOf (fld h 0 3).toNat) fun m => .ok (.tcvt (fld h 21 3) (fld h 16 1) e m)
  | _ => .error .unassigned

/-- Major 41 (04:R130). -/
def decTmma (h : Parcel) : Except Reject Instr :=
  let d := fld h 21 1
  let a := fld h 16 3
  let b := fld h 11 3
  let m := fld h 6 3
  let s := bit h 5
  chk (fld h 22 4 == 0) .smallFile <| chk (fld h 19 2 == 0) .smallFile <| chk (fld h 14 2 == 0) .smallFile <|
  opt (etOf (fld h 0 5).toNat) fun e => chk (tmmaRegsOk e a b) .badImmediate <|
  match (fld h 9 2).toNat with
  | 0 => chk (m == 0) .reservedField <| .ok (.tmma d a b s e)
  | 1 => .ok (.tmmaS d a b .n16 m s e)
  | 2 => .ok (.tmmaS d a b .n32 m s e)
  | _ => .error .unassigned

/-- Major 42 (04:R130). -/
def decExchange (h : Parcel) : Except Reject Instr :=
  chk (fld h 21 5 == 0) .reservedField <|
  match (fld h 9 2).toNat with
  | 0 => .ok (.tsend (fld h 16 5) (fld h 11 5) (fld h 0 9))
  | 1 => chk (fld h 11 10 == 0) .reservedField <| chk (fld h 0 9 == 0) .reservedField <| .ok .tsync
  | _ => .error .unassigned

/-- Slot i of a CONVOY header (04:R135). -/
def convoySlot (h : Parcel) (i : Nat) : BitVec 3 := fld h (20 - 3 * i) 3
/-- The used slots of a CONVOY header, in order. -/
def convoyUnits (h : Parcel) : List Nat → Option (List VUnit)
  | [] => some []
  | i :: is => match unitOf (convoySlot h i).toNat, convoyUnits h is with
    | some u, some us => some (u :: us)
    | _, _ => none
/-- Major 47 (04:R135). -/
def decConvoy (h : Parcel) : Except Reject Instr :=
  let n := (fld h 23 3).toNat + 2
  chk (n ≤ 6) .reservedCode <| chk (fld h 0 5 == 0) .reservedField <|
  chk ((List.range 6).all fun i => i < n || convoySlot h i == 0) .reservedField <|
  opt (convoyUnits h (List.range n)) fun us => .ok (.convoy us)

/-- Majors 0 to 47 (04:R114). -/
def decode1 (h : Parcel) : Except Reject Instr :=
  let d := fld h 21 5
  let a := fld h 16 5
  let b := fld h 11 5
  let i := fld h 0 16
  match (fld h 26 6).toNat with
  | 0 => decAlu h
  | 1 => .ok (.addImm d a i)
  | 2 => .ok (.andImm d a i)
  | 3 => .ok (.orImm d a i)
  | 4 => .ok (.xorImm d a i)
  | 5 => decShiftImm h
  | 6 => opt (condOf (fld h 13 3).toNat) fun c => .ok (.setImm d a c (fld h 0 13))
  | 7 => decFieldImm h
  | 8 => .ok (.lim d (fld h 0 21))
  | 9 => .ok (.addpc d (fld h 0 21))
  | 10 => chk (fld h 2 9 == 0) .reservedField <| .ok (.lea d a b (fld h 0 2))
  | 16 => opt (ldSizeOf (fld h 13 3).toNat) fun z => .ok (.ld d a z (fld h 0 13))
  | 17 => opt (sizeOf (fld h 13 3).toNat) fun z => .ok (.st d a z (fld h 0 13))
  | 18 => decAtomic h
  | 19 => decFence h
  | 24 => opt (condOf (fld h 13 3).toNat) fun c => .ok (.b d a c (fld h 0 13))
  | 25 => .ok (.j (fld h 0 26))
  | 26 => .ok (.call (fld h 0 26))
  | 27 => chk (fld h 0 16 == 0) .reservedField <| .ok (.jr d a)
  | 28 => chk (d == 0) .reservedField <| .ok (.btab a b (fld h 0 11))
  | 29 => chk (fld h 24 2 == 0) .smallFile <| chk (a == 0) .reservedField <|
          match (fld h 13 3).toNat with
          | 0 => .ok (.bvany (fld h 21 3) (fld h 0 13))
          | 1 => .ok (.bvall (fld h 21 3) (fld h 0 13))
          | _ => .error .reservedCode
  | 32 => decFp h
  | 33 => opt (ffmtOf (fld h 3 3).toNat) fun f => opt (rmOf (fld h 0 3).toNat) fun m =>
          .ok (.fma d a b (fld h 6 5) f m)
  | 34 => decCluster h
  | 35 => decSystem h
  | 36 => decCsr h
  | 37 => decTask h
  | 38 => chk (d == 0) .reservedField <| .ok (.blind (fld h 0 21))
  | 39 => decConfig h
  | 40 => decTile h
  | 41 => decTmma h
  | 42 => decExchange h
  | 47 => decConvoy h
  | _ => .error .unassigned

/-! ### 64-bit instructions (04:R107, R131) -/

/-- The fields of a V-format instruction. -/
structure VFields where
  fn : BitVec 8
  vd : Reg
  va : Reg
  vb : Reg
  k : BitVec 3
  vc : Reg
  kz : Bool
  rm : BitVec 3
  ord : BitVec 2
  aux : BitVec 21
  deriving DecidableEq, Repr

/-- 04:R107. -/
def vFields (h t : Parcel) : VFields :=
  ⟨fld h 18 8, fld h 13 5, fld h 8 5, fld h 3 5, fld h 0 3, fld t 27 5, bit t 26, fld t 23 3, fld t 21 2, fld t 0 21⟩

/-- A field that must be zero (04:R106, R131). -/
def zf {n : Nat} (x : BitVec n) (k : Except Reject Instr) : Except Reject Instr := chk (x == 0) .reservedField k
/-- A register of a smaller file (04:R132). -/
def small (n : Nat) (x : Reg) (k : Except Reject Instr) : Except Reject Instr := chk (x.toNat < n) .smallFile k
/-- The predicate field; kz = 1 with k = 0 is refused (04:R108). -/
def predF (v : VFields) (f : Pred → Except Reject Instr) : Except Reject Instr :=
  chk (!v.kz || v.k != 0) .maskField <| f ⟨v.k, v.kz⟩
/-- Merging only: kz must be zero (04:R108). -/
def noKz (v : VFields) (k : Except Reject Instr) : Except Reject Instr := chk (!v.kz) .maskField k
/-- No predicate at all (04:R108). -/
def noMask (v : VFields) (k : Except Reject Instr) : Except Reject Instr := chk (v.k == 0) .maskField <| noKz v k

/-- The displacement loads' ord field: plain or .acq, which needs a mask (04:R131). -/
def ldOrd (v : VFields) (f : Bool → Except Reject Instr) : Except Reject Instr :=
  match v.ord.toNat with
  | 0 => f false
  | 1 => chk (v.k != 0) .maskField <| f true
  | _ => .error .reservedCode

/-- Major 48. -/
def decVMem (v : VFields) : Except Reject Instr :=
  zf v.va <| zf v.rm <|
  match v.fn.toNat with
  | 0 => zf v.vb <| predF v fun m => ldOrd v fun q => .ok (.vld v.vd v.vc v.aux q m)
  | 1 => predF v fun m => ldOrd v fun q => .ok (.vlds v.vd v.vc v.vb v.aux q m)
  | 2 => zf (v.aux.extractLsb' 2 19) <| predF v fun m => ldOrd v fun q =>
         .ok (.vldx v.vd v.vc v.vb (v.aux.extractLsb' 0 2) q m)
  | 3 => zf v.vb <| zf v.ord <| noKz v <| .ok (.vst v.vd v.vc v.aux v.k)
  | 4 => zf v.ord <| noKz v <| .ok (.vsts v.vd v.vc v.vb v.aux v.k)
  | 5 => zf (v.aux.extractLsb' 2 19) <| zf v.ord <| noKz v <|
         .ok (.vstx v.vd v.vc v.vb (v.aux.extractLsb' 0 2) v.k)
  | 6 => zf v.vd <| zf v.vb <| zf v.ord <| zf (v.aux.extractLsb' 12 9) <| noMask v <|
         .ok (.vsave v.vc (v.aux.extractLsb' 0 12))
  | 7 => zf v.vd <| zf v.vb <| zf v.ord <| zf (v.aux.extractLsb' 12 9) <| noMask v <|
         .ok (.vrstr v.vc (v.aux.extractLsb' 0 12))
  | _ => .error .unassigned

/-- The second operand of an integer element-wise form (04:R131, 16:R466); aux above bit 16 as hi tells. -/
def vsrcF (v : VFields) (form : Nat) (f : VSrc → Except Reject Instr) : Except Reject Instr :=
  match form with
  | 0 => zf v.vc <| zf (v.aux.extractLsb' 0 16) <| f (.vv v.vb)
  | 1 => zf v.vb <| zf (v.aux.extractLsb' 0 16) <| f (.vx v.vc)
  | 2 => zf v.vb <| zf v.vc <| f (.vi (v.aux.extractLsb' 0 16))
  | _ => .error .unassigned

/-- Major 49. -/
def decVInt (v : VFields) : Except Reject Instr :=
  zf v.rm <| zf v.ord <| zf (v.aux.extractLsb' 16 5) <| predF v fun m =>
  vsrcF v (v.fn.extractLsb' 6 2).toNat fun b =>
  match (v.fn.extractLsb' 0 6).toNat with
  | 0 => .ok (.vadd v.vd v.va b m)
  | 1 => .ok (.vsub v.vd v.va b m)
  | 2 => .ok (.vmul v.vd v.va b m)
  | 3 => .ok (.vmulh v.vd v.va b m)
  | 4 => .ok (.vand v.vd v.va b m)
  | 5 => .ok (.vor v.vd v.va b m)
  | 6 => .ok (.vxor v.vd v.va b m)
  | 7 => .ok (.vshl v.vd v.va b m)
  | 8 => .ok (.vshr v.vd v.va b m)
  | 9 => .ok (.vsar v.vd v.va b m)
  | 10 => .ok (.vmin v.vd v.va b m)
  | 11 => .ok (.vmax v.vd v.va b m)
  | 12 => .ok (.vsadd v.vd v.va b m)
  | 13 => .ok (.vssub v.vd v.va b m)
  | _ => .error .unassigned

/-- The second operand of a floating element-wise form (04:R131). -/
def fsrcF (v : VFields) (form : Nat) (f : FSrc → Except Reject Instr) : Except Reject Instr :=
  match form with
  | 0 => zf v.vc <| f (.vv v.vb)
  | 1 => zf v.vb <| f (.vf v.vc)
  | _ => .error .unassigned

/-- Major 50 (16:R478). -/
def decVFp (v : VFields) : Except Reject Instr :=
  let form := (v.fn.extractLsb' 6 2).toNat
  zf v.ord <| zf v.aux <| predF v fun m =>
  opt (rmDynOf v.rm.toNat) fun r =>
  match (v.fn.extractLsb' 0 6).toNat with
  | 0 => fsrcF v form fun b => .ok (.vfadd v.vd v.va b r m)
  | 1 => fsrcF v form fun b => .ok (.vfsub v.vd v.va b r m)
  | 2 => fsrcF v form fun b => .ok (.vfmul v.vd v.va b r m)
  | 3 => fsrcF v form fun b => .ok (.vfdiv v.vd v.va b r m)
  | 4 => match form with
         | 0 => .ok (.vfma v.vd v.va (.vv v.vb v.vc) r m)
         | 1 => .ok (.vfma v.vd v.va (.vf v.vc v.vb) r m)
         | _ => .error .unassigned
  | 5 => chk (form == 0) .unassigned <| zf v.vb <| zf v.vc <| .ok (.vfsqrt v.vd v.va r m)
  | 6 => zf v.rm <| fsrcF v form fun b => .ok (.vfmin v.vd v.va b m)
  | 7 => zf v.rm <| fsrcF v form fun b => .ok (.vfmax v.vd v.va b m)
  | 8 => chk (form == 0) .unassigned <| zf v.vb <| zf v.vc <| .ok (.vfexp2 v.vd v.va r m)
  | 9 => chk (form == 0) .unassigned <| zf v.vb <| zf v.vc <| .ok (.vfrcp v.vd v.va r m)
  | _ => .error .unassigned

/-- Major 51 (16:R476). -/
def decVCv (v : VFields) : Except Reject Instr :=
  zf v.vb <| zf v.vc <| zf v.ord <| predF v fun m =>
  match v.fn.toNat with
  | 0 => zf (v.aux.extractLsb' 5 16) <| opt (etOf (v.aux.extractLsb' 0 5).toNat) fun e =>
         opt (rmDynOf v.rm.toNat) fun r => .ok (.vcvt v.vd v.va e r m)
  | 1 => zf v.aux <| zf v.rm <| .ok (.vqenc v.vd v.va m)
  | 2 => zf v.aux <| zf v.rm <| .ok (.vqdec v.vd v.va m)
  | 3 => zf (v.aux.extractLsb' 5 16) <| opt (rmDynOf v.rm.toNat) fun r =>
         .ok (.vhbfly v.vd v.va (v.aux.extractLsb' 0 5) r m)
  | 4 => zf (v.aux.extractLsb' 2 19) <| opt (rmDynOf v.rm.toNat) fun r =>
         .ok (.vscale v.vd v.va (v.aux.extractLsb' 0 2) r m)
  | _ => .error .unassigned

/-- Major 52. -/
def decVPerm (v : VFields) : Except Reject Instr :=
  zf v.rm <| zf v.ord <|
  match v.fn.toNat with
  | 0 => zf v.vc <| zf v.aux <| predF v fun m => .ok (.vperm v.vd v.va v.vb m)
  | 1 => zf v.vb <| zf (v.aux.extractLsb' 1 20) <| predF v fun m => .ok (.vslide v.vd v.va v.vc (v.aux.getLsbD 0) m)
  | 2 => zf v.va <| zf v.vb <| zf v.aux <| predF v fun m => .ok (.vsplat v.vd v.vc m)
  | 3 => zf v.vc <| zf v.aux <| noKz v <| .ok (.vmerge v.vd v.va v.vb v.k)
  | 4 => zf v.vb <| zf v.vc <| zf v.aux <| predF v fun m => .ok (.vcompr v.vd v.va m)
  | 5 => zf v.va <| zf v.vb <| zf v.vc <| zf v.aux <| predF v fun m => .ok (.vidx v.vd m)
  | 6 => zf v.vd <| zf v.vb <| zf (v.aux.extractLsb' 16 5) <| noMask v <|
         .ok (.vmvx v.vc v.va (v.aux.extractLsb' 0 16))
  | 7 => zf v.va <| zf v.vb <| zf (v.aux.extractLsb' 16 5) <| noMask v <|
         .ok (.vmxv v.vd v.vc (v.aux.extractLsb' 0 16))
  | _ => .error .unassigned

/-- Major 53 (14:R411, 16:R474). -/
def decVMask (v : VFields) : Except Reject Instr :=
  let form := (v.fn.extractLsb' 6 2).toNat
  zf v.rm <| zf v.ord <|
  match (v.fn.extractLsb' 0 6).toNat with
  | 0 => small 8 v.vd <| zf (v.aux.extractLsb' 19 2) <| predF v fun m => vsrcF v form fun b =>
         opt (cmpOf (v.aux.extractLsb' 16 3).toNat) fun c => .ok (.vcmp (v.vd.setWidth 3) v.va b c m)
  | 1 => chk (form == 0) .unassigned <| small 8 v.vd <| small 8 v.va <| small 8 v.vb <| zf v.vc <|
         zf (v.aux.extractLsb' 4 17) <| predF v fun m =>
         .ok (.kop (v.vd.setWidth 3) (v.va.setWidth 3) (v.vb.setWidth 3) (v.aux.extractLsb' 0 4) m)
  | 2 => chk (form == 0) .unassigned <| zf v.vd <| small 8 v.va <| zf v.vb <| zf v.aux <| noKz v <|
         .ok (.kpopc v.vc (v.va.setWidth 3) v.k)
  | 3 => chk (form == 0) .unassigned <| zf v.vd <| small 8 v.va <| zf v.vb <| zf v.aux <| noKz v <|
         .ok (.kfirst v.vc (v.va.setWidth 3) v.k)
  | 4 => chk (form == 0) .unassigned <| small 8 v.vd <| small 8 v.va <| zf v.vb <| zf v.vc <| zf v.aux <|
         predF v fun m => .ok (.kmov (v.vd.setWidth 3) (v.va.setWidth 3) m)
  | _ => .error .unassigned

/-- Major 54 (17:R499, R505). -/
def decVRed (v : VFields) : Except Reject Instr :=
  zf v.vb <| zf v.vc <| zf (v.aux.extractLsb' 5 16) <| chk (v.ord.toNat < 2) .reservedCode <|
  opt (redOf (v.aux.extractLsb' 0 4).toNat) fun o => opt (rmDynOf v.rm.toNat) fun r =>
  match v.fn.toNat with
  | 0 => noKz v <| .ok (.vred v.vd v.va o (v.ord == 1) (v.aux.extractLsb' 4 1) r v.k)
  | 1 => predF v fun m => .ok (.vscan v.vd v.va o (v.ord == 1) (v.aux.extractLsb' 4 1) r m)
  | _ => .error .unassigned

/-- Major 55 (16:R469). -/
def decVAmo (v : VFields) : Except Reject Instr :=
  let ret := v.aux.getLsbD 3
  zf v.rm <| zf v.ord <| noKz v <| zf (v.aux.extractLsb' 6 15) <| zf (v.fn.extractLsb' 1 3) <|
  chk (ret || v.vd == 0) .reservedField <|
  opt (scopeOf (v.aux.extractLsb' 0 3).toNat) fun p => opt (amoOf (v.fn.extractLsb' 4 4).toNat) fun o =>
  .ok (if v.fn.getLsbD 0 then .vamom v.vd v.va v.vb v.vc o p ret (v.aux.extractLsb' 4 2) v.k
       else .vamo v.vd v.va v.vb v.vc o p ret (v.aux.extractLsb' 4 2) v.k)

/-- Major 56 (14:R422-R428). -/
def decVMat (v : VFields) : Except Reject Instr :=
  zf v.vc <| zf v.ord <|
  match v.fn.toNat with
  | 0 => zf v.rm <| small 4 v.vd <| zf v.va <| zf v.vb <| zf v.aux <| noMask v <| .ok (.mzero (v.vd.setWidth 2))
  | 1 => zf v.rm <| small 4 v.vd <| small 25 v.vb <| zf (v.aux.extractLsb' 4 17) <| noMask v <|
         .ok (.mma (v.vd.setWidth 2) v.va v.vb (v.aux.extractLsb' 0 2) (v.aux.extractLsb' 2 2))
  | 2 => small 4 v.va <| zf v.vb <| zf (v.aux.extractLsb' 4 17) <| noKz v <|
         opt (rmDynOf v.rm.toNat) fun r => .ok (.mrd v.vd (v.va.setWidth 2) (v.aux.extractLsb' 0 4) r v.k)
  | 3 => zf v.rm <| small 4 v.vd <| zf v.vb <| zf (v.aux.extractLsb' 4 17) <| noMask v <|
         .ok (.mwr v.va (v.vd.setWidth 2) (v.aux.extractLsb' 0 4))
  | _ => .error .unassigned

/-- Major 57 (08:R237). -/
def decVProj (v : VFields) : Except Reject Instr :=
  zf v.rm <| zf v.ord <| noMask v <| small 4 v.vd <|
  match v.fn.toNat with
  | 0 => zf v.vb <| zf (v.aux.extractLsb' 8 13) <| .ok (.xproj (v.vd.setWidth 2) v.va v.vc (v.aux.extractLsb' 0 8))
  | 1 => zf (v.aux.extractLsb' 8 13) <| .ok (.xprojb (v.vd.setWidth 2) v.va v.vb v.vc (v.aux.extractLsb' 0 8))
  | 2 => small 4 v.va <| zf v.vb <| zf v.vc <| zf v.aux <| .ok (.xmerge (v.vd.setWidth 2) (v.va.setWidth 2))
  | 3 => zf v.va <| zf v.vb <| .ok (.xhload (v.vd.setWidth 2) v.vc v.aux)
  | 4 => zf v.va <| zf v.vb <| .ok (.xhstore (v.vd.setWidth 2) v.vc v.aux)
  | _ => .error .unassigned

/-- Major 58 (13:R392, 15:R438). -/
def decVScale (v : VFields) : Except Reject Instr :=
  zf v.rm <| zf v.ord <| noMask v <| zf v.va <|
  match v.fn.toNat with
  | 0 => small 4 v.vd <| .ok (.scld (v.vd.setWidth 2) v.vc v.vb v.aux)
  | 1 => small 4 v.vd <| .ok (.scst (v.vd.setWidth 2) v.vc v.vb v.aux)
  | 2 => zf v.vd <| zf v.vb <| .ok (.ctld v.vc v.aux)
  | 3 => zf v.vd <| zf v.vb <| .ok (.ctst v.vc v.aux)
  | _ => .error .unassigned

/-- Major 59 (13:R384-R388). -/
def decVCopy (v : VFields) : Except Reject Instr :=
  zf v.rm <| zf v.vb <| noKz v <|
  match v.fn.toNat with
  | 0 => zf v.va <|
         match v.ord.toNat with
         | 0 => zf v.aux <| .ok (.cpy v.vd v.vc v.k none)
         | 1 => chk (v.k != 0) .maskField <| zf (v.aux.extractLsb' 3 18) <|
                opt (scopeOf (v.aux.extractLsb' 0 3).toNat) fun p => .ok (.cpy v.vd v.vc v.k (some p))
         | _ => .error .reservedCode
  | 1 => zf v.k <| zf v.vd <| zf v.vc <| zf v.ord <| zf v.aux <| .ok (.cpywt v.va)
  | 2 => zf v.k <| zf v.vd <| zf v.vc <| zf v.ord <| zf v.aux <| .ok (.cpycan v.va)
  | _ => .error .unassigned

/-- Major 60 (13:R378-R382). -/
def decVColl (v : VFields) : Except Reject Instr :=
  zf v.rm <| zf v.ord <| zf v.va <| zf v.vb <| zf v.aux <| noMask v <|
  match v.fn.toNat with
  | 0 => .ok (.colbind v.vd v.vc)
  | 1 => zf v.vc <| .ok (.colfree v.vd)
  | 2 => zf v.vc <| .ok (.colwait v.vd)
  | _ => .error .unassigned

/-- Major 61 (15:R429). -/
def decVRemote (v : VFields) : Except Reject Instr :=
  zf v.rm <| zf v.ord <| noMask v <|
  match v.fn.toNat with
  | 0 => zf v.aux <| .ok (.nput v.vd v.va v.vb v.vc)
  | 1 => zf v.aux <| .ok (.nget v.vd v.va v.vb v.vc)
  | 2 => zf (v.aux.extractLsb' 6 15) <| opt (amoOf (v.aux.extractLsb' 0 4).toNat) fun o =>
         opt (asizeOf (v.aux.extractLsb' 4 2).toNat) fun z => .ok (.namo v.vd v.va v.vb v.vc o z)
  | 3 => zf v.vd <| zf v.va <| zf v.vb <| zf (v.aux.extractLsb' 3 18) <|
         opt (scopeOf (v.aux.extractLsb' 0 3).toNat) fun p => .ok (.nflush v.vc p)
  | _ => .error .unassigned

/-- Major 62 (16:R490). -/
def decVLoop (v : VFields) : Except Reject Instr :=
  zf v.rm <| zf v.ord <| noMask v <| zf v.vd <| zf v.va <| zf v.vb <| zf (v.aux.extractLsb' 5 16) <|
  match v.fn.toNat with
  | 0 => .ok (.vloop v.vc (v.aux.extractLsb' 0 5))
  | _ => .error .unassigned

/-- Majors 48 to 63 (04:R131). -/
def decode2 (h t : Parcel) : Except Reject Instr :=
  let v := vFields h t
  match (fld h 26 6).toNat with
  | 48 => decVMem v
  | 49 => decVInt v
  | 50 => decVFp v
  | 51 => decVCv v
  | 52 => decVPerm v
  | 53 => decVMask v
  | 54 => decVRed v
  | 55 => decVAmo v
  | 56 => decVMat v
  | 57 => decVProj v
  | 58 => decVScale v
  | 59 => decVCopy v
  | 60 => decVColl v
  | 61 => decVRemote v
  | 62 => decVLoop v
  | _ => .error .unassigned

/-- Majors 48 to 63 have two parcels (04:R103). -/
def isLong (h : Parcel) : Bool := 48 ≤ (fld h 26 6).toNat
/-- The decoder: a head, and the tail where the head is of a 64-bit major. -/
def decode (h t : Parcel) : Except Reject Instr := if isLong h then decode2 h t else decode1 h

/-- The instruction the decoder reads from w, whose bits the opcode table numbers from the first parcel on. -/
def decodeTableWord (nbits w : Nat) : Option Instr :=
  let v := w % 2 ^ nbits
  match decode (BitVec.ofNat 32 v) (BitVec.ofNat 32 (v / 2 ^ 32)) with
  | .ok i => some i
  | .error _ => none

/-! ### The encoder -/

/-- Format A (04:R105). -/
def encA (op : BitVec 6) (d a b : Reg) (fn : BitVec 11) : List Parcel := [op ++ d ++ a ++ b ++ fn]
/-- Format I. -/
def encI (op : BitVec 6) (d a : Reg) (i : BitVec 16) : List Parcel := [op ++ d ++ a ++ i]
/-- Format L. -/
def encL (op : BitVec 6) (d : Reg) (i : BitVec 21) : List Parcel := [op ++ d ++ i]
/-- Formats B and M: three bits, then 13. -/
def encB (op : BitVec 6) (a b : Reg) (c : BitVec 3) (i : BitVec 13) : List Parcel := [op ++ a ++ b ++ c ++ i]
/-- Format J. -/
def encJ (op : BitVec 6) (i : BitVec 26) : List Parcel := [op ++ i]
/-- Major 0 (04:R115). -/
def encAlu (fn : BitVec 5) (d a b : Reg) (w : Bool) (c : BitVec 3) (u : Bool) : List Parcel :=
  encA 0 d a b (fn ++ bitB w ++ c ++ bitB u ++ 0#1)
/-- Major 5 (04:R116). -/
def encShift (fn : BitVec 4) (d a : Reg) (w : Bool) (s : BitVec 6) : List Parcel :=
  encI 5 d a (fn ++ bitB w ++ 0#5 ++ s)
/-- Major 32 (04:R122). -/
def encFp (fn : BitVec 5) (d a b : Reg) (f : FFmt) (r : BitVec 3) : List Parcel :=
  encA 32 d a b (fn ++ ffmtCode f ++ r)
/-- The V format (04:R107). -/
def encV (op : BitVec 6) (fn : BitVec 8) (vd va vb : Reg) (k : BitVec 3) (vc : Reg) (kz : Bool) (rm : BitVec 3)
    (ord : BitVec 2) (aux : BitVec 21) : List Parcel :=
  [op ++ fn ++ vd ++ va ++ vb ++ k, vc ++ bitB kz ++ rm ++ ord ++ aux]
/-- Major 49 (16:R466). -/
def encVInt (fn : BitVec 6) (d a : Reg) (b : VSrc) (m : Pred) : List Parcel :=
  match b with
  | .vv vb => encV 49 (0#2 ++ fn) d a vb m.k 0 m.kz 0 0 0
  | .vx xs => encV 49 (1#2 ++ fn) d a 0 m.k xs m.kz 0 0 0
  | .vi i => encV 49 (2#2 ++ fn) d a 0 m.k 0 m.kz 0 0 (0#5 ++ i)
/-- Major 50, the binary operations (16:R478). -/
def encVFp (fn : BitVec 6) (d a : Reg) (b : FSrc) (r : BitVec 3) (m : Pred) : List Parcel :=
  match b with
  | .vv vb => encV 50 (0#2 ++ fn) d a vb m.k 0 m.kz r 0 0
  | .vf fs => encV 50 (1#2 ++ fn) d a 0 m.k fs m.kz r 0 0
/-- The slots of a CONVOY header, six of them, zero where unused (04:R135). -/
def encSlots (us : List VUnit) (i : Nat) : BitVec 3 :=
  match us[i]? with
  | some u => unitCode u
  | none => 0

/-- The parcels of an encoded instruction; an event has none. -/
def encode : Instr → List Parcel
  | .add d a b w => encAlu 0 d a b w 0 false
  | .addImm d a i => encI 1 d a i
  | .sub d a b w => encAlu 1 d a b w 0 false
  | .mul d a b w => encAlu 2 d a b w 0 false
  | .mulh d a b w u => encAlu 3 d a b w 0 u
  | .div d a b w u => encAlu 4 d a b w 0 u
  | .rem d a b w u => encAlu 5 d a b w 0 u
  | .and d a b => encAlu 6 d a b false 0 false
  | .andImm d a i => encI 2 d a i
  | .or d a b => encAlu 7 d a b false 0 false
  | .orImm d a i => encI 3 d a i
  | .xor d a b => encAlu 8 d a b false 0 false
  | .xorImm d a i => encI 4 d a i
  | .andn d a b => encAlu 9 d a b false 0 false
  | .shl d a b w => encAlu 10 d a b w 0 false
  | .shr d a b w => encAlu 11 d a b w 0 false
  | .sar d a b w => encAlu 12 d a b w 0 false
  | .ror d a b w => encAlu 13 d a b w 0 false
  | .shlImm d a w s => encShift 0 d a w s
  | .shrImm d a w s => encShift 1 d a w s
  | .sarImm d a w s => encShift 2 d a w s
  | .rorImm d a w s => encShift 3 d a w s
  | .min d a b u => encAlu 14 d a b false 0 u
  | .max d a b u => encAlu 15 d a b false 0 u
  | .set d a b c => encAlu 16 d a b false (condCode c) false
  | .setImm d a c i => encI 6 d a (condCode c ++ i)
  | .sel d a b => encAlu 17 d a b false 0 false
  | .clz d a w => encAlu 18 d a 0 w 0 false
  | .ctz d a w => encAlu 19 d a 0 w 0 false
  | .popc d a w => encAlu 20 d a 0 w 0 false
  | .bswap d a => encAlu 21 d a 0 false 0 false
  | .ext d a b u => encAlu 22 d a b false 0 u
  | .ins d a b => encAlu 23 d a b false 0 false
  | .extImm d a u p l => encI 7 d a (0#1 ++ bitB u ++ 0#2 ++ p ++ l)
  | .insImm d a p l => encI 7 d a (1#1 ++ 0#1 ++ 0#2 ++ p ++ l)
  | .lim d i => encL 8 d i
  | .addpc d i => encL 9 d i
  | .lea d a b s => encA 10 d a b (0#9 ++ s)
  | .ld d a z i => encB 16 d a (ldSizeCode z) i
  | .st s a z i => encB 17 s a (0#1 ++ sizeCode z) i
  | .ldaq d a p z => encA 18 d a 0 (0#2 ++ scopeCode p ++ sizeCode z ++ 0#4)
  | .strl a b p z => encA 18 0 a b (1#2 ++ scopeCode p ++ sizeCode z ++ 0#4)
  | .amo d a b p z o => encA 18 d a b (2#2 ++ scopeCode p ++ asizeCode z ++ amoCode o)
  | .cas d a b p z => encA 18 d a b (3#2 ++ scopeCode p ++ asizeCode z ++ 0#4)
  | .fence p x y => encA 19 0 0 0 (0#2 ++ scopeCode p ++ accSetCode x ++ accSetCode y ++ 0#2)
  | .ifence p => encA 19 0 0 0 (1#2 ++ scopeCode p ++ 0#6)
  | .vfence k => encA 19 0 0 0 (2#2 ++ 0#5 ++ vfKindCode k ++ 0#2)
  | .b x y c i => encB 24 x y (condCode c) i
  | .j i => encJ 25 i
  | .call i => encJ 26 i
  | .jr d a => encA 27 d a 0 0
  | .btab a b n => encA 28 0 a b n
  | .bvany k i => encB 29 (0#2 ++ k) 0 0 i
  | .bvall k i => encB 29 (0#2 ++ k) 0 1 i
  | .fadd d a b f r => encFp 0 d a b f (rmCode r)
  | .fsub d a b f r => encFp 1 d a b f (rmCode r)
  | .fmul d a b f r => encFp 2 d a b f (rmCode r)
  | .fdiv d a b f r => encFp 3 d a b f (rmCode r)
  | .fsqrt d a f r => encFp 4 d a 0 f (rmCode r)
  | .fmin d a b f => encFp 5 d a b f 0
  | .fmax d a b f => encFp 6 d a b f 0
  | .fcmp d a b f c => encFp 7 d a b f (cmpCode c)
  | .fcvt d a t f r => encFp 8 d a (fcvtCode t) f (rmCode r)
  | .fmov d a t f => encFp 9 d a (fmovCode t) f 0
  | .fclass d a f => encFp 10 d a 0 f 0
  | .fma d a b c f r => encA 33 d a b (c ++ ffmtCode f ++ rmCode r)
  | .crld d n => encI 34 d 0 (0#3 ++ 0#7 ++ n)
  | .crst a n => encI 34 0 a (1#3 ++ 0#7 ++ n)
  | .semts n => encI 34 0 0 (2#3 ++ 0#5 ++ n)
  | .semtry d n => encI 34 d 0 (3#3 ++ 0#5 ++ n)
  | .semclr n => encI 34 0 0 (4#3 ++ 0#5 ++ n)
  | .sysc n => encI 35 0 0 (0#4 ++ n)
  | .trap a c => encI 35 0 a (1#4 ++ 0#4 ++ c)
  | .tret => encI 35 0 0 0x2000
  | .idle => encI 35 0 0 0x3000
  | .idleX => encI 35 0 0 0x3001
  | .brk n => encI 35 0 0 (4#4 ++ n)
  | .migrC => encI 35 0 0 0x5000
  | .migrV => encI 35 0 0 0x5001
  | .csrr d c => encI 36 d 0 (0#2 ++ 0#2 ++ c)
  | .csrw a c => encI 36 0 a (1#2 ++ 0#2 ++ c)
  | .csrx d a c => encI 36 d a (2#2 ++ 0#2 ++ c)
  | .launch d a b => encA 37 d a b 0
  | .signal a b p => encA 37 0 a b (1#3 ++ scopeCode p ++ 0#5)
  | .waitsig a b c => encA 37 0 a b (2#3 ++ 0#3 ++ condCode c ++ 0#2)
  | .gbar => encA 37 0 0 0 0x300
  | .blind c => encL 38 0 c
  | .setvl d a => encI 39 d a 0
  | .setvt d t => encI 39 d 0 (1#2 ++ vtypeBits t)
  | .setmr d a => encI 39 d a 0x8000
  | .tld t a i => encB 40 (tileCode t) a 0 i
  | .tst t a i => encB 40 (tileCode t) a 1 i
  | .tcvt t a e r => encB 40 (0#2 ++ t) (4#4 ++ a) 2 (etCode e ++ 0#5 ++ rmCode r)
  | .tmma d a b s e => encA 41 (0#4 ++ d) (0#2 ++ a) (0#2 ++ b) (0#2 ++ 0#3 ++ bitB s ++ etCode e)
  | .tmmaS d a b n m s e =>
    encA 41 (0#4 ++ d) (0#2 ++ a) (0#2 ++ b) ((if n = .n16 then 1#2 else 2#2) ++ m ++ bitB s ++ etCode e)
  | .tsend a b l => encA 42 0 a b (0#2 ++ l)
  | .tsync => encA 42 0 0 0 0x200
  | .convoy us =>
    [(47#6 ++ BitVec.ofNat 3 (us.length - 2) ++ encSlots us 0 ++ encSlots us 1 ++ encSlots us 2 ++ encSlots us 3
      ++ encSlots us 4 ++ encSlots us 5 ++ 0#5 : Parcel)]
  | .vld d s i q m => encV 48 0 d 0 0 m.k s m.kz 0 (0#1 ++ bitB q) i
  | .vlds d s t i q m => encV 48 1 d 0 t m.k s m.kz 0 (0#1 ++ bitB q) i
  | .vldx d s x sh q m => encV 48 2 d 0 x m.k s m.kz 0 (0#1 ++ bitB q) (0#19 ++ sh)
  | .vst d s i k => encV 48 3 d 0 0 k s false 0 0 i
  | .vsts d s t i k => encV 48 4 d 0 t k s false 0 0 i
  | .vstx d s x sh k => encV 48 5 d 0 x k s false 0 0 (0#19 ++ sh)
  | .vsave s m => encV 48 6 0 0 0 0 s false 0 0 (0#9 ++ m)
  | .vrstr s m => encV 48 7 0 0 0 0 s false 0 0 (0#9 ++ m)
  | .vadd d a b m => encVInt 0 d a b m
  | .vsub d a b m => encVInt 1 d a b m
  | .vmul d a b m => encVInt 2 d a b m
  | .vmulh d a b m => encVInt 3 d a b m
  | .vand d a b m => encVInt 4 d a b m
  | .vor d a b m => encVInt 5 d a b m
  | .vxor d a b m => encVInt 6 d a b m
  | .vshl d a b m => encVInt 7 d a b m
  | .vshr d a b m => encVInt 8 d a b m
  | .vsar d a b m => encVInt 9 d a b m
  | .vmin d a b m => encVInt 10 d a b m
  | .vmax d a b m => encVInt 11 d a b m
  | .vsadd d a b m => encVInt 12 d a b m
  | .vssub d a b m => encVInt 13 d a b m
  | .vfadd d a b r m => encVFp 0 d a b (rmDynCode r) m
  | .vfsub d a b r m => encVFp 1 d a b (rmDynCode r) m
  | .vfmul d a b r m => encVFp 2 d a b (rmDynCode r) m
  | .vfdiv d a b r m => encVFp 3 d a b (rmDynCode r) m
  | .vfma d a (.vv b c) r m => encV 50 4 d a b m.k c m.kz (rmDynCode r) 0 0
  | .vfma d a (.vf f b) r m => encV 50 0x44 d a b m.k f m.kz (rmDynCode r) 0 0
  | .vfsqrt d a r m => encV 50 5 d a 0 m.k 0 m.kz (rmDynCode r) 0 0
  | .vfmin d a b m => encVFp 6 d a b 0 m
  | .vfmax d a b m => encVFp 7 d a b 0 m
  | .vfexp2 d a r m => encV 50 8 d a 0 m.k 0 m.kz (rmDynCode r) 0 0
  | .vfrcp d a r m => encV 50 9 d a 0 m.k 0 m.kz (rmDynCode r) 0 0
  | .vcvt d a e r m => encV 51 0 d a 0 m.k 0 m.kz (rmDynCode r) 0 (0#16 ++ etCode e)
  | .vqenc d a m => encV 51 1 d a 0 m.k 0 m.kz 0 0 0
  | .vqdec d a m => encV 51 2 d a 0 m.k 0 m.kz 0 0 0
  | .vhbfly d a l r m => encV 51 3 d a 0 m.k 0 m.kz (rmDynCode r) 0 (0#16 ++ l)
  | .vscale d a sc r m => encV 51 4 d a 0 m.k 0 m.kz (rmDynCode r) 0 (0#19 ++ sc)
  | .vperm d a b m => encV 52 0 d a b m.k 0 m.kz 0 0 0
  | .vslide d a t dn m => encV 52 1 d a 0 m.k t m.kz 0 0 (0#20 ++ bitB dn)
  | .vsplat d s m => encV 52 2 d 0 0 m.k s m.kz 0 0 0
  | .vmerge d a b k => encV 52 3 d a b k 0 false 0 0 0
  | .vcompr d a m => encV 52 4 d a 0 m.k 0 m.kz 0 0 0
  | .vidx d m => encV 52 5 d 0 0 m.k 0 m.kz 0 0 0
  | .vmvx x a i => encV 52 6 0 a 0 0 x false 0 0 (0#5 ++ i)
  | .vmxv d s i => encV 52 7 d 0 0 0 s false 0 0 (0#5 ++ i)
  | .vcmp kd a (.vv b) c m => encV 53 0 (0#2 ++ kd) a b m.k 0 m.kz 0 0 (0#2 ++ cmpCode c ++ 0#16)
  | .vcmp kd a (.vx x) c m => encV 53 0x40 (0#2 ++ kd) a 0 m.k x m.kz 0 0 (0#2 ++ cmpCode c ++ 0#16)
  | .vcmp kd a (.vi i) c m => encV 53 0x80 (0#2 ++ kd) a 0 m.k 0 m.kz 0 0 (0#2 ++ cmpCode c ++ i)
  | .kop kd ka kb tt m => encV 53 1 (0#2 ++ kd) (0#2 ++ ka) (0#2 ++ kb) m.k 0 m.kz 0 0 (0#17 ++ tt)
  | .kpopc x ka k => encV 53 2 0 (0#2 ++ ka) 0 k x false 0 0 0
  | .kfirst x ka k => encV 53 3 0 (0#2 ++ ka) 0 k x false 0 0 0
  | .kmov kd ka m => encV 53 4 (0#2 ++ kd) (0#2 ++ ka) 0 m.k 0 m.kz 0 0 0
  | .vred d a o lin sh r k => encV 54 0 d a 0 k 0 false (rmDynCode r) (0#1 ++ bitB lin) (0#16 ++ sh ++ redCode o)
  | .vscan d a o lin sh r m =>
    encV 54 1 d a 0 m.k 0 m.kz (rmDynCode r) (0#1 ++ bitB lin) (0#16 ++ sh ++ redCode o)
  | .vamo d a i s o p ret sh k =>
    encV 55 (amoCode o ++ 0#4) d a i k s false 0 0 (0#15 ++ sh ++ bitB ret ++ scopeCode p)
  | .vamom d a i s o p ret sh k =>
    encV 55 (amoCode o ++ 1#4) d a i k s false 0 0 (0#15 ++ sh ++ bitB ret ++ scopeCode p)
  | .mzero md => encV 56 0 (0#3 ++ md) 0 0 0 0 false 0 0 0
  | .mma md a b x y => encV 56 1 (0#3 ++ md) a b 0 0 false 0 0 (0#17 ++ y ++ x)
  | .mrd d ms row r k => encV 56 2 d (0#3 ++ ms) 0 k 0 false (rmDynCode r) 0 (0#17 ++ row)
  | .mwr a md row => encV 56 3 (0#3 ++ md) a 0 0 0 false 0 0 (0#17 ++ row)
  | .xproj md a s kk => encV 57 0 (0#3 ++ md) a 0 0 s false 0 0 (0#13 ++ kk)
  | .xprojb md a b s kk => encV 57 1 (0#3 ++ md) a b 0 s false 0 0 (0#13 ++ kk)
  | .xmerge md ma => encV 57 2 (0#3 ++ md) (0#3 ++ ma) 0 0 0 false 0 0 0
  | .xhload md s i => encV 57 3 (0#3 ++ md) 0 0 0 s false 0 0 i
  | .xhstore md s i => encV 57 4 (0#3 ++ md) 0 0 0 s false 0 0 i
  | .scld n s t i => encV 58 0 (0#3 ++ n) 0 t 0 s false 0 0 i
  | .scst n s t i => encV 58 1 (0#3 ++ n) 0 t 0 s false 0 0 i
  | .ctld s i => encV 58 2 0 0 0 0 s false 0 0 i
  | .ctst s i => encV 58 3 0 0 0 0 s false 0 0 i
  | .cpy t s k none => encV 59 0 t 0 0 k s false 0 0 0
  | .cpy t s k (some p) => encV 59 0 t 0 0 k s false 0 1 (0#18 ++ scopeCode p)
  | .cpywt t => encV 59 1 0 t 0 0 0 false 0 0 0
  | .cpycan t => encV 59 2 0 t 0 0 0 false 0 0 0
  | .colbind d s => encV 60 0 d 0 0 0 s false 0 0 0
  | .colfree d => encV 60 1 d 0 0 0 0 false 0 0 0
  | .colwait d => encV 60 2 d 0 0 0 0 false 0 0 0
  | .nput xn xl xo xc => encV 61 0 xn xl xo 0 xc false 0 0 0
  | .nget xn xl xo xc => encV 61 1 xn xl xo 0 xc false 0 0 0
  | .namo d xb xo xc o z => encV 61 2 d xb xo 0 xc false 0 0 (0#15 ++ asizeCode z ++ amoCode o)
  | .nflush xc p => encV 61 3 0 0 0 0 xc false 0 0 (0#18 ++ scopeCode p)
  | .vloop s n => encV 62 0 0 0 0 0 s false 0 0 (0#16 ++ n)
  | _ => []

/-- The first parcel of an instruction; zero for an event. -/
def headOf (i : Instr) : Parcel := (encode i).headD 0
/-- The tail parcel; zero for a one-parcel instruction (04:R133, 07:R208). -/
def tailOf (i : Instr) : Parcel := (encode i).getD 1 0
/-- Bytes of an instruction (04:R103). -/
def ilen (i : Instr) : BitVec 64 := if (encode i).length = 2 then 8 else 4

end Sys2Proof
end

