-- ==== Sys2Proof/Config.lean ====
section
/-! DEFINITION. What the part fixes, and the free values: opaque constants with no body, of which nothing can be
proved, where the spec leaves a value or a choice open (notes/assumptions). -/
namespace Sys2Proof.Config

/-- A free choice: at moment n of the run (State.tick counts them), at a site (an address, a register, an element).
Where the spec says "one of", the choice decides. -/
opaque choice : (moment site : Nat) → Bool
/-- A free number at moment n of the run: which of several things that may happen next does. -/
opaque pick : (moment : Nat) → Nat
/-- From when on the scalar side (false: a moment of the run) or the vector side (true: a strip) of a hart sees a store that no
rule yet makes it see (07:R216-R218; 10:R290, R293): the hart and the store's number there. -/
opaque lands : (vector : Bool) → (hart store : Nat) → Nat
/-- Nanoseconds that pass at the n-th passage of time of the run: TIME is not fixed by the instruction stream. -/
opaque timeStep : Nat → Nat
/-- Core cycles that pass at the n-th passage of time. -/
opaque cycleStep : Nat → Nat
/-- The part of a tile's current that one hart's architectural operations drew, in 64ths of a microampere (03:R89). -/
opaque datapathDraw : (moment : Nat) → Nat
/-- The draw that the balancer predicts of a convoy's slot on each unit, in 64ths of a microampere (03:R83). -/
opaque unitDraw : (unit : Nat) → Nat
/-- What the management function measures at moment n of the run (01:R28), value by value. -/
opaque measured : (moment site : Nat) → Nat
/-- Cycles of a string's clock that have passed in the present window, and those of blind issue among them (03:R91, R92; log 14). -/
opaque elapsed : (moment site : Nat) → Nat
/-- SHA-512 of a byte string (12:R354): the standard's function, not restated in the spec. -/
opaque sha512 : List Byte → BitVec 512
/-- RSASSA-PKCS1-v1_5 verification with the key in a key-store slot (12:R354, R345). -/
opaque rsaOk : (slot : BitVec 32) → (digest : BitVec 512) → (signature : BitVec 4096) → Bool
/-- Whether a key-store slot holds a key (12:R355 STATUS 4). -/
opaque keySlot : BitVec 32 → Bool
/-- Whether the key in a slot is a debug key (12:R345). -/
opaque debugKey : BitVec 32 → Bool
/-- The 64-byte nonce of a debug request (12:R345). -/
opaque nonce : Nat → BitVec 512
/-- What serial flash holds (01:R30): a directory, and the three objects of bring-up. -/
opaque flash : List Byte
/-- Bytes 520 to 1,015 of the common-state area of a hart saved at moment n, in a form only the device interprets (12:R339). -/
opaque savedByte : (moment offset : Nat) → Byte
/-- The check value over the common-state area (12:R339). -/
opaque checkValue : List Byte → Word
/-- What the registers of a hart hold whose common state was lost in the Peel at moment n (12:R344). -/
opaque lost : (moment site : Nat) → Word
/-- Whether the host grants E on a RdShared (11:R325). -/
opaque hostGrantsE : Nat → Bool

/-- Instruction slots a V hart's queue holds (07:R202). -/
def queueSlots : Nat := 64
/-- Bits of one lane group's vector register (02:R36). -/
def laneBits : Nat := 4096
/-- Hardware queues (03:R64). -/
def queues : Nat := 1024
/-- Base of the scheduler control block (09:R256). -/
def scb : Nat := 0x8800000000
/-- Base of the Device range (09:R256). -/
def device : Nat := 0x8900000000
/-- First byte of the page tables Rebeica builds for ASID 0 (01:R30). -/
def bootTables : Nat := 0x7FFFC00000
/-- The gang window (09:R253). -/
def window : Nat := 0xFE000000000000
def windowSize : Nat := 0x400000000
/-- End of HBM (09:R256). -/
def hbmEnd : Nat := 0x8000000000

end Sys2Proof.Config
end

