-- ==== Sys2Proof/Machine/Formats.lean ====
section
/-! DEFINITION. The number formats of 06:R171-R173: bit layouts, special values, reading a pattern as an exact value. -/
namespace Sys2Proof.Machine

/-- A floating-point format (06:R171). `ieee`: the all-ones exponent holds infinities and NaNs; `oneNan`: E4M3's
single NaN; `snan`: the format has signalling NaNs (06:R173); `sat`: conversions saturate (06:R176, R182). -/
structure Fmt where
  ew : Nat
  mw : Nat
  bias : Nat
  ieee : Bool
  oneNan : Bool
  snan : Bool
  sat : Bool
  deriving DecidableEq, Repr

def fmt64 : Fmt := ⟨11, 52, 1023, true, false, true, false⟩
def fmt32 : Fmt := ⟨8, 23, 127, true, false, true, false⟩
def fmt16 : Fmt := ⟨5, 10, 15, true, false, true, false⟩
def fmtB16 : Fmt := ⟨8, 7, 127, true, false, true, false⟩
def fmtE4M3 : Fmt := ⟨4, 3, 7, false, true, false, true⟩
def fmtE5M2 : Fmt := ⟨5, 2, 15, true, false, false, true⟩
def fmtE3M2 : Fmt := ⟨3, 2, 3, false, false, false, true⟩
def fmtE2M3 : Fmt := ⟨2, 3, 1, false, false, false, true⟩
def fmtE2M1 : Fmt := ⟨2, 1, 1, false, false, false, true⟩
/-- The decoded form of CODE8 (06:R171). -/
def fmtE8M10 : Fmt := ⟨8, 10, 127, true, false, false, false⟩

/-- An exact value: a NaN (signalling or not), an infinity, or (-1)^neg * man * 2^exp. -/
inductive FV
  | nan (signalling : Bool)
  | inf (neg : Bool)
  | fin (neg : Bool) (man : Nat) (exp : Int)
  deriving DecidableEq, Repr

/-- All-ones exponent of a format. -/
def topExp (f : Fmt) : Nat := 2 ^ f.ew - 1
/-- Position of the sign bit. -/
def signPos (f : Fmt) : Nat := f.ew + f.mw
/-- Exponent of the smallest normal (06:R171). -/
def emin (f : Fmt) : Int := 1 - (f.bias : Int)
/-- Whether the format has a NaN. -/
def hasNan (f : Fmt) : Bool := f.ieee || f.oneNan
/-- The bits of the largest finite magnitude (06:R171). -/
def maxBits (f : Fmt) : Nat :=
  if f.ieee then (topExp f - 1) * 2 ^ f.mw + (2 ^ f.mw - 1)
  else if f.oneNan then topExp f * 2 ^ f.mw + (2 ^ f.mw - 2)
  else topExp f * 2 ^ f.mw + (2 ^ f.mw - 1)
/-- The bits of +infinity of a format that has one. -/
def infBits (f : Fmt) : Nat := topExp f * 2 ^ f.mw
/-- The canonical NaN (06:R173). -/
def nanBits (f : Fmt) : Nat :=
  if f.oneNan then topExp f * 2 ^ f.mw + (2 ^ f.mw - 1) else topExp f * 2 ^ f.mw + 2 ^ (f.mw - 1)
def signBits (f : Fmt) (neg : Bool) : Nat := if neg then 2 ^ signPos f else 0

def signOf (f : Fmt) (b : Nat) : Bool := b.testBit (signPos f)
def expOf (f : Fmt) (b : Nat) : Nat := (b / 2 ^ f.mw) % 2 ^ f.ew
def manOf (f : Fmt) (b : Nat) : Nat := b % 2 ^ f.mw

/-- Reading a pattern (06:R171, R172: bits above the format are ignored); with `ftz` a subnormal reads as a zero of
its sign (06:R179). -/
def decodeF (f : Fmt) (ftz : Bool) (b : Nat) : FV :=
  let s := signOf f b
  let e := expOf f b
  let m := manOf f b
  if f.ieee && e == topExp f then
    if m == 0 then .inf s else .nan (f.snan && decide (m < 2 ^ (f.mw - 1)))
  else if f.oneNan && e == topExp f && m == 2 ^ f.mw - 1 then .nan false
  else if e == 0 then .fin s (if ftz then 0 else m) (emin f - f.mw)
  else .fin s (2 ^ f.mw + m) ((e : Int) - f.bias - f.mw)

/-- The value of an unrounded integer. -/
def ofInt (i : Int) : FV := .fin (decide (i < 0)) i.natAbs 0

/-- E4M3 code c as an E8M10 pattern, exactly (05:R147, 06:R188): the code table's reset entry. -/
def e4m3Entry (c : Nat) : CtEntry :=
  let s := signOf fmtE4M3 c
  let e := expOf fmtE4M3 c
  let m := manOf fmtE4M3 c
  let bits : Nat :=
    if e == 15 && m == 7 then nanBits fmtE8M10
    else if e == 0 && m == 0 then signBits fmtE8M10 s
    else if e == 0 then
      -- m * 2^-9 with m below 8: normal in E8M10
      let l := Nat.log2 m
      signBits fmtE8M10 s + (l + 127 - 9) * 2 ^ 10 + (m * 2 ^ (10 - l) - 2 ^ 10)
    else signBits fmtE8M10 s + (e + 120) * 2 ^ 10 + m * 2 ^ 7
  BitVec.ofNat 19 bits

/-- SEW of an element type (05:R154). -/
def etSew : ET → Nat
  | .fp64 | .int64 | .uint64 => 64
  | .fp32 | .int32 | .uint32 => 32
  | .fp16 | .bf16 | .int16 | .uint16 => 16
  | .e4m3 | .e5m2 | .e3m2 | .e2m3 | .code8 | .int8 | .uint8 => 8
  | .e2m1 | .int4 | .uint4 => 4

/-- Kind of an element type: a floating format, CODE8, or an integer type with its signedness. -/
inductive ETKind | flt (f : Fmt) | code | int (signed : Bool)
  deriving DecidableEq, Repr

def etKind : ET → ETKind
  | .fp64 => .flt fmt64 | .fp32 => .flt fmt32 | .fp16 => .flt fmt16 | .bf16 => .flt fmtB16
  | .e4m3 => .flt fmtE4M3 | .e5m2 => .flt fmtE5M2 | .e3m2 => .flt fmtE3M2 | .e2m3 => .flt fmtE2M3
  | .e2m1 => .flt fmtE2M1 | .code8 => .code
  | .int4 | .int8 | .int16 | .int32 | .int64 => .int true
  | .uint4 | .uint8 | .uint16 | .uint32 | .uint64 => .int false

def etIsInt (e : ET) : Bool := match etKind e with | .int _ => true | _ => false
/-- FP64, FP32, FP16 and BF16. -/
def etIsIeee : ET → Bool
  | .fp64 | .fp32 | .fp16 | .bf16 => true
  | _ => false
/-- The types whose operands scales apply to (06:R184). -/
def etScaled : ET → Bool
  | .e4m3 | .e5m2 | .e3m2 | .e2m3 | .e2m1 | .code8 | .fp16 | .bf16 => true
  | _ => false
/-- FTZ never applies to conversions into OCP formats, E8M10 or CODE8 (06:R179). -/
def fmtFtz (f : Fmt) : Bool := f.snan

def ffmtOf : FFmt → Fmt
  | .fp64 => fmt64 | .fp32 => fmt32 | .fp16 => fmt16 | .bf16 => fmtB16
def ffmtW : FFmt → Nat
  | .fp64 => 64 | .fp32 => 32 | .fp16 => 16 | .bf16 => 16

end Sys2Proof.Machine
end

