-- ==== Sys2Proof/Machine/Flags.lean ====
section
/-! DEFINITION. Every flag computation: the sticky flags of 06:R180, the integer condition and compare codes
(04:R109, R110), and the enabled-trap test of 06:R181. -/
namespace Sys2Proof.Machine

/-- FFLAGS, bit 4 NV to bit 0 NX (05:R156). -/
abbrev Flags := BitVec 5
def flagNV : Flags := 16
def flagDZ : Flags := 8
def flagOF : Flags := 4
def flagUF : Flags := 2
def flagNX : Flags := 1
def flagIf (c : Bool) (f : Flags) : Flags := if c then f else 0

/-- 04:R109 on two words. -/
def condHolds (c : Cond) (a b : Word) : Bool :=
  match c with
  | .eq => a == b
  | .ne => !(a == b)
  | .lt => a.slt b
  | .ge => !(a.slt b)
  | .ltu => a.ult b
  | .geu => !(a.ult b)

/-- 04:R109 on two 32-bit words (17:R512). -/
def condHolds32 (c : Cond) (a b : BitVec 32) : Bool :=
  match c with
  | .eq => a == b
  | .ne => !(a == b)
  | .lt => a.slt b
  | .ge => !(a.slt b)
  | .ltu => a.ult b
  | .geu => !(a.ult b)

/-- 04:R110 on exact integers. -/
def cmpInt (c : Cmp) (a b : Int) : Bool :=
  match c with
  | .eq => decide (a = b)
  | .ne => decide (a ≠ b)
  | .lt => decide (a < b)
  | .le => decide (a ≤ b)
  | .gt => decide (a > b)
  | .ge => decide (a ≥ b)
  | .un => false

/-- The enabled flags among those raised (06:R181). -/
def trapping (enables raised : Flags) : Flags := raised &&& enables

end Sys2Proof.Machine
end

