-- ==== Sys2Proof/Machine/Float.lean ====
section
/-! DEFINITION. Exact arithmetic and rounding (06:R174-R182, R188-R200): every rounded result is one exact value
rounded once. A result that is no dyadic number (a quotient, a root) is carried with at least 80 bits below its top and
one sticky bit below those, which stands for the discarded rest: it lies below every bit that a rounding of
06:R175 or R177 reads. -/
namespace Sys2Proof.Machine

def fvNeg : FV → Bool
  | .nan _ => false
  | .inf n => n
  | .fin n _ _ => n
def fvIsNan : FV → Bool
  | .nan _ => true
  | _ => false
def fvIsSnan : FV → Bool
  | .nan s => s
  | _ => false
def fvIsInf : FV → Bool
  | .inf _ => true
  | _ => false
def fvIsZero : FV → Bool
  | .fin _ m _ => m == 0
  | _ => false

/-- floor(log2) of a non-zero magnitude. -/
def magLog (m : Nat) (e : Int) : Int := (Nat.log2 m : Int) + e

/-- The multiple of one ulp (2^u) that a mode chooses for the magnitude m * 2^e, and whether it differs (06:R175,
R177). d is the value of Draw16, used only in stochastic mode. -/
def roundMult (mode : Rm) (neg : Bool) (d : Nat) (m : Nat) (e u : Int) : Nat × Bool :=
  if u ≤ e then (m * 2 ^ (e - u).toNat, false)
  else
    let s := (u - e).toNat
    let lo := m / 2 ^ s
    let rem := m % 2 ^ s
    if rem == 0 then (lo, false)
    else
      let up : Bool :=
        match mode with
        | .rne => decide (2 * rem > 2 ^ s) || (decide (2 * rem = 2 ^ s) && decide (lo % 2 = 1))
        | .rtz => false
        | .rup => !neg
        | .rdn => neg
        | .rna => decide (2 * rem ≥ 2 ^ s)
        | .sr => decide (rem * 2 ^ 16 / 2 ^ s + d ≥ 2 ^ 16)
      (if up then lo + 1 else lo, true)

/-- A rounded overflow (06:R176; saturating formats: ±max in every mode). -/
def overflowBits (f : Fmt) (mode : Rm) (neg : Bool) : Nat :=
  let toInf : Bool :=
    match mode with
    | .rne | .rna | .sr => true
    | .rtz => false
    | .rup => !neg
    | .rdn => neg
  signBits f neg + (if f.ieee && !f.sat && toInf then infBits f else maxBits f)

/-- RoundTo(v, F, mode) (06:R175-R179, R182): the bits and the flags raised. `ftz` is FENABLE.FTZ, without effect in a
format it does not apply to. DEDUCED (log 21): a result is tiny when, rounded as though the exponent were unbounded, it
lies below the smallest normal. -/
def roundTo (f : Fmt) (mode : Rm) (ftz : Bool) (d : Nat) (v : FV) : Nat × Flags :=
  match v with
  | .nan s =>
    if hasNan f then (nanBits f, flagIf s flagNV)
    else (0, flagNV ||| flagNX)
  | .inf n =>
    if f.ieee then (signBits f n + infBits f, 0) else (signBits f n + maxBits f, flagNX)
  | .fin n m e =>
    if m == 0 then (signBits f n, 0)
    else
      let e0 := magLog m e
      let u := max e0 (emin f) - f.mw
      let (q, inexact) := roundMult mode n d m e u
      let tiny : Bool :=
        if e0 < emin f then
          if e0 == emin f - 1 then decide ((roundMult mode n d m e (e0 - f.mw)).1 < 2 ^ (f.mw + 1)) else true
        else false
      -- a carry into the next binade
      let carry := decide (2 ^ (f.mw + 1) ≤ q)
      let q' := if carry then q / 2 else q
      let u' := if carry then u + 1 else u
      if q' < 2 ^ f.mw then
        -- a subnormal or a zero
        if ftz && fmtFtz f && q' != 0 then (signBits f n, flagUF ||| flagNX)
        else (signBits f n + q', flagIf inexact flagNX ||| flagIf (tiny && inexact) flagUF)
      else
        let mag := (u' + f.mw + f.bias).toNat * 2 ^ f.mw + (q' - 2 ^ f.mw)
        if maxBits f < mag then (overflowBits f mode n, flagOF ||| flagNX)
        else (signBits f n + mag, flagIf inexact flagNX ||| flagIf (tiny && inexact) flagUF)

/-- The range of an integer type of width w. -/
def intMin (signed : Bool) (w : Nat) : Int := if signed then -(2 ^ (w - 1) : Nat) else 0
def intMax (signed : Bool) (w : Nat) : Int := if signed then (2 ^ (w - 1) : Nat) - 1 else (2 ^ w : Nat) - 1

/-- Float to integer (06:R182; NX with NV by 06:R180 and 14:R401). -/
def toInt (signed : Bool) (w : Nat) (mode : Rm) (d : Nat) (v : FV) : Int × Flags :=
  match v with
  | .nan _ => (0, flagNV ||| flagNX)
  | .inf n => (if n then intMin signed w else intMax signed w, flagNV ||| flagNX)
  | .fin n m e =>
    let (q, inexact) := roundMult mode n d m e 0
    let x : Int := if n then -(q : Int) else q
    if x < intMin signed w then (intMin signed w, flagNV ||| flagNX)
    else if intMax signed w < x then (intMax signed w, flagNV ||| flagNX)
    else (x, flagIf inexact flagNX)

/-- The bits of an integer in a container of w bits. -/
def wrapInt (w : Nat) (i : Int) : Nat := (i % (2 ^ w : Nat)).toNat
/-- The integer a container of w bits holds. -/
def readInt (signed : Bool) (w : Nat) (b : Nat) : Int :=
  let b := b % 2 ^ w
  if signed && decide (2 ^ (w - 1) ≤ b) then (b : Int) - (2 ^ w : Nat) else b

/-- A signed magnitude at a given exponent, as an integer multiple of 2^e. -/
def alignTo (e : Int) (n : Bool) (m : Nat) (x : Int) : Int :=
  let k : Int := (m * 2 ^ (x - e).toNat : Nat)
  if n then -k else k

/-- The least exponent among finite terms. -/
def minExp : List FV → Int → Int
  | [], e => e
  | .fin _ _ x :: t, e => minExp t (min x e)
  | _ :: t, e => minExp t e

def sumAt (e : Int) : List FV → Int
  | [] => 0
  | .fin n m x :: t => alignTo e n m x + sumAt e t
  | _ :: t => sumAt e t

/-- The exact sum of several values (06:R175 for an exact zero, R180 for infinities). A sum that holds a quiet NaN beside infinities of
both signs raises no NV for these, a point the spec leaves open (DESIGN CHOICE, log 83). -/
def sumExact (mode : Rm) (l : List FV) : FV × Flags :=
  let snan := flagIf (l.any fvIsSnan) flagNV
  if l.any fvIsNan then (.nan false, snan)
  else if l.any (fun v => v == .inf true) && l.any (fun v => v == .inf false) then (.nan false, flagNV)
  else if l.any (fun v => v == .inf true) then (.inf true, 0)
  else if l.any (fun v => v == .inf false) then (.inf false, 0)
  else
    let e := match l with
      | .fin _ _ x :: t => minExp t x
      | _ => 0
    let s := sumAt e l
    if s ≠ 0 then (.fin (decide (s < 0)) s.natAbs e, 0)
    else
      let allZero := l.all fvIsZero
      let neg : Bool :=
        if allZero && l.all fvNeg && !l.isEmpty then true
        else if allZero && l.all (fun v => !fvNeg v) then false
        else mode == .rdn
      (.fin neg 0 0, 0)

def negFV : FV → FV
  | .nan s => .nan s
  | .inf n => .inf (!n)
  | .fin n m e => .fin (!n) m e

def addF (mode : Rm) (a b : FV) : FV × Flags := sumExact mode [a, b]
def subF (mode : Rm) (a b : FV) : FV × Flags := sumExact mode [a, negFV b]

def mulF (a b : FV) : FV × Flags :=
  let nv := flagIf (fvIsSnan a || fvIsSnan b) flagNV
  match a, b with
  | .nan _, _ => (.nan false, nv)
  | _, .nan _ => (.nan false, nv)
  | .fin na ma ea, .fin nb mb eb => (.fin (na != nb) (ma * mb) (ea + eb), 0)
  | x, y =>
    if fvIsZero x || fvIsZero y then (.nan false, flagNV)
    else (.inf (fvNeg x != fvNeg y), 0)

/-- a * b + c (14:R403, 06:R180: 0 * infinity raises NV even with a quiet NaN addend). -/
def fmaF (mode : Rm) (a b c : FV) : FV × Flags :=
  let snan := flagIf (fvIsSnan a || fvIsSnan b || fvIsSnan c) flagNV
  let bad := (fvIsInf a && fvIsZero b) || (fvIsZero a && fvIsInf b)
  if bad then (.nan false, flagNV)
  else if fvIsNan a || fvIsNan b || fvIsNan c then (.nan false, snan)
  else
    let p := mulF a b
    let s := sumExact mode [p.1, c]
    (s.1, p.2 ||| s.2 ||| snan)

/-- a / b with a sticky bit below at least 80 bits of quotient (06:R180 for the special cases). -/
def divF (a b : FV) : FV × Flags :=
  let nv := flagIf (fvIsSnan a || fvIsSnan b) flagNV
  match a, b with
  | .nan _, _ => (.nan false, nv)
  | _, .nan _ => (.nan false, nv)
  | .inf _, .inf _ => (.nan false, flagNV)
  | .inf n, .fin n' _ _ => (.inf (n != n'), 0)
  | .fin n _ _, .inf n' => (.fin (n != n') 0 0, 0)
  | .fin n m e, .fin n' m' e' =>
    if m' == 0 then
      if m == 0 then (.nan false, flagNV) else (.inf (n != n'), flagDZ)
    else if m == 0 then (.fin (n != n') 0 0, 0)
    else
      let k := 80 + Nat.log2 m' + 1 - min (Nat.log2 m) (Nat.log2 m')
      let q := m * 2 ^ k / m'
      let sticky := if m * 2 ^ k % m' == 0 then 0 else 1
      (.fin (n != n') (2 * q + sticky) (e - e' - k - 1), 0)

/-- Newton's iteration for the integer square root, on fuel. -/
def sqrtGo : Nat → Nat → Nat → Nat
  | 0, _, x => x
  | k + 1, n, x =>
    let y := (x + n / x) / 2
    if y < x then sqrtGo k n y else x
/-- floor of the square root. -/
def natSqrt (n : Nat) : Nat :=
  if n ≤ 1 then n else sqrtGo (Nat.log2 n + 8) n (2 ^ (Nat.log2 n / 2 + 1))

/-- Square root with a sticky bit (14:R397). -/
def sqrtF (a : FV) : FV × Flags :=
  match a with
  | .nan s => (.nan false, flagIf s flagNV)
  | .inf true => (.nan false, flagNV)
  | .inf false => (.inf false, 0)
  | .fin n m e =>
    if m == 0 then (.fin n 0 0, 0)
    else if n then (.nan false, flagNV)
    else
      let k := 200 + (e % 2).toNat
      let r := natSqrt (m * 2 ^ k)
      let sticky := if r * r == m * 2 ^ k then 0 else 1
      (.fin false (2 * r + sticky) ((e - k) / 2 - 1), 0)

/-- Numeric order of non-NaN values: a < b, with -0 equal to +0. -/
def ltF (a b : FV) : Bool :=
  match a, b with
  | .inf n, .inf n' => n && !n'
  | .inf n, _ => n
  | _, .inf n => !n
  | .fin n m e, .fin n' m' e' =>
    let x := min e e'
    decide (alignTo x n m e < alignTo x n' m' e')
  | _, _ => false
def eqF (a b : FV) : Bool := !ltF a b && !ltF b a

/-- maximumNumber and minimumNumber (06:R174): -0 lies below +0. -/
def maxMinF (isMax : Bool) (a b : FV) : FV × Flags :=
  let nv := flagIf (fvIsSnan a || fvIsSnan b) flagNV
  if fvIsNan a && fvIsNan b then (.nan false, nv)
  else if fvIsNan a then (b, nv)
  else if fvIsNan b then (a, nv)
  else
    let aLess := ltF a b || (eqF a b && fvNeg a && !fvNeg b)
    (if aLess == isMax then b else a, nv)

/-- 04:R110 with the NaN rules of 06:R174. -/
def cmpF (c : Cmp) (a b : FV) : Bool × Flags :=
  if fvIsNan a || fvIsNan b then
    let nv := match c with
      | .lt | .le | .gt | .ge => flagNV
      | _ => flagIf (fvIsSnan a || fvIsSnan b) flagNV
    (match c with | .ne | .un => true | _ => false, nv)
  else
    (match c with
      | .eq => eqF a b
      | .ne => !eqF a b
      | .lt => ltF a b
      | .le => !ltF b a
      | .gt => ltF b a
      | .ge => !ltF a b
      | .un => false, 0)

/-- FCLASS (14:R399) on the bits as stored. -/
def classF (f : Fmt) (b : Nat) : Nat :=
  let kind := match decodeF f false b with
    | .inf _ => 3
    | .nan s => if s then 5 else 4
    | .fin _ m _ => if m == 0 then 0 else if expOf f b == 0 then 1 else 2
  (if signOf f b then 8 else 0) + kind

/-- The generator's next state (06:R177). -/
def srNext (x : Word) : Word :=
  let x := x ^^^ (x <<< 13)
  let x := x ^^^ (x >>> 7)
  x ^^^ (x <<< 17)
/-- The value of Draw16 once the state has advanced to x. -/
def srBits (x : Word) : Nat := (x >>> 48).toNat

/-- Draw16 for one result (06:R178): the draw, and the generator afterwards. No draw outside stochastic mode. -/
def drawFor (mode : Rm) (seed : Word) : Nat × Word :=
  match mode with
  | .sr => (srBits (srNext seed), srNext seed)
  | _ => (0, seed)

/-- RoundFP32RNE as a value and its FP32 bits (06:R194, R195: FTZ never applies there). -/
def round32 (v : FV) : Nat := (roundTo fmt32 .rne false 0 v).1
def round32V (v : FV) : FV := decodeF fmt32 false (round32 v)

/-- floor(2^(j/64) * 2^31 + 1/2) (06:R195). 2^(j/64) * 2^31 is the 64th root of 2^(j + 64 * 31): found bit by bit. -/
def tfRoot : Nat → Nat → Nat → Nat
  | 0, _, r => r
  | b + 1, n, r => tfRoot b n (if (r + 2 ^ b) ^ 64 ≤ n then r + 2 ^ b else r)
def tfEntry (j : Nat) : Nat :=
  -- twice the value, floored, then rounded to the nearest integer: no tie arises
  (tfRoot 34 (2 ^ (j + 64 * 32)) 0 + 1) / 2

def fvOf32 (b : Nat) : FV := decodeF fmt32 false b

/-- Scaling by a power of two, exactly. -/
def scaleF (k : Int) : FV → FV
  | .fin n m e => .fin n m (e + k)
  | v => v

/-- Exp2Exact (06:R195) of an FP32 value below 128: an exact value to be rounded once. x at or below -300
underflows like -300 does in every mode and format. -/
def exp2Fin (n : Bool) (m : Nat) (e : Int) : FV :=
  let (kq, _) := roundMult .rne n 0 m (e + 6) 0
  let kk : Int := if n then -(kq : Int) else kq
  let j := (kk % 64).toNat
  let ee := (kk - j) / 64
  let r := (sumExact .rne [.fin n m e, .fin (decide (0 < kk)) kk.natAbs (-6)]).1
  let q := round32V (mulF (fvOf32 0x3D635847) r).1
  let q := round32V (addF .rne (fvOf32 0x3E75FDF0) q).1
  let q := round32V (mulF q r).1
  let q := round32V (addF .rne (fvOf32 0x3F317218) q).1
  let s := round32V (mulF q r).1
  let one := (addF .rne (.fin false 1 0) s).1
  scaleF (ee - 31) (mulF (.fin false (tfEntry j) 0) one).1

/-- 2^x for an FP32 x (06:R195): the exact value to be rounded once, and the flags of the operand. Values so large or
small that kk would be astronomical are settled by their magnitude: x of 128 or more overflows (06:R176), and x at or
below -2^12 lies below half the smallest subnormal of every format, where the algorithm's V rounds as 2^-4096 does. -/
def exp2F (v : FV) : FV × Flags :=
  match v with
  | .nan s => (.nan false, flagIf s flagNV)
  | .inf n => (if n then .fin false 0 0 else .inf false, 0)
  | .fin n m e =>
    if m == 0 then (.fin false 1 0, 0)
    else if n then
      if magLog m e ≥ 12 then (.fin false 1 (-4096), 0) else (exp2Fin n m e, 0)
    else if magLog m e ≥ 7 then (.fin false 1 (2 ^ 12), 0)
    else (exp2Fin n m e, 0)

/-- Decode8 (06:R188): a code-table entry as a value. -/
def decode8 (t : CtEntry) : FV := decodeF fmtE8M10 false t.toNat

/-- Distance between two finite values, as an integer multiple of 2^e. -/
def distAt (e : Int) (a b : FV) : Nat :=
  match a, b with
  | .fin n m x, .fin n' m' x' => (alignTo e n m x - alignTo e n' m' x').natAbs
  | _, _ => 0

/-- The index of the first entry that is best under `better`, among those `ok` admits. -/
def bestIdx (ok : FV → Bool) (better : FV → FV → Bool) : List FV → Nat → Option (Nat × FV) → Option (Nat × FV)
  | [], _, acc => acc
  | v :: t, i, acc =>
    let acc' :=
      if ok v then
        match acc with
        | none => some (i, v)
        | some (j, w) => if better v w then some (i, v) else some (j, w)
      else acc
    bestIdx ok better t (i + 1) acc'

def fvFinite : FV → Bool
  | .fin _ _ _ => true
  | _ => false

/-- Code i comes before code j in the order of P (06:R189): values ascending, −0 before +0, equal values by code, NaN last. -/
def codeBefore (tbl : List FV) (i j : Nat) : Bool :=
  let a := tbl.getD i (.nan false)
  let b := tbl.getD j (.nan false)
  let neg : FV → Bool := fun v => match v with | .fin n _ _ => n | _ => false
  if fvIsNan a || fvIsNan b then (!fvIsNan a && fvIsNan b) || (fvIsNan a && fvIsNan b && decide (i < j))
  else if ltF a b then true
  else if ltF b a then false
  else if neg a != neg b then neg a
  else decide (i < j)
/-- The sort permutation P of a code table (06:R189): each code at the place that the codes before it leave. -/
def codeOrder (ct : Vector CtEntry 256) : Vector (BitVec 8) 256 :=
  let tbl := ct.toList.map decode8
  let at' := (List.range 256).map (fun j => ((List.range 256).filter (fun i => codeBefore tbl i j)).length)
  Vector.ofFn (fun n => BitVec.ofNat 8 (at'.idxOf n.val))

/-- Encode8 (06:R190): the code and the flags. -/
def encode8 (tbl : List FV) (x : FV) : Nat × Flags :=
  let low (ok : FV → Bool) : Option (Nat × FV) := bestIdx ok (fun _ _ => false) tbl 0 none
  let answer (r : Nat × FV) : Nat × Flags :=
    (r.1, flagIf (fvIsNan r.2 || !(eqF r.2 x)) flagNX)
  let infOr (n : Bool) : Nat × Flags :=
    match low (fun v => v == .inf n) with
    | some r => answer r
    | none =>
      match low (fun v => v == .inf (!n)) with
      | some r => answer r
      | none => (0, flagNV ||| flagNX)
  match x with
  | .nan _ =>
    match low fvIsNan with
    | some r => (r.1, flagNV)
    | none => (0, flagNV ||| flagNX)
  | .inf n =>
    match low (fun v => v == .inf n) with
    | some r => (r.1, 0)
    | none =>
      match bestIdx fvFinite (fun a b => if n then ltF a b else ltF b a) tbl 0 none with
      | some r => answer r
      | none => infOr n
  | .fin n m e =>
    let lo := minExp tbl e
    match bestIdx fvFinite (fun a b => decide (distAt lo a x < distAt lo b x)) tbl 0 none with
    | some r => answer r
    | none => infOr n

/-! ## The seven-limb wide sum (06:R197-R200) -/

/-- The limbs of one contribution (06:R198). -/
def wideOf (v : FV) : List (BitVec 64) :=
  match v with
  | .nan _ => [0, 0, 0, 0, 0, 0, BitVec.ofNat 64 (2 ^ 48 + 2 ^ 32)]
  | .inf n => [0, 0, 0, 0, 0, 0, BitVec.ofNat 64 (if n then 2 ^ 48 else 2 ^ 32)]
  | .fin n m e =>
    let k : Int := alignTo (-149) n m e
    let limb (j : Nat) : BitVec 64 := BitVec.ofNat 64 ((k / (2 ^ (48 * j) : Nat)) % (2 ^ 48 : Nat)).toNat
    (List.range 6).map limb ++ [BitVec.ofInt 64 (k / (2 ^ 288 : Nat))]

/-- 06:R199: limb by limb, modulo 2^64. -/
def wideAdd (a b : List (BitVec 64)) : List (BitVec 64) := List.zipWith (· + ·) a b

/-- The carry c into each limb, and on to the next; the last carry goes to the top limb. DEDUCED (log 44): 06:R199 writes
every carry to L[6], which would change the value that the same rule says normalisation keeps. -/
def wideCarry : List (BitVec 64) → BitVec 64 → List (BitVec 64) × BitVec 64
  | [], c => ([], c)
  | l :: t, c =>
    let n := l + c
    let d := n.sshiftRight 48
    let r := wideCarry t d
    ((n - (d <<< 48)) :: r.1, r.2)

/-- Normalisation (06:R199). -/
def wideNorm (l : List (BitVec 64)) : List (BitVec 64) :=
  let r := wideCarry (l.take 6) 0
  let l6 := l.getD 6 0 + r.2
  let v6 := (l6.setWidth 32).signExtend 64
  let cnt := (l6 - v6) >>> 32
  let pos : BitVec 64 := if cnt.extractLsb' 0 16 == 0 then 0 else 1
  let neg : BitVec 64 := if cnt.extractLsb' 16 16 == 0 then 0 else 1
  r.1 ++ [(neg <<< 48) + (pos <<< 32) + v6]

/-- Weighted sum of normalised payload limbs. -/
def wideSum : List (BitVec 64) → Nat → Int
  | [], _ => 0
  | l :: t, j => (l.toNat * 2 ^ (48 * j) : Nat) + wideSum t (j + 1)

/-- The exact value of normalised limbs, before its one rounding (06:R200: a zero sum is +0 in every mode). -/
def wideValue (l : List (BitVec 64)) : FV :=
  let l6 := l.getD 6 0
  let v6 := (l6.setWidth 32).signExtend 64
  let cnt := (l6 - v6) >>> 32
  let pos := cnt.getLsbD 0
  let neg := cnt.getLsbD 16
  if pos && neg then .nan false
  else if pos then .inf false
  else if neg then .inf true
  else
    let k := wideSum (l.take 6) 0 + v6.toInt * (2 ^ 288 : Nat)
    .fin (decide (k < 0)) k.natAbs (-149)

end Sys2Proof.Machine
end

