-- ==== Sys2Proof/Machine/State.lean ====
section
/-! DEFINITION. The state of the machine as plain data: everything the spec gives it (INVENTORY.md lists each piece
with its rule and reset value), and the model's own fields, which say what happens next where several agents act. -/
namespace Sys2Proof.Machine
open Sys2Proof

/-- Privilege levels (05:R157 LV). -/
inductive Level | a | k | m
  deriving DecidableEq, Repr
/-- Hart classes (02:R35, 05:R158 CLASS). -/
inductive Class | c | v | t
  deriving DecidableEq, Repr

/-- Trap causes (12:R329), in code order. -/
inductive Cause
  | illegal | priv | misalign | page | access | dataerr | cls | dupidx | convoy | heapspill | mergeorder
  | vimage | lazy | waittimeout | deadlock | step | collective | remote | fptrap | sysc | brk | preempt
  | timer | extint | mcheck
  deriving DecidableEq, Repr

/-- Why a step stops: no rule of the spec stops the machine on an instruction it defines. -/
inductive Fault
  /-- Raised by Step when no hart is left to act and no event is waiting: the package is off, failed or tripped
  (01:R26, R27, R33). Safe. -/
  | packageStopped
  deriving DecidableEq, Repr

/-- Why an instruction has no meaning here. -/
inductive Refusal
  /-- Raised by an arm of Dispatch whose instruction has no meaning yet. Safe. -/
  | notModelled (mnemonic : String)
  /-- Raised by an event's meaning in a state in which the rule that brings the event about does not hold: the event
  cannot happen there (a gang that does not exist cannot retire). Safe: no state of a run has that step. -/
  | notEnabled (event : String)
  /-- Raised by an access to an offset of the Device range that no chapter gives a register (09:R256): the device's
  behaviour there is not in the spec. Safe. -/
  | unknownDevice (offset : Nat)
  deriving DecidableEq, Repr

/-- One level's bank of trap registers (05:R152, R157). -/
structure TrapBank where
  trapc : BitVec 8
  trapv : Word
  trappc : BitVec 56
  scr : Word
  plv : Level
  pie : Bool
  deriving DecidableEq, Repr

/-- VL, VTYPE and MR (05:R154). -/
structure VCfg where
  vl : BitVec 32
  vt : VType
  mr : BitVec 5
  deriving DecidableEq, Repr

/-- LIX (05:R155). -/
structure Lix where
  act : Bool
  member : BitVec 5
  iter : BitVec 32
  deriving DecidableEq, Repr
/-- XPOS (05:R155). -/
structure Xpos where
  act : Bool
  bwd : Bool
  group : BitVec 32
  deriving DecidableEq, Repr

/-- What a queued entry holds in place of its parcels: the decoded instruction, or why it cannot execute
(12:R337: a refilled entry that decodes to nothing posted, or to nothing at all, traps when it reaches VCP). -/
inductive QOp
  | ok (i : Instr)
  | bad
  deriving DecidableEq, Repr

/-- One posted instruction (07:R202, R208): its address, its parcels, the captured value, the continuation's
captured value where it has one (two slots), and whether TRET refilled it (05:R164). -/
structure QEntry where
  addr : BitVec 54
  head : Parcel
  tail : Parcel
  op : QOp
  opnd : Word
  cont : Option Word
  refilled : Bool
  /-- Stores counted when it was posted (the model's own field, log 53). -/
  made : Nat
  deriving DecidableEq, Repr

/-- One WAITMAX count (12:R352): the address it last counted for, and the nanoseconds counted. -/
structure WaitCount where
  addr : Option Word
  ns : Nat
  deriving DecidableEq, Repr

/-- A copy the engine holds (11:R300-R307): its tag, descriptor fields, next chunk, and its error once it has one.
`rel` is CPY.REL's scope. -/
structure Copy where
  tag : BitVec 32
  src : Word
  dst : Word
  rowLen : Nat
  rows : Nat
  sstride : Int
  dstride : Int
  chlog : Nat
  first : Nat
  cons : Nat
  k : BitVec 3
  rel : Option Scope
  next : Nat
  /-- The bytes of chunk `next` have been written, and its bit is still to be set. -/
  moved : Bool
  /-- CPYCAN has asked for a stop at the end of the chunk in progress (11:R307). -/
  stop : Bool
  err : Option (Cause × Word)
  /-- Issued at level A (log 30). -/
  user : Bool
  deriving DecidableEq, Repr

/-- A collective binding (11:R310-R317): the register, the record's address and fields, the engine's copy of the group
table, the reduced chunks by number, the chunks whose merge failed with their TRAPV, and the chunks written at DEST. -/
structure Binding where
  vd : Reg
  record : Word
  cid : BitVec 32
  op : Nat
  pattern : Nat
  exact : Bool
  ty : ET
  rm : Rm
  chunk : Nat
  count : Nat
  nranks : Nat
  rank : Nat
  dest : Word
  group : List (BitVec 64)
  /-- Ultra Ethernet ports it uses (11:R316). -/
  ports : List Nat
  sent : Nat
  recv : Nat
  reduced : List VReg
  written : Nat
  destFault : Option (Cause × Word)
  seed : Word
  err : Nat
  flags : Flags
  mergeBad : List (Nat × Word)
  /-- Bound at level A (log 30). -/
  user : Bool
  /-- SENT, RECV, ERR or FLAGS could not be written, and the fault still to be taken (13:R378). -/
  recDirty : Bool
  recFault : Option (Cause × Word)
  deriving DecidableEq, Repr

/-- A remote operation the hart issued that has not performed (15:R431): its connection and message number there, what it asks,
the region and offset it names, the local range with its physical bytes, the offsets of NGET's response packets placed, NAMO's
register, the bytes an NPUT sends, and the offsets of its packets that are still to be sent, and of those never sent yet. -/
structure RemoteOp where
  conn : Nat
  seq : Nat
  kind : PacketKind
  region : Nat
  offset : Nat
  va : Word
  pas : List Nat
  got : List Nat
  xd : Reg
  data : List Byte
  unsent : List Nat
  virgin : List Nat
  deriving DecidableEq, Repr

/-- A TMMA in flight (07:R229): its accumulator, the tile registers it reads, and the result and flags to come. -/
structure TmmaFly where
  ta : BitVec 1
  reads : List (BitVec 3)
  value : TReg
  flags : Flags
  deriving DecidableEq, Repr

/-- A hart: its registers and CSRs (05), its place, its queue and engines, and what it waits for. -/
structure Hart where
  id : HartId
  cls : Class
  core : Nat
  slot : Nat
  /-- Lane groups held; 0 off a V core (02:R36). -/
  lg : Nat
  x : Vector Word 32
  f : Vector Word 32
  pc : Word
  lv : Level
  ie : Bool
  kb : TrapBank
  mb : TrapBank
  ktvec : BitVec 54
  mtvec : BitVec 54
  mkeep : BitVec 25
  /-- VL, VTYPE, MR at VCP. -/
  vc : VCfg
  /-- VL, VTYPE, MR as the last marker posted carries them (07:R202, 05:R164). -/
  pcfg : VCfg
  ves : BitVec 32
  vcp : BitVec 54
  lix : Lix
  xpos : Xpos
  vdirty : BitVec 12
  live : BitVec 12
  nres : BitVec 12
  fflags : Flags
  ftz : Bool
  fen : Flags
  srseed : Word
  cycle : Word
  timecmp : Word
  waitmax : BitVec 32
  fill : Word
  /-- Stores that a side of the hart may see late, and strips, counted so far (the model's own fields, log 53). -/
  stores : Nat
  strip : Nat
  thrPow : BitVec 32
  thrBal : BitVec 32
  balThrottle : Bool
  migTrap : Bool
  migMix : Bool
  ctxb : BitVec 50
  qosShare : BitVec 11
  v : Vector VReg 32
  k : Vector KReg 8
  m : Vector (Vector VReg 16) 4
  sh : Vector VReg 2
  sc : Vector ScReg 4
  ct : Vector CtEntry 256
  /-- The sort permutation P of the code table (06:R189). -/
  perm : Vector (BitVec 8) 256
  w : Vector TReg 8
  ta : Vector TReg 2
  vq : List QEntry
  /-- The level whose trap area holds the stopped vector state, until the handler posts (12:R336, 05:R153). -/
  stopped : Option Level
  /-- Advance of the private base copies is recomputed from LIX; nothing else is kept for an open loop (07:R227). -/
  tagCtr : BitVec 32
  copies : List Copy
  /-- Bits marked expected, per mask register (11:R303). -/
  expected : Vector KReg 8
  /-- The pending-chunk word (11:R304): bits last cleared and bits last set. -/
  pendClr : Vector KReg 8
  pendSet : Vector KReg 8
  bindings : List Binding
  remote : List RemoteOp
  /-- Connections with a refusal to report, and its reason (15:R435). -/
  reports : List (Nat × BitVec 8)
  /-- Registers pending for a NAMO (15:R434). -/
  namoPend : List Reg
  tmma : Option TmmaFly
  /-- Incoming bytes counted in the exchange step (02:R59). -/
  incoming : Nat
  /-- The fault of a read of the step plan that the hart still takes at its TSYNC of this step (02:R57). -/
  planFault : Option (Cause × Word)
  /-- Arrived at the step barrier, or declared sending finished. -/
  stepDone : Bool
  /-- Barrier instances passed, and whether this hart stands arrived at the present one (14:R405). -/
  gbarDone : Nat
  gbarHere : Bool
  /-- The WAITSIG, SEMTS, GBAR, TSYNC, IDLE or IDLE.X at pc in which the scalar side waits (03:R82). -/
  waitOn : Option Instr
  waitS : WaitCount
  waitV : WaitCount
  ended : Bool
  yielded : Bool
  halted : Bool
  stepping : Bool
  /-- How far the vector side goes in this turn: instructions it completes, and units of the one after them; none: as far as
  it can (the model's own field, log 45). -/
  rest : Option (Nat × Nat)
  /-- The descriptor that the projection at VCP has read, while it rests between two turns (the model's own field, log 45). -/
  desc : Option Nat
  /-- Cycles of the string's present window that FILL and THR need not count any more, since they hold them or the hart came later, and
  cycles of blind issue they hold (the model's own field, log 14). -/
  seen : Nat × Nat
  /-- On a core (not saved, not in flight). -/
  resident : Bool
  /-- In flight in the Peel towards a class (02:R53), and the place taken there: core, slot, lane groups. -/
  flying : Option Class
  goal : Option (Nat × Nat × Nat)
  /-- The transfer has an uncorrectable error (12:R344). -/
  peelErr : Bool
  /-- Registers with an uncorrectable error: file and register, as TRAPV numbers them (12:R348-R350). -/
  badRegs : List (Nat × Nat)
  /-- The clocks of its string have stopped (01:R22). -/
  dead : Bool
  /-- PREEMPT outstanding, and its TRAPV (12:R340). -/
  preempt : Option Bool
  /-- Sources of EXTINT pending (12:R329). -/
  extint : List (BitVec 8)
  /-- MCHECKs pending: their TRAPV. -/
  mcheck : List Word
  /-- Convoy members still to commit (04:R138). -/
  convoyLeft : Nat
  /-- Instructions of the present mix window, those posted on V, those that call for V from C, windows in a row, windows of hold
  (03:R100). -/
  mixCount : Nat
  mixHits : Nat
  mixMoves : Nat
  mixRun : Nat
  mixHold : Nat
  /-- BLIND cycles announced and not yet over, and the steps it has set for the hart's datapath (03:R89). -/
  blind : Nat
  blindSteps : Option Nat
  deriving DecidableEq, Repr

/-- A cluster file (02:R37, R38): its gang, registers, semaphores, and the harts waiting on each semaphore in order. -/
structure ClusterFile where
  gang : BitVec 32
  cr : Vector Word 64
  sem : BitVec 256
  waiters : List (BitVec 8 × HartId)
  deriving DecidableEq, Repr

/-- Where a hart's scratchpad share lies (09:R255): core, first lane group, bytes. -/
structure Share where
  core : Nat
  group : Nat
  size : Nat
  deriving DecidableEq, Repr

/-- A gang's standing (02:R42, 12:R340-R342). -/
inductive GangRun | resident | preempting (desched : Bool) | saved (desched : Bool)
  deriving DecidableEq, Repr
/-- A T gang's step (02:R58). -/
inductive StepKind | compute | toExchange | exchange | toCompute
  deriving DecidableEq, Repr

/-- A gang (02:R39-R45): the launch record's fields that live on, and its barrier and step state. -/
structure Gang where
  id : BitVec 32
  cls : Class
  asid : BitVec 16
  tenant : BitVec 8
  harts : Nat
  queue : Nat
  index : Nat
  prio : Nat
  prom : Nat
  seq : Nat
  mresv : Nat
  mlg : Nat
  mresc : Nat
  crf : Bool
  plan : Word
  sig0 : Word
  sig1 : Word
  run : GangRun
  clusters : List Nat
  strings : List Nat
  cslots : List (Nat × Nat)
  /-- Lane groups of its V cores held by no hart: (core, group). -/
  reserve : List (Nat × Nat)
  shares : List (Nat × Share)
  /-- Shares whose harts are on their first flight to V, which the arrival binds (09:R255). -/
  landing : List (Nat × Share)
  stepNo : Nat
  stepKind : StepKind
  /-- Words its WAITSIG harts waited on when it was descheduled, with the values they held (03:R80). -/
  watch : List (Nat × BitVec 32)
  deriving DecidableEq, Repr

/-- What the scheduler keeps about a queue's head (03:R68-R72): the record as read at its checks, the time it became
ready, promotions, and pinning. -/
structure Head where
  queue : Nat
  index : Nat
  record : BitVec 512
  ready : Bool
  readyNs : Nat
  prom : Nat
  pinned : Bool
  deriving DecidableEq, Repr

/-- The scheduler (03:R64-R80). -/
structure Sched where
  heads : List Head
  /-- The queue last visited at each level (03:R71). -/
  last : Vector Nat 8
  /-- Tokens left ungranted less the estimates placed since (03:R77). -/
  freePool : Nat
  nextGang : BitVec 32
  nextSeq : Nat
  /-- Queues held behind a Rebeica request: queue and captured TAIL (12:R358). -/
  held : List (Nat × Nat)
  /-- The queue whose visit goes on, and the level at which it does (03:R71). -/
  visit : Option (Nat × Nat)
  deriving DecidableEq, Repr

/-- Balancer states (03:R85). -/
inductive Bal | bal | fill | thr
  deriving DecidableEq, Repr
/-- A series string (03:R84-R98). Currents in microamperes, power in milliwatts. -/
structure Str where
  ix : Nat
  state : Bal
  sbal : Nat
  spow : Nat
  imb : Nat
  under : Nat
  peak : Nat
  calm : Nat
  /-- Filler steps that the balancer has set on each tile (03:R86). -/
  steps : List Nat
  /-- Settings of each tile's steps since the last measurement, the first first (03:R84, R89); S_bal and S_pow as they stood
  before it, by which the clock runs until the next (03:R88, R92). -/
  sets : List (List Nat)
  winBal : Nat
  winPow : Nat
  /-- Tokens the filler draws (03:R86). -/
  fillTok : Nat
  /-- Last measured current of each tile with its filler removed, in 64ths of a microampere. -/
  cur : List Nat
  /-- The same with the predicted draw of the convoys posted since (03:R83). -/
  expect : List Nat
  grant : Nat
  demand : Nat
  power : Nat
  tripped : Bool
  deriving DecidableEq, Repr

/-- An Ultra Ethernet port's operating point (03:R95): tokens now, and the point a change is heading to. -/
structure Port where
  point : Nat
  target : Nat
  grant : Nat
  deriving DecidableEq, Repr

/-- A thermal cap (03:R96): its consumer (sensor numbers 0-781 of 01:R26, ports at 1000 + l), tokens, the amount last moved, and
the tokens at which it is a cap no more. -/
structure Cap where
  consumer : Nat
  tokens : Nat
  amount : Nat
  top : Nat
  deriving DecidableEq, Repr
/-- Bellows (03:R94-R99): limit in watts, epoch, last recipient of a left-over token, ports, thermal caps, measured fixed power,
and at each network port the tenants' buckets (09:R272) and shares (05:R161). -/
structure Bellows where
  limit : Nat
  epoch : BitVec 16
  last : Nat
  ports : Vector Port 16
  caps : List Cap
  fixedMw : Nat
  buckets : List (Nat × BitVec 8 × Nat)
  shares : List (Nat × BitVec 8 × Nat)
  deriving DecidableEq, Repr

/-- Bring-up and what ends it (01:R26-R34). -/
inductive Phase | off | step (n : Nat) | running | failed (step : Nat) | overheated | railFault (r : Rail)
  deriving DecidableEq, Repr

/-- A leaf (09:R258): lowest address bit of its level, which is the size of its page, first frame, permissions. -/
structure Leaf where
  lo : Nat
  frame : Nat
  g : Bool
  u : Bool
  x : Bool
  w : Bool
  deriving DecidableEq, Repr
/-- A translation an agent holds (09:R260, R261): class and core of the agent, address space, number of the page among those of
its size, and the leaf. -/
structure TlbEntry where
  cls : Class
  core : Nat
  asid : BitVec 16
  page : Nat
  leaf : Leaf
  deriving DecidableEq, Repr
/-- A pointer entry that a walk cache holds (09:R260): address space, lowest address bit of its level (56 for the address-space
table), which entry of the level it is, and the table it names. -/
structure PtrEntry where
  asid : BitVec 16
  lo : Nat
  page : Nat
  next : Nat
  deriving DecidableEq, Repr
/-- A line that a core's instruction cache or its decoded instructions hold (09:R268, 10:R295): its bytes when it was filled. -/
structure CodeLine where
  cls : Class
  core : Nat
  line : Nat
  bytes : List Byte
  deriving DecidableEq, Repr

/-- MESI state of a Host-class line in L2 (11:R325). -/
inductive Mesi | s | e | m
  deriving DecidableEq, Repr

/-- An incomplete message at the receiving adapter (11:R320): its first packet to arrive, the offsets of the packets placed,
the packets held, and whether its region accepted it (a message refused is kept until it is passed as the head). -/
structure InMsg where
  conn : Nat
  msg : Nat
  head : Packet
  placed : List Nat
  held : List Packet
  accepted : Bool
  /-- Each byte placed with the byte it replaced: a message refused has no effect (11:R323). -/
  under : List (Nat × Byte × Byte)
  deriving DecidableEq, Repr

/-- What the management function measures besides the state (01:R28): voltage in millivolts and current in milliamperes of each rail,
power in milliwatts of the link transceivers and of each HBM stack, and each string's largest ladder transfer in microamperes. -/
structure Readings where
  rails : List (Rail × Nat × Nat)
  linkMw : Nat
  hbmMw : List Nat
  ladder : List Nat
  deriving DecidableEq, Repr
/-- MCTP telemetry (01:R28): what is measured, and power and grants of strings, operating points of ports, sensor readings, tripped
strings, rail fault and thermal events. -/
structure Telemetry where
  measured : Readings
  power : List (Nat × Nat)
  ports : List Nat
  grants : List (Nat × Nat)
  portGrants : List Nat
  thermal : List (Nat × Nat)
  trips : List Nat
  rail : Option Rail
  heat : List Nat
  deriving DecidableEq, Repr

/-- What the package sends to the outside (messages, reports, interrupts): the model's record of it, oldest first. -/
inductive Out
  | msix
  | tripReport (s : Nat)
  | overtemp
  | railReport (r : Rail)
  | bootFailure (step object : Nat)
  | telemetry (t : Telemetry)
  /-- The string-enable pin (01:R29 step 5, R34). -/
  | stringEnable (on : Bool)
  | configRetry
  | packet (conn : Nat) (p : Packet)
  | refusal (conn : Nat) (reason : BitVec 8)
  | resend (conn : Nat) (msg : Nat)
  /-- One packet of a response, with its offset (11:R320). -/
  | getResp (conn : Nat) (msg : Nat) (off : Nat) (bytes : List Byte)
  | namoResp (conn : Nat) (old : Word)
  | peerFreed (cid : BitVec 32)
  | contribution (cid : BitVec 32) (rank chunk : Nat) (v : VReg)
  | snoopData (line : Nat) (bytes : List Byte)
  /-- CXL.cache requests (11:R325): an eviction carries the data of an M line. -/
  | rdShared (line : Nat)
  | rdOwn (line : Nat)
  | evict (line : Nat) (dirty : Option (List Byte))
  | hostData (off : Nat) (v : Word)
  | hdmData (pa : Nat) (bytes : List Byte)
  | hdmError (pa : Nat)
  /-- BISnpInv, and BISnpData (11:R326). -/
  | backInvalidate (line : Nat)
  | backData (line : Nat)
  | nonce (n : BitVec 512)
  | debugValue (v : Word)
  | debugBytes (b : List Byte)
  | debugFail (c : Cause) (va : Word)
  deriving DecidableEq, Repr

/-- Rebeica (12:R345, R353-R358): request block, permitted frames, mapped objects (asid, va, length, hash, frames), the
debug nonce and grants. -/
structure Grant where
  tenant : Option (BitVec 8)
  haltOnBrk : Bool
  deriving DecidableEq, Repr
structure Mapped where
  asid : BitVec 16
  va : Nat
  len : Nat
  hash : BitVec 512
  deriving DecidableEq, Repr
structure Rebeica where
  block : BitVec 512
  permits : List Nat
  mapped : List Mapped
  nonces : Nat
  nonce : Option (BitVec 512)
  grants : List Grant
  /-- STATUS of a request that has been carried out and not yet reported (12:R356 step 5). -/
  pending : Option Nat
  deriving DecidableEq, Repr

/-- Adapter registers (11:R318) and incoming messages. -/
structure Adapter where
  ctab : Word
  cnum : Word
  rtab : Word
  rnum : Word
  pq : Word
  pqsig : Word
  resume : Word
  ep : Word
  pqCount : Nat
  incoming : List InMsg
  /-- Connections that place nothing until RESUME, with the faulting packet (11:R321). -/
  stalled : List (Nat × Packet)
  /-- Regions revoking whose accepted messages have not all completed. -/
  revoking : List Nat
  /-- Per connection, the number of the next message sent, and of the head at this receiver (11:R320). -/
  sent : List (Nat × Nat)
  heads : List (Nat × Nat)
  /-- Response packets held until their message is the head. -/
  resp : List Packet
  /-- Operations of harts whose gang has retired, with its address space (02:R45). -/
  orphans : List (BitVec 16 × RemoteOp)
  /-- What is sent once a port is enabled (01:R32). -/
  kept : List Out
  deriving DecidableEq, Repr

/-- The host mailbox (11:R328). -/
structure Mailbox where
  hdata : Word
  hdataOld : Word
  pend : Bool
  ddata : Word
  dpend : Bool
  msix : Bool
  deriving DecidableEq, Repr

/-- A contribution the collective engine holds until its chunk is reduced (11:R313, R314). -/
structure Contribution where
  cid : BitVec 32
  rank : Nat
  chunk : Nat
  value : VReg
  deriving DecidableEq, Repr

/-- Whose store it is that a hart need not see yet: its own scalar or vector side's, a copy's (of the hart that issued it, with
the mask register and the bit that its chunk sets), the response of an NGET on a connection, or a TSEND's of the exchange step. -/
inductive Origin
  | scalar
  | vector
  | copy (issuer : HartId) (tag : BitVec 32) (k : BitVec 3) (bit : Nat)
  | remote (conn : Nat)
  | exchange
  deriving DecidableEq, Repr
/-- What else orders a store of a hart: nothing; it is the write of an atomic, which no other write parts from its read (10:R287); it is an
image's, which later image accesses see (05:R169, R170); or the instruction at an address has stopped after it (17:R510). -/
inductive StoreKind
  | plain
  | atomic
  | image
  | part (addr : BitVec 54)
  deriving DecidableEq, Repr
/-- A store, whole as one access, that nothing yet orders before some later accesses of the hart `owner` (07:R216-R218; 10:R277,
R290, R293; 15:R461): its number there, whether a rule makes the owner's scalar side (toS) and vector side (toV) see it, the strip in
which an .acq load has acquired it, and its bytes' addresses, each with the byte that it replaced in coherence order. -/
structure Unseen where
  owner : HartId
  id : Nat
  origin : Origin
  toS : Bool
  toV : Bool
  acq : Option Nat
  cells : List (Nat × Byte)
  /-- Bytes of it that another agent's later store has replaced. -/
  beaten : List Nat
  /-- The owner's vector side has read it. -/
  saw : Bool
  /-- Another hart has acquired it: the owner's next acquire makes its scalar side see it (10:R284). -/
  shared : Bool
  kind : StoreKind
  deriving DecidableEq, Repr

/-- What reaches the package from outside by a way to which the spec gives no instruction and no event (log 34): errors (12:R344,
R348, R349) in a granule of memory, a transfer of the Peel, a register that the acting hart's next instruction reads (file and
register), and state of a device that concerns harts; system software's enabling of Ultra Ethernet port 0 to 15 or CXL port 1 (16)
and its setting of the second HDM range (01:R32, 11:R326); a host line that L2 evicts (11:R325); a host read of the mailbox
(11:R328); and a peer's request to send a message again from a packet on (11:R321). -/
inductive Stimulus
  | granule (pa : Nat)
  | peel (id : HartId)
  | register (file reg : BitVec 8)
  | device (ids : List HartId) (addr : Nat)
  | enable (port : Nat)
  | hdmSize (units : Nat)
  | evict (line : Nat)
  | hostRead (off : Nat)
  | resend (conn msg first : Nat)
  deriving DecidableEq, Repr

/-- The machine. -/
structure State where
  /-- The hart that acts in this step. -/
  hart : Hart
  others : List Hart
  gangs : List Gang
  files : List (Nat × ClusterFile)
  sched : Sched
  strings : List Str
  bellows : Bellows
  phase : Phase
  /-- Memory: (physical address, byte), rising, no zero byte listed (01:R32: memory reads zero after bring-up). -/
  mem : List Host.Cell
  /-- Stores that some hart need not see yet, in coherence order where they share a byte; memory holds what all of them leave. -/
  unseen : List Unseen
  /-- Uncorrectable granules: base address of each (12:R348-R350). -/
  bad : List Nat
  tlb : List TlbEntry
  /-- With the base die whose walkers hold each (09:R260). -/
  walks : List (Nat × PtrEntry)
  icache : List CodeLine
  hostLines : List (Nat × Mesi)
  /-- Lines of HBM or the control block of which the directory records a host copy, and whether it is exclusive; bytes of HBM in
  the second range (11:R326). -/
  hostCopies : List (Nat × Bool)
  hdm : Nat
  poolLines : List Nat
  /-- CXL port 1 is up; ports that system software has enabled, 16 for CXL port 1 (01:R32, 11:R327). -/
  poolUp : Bool
  portsOn : List Nat
  rebeica : Rebeica
  adapter : Adapter
  mailbox : Mailbox
  contributions : List Contribution
  /-- Invalidation blocks whose entries have been removed and whose GO still reads 1 (09:R262). -/
  invRunning : List Nat
  /-- Sensor readings, and sensors that have raised a thermal event (01:R26). -/
  thermal : List (Nat × Nat)
  heat : List Nat
  time : Word
  out : List Out
  /-- Device and outside events still to happen, oldest first (the model's own field, log 3). -/
  agenda : List Instr
  /-- How many instructions commit before the next event of the agenda (the model's own field, log 3). -/
  hold : List Nat
  /-- Which other hart acts next (the model's own field, log 3). -/
  turns : List Nat
  /-- How far a vector side goes in each of its next turns, as `Hart.rest`; with none named it goes as far as it can (the
  model's own field, log 45). -/
  pace : List (Nat × Nat)
  /-- What still reaches the package from outside, each a step of its own (the model's own field, log 34). -/
  stimuli : List Stimulus
  /-- Number of the next free choice (the model's own field, log 4). -/
  tick : Nat
  deriving DecidableEq, Repr

/-- Reset values of the registers (05:R147-R161). -/
def TrapBank.reset : TrapBank := ⟨0, 0, 0, 0, .a, false⟩
def VCfg.reset : VCfg := ⟨1, ⟨.fp64, .b16, false, false, .fp32, .rne⟩, 16⟩
/-- Every scale byte 0x7F (05:R147). -/
def scReset : ScReg := BitVec.ofNat 2048 ((2 ^ 2048 - 1) / 255 * 0x7F)
/-- Entry c decodes c read as E4M3 (05:R147). -/
def ctReset : Vector CtEntry 256 := Vector.ofFn (fun i => e4m3Entry i.val)

/-- A hart with every register at its reset value, on core 0 slot 0 of the control cores. No rule gives the sort permutation P of 06:R189
a reset value, nor after its section is reset: here it sorts the reset table (DESIGN CHOICE, log 74). -/
def Hart.reset : Hart where
  id := ⟨0, 0⟩
  cls := .c
  core := 0
  slot := 0
  lg := 0
  x := Vector.replicate 32 0
  f := Vector.replicate 32 0
  pc := 0
  lv := .a
  ie := false
  kb := .reset
  mb := .reset
  ktvec := 0
  mtvec := 0
  mkeep := BitVec.allOnes 25
  vc := .reset
  pcfg := .reset
  ves := 0
  vcp := 0
  lix := ⟨false, 0, 0⟩
  xpos := ⟨false, false, 0⟩
  vdirty := 0
  live := 0
  nres := 0
  fflags := 0
  ftz := false
  fen := 0
  srseed := 1
  cycle := 0
  timecmp := BitVec.allOnes 64
  waitmax := 0
  fill := 0
  stores := 0
  strip := 0
  thrPow := 0
  thrBal := 0
  balThrottle := false
  migTrap := true
  migMix := false
  ctxb := 0
  qosShare := 1024
  v := Vector.replicate 32 0
  k := Vector.replicate 8 0
  m := Vector.replicate 4 (Vector.replicate 16 0)
  sh := Vector.replicate 2 0
  sc := Vector.replicate 4 scReset
  ct := ctReset
  perm := codeOrder ctReset
  w := Vector.replicate 8 0
  ta := Vector.replicate 2 0
  vq := []
  stopped := none
  tagCtr := 0
  copies := []
  expected := Vector.replicate 8 0
  pendClr := Vector.replicate 8 0
  pendSet := Vector.replicate 8 0
  bindings := []
  remote := []
  reports := []
  namoPend := []
  tmma := none
  incoming := 0
  planFault := none
  stepDone := false
  gbarDone := 0
  gbarHere := false
  waitOn := none
  waitS := ⟨none, 0⟩
  waitV := ⟨none, 0⟩
  ended := false
  yielded := false
  halted := false
  stepping := false
  rest := none
  desc := none
  seen := (0, 0)
  resident := true
  flying := none
  goal := none
  peelErr := false
  badRegs := []
  dead := false
  preempt := none
  extint := []
  mcheck := []
  convoyLeft := 0
  mixCount := 0
  mixHits := 0
  mixMoves := 0
  mixRun := 0
  mixHold := 0
  blind := 0
  blindSteps := none

/-- Gang 0: the firmware hart, which no launch created (01:R29, 09:R257: it uses ASID 0). -/
def Gang.firmware : Gang where
  id := 0
  cls := .c
  asid := 0
  tenant := 0
  harts := 1
  queue := 0
  index := 0
  prio := 0
  prom := 0
  seq := 0
  mresv := 0
  mlg := 0
  mresc := 0
  crf := false
  plan := 0
  sig0 := 0
  sig1 := 0
  run := .resident
  clusters := []
  strings := []
  cslots := [(0, 0)]
  reserve := []
  shares := []
  landing := []
  stepNo := 0
  stepKind := .compute
  watch := []

/-- A string as it is after bring-up: balanced, ungranted (03:R85, R90, R98). -/
def Str.reset (s : Nat) : Str where
  ix := s
  state := .bal
  sbal := 0
  spow := 0
  imb := 0
  under := 0
  peak := 0
  calm := 0
  steps := [0, 0, 0, 0]
  sets := [[0], [0], [0], [0]]
  winBal := 0
  winPow := 0
  fillTok := 0
  cur := [0, 0, 0, 0]
  expect := [0, 0, 0, 0]
  grant := 0
  demand := 0
  power := 0
  tripped := false

def Bellows.reset : Bellows where
  limit := 4800
  epoch := 0
  last := 767
  ports := Vector.replicate 16 ⟨0, 0, 0⟩
  caps := []
  fixedMw := 0
  buckets := [(0, 0, 1024)]
  shares := []

/-- The machine right after bring-up step 7 (01:R29, R30, R32): hart 0 of control core 0 released at level M, every
other hart in reset, memory reading zero. The spec gives pc the entry point TEXTOFF of the firmware and x1 its
length, and maps the firmware: an object outside the spec. pc = 0, x1 = 0 and empty memory are a DESIGN CHOICE (log 1);
State.withFetchWord stands for the load of 01:R30. -/
def State.reset : State where
  hart := { Hart.reset with lv := .m }
  others := []
  gangs := [Gang.firmware]
  files := []
  sched := ⟨[], Vector.replicate 8 1023, 0, 1, 1, [], none⟩
  strings := []
  bellows := .reset
  phase := .running
  mem := []
  unseen := []
  bad := []
  tlb := []
  walks := []
  icache := []
  hostLines := []
  hostCopies := []
  hdm := 0
  poolLines := []
  poolUp := false
  portsOn := []
  rebeica := ⟨0, [], [], 0, none, [], none⟩
  adapter := ⟨0, 0, 0, 0, 0, 0, 0, 0, 0, [], [], [], [], [], [], [], []⟩
  mailbox := ⟨0, 0, false, 0, false, false⟩
  contributions := []
  invRunning := []
  thermal := []
  heat := []
  time := 0
  out := []
  agenda := []
  hold := []
  turns := []
  pace := []
  stimuli := []
  tick := 0

end Sys2Proof.Machine
end

