-- ==== Sys2Proof/Machine/Memory.lean ====
section
/-! DEFINITION. Memory as one list of (physical address, byte) pairs in canonical form (addresses rising, no zero byte
listed), little-endian access, and the physical map (00:R8, 01:R32, 09:R256, 12:R348). -/
namespace Sys2Proof.Machine
open Sys2Proof

/-- What an unlisted address reads as (01:R32). -/
def Memory.empty : Byte := 0

/-- The byte at an address. -/
def memRead : List Host.Cell → Nat → Byte
  | [], _ => Memory.empty
  | (a, b) :: t, x => if x == a then b else if x < a then Memory.empty else memRead t x

/-- Writing one byte; a zero byte is not listed. -/
def memWrite : List Host.Cell → Nat → Byte → List Host.Cell
  | [], x, v => if v == Memory.empty then [] else [(x, v)]
  | (a, b) :: t, x, v =>
    if x < a then (if v == Memory.empty then (a, b) :: t else (x, v) :: (a, b) :: t)
    else if x == a then (if v == Memory.empty then t else (x, v) :: t)
    else (a, b) :: memWrite t x v

/-- The canonical form, above a lower bound. -/
def Memory.wfFrom : Nat → List Host.Cell → Bool
  | _, [] => true
  | lo, (a, b) :: t => decide (lo ≤ a) && b != Memory.empty && Memory.wfFrom (a + 1) t
/-- Addresses strictly rising and no entry equal to what an unlisted address reads as. -/
def Memory.wf (m : List Host.Cell) : Bool := Memory.wfFrom 0 m

/-- n bytes from an address upward. -/
def memReadN (m : List Host.Cell) (a : Nat) : Nat → List Byte
  | 0 => []
  | n + 1 => memRead m a :: memReadN m (a + 1) n
/-- Bytes written from an address upward. -/
def memWriteN (m : List Host.Cell) (a : Nat) : List Byte → List Host.Cell
  | [] => m
  | b :: t => memWriteN (memWrite m a b) (a + 1) t
/-- Bytes read at listed addresses. -/
def memReadAt (m : List Host.Cell) (l : List Nat) : List Byte := l.map (memRead m)
/-- Bytes written at listed addresses, in order. -/
def memWriteAt (m : List Host.Cell) : List Nat → List Byte → List Host.Cell
  | a :: l, b :: t => memWriteAt (memWrite m a b) l t
  | _, _ => m

/-- The little-endian value of bytes (00:R8). -/
def leNat : List Byte → Nat
  | [] => 0
  | b :: t => b.toNat + 256 * leNat t
/-- The n little-endian bytes of a value. -/
def leBytes : Nat → Nat → List Byte
  | 0, _ => []
  | n + 1, v => BitVec.ofNat 8 v :: leBytes n (v / 256)

/-- A field [hi:lo] of a number. -/
def bitsOf (v hi lo : Nat) : Nat := (v >>> lo) % 2 ^ (hi + 1 - lo)
/-- v with its field [hi:lo] replaced. -/
def setBits (v hi lo x : Nat) : Nat :=
  v - (bitsOf v hi lo) * 2 ^ lo + (x % 2 ^ (hi + 1 - lo)) * 2 ^ lo

/-- The ranges of 09:R256. -/
inductive PaClass | hbm | vspad | tspad | scb | device | host | pool
  deriving DecidableEq, Repr

def paClass (pa : Nat) : Option PaClass :=
  if pa < Config.hbmEnd then some .hbm
  else if 0x8000000000 ≤ pa && pa < 0x8020000000 then some .vspad
  else if 0x8100000000 ≤ pa && pa < 0x8380000000 then some .tspad
  else if 0x8800000000 ≤ pa && pa < 0x8800200000 then some .scb
  else if 0x8900000000 ≤ pa && pa < 0x8901000000 then some .device
  else if 0x1000000000000 ≤ pa && pa < 0x2000000000000 then some .host
  else if 0x8000000000000 ≤ pa && pa < 0x10000000000000 then some .pool
  else none

/-- The Coherent class of 09:R256: where page tables may lie (09:R259). -/
def paCoherent (pa : Nat) : Bool :=
  match paClass pa with
  | some .hbm | some .scb => true
  | _ => false

/-- ECC granule of an address (12:R348): base and size. -/
def granuleSize (pa : Nat) : Nat :=
  match paClass pa with
  | some .hbm | some .host | some .pool => 32
  | _ => 8
def granuleOf (pa : Nat) : Nat := pa - pa % granuleSize pa

/-- Frame of a physical address (12:R353). -/
def frameOf (pa : Nat) : Nat := pa / 65536
/-- Whether Rebeica permits the frame of an address. -/
def permitted (s : State) (pa : Nat) : Bool :=
  match paClass pa with
  | some .hbm => s.rebeica.permits.contains (frameOf pa)
  | _ => false

/-- The first listed address in an uncorrectable granule, by position in the access (12:R349). -/
def firstBad (bad : List Nat) : List Nat → Nat → Option Nat
  | [], _ => none
  | pa :: t, i => if bad.contains (granuleOf pa) then some i else firstBad bad t (i + 1)

/-- Whether a write covers the whole granule of an address (12:R350). -/
def coversGranule (l : List Nat) (pa : Nat) : Bool :=
  (List.range (granuleSize pa)).all (fun i => l.contains (granuleOf pa + i))
/-- The first address of a write in an uncorrectable granule that the write covers only in part (12:R350). -/
def firstPartial (bad all : List Nat) : List Nat → Nat → Option Nat
  | [], _ => none
  | pa :: t, i =>
    if bad.contains (granuleOf pa) && !coversGranule all pa then some i else firstPartial bad all t (i + 1)
/-- A write that covers an uncorrectable granule wholly clears its error (12:R350). -/
def healed (bad l : List Nat) : List Nat :=
  if bad.isEmpty then bad else bad.filter (fun g => !(l.contains g && coversGranule l g))

/-- Physical read by a device or the scheduler. -/
def State.peek (s : State) (pa n : Nat) : Nat := leNat (memReadN s.mem pa n)

end Sys2Proof.Machine
end

