-- ==== Sys2Proof/Machine/Translate.lean ====
section
/-! DEFINITION. Translation (09:R252-R263): page tables, permissions, the gang window, and what a translation cache may
still answer. -/
namespace Sys2Proof.Machine
open Sys2Proof

/-- What an access does (09:R259). -/
inductive AccKind | read | write | fetch
  deriving DecidableEq, Repr

/-- Who accesses: the agent whose translation caches it uses (09:R260), its address space, whether at level A, its
gang, and whether it resides on a control core (09:R254). -/
structure Ctx where
  cls : Class
  agent : Nat
  asid : BitVec 16
  user : Bool
  gang : BitVec 32
  noWindow : Bool
  deriving DecidableEq, Repr

/-- Bits of a pointer or leaf entry (09:R258). -/
def pteV (e : Nat) : Bool := e.testBit 0
def pteLeaf (e : Nat) : Bool := e.testBit 1
def pteW (e : Nat) : Bool := e.testBit 2
def pteX (e : Nat) : Bool := e.testBit 3
def pteU (e : Nat) : Bool := e.testBit 4
def pteG (e : Nat) : Bool := e.testBit 5

/-- The shapes of 09:R258: lowest VA bit indexed, bits indexed, for levels 3 to 0. -/
def walkLevels : List (Nat × Nat) := [(38, 18), (30, 8), (21, 9), (16, 5)]

/-- One read of a table entry (09:R259): tables lie in Coherent memory only. -/
def readEntry (s : State) (pa n : Nat) : Except Cause Nat :=
  if !paCoherent pa then .error .page
  else if s.bad.contains (granuleOf pa) then .error .dataerr
  else .ok (leNat (memReadN s.mem pa n))

/-- A leaf found at a level whose lowest VA bit is lo (09:R258, R259). -/
def leafOf (e lo : Nat) : Except Cause Leaf :=
  if bitsOf e 15 6 != 0 then .error .page
  else if pteW e && pteX e then .error .page
  else if bitsOf e 51 16 % 2 ^ (lo - 16) != 0 then .error .page
  else .ok ⟨lo, bitsOf e 51 16, pteG e, pteU e, pteX e, pteW e⟩
/-- Physical address of a byte of the leaf's page. -/
def Leaf.pa (l : Leaf) (va : Nat) : Nat := l.frame * 65536 + va % 2 ^ l.lo

/-- What a walk finds, and the pointer entries on its path. -/
abbrev Walked := Except Cause Leaf × List PtrEntry
def Walked.via (p : PtrEntry) (w : Walked) : Walked := (w.1, p :: w.2)
/-- The walk from a table, level after level (09:R258, R259). -/
def walkFrom (s : State) (asid : BitVec 16) (va : Nat) : List (Nat × Nat) → Nat → Walked
  | [], _ => (.error .page, [])
  | (lo, n) :: rest, table =>
    match readEntry s (table + 8 * ((va / 2 ^ lo) % 2 ^ n)) 8 with
    | .error c => (.error c, [])
    | .ok e =>
      if !pteV e || bitsOf e 63 52 != 0 then (.error .page, [])
      else if pteLeaf e then (leafOf e lo, [])
      else
        match rest with
        | [] => (.error .page, [])
        | (_, n') :: _ =>
          let next := bitsOf e 51 8 * 256
          if bitsOf e 7 2 != 0 then (.error .page, [])
          else if next % 2 ^ (n' + 3) != 0 then (.error .page, [])
          else (walkFrom s asid va rest next).via ⟨asid, lo, va / 2 ^ lo, next⟩
/-- The walk of an address in an address space through the tables as they stand (09:R257). -/
def walk (s : State) (asid : BitVec 16) (va : Nat) : Walked :=
  match readEntry s (Config.scb + 0x100000 + 16 * asid.toNat) 16 with
  | .error c => (.error c, [])
  | .ok e =>
    if !e.testBit 0 || bitsOf e 127 52 != 0 || bitsOf e 20 1 != 0 then (.error .page, [])
    else
      let root := bitsOf e 51 21 * 2 ^ 21
      (walkFrom s asid va walkLevels root).via ⟨asid, 56, va / 2 ^ 56, root⟩

/-! ## Translation caches (09:R260-R263) -/

/-- Whether the entry is one an access of the agent may find: a core's own, or its cluster's second level. -/
def TlbEntry.serves (t : TlbEntry) (c : Ctx) (va : Nat) : Bool :=
  t.cls == c.cls && (t.core == c.agent || (c.cls == .v && t.core / 8 == c.agent / 8)) && t.asid == c.asid &&
  t.page == va / 2 ^ t.leaf.lo
def PtrEntry.serves (p : PtrEntry) (asid : BitVec 16) (va : Nat) : Bool := p.asid == asid && p.page == va / 2 ^ p.lo
/-- The base die whose walkers serve an agent: its chiplet's (01:R13, R14; DEDUCED, log 78), and base die 0 for the scheduler, Rebeica and the adapter. -/
def Ctx.die (c : Ctx) : Nat :=
  match c.cls with
  | .c => if c.agent / 16 = 1 then 2 else 0
  | .v => c.agent / 128
  | .t => c.agent / 640
/-- Of several held values an access may use one; which, the choice at its site says. -/
def pickHeld {α : Type} (s : State) (site kind : Nat) (l : List α) : Option α :=
  (l.zipIdx.find? (fun p => Config.choice s.tick (2 ^ 80 * (kind + 1) + 2 ^ 64 * p.2 + site))).map (·.1)
/-- Where a translation begins: at a leaf the agent holds, at a pointer that a walk cache of its base die holds, or at the root
(09:R261, R263: one of). -/
inductive Start
  | held (l : Leaf)
  | from' (p : PtrEntry)
  | root
  deriving DecidableEq, Repr
/-- Values equal to those of the tables leave no choice. -/
def startOf (s : State) (c : Ctx) (site va : Nat) : Start :=
  let now := walk s c.asid va
  let leaves := (s.tlb.filter (fun t => t.serves c va)).map (·.leaf) |>.filter (fun l => decide (now.1 ≠ .ok l))
  match pickHeld s site 0 leaves with
  | some l => .held l
  | none =>
    match pickHeld s site 1 ((s.walks.filter (fun p => p.1 == c.die && p.2.serves c.asid va && !now.2.contains p.2)).map (·.2)) with
    | some p => .from' p
    | none => .root
/-- Translation of a page-table address. -/
def leafFor (s : State) (c : Ctx) (site va : Nat) : Walked :=
  match startOf s c site va with
  | .held l => (.ok l, [])
  | .from' p => walkFrom s c.asid va (walkLevels.filter (fun l => decide (l.1 < p.lo))) p.next
  | .root => walk s c.asid va
/-- Physical addresses of the entries that it reads. -/
def entriesRead (s : State) (c : Ctx) (site va : Nat) : List Nat :=
  let below (p : PtrEntry) : List Nat :=
    ((walkLevels.find? (fun l => decide (l.1 < p.lo))).map (fun l => p.next + 8 * ((va / 2 ^ l.1) % 2 ^ l.2))).toList
  match startOf s c site va with
  | .held _ => []
  | .from' p => (p :: (leafFor s c site va).2).flatMap below
  | .root => (Config.scb + 0x100000 + 16 * c.asid.toNat) :: (leafFor s c site va).2.flatMap below
/-- A read of a Coherent line that the host holds exclusively: BISnpData (11:R326). -/
def backRead (s : State) (pa : Nat) : State :=
  let line := pa / 64
  match s.hostCopies.lookup line with
  | some true => { s with hostCopies := (line, false) :: s.hostCopies.filter (fun p => p.1 != line), out := s.out ++ [.backData line] }
  | _ => s

/-- Permissions of a leaf and of the physical address it gives (09:R256, R259; 12:R353). -/
def leafAllows (s : State) (user : Bool) (k : AccKind) (l : Leaf) (pa : Nat) : Bool :=
  (k != .write || l.w) && (k != .fetch || l.x) && (!user || l.u) &&
  (match paClass pa with
    | none => false
    | some .hbm => (k != .fetch || permitted s pa) && (k != .write || !permitted s pa)
    | some _ => k != .fetch)

/-- The gang window (09:R253-R255, 02:R51). The spec gives the banks of a V share and no address to a bank: here lane group g of a core
takes the 256 KiB from g times 256 KiB on, by the offset into the share (DESIGN CHOICE, log 85). -/
def windowPa (s : State) (c : Ctx) (k : AccKind) (o : Nat) : Except Cause Nat :=
  if c.noWindow then .error .page
  else
    match s.gangs.find? (fun g => g.id == c.gang) with
    | none => .error .page
    | some g =>
      let slot := if g.cls == .t then 16384 else 1048576
      match g.shares.lookup (o / slot) with
      | none => .error .page
      | some sh =>
        if g.harts ≤ o / slot || sh.size ≤ o % slot then .error .page
        else if k == .fetch then .error .access
        else
          .ok (if g.cls == .t then 0x8100000000 + sh.core * 16384 + o % slot
            else 0x8000000000 + sh.core * 1048576 + sh.group * 262144 + o % slot)

/-- The physical address of one byte (09:R252-R259). -/
def xlat (s : State) (c : Ctx) (k : AccKind) (site : Nat) (va : Word) : Except Cause Nat :=
  let a := va.toNat
  if a / 2 ^ 56 != 0 then .error .page
  else if Config.window ≤ a then
    if a < Config.window + Config.windowSize then windowPa s c k (a - Config.window) else .error .page
  else
    match (leafFor s c site a).1 with
    | .error e => .error e
    | .ok l => if leafAllows s c.user k l (l.pa a) then .ok (l.pa a) else .error .access

/-- Where the choice among held translations of a byte is made: one choice for an access of at most 8 bytes, which never mixes
old and new entries (09:R263); a longer one is several accesses, which choose apart in each 16 KiB unit. -/
def xlatSite (start : Word) (n : Nat) (va : Word) : Nat := if n ≤ 8 then start.toNat else va.toNat / 16384 * 16384

/-- Physical addresses of m bytes byte by byte, of an access of n bytes, or the lowest faulting address. -/
def xlatEach (s : State) (c : Ctx) (k : AccKind) (start : Word) (n : Nat) (va : Word) : Nat → Except (Cause × Word) (List Nat)
  | 0 => .ok []
  | m + 1 =>
    match xlat s c k (xlatSite start n va) va with
    | .error e => .error (e, va)
    | .ok pa =>
      match xlatEach s c k start n (va + 1) m with
      | .error e => .error e
      | .ok l => .ok (pa :: l)

/-- n rising addresses. -/
def run (a : Nat) : Nat → List Nat
  | 0 => []
  | n + 1 => a :: run (a + 1) n

/-- Physical addresses of the n bytes at va: one translation where they lie in one 16 KiB unit, which no page, slot or
share boundary divides (09:R254, R258). Addresses wrap modulo 2^64. -/
def xlatN (s : State) (c : Ctx) (k : AccKind) (va : Word) (n : Nat) : Except (Cause × Word) (List Nat) :=
  if n ≤ 1 || 16384 < va.toNat % 16384 + n then xlatEach s c k va n va n
  else
    match xlat s c k (xlatSite va n va) va with
    | .error e => .error (e, va)
    | .ok pa => .ok (run pa n)

/-- One of the values in a list that does not hold it yet. -/
def addNew {α : Type} [DecidableEq α] (l : List α) (x : α) : List α := if l.contains x then l else x :: l
/-- Remembering what the agent has read for one page: the leaf, where there is one, and the pointers on its path (09:R260, R261);
the host gives up an exclusive copy of an entry's line (11:R326). -/
def notePage (s : State) (c : Ctx) (site va : Nat) : State :=
  if Config.window ≤ va then s
  else
    let w := leafFor s c site va
    let tlb := match w.1 with
      | .error _ => s.tlb
      | .ok l => addNew s.tlb ⟨c.cls, c.agent, c.asid, va / 2 ^ l.lo, l⟩
    let s1 := { s with tlb := tlb, walks := (w.2.map (fun p => (c.die, p))).foldl addNew s.walks }
    if s.hostCopies.isEmpty then s1 else (entriesRead s c site va).foldl backRead s1
/-- Those of an access of n bytes: a page holds whole units of 64 KiB. -/
def noteXlat (s : State) (c : Ctx) (va : Word) (n : Nat) : State :=
  (List.range ((va.toNat % 65536 + n + 65535) / 65536)).foldl (fun s i =>
    let a := if i = 0 then va.toNat else (va.toNat / 65536 + i) * 65536
    notePage s c (xlatSite va n (BitVec.ofNat 64 a)) a) s

end Sys2Proof.Machine
end

