-- ==== Sys2Proof/Machine/Peel.lean ====
section
/-! DEFINITION. Where harts sit, and the Peel's moves between classes (02:R53-R55; 03:R75, R76; 05:R159, R160, R165;
09:R255; 11:R304). -/
namespace Sys2Proof.Machine
open Sys2Proof

/-- Lane groups an LG or MLG field encodes (02:R36). -/
def laneCount (code : Nat) : Nat := if code = 0 then 1 else if code = 1 then 2 else 4

def State.gang (s : State) (id : BitVec 32) : Option Gang := s.gangs.find? (fun g => g.id == id)
def State.modGang (s : State) (id : BitVec 32) (f : Gang → Gang) : State :=
  { s with gangs := s.gangs.map (fun g => if g.id == id then f g else g) }
/-- Every hart, the acting one first. -/
def State.harts (s : State) : List Hart := s.hart :: s.others
/-- The hart as a site of free values. -/
def hartSite (i : HartId) : Nat := i.gang.toNat * 256 + i.ix
/-- The tenant of a hart's gang. -/
def State.tenantOf (s : State) (h : Hart) : BitVec 8 :=
  match s.gang h.id.gang with
  | some g => g.tenant
  | none => 0
def State.hartOf (s : State) (id : HartId) : Option Hart := s.harts.find? (fun h => h.id == id)
def State.modHarts (s : State) (p : Hart → Bool) (f : Hart → Hart) : State :=
  { s with hart := if p s.hart then f s.hart else s.hart, others := s.others.map (fun h => if p h then f h else h) }
def State.modHartOf (s : State) (id : HartId) (f : Hart → Hart) : State := s.modHarts (fun h => h.id == id) f
/-- An action of the acting hart, done for another hart in its place. -/
def State.asHart (s : State) (id : HartId) (f : State → State) : State :=
  if s.hart.id == id then f s
  else
    match s.others.find? (fun h => h.id == id) with
    | none => s
    | some h =>
      let r := f { s with hart := h, others := s.hart :: s.others.filter (fun o => o.id != id) }
      match r.others.find? (fun o => o.id == s.hart.id) with
      | some me => { r with hart := me, others := r.hart :: r.others.filter (fun o => o.id != s.hart.id) }
      | none => r
/-- Harts of a gang. -/
def State.gangHarts (s : State) (id : BitVec 32) : List Hart := s.harts.filter (fun h => h.id.gang == id)

/-- Lane groups a V share is bound to: its size in units of 256 KiB (09:R255). -/
def Share.groups (sh : Share) : Nat := sh.size / 262144
/-- Shares of a gang on one V core, those about to be bound among them: first group and count. -/
def Gang.sharesOn (g : Gang) (core : Nat) : List (Nat × Nat) :=
  ((g.shares ++ g.landing).filter (fun p => p.2.core == core)).map (fun p => (p.2.group, p.2.groups))

/-- Whether n lane groups from first fit beside those held on a core, in a shape of 05:R160. -/
def shapeFits (held : List (Nat × Nat)) (first n : Nat) : Bool :=
  if n = 4 then first == 0 && held.isEmpty
  else if n = 2 then
    (first == 0 && held.all (fun p => 2 ≤ p.1)) ||
    (first == 2 && held.all (fun p => p.1 == 0 && p.2 == 2))
  else held.all (fun p => p.2 == 1 || (p.1 == 0 && p.2 == 2 && 2 ≤ first))

/-- The string of a V core has tripped: its tiles take no hart (01:R22). -/
def State.vTripped (s : State) (core : Nat) : Bool := s.strings.any (fun x => x.ix == 640 + core / 4 && x.tripped)
/-- The reserve lane groups an arrival takes (02:R54, 03:R75): core and first group. -/
def State.arrivalSpot (s : State) (g : Gang) (n : Nat) : Option (Nat × Nat) :=
  g.reserve.find? (fun p =>
    !s.vTripped p.1 && (List.range n).all (fun i => g.reserve.contains (p.1, p.2 + i)) && (n == 1 || p.2 % n == 0) &&
    shapeFits (g.sharesOn p.1) p.2 n)

/-- The slot of a share's hart under its core's shape (05:R160). -/
def Gang.slotOf (g : Gang) (sh : Share) : Nat :=
  if sh.groups = 4 then 0
  else if sh.groups = 2 then sh.group / 2
  else if (g.sharesOn sh.core).contains (0, 2) then sh.group - 1
  else sh.group

/-- A hart sits in a control core's slot, or flies there; one that leaves it holds it no more. -/
def Hart.holdsSlot (h : Hart) (c : Nat × Nat) : Bool :=
  match h.flying with
  | none => h.cls == .c && h.core == c.1 && h.slot == c.2
  | some dst => dst == .c && h.goal == some (c.1, c.2, 0)
/-- Slots of the gang's reserve on control cores, which follow those of its launch, that no hart of it occupies (02:R54, 03:R76). -/
def State.freeCSlots (s : State) (g : Gang) : List (Nat × Nat) :=
  (if g.cls == .c then g.cslots.drop g.harts else g.cslots).filter (fun c => !(s.gangHarts g.id).any (·.holdsSlot c))

/-- Whether the reserve of a class has a place for the acting hart (02:R54). -/
def State.canArrive (s : State) (dst : Class) : Bool :=
  match s.gang s.hart.id.gang with
  | none => false
  | some g =>
    match dst with
    | .v =>
      (match g.shares.lookup s.hart.id.ix with
        | some sh => !s.vTripped sh.core
        | none => (s.arrivalSpot g (laneCount g.mlg)).isSome)
    | .c => !(s.freeCSlots g).isEmpty
    | .t => false

/-- Addresses of a V share's banks. -/
def Share.holds (sh : Share) (pa : Nat) : Bool :=
  let base := 0x8000000000 + sh.core * 1048576 + sh.group * 262144
  decide (base ≤ pa) && decide (pa < base + sh.size)
/-! ## Tenants at the network ports (09:R271, R272) -/

/-- The network port of a hart's core or tile (09:R271): control cores 0-31, V cores from 32, T tiles from 544. -/
def Hart.netPort (h : Hart) : Nat :=
  match h.cls with
  | .c => h.core
  | .v => 32 + h.core
  | .t => 544 + h.core / 256
/-- Tenants with a resident hart at a port, in ascending order. -/
def State.tenantsAt (s : State) (port : Nat) : List (BitVec 8) :=
  let ts := (s.harts.filter (fun h => h.resident && h.netPort == port)).map s.tenantOf
  ((List.range 256).map (BitVec.ofNat 8)).filter ts.contains
/-- e(T). -/
def State.shareOf (s : State) (port : Nat) (t : BitVec 8) : Nat :=
  match s.bellows.shares.find? (fun p => p.1 == port && p.2.1 == t) with
  | some p => max p.2.2 1
  | none => 1024
/-- base(T) with P the tenants now present. -/
def State.baseOf (s : State) (port : Nat) (t : BitVec 8) : Nat :=
  1024 * s.shareOf port t / ((s.tenantsAt port).map (s.shareOf port)).sum
/-- Harts have come or gone: a tenant that has become present at a port receives base(T) at once, and the bucket of one that is no
longer present is discarded. -/
def State.syncBuckets (s : State) : State :=
  let here := ((s.harts.filter (·.resident)).map (fun h => (h.netPort, s.tenantOf h))).eraseDups
  let kept := s.bellows.buckets.filter (fun b => here.contains (b.1, b.2.1))
  let new := here.filter (fun p => !kept.any (fun b => b.1 == p.1 && b.2.1 == p.2))
  { s with bellows := { s.bellows with buckets := kept ++ new.map (fun p => (p.1, p.2, s.baseOf p.1 p.2)) } }

/-- Binding a share on first arrival: its banks read zero (09:R255). -/
def State.bindShare (s : State) (g : BitVec 32) (ix : Nat) (sh : Share) : State :=
  { s.modGang g (fun g => { g with shares := (ix, sh) :: g.shares, landing := g.landing.filter (fun p => p.1 != ix) })
    with mem := s.mem.filter (fun c => !sh.holds c.1), bad := s.bad.filter (fun a => !sh.holds a),
         unseen := (s.unseen.map (fun u => { u with cells := u.cells.filter (fun c => !sh.holds c.1) })).filter (fun u => !u.cells.isEmpty) }
/-- Lane groups leave the reserve for a share that an arrival will bind. -/
def Gang.takeReserve (g : Gang) (ix : Nat) (sh : Share) : Gang :=
  { g with landing := (ix, sh) :: g.landing,
           reserve := g.reserve.filter (fun p => !(p.1 == sh.core && sh.group ≤ p.2 && p.2 < sh.group + sh.groups)) }

/-- The string of a hart's core, in the order of 03:R94, and its tile's position (01:R17). -/
def Hart.stringIx (h : Hart) : Nat := if h.cls == .t then h.core / 1024 else 640 + h.core / 4
def Hart.stringPos (h : Hart) : Nat := if h.cls == .t then h.core / 256 % 4 else h.core % 4
def State.str (s : State) (ix : Nat) : Str :=
  match s.strings.find? (fun x => x.ix == ix) with
  | some x => x
  | none => Str.reset ix
def State.setStr (s : State) (x : Str) : State := { s with strings := x :: s.strings.filter (fun y => y.ix != x.ix) }
/-- What a window adds to a hart's counters: its own filler cycles, and its cycles there by the cause that stretched them (03:R91,
R92). -/
def countWindow (x : Str) (cycles own : Nat) (h : Hart) : Hart :=
  { h with fill := h.fill + BitVec.ofNat 64 own,
           thrBal := if 0 < x.winBal && x.winPow ≤ x.winBal then h.thrBal + BitVec.ofNat 32 cycles else h.thrBal,
           thrPow := if x.winBal < x.winPow then h.thrPow + BitVec.ofNat 32 cycles else h.thrPow }
/-- Cycles of the window that have passed since the counters last held all of them are counted: as many as the moment shows. -/
def Hart.passWindow (s : State) (h : Hart) : Hart :=
  let x := s.str h.stringIx
  let n := Config.elapsed s.tick (2 * hartSite h.id) % (65 - min 64 h.seen.1)
  let own := if (x.sets.getD h.stringPos []).any (0 < ·) then Config.elapsed s.tick (2 * hartSite h.id + 1) % (n + 1) else 0
  if h.resident && h.cls != .c then { countWindow x n own h with seen := (h.seen.1 + n, h.seen.2 + own) } else h
/-- A hart that leaves its string has its cycles there counted. -/
def Hart.leaveWindow (s : State) (h : Hart) : Hart := { h.passWindow s with seen := (0, 0) }
/-- A hart that comes to a string in the middle of a window has no part in the cycles before. -/
def Hart.joinWindow (s : State) (h : Hart) : Hart := { h with seen := (Config.elapsed s.tick (2 * hartSite h.id) % 65, 0) }

/-- The hart leaves for another class (02:R53): it is in flight, its place at the destination taken, until
PEEL_ARRIVAL. -/
def startMove (s : State) (dst : Class) : State :=
  match s.gang s.hart.id.gang with
  | none => s
  | some g =>
    let fly (s : State) (core slot lg : Nat) : State :=
      ({ s with hart := { (s.hart.leaveWindow s) with
                  flying := some dst, resident := false, blind := 0, blindSteps := none, goal := some (core, slot, lg),
                  peelErr := !s.hart.badRegs.isEmpty, badRegs := [] },
                agenda := s.agenda ++ [.peelArrival s.hart.id] } : State).syncBuckets
    match dst with
    | .v =>
      match g.shares.lookup s.hart.id.ix with
      | some sh => fly s sh.core (g.slotOf sh) sh.groups
      | none =>
        match s.arrivalSpot g (laneCount g.mlg) with
        | none => s
        | some (core, grp) =>
          let sh : Share := ⟨core, grp, laneCount g.mlg * 262144⟩
          let g' := g.takeReserve s.hart.id.ix sh
          fly (s.modGang g.id (fun _ => g')) core (g'.slotOf sh) sh.groups
    | .c =>
      match s.freeCSlots g with
      | (core, slot) :: _ => fly s core slot 0
      | [] => s
    | .t => s

/-! ## Sections of vector state (05:R147, R163-R165) -/

/-- Reset values of section n (05:R147). -/
def Hart.resetSection (h : Hart) (n : Nat) : Hart :=
  if n < 4 then { h with v := Vector.ofFn (fun i => if i.val / 8 = n then 0 else h.v[i]) }
  else if n < 8 then { h with m := Vector.ofFn (fun i => if i.val = n - 4 then Vector.replicate 16 0 else h.m[i]) }
  else if n = 8 then { h with k := Vector.replicate 8 0 }
  else if n = 9 then { h with sc := Vector.replicate 4 scReset }
  else if n = 10 then { h with ct := ctReset, perm := codeOrder ctReset }
  else { h with sh := Vector.replicate 2 0 }
def Hart.resetSections (h : Hart) (mask : BitVec 12) : Nat → Hart
  | 0 => h
  | n + 1 =>
    let h' := h.resetSections mask n
    if mask.getLsbD n then h'.resetSection n else h'

/-- The pending-chunk word is folded into the masks (11:R304); each set bit is an OR, which marks the section. -/
def Hart.foldChunks (h : Hart) : Hart :=
  let k' := Vector.ofFn (fun (i : Fin 8) =>
    if i.val = 0 then h.k[i] else (h.k[i] &&& ~~~h.pendClr[i]) ||| h.pendSet[i])
  let any := h.pendSet.toList.any (fun w => w != 0)
  { h with k := k', pendClr := Vector.replicate 8 0, pendSet := Vector.replicate 8 0,
           vdirty := if any then h.vdirty ||| 0x100 else h.vdirty,
           live := if any then h.live ||| 0x100 else h.live }

/-- What the device does before a hart that has just become resident commits there (05:R165); a bound register's group has been
carried with its binding (13:R380). -/
def Hart.arriveState (h : Hart) : Hart :=
  let bound := h.bindings.foldl (fun m b => m ||| ((1 : BitVec 12) <<< (b.vd.toNat / 8))) 0
  let h1 := { (h.resetSections (~~~(h.live ||| bound)) 12) with nres := h.live &&& ~~~bound, vdirty := h.vdirty &&& ~~~bound }
  if h1.nres.getLsbD 8 then h1 else h1.foldChunks

/-- VLMAX of a type at a VLEN (05:R154). -/
def vlmaxOf (vlen : Nat) (t : VType) : Nat := vlen / etSew t.et

end Sys2Proof.Machine
end

