-- ==== Sys2Proof/Machine/Ops.lean ====
section
/-! DEFINITION. The named operations over registers and memory, taking a trap and returning from one. An operation
that may trap or wait is an action of M: a state, and a reason to stop. -/
namespace Sys2Proof.Machine
open Sys2Proof

/-- Why an action stops short of completing. -/
inductive Stop
  /-- A trap of a cause with its TRAPV. -/
  | trap (c : Cause) (v : Word)
  /-- The instruction waits and has had no effect. -/
  | wait
  /-- The hart moves to another class first (02:R53). -/
  | move (dst : Class)
  /-- MCHECK at level M with event 4 and this address (12:R336); `quiet` where its entry writes no trap area (12:R337). -/
  | areaFault (quiet : Bool) (addr : Word)
  | refuse (r : Refusal)
  deriving DecidableEq, Repr

/-- An action: it may change the state and stop. What it changed before a stop stays. -/
abbrev M := ExceptT Stop (StateM State)

def runM {α : Type} (m : M α) (s : State) : Except Stop α × State := ExceptT.run m s

def trapM {α : Type} (c : Cause) (v : Word) : M α := throw (.trap c v)
def waitM {α : Type} : M α := throw .wait
def liftX {α : Type} (e : Except (Cause × Word) α) : M α :=
  match e with
  | .ok a => pure a
  | .error (c, v) => trapM c v
def getHart : M Hart := do return (← get).hart
def modHart (f : Hart → Hart) : M Unit := modify (fun s => { s with hart := f s.hart })
/-- A trap unless a condition holds. -/
def checkM (ok : Bool) (c : Cause) (v : Word) : M Unit := if ok then pure () else trapM c v

/-! ## Registers (05:R147) -/

def Hart.getX (h : Hart) (r : Reg) : Word := if r = 0 then 0 else h.x[r.toNat]'r.isLt
def Hart.setX (h : Hart) (r : Reg) (v : Word) : Hart :=
  if r = 0 then h else { h with x := h.x.set r.toNat v r.isLt }
def Hart.getF (h : Hart) (r : Reg) : Word := h.f[r.toNat]'r.isLt
def Hart.setF (h : Hart) (r : Reg) (v : Word) : Hart := { h with f := h.f.set r.toNat v r.isLt }
def Hart.getV (h : Hart) (r : Reg) : VReg := h.v[r.toNat]'r.isLt
def Hart.setV (h : Hart) (r : Reg) (v : VReg) : Hart := { h with v := h.v.set r.toNat v r.isLt }
/-- Bits of one vector register of the hart (02:R36). -/
def Hart.vlen (h : Hart) : Nat := 4096 * h.lg
/-- k0 reads all ones, over the k registers' width (05:R147). -/
def Hart.getK (h : Hart) (r : BitVec 3) : KReg :=
  if r = 0 then BitVec.ofNat 4096 (2 ^ (h.vlen / 4) - 1) else h.k[r.toNat]'r.isLt
def Hart.setK (h : Hart) (r : BitVec 3) (v : KReg) : Hart :=
  if r = 0 then h else { h with k := h.k.set r.toNat v r.isLt }
def Hart.getM (h : Hart) (t : BitVec 2) (row : Nat) : VReg :=
  if p : row < 16 then (h.m[t.toNat]'t.isLt)[row]'p else 0
def Hart.setM (h : Hart) (t : BitVec 2) (row : Nat) (v : VReg) : Hart :=
  if p : row < 16 then { h with m := h.m.set t.toNat ((h.m[t.toNat]'t.isLt).set row v p) t.isLt } else h
def Hart.getSh (h : Hart) (r : BitVec 1) : VReg := h.sh[r.toNat]'r.isLt
def Hart.setSh (h : Hart) (r : BitVec 1) (v : VReg) : Hart := { h with sh := h.sh.set r.toNat v r.isLt }
def Hart.getSc (h : Hart) (r : BitVec 2) : ScReg := h.sc[r.toNat]'r.isLt
def Hart.setSc (h : Hart) (r : BitVec 2) (v : ScReg) : Hart := { h with sc := h.sc.set r.toNat v r.isLt }
def Hart.getW (h : Hart) (r : BitVec 3) : TReg := h.w[r.toNat]'r.isLt
def Hart.setW (h : Hart) (r : BitVec 3) (v : TReg) : Hart := { h with w := h.w.set r.toNat v r.isLt }
def Hart.getTa (h : Hart) (r : BitVec 1) : TReg := h.ta[r.toNat]'r.isLt
def Hart.setTa (h : Hart) (r : BitVec 1) (v : TReg) : Hart := { h with ta := h.ta.set r.toNat v r.isLt }

def State.getX (s : State) (r : Reg) : Word := s.hart.getX r
def State.setX (s : State) (r : Reg) (v : Word) : State := { s with hart := s.hart.setX r v }
def State.setPc (s : State) (a : Word) : State := { s with hart := { s.hart with pc := a } }
/-- Past an instruction of n parcels. -/
def State.advance (s : State) (n : Nat) : State := s.setPc (s.hart.pc + BitVec.ofNat 64 (4 * n))

/-- A TMMA in flight completes: its accumulator and flags are written (07:R229, 15:R457). -/
def Hart.finishTmma (h : Hart) : Hart :=
  match h.tmma with
  | none => h
  | some t => { (h.setTa t.ta t.value) with fflags := h.fflags ||| t.flags, tmma := none }

/-! ## Levels and causes -/

def Level.code : Level → Nat
  | .a => 0 | .k => 1 | .m => 2
def levelOf (n : Nat) : Level := if n = 0 then .a else if n = 1 then .k else .m
def Class.code : Class → Nat
  | .c => 0 | .v => 1 | .t => 2
/-- Cause codes (12:R329). -/
def Cause.code : Cause → Nat
  | .illegal => 1 | .priv => 2 | .misalign => 3 | .page => 4 | .access => 5 | .dataerr => 6 | .cls => 7
  | .dupidx => 8 | .convoy => 9 | .heapspill => 10 | .mergeorder => 11 | .vimage => 12 | .lazy => 13
  | .waittimeout => 14 | .deadlock => 15 | .step => 16 | .collective => 17 | .remote => 18 | .fptrap => 19
  | .sysc => 20 | .brk => 21 | .preempt => 22 | .timer => 23 | .extint => 24 | .mcheck => 25
def causeOf : Nat → Option Cause
  | 1 => some .illegal | 2 => some .priv | 3 => some .misalign | 4 => some .page | 5 => some .access
  | 6 => some .dataerr | 7 => some .cls | 8 => some .dupidx | 9 => some .convoy | 10 => some .heapspill
  | 11 => some .mergeorder | 12 => some .vimage | 13 => some .lazy | 14 => some .waittimeout
  | 15 => some .deadlock | 16 => some .step | 17 => some .collective | 18 => some .remote | 19 => some .fptrap
  | 20 => some .sysc | 21 => some .brk | 22 => some .preempt | 23 => some .timer | 24 => some .extint
  | 25 => some .mcheck | _ => none

/-! ## Who accesses -/

/-- Whose translation caches a hart uses (09:R260): its control core's, its V core's (with its cluster's), its T tile's. -/
def Hart.agent (h : Hart) : Nat :=
  match h.cls with
  | .c => h.core
  | .v => h.core
  | .t => h.core / 256
def State.asidOf (s : State) (h : Hart) : BitVec 16 :=
  match s.gang h.id.gang with
  | some g => g.asid
  | none => 0
/-- The acting hart at a level. -/
def State.ctxAt (s : State) (user : Bool) : Ctx :=
  ⟨s.hart.cls, s.hart.agent, s.asidOf s.hart, user, s.hart.id.gang, s.hart.cls == .c⟩
def State.ctx (s : State) : Ctx := s.ctxAt (s.hart.lv == .a)
/-- A device acting in an address space (the scheduler, Rebeica, the adapter): no level-A check. -/
def devCtx (asid : BitVec 16) : Ctx := ⟨.c, 0x10000, asid, false, 0, true⟩

/-! ## Device registers (11:R318, R328; 12:R355) -/

/-- The register at an 8-byte offset of the Device range, or none where no chapter names one. -/
def devReg (s : State) (off : Nat) : Option Word :=
  if off < 0x40 then some (BitVec.ofNat 64 (bitsOf s.rebeica.block.toNat (8 * off + 63) (8 * off)))
  else if 0x100000 ≤ off && off < 0x100040 then
    some (match (off - 0x100000) / 8 with
      | 0 => s.adapter.ctab | 1 => s.adapter.cnum | 2 => s.adapter.rtab | 3 => s.adapter.rnum
      | 4 => s.adapter.pq | 5 => s.adapter.pqsig | 6 => s.adapter.resume | _ => s.adapter.ep)
  else if 0x200000 ≤ off && off < 0x201000 then
    some (match (off - 0x200000) / 8 with
      | 0 =>
        if s.mailbox.hdataOld = s.mailbox.hdata then s.mailbox.hdata
        else if Config.choice s.tick off then s.mailbox.hdataOld else s.mailbox.hdata
      | 1 => if s.mailbox.pend then 1 else 0
      | 2 => s.mailbox.ddata
      | 3 => if s.mailbox.dpend then 1 else 0
      | _ => 0)
  else none

/-- An event joins the agenda. -/
def State.later (s : State) (e : Instr) : State := { s with agenda := s.agenda ++ [e] }

/-- PEND is cleared by a device write with bit 0 set (11:R328). -/
def clearPend (s : State) : State :=
  { s with mailbox := { s.mailbox with pend := false, hdataOld := s.mailbox.hdata } }
/-- DPEND is set, and MSI-X vector 0 sent when enabled (11:R328). -/
def setDpend (s : State) : State :=
  { s with mailbox := { s.mailbox with dpend := true },
           out := if s.mailbox.msix then s.out ++ [.msix] else s.out }

/-- Bits of Rebeica's block that software writes: all but STATUS and ERR (12:R355). -/
def rebeicaSw : Nat := (2 ^ 512 - 1) - (2 ^ 272 - 2 ^ 256) - 2
/-- QEN: records from the TAIL captured at the start of the request on wait (12:R358). -/
def captureTail (s : State) (b : Nat) : State :=
  if b.testBit 281 then
    let q := bitsOf b 291 282
    { s with sched := { s.sched with held := s.sched.held ++ [(q, s.peek (Config.scb + 64 * q + 28) 4)] } }
  else s
/-- A store into the request block: ignored while GO reads 1; setting GO starts the request (12:R355). -/
def rebeicaStore (s : State) (off : Nat) (v : Word) : State :=
  let old := s.rebeica.block.toNat
  if old.testBit 0 then s
  else
    let new := setBits old (8 * off + 63) (8 * off) v.toNat
    let blk := (old &&& ((2 ^ 512 - 1) - rebeicaSw)) ||| (new &&& rebeicaSw)
    let s' := { s with rebeica := { s.rebeica with block := BitVec.ofNat 512 blk } }
    if blk.testBit 0 then
      (captureTail s' blk).later (match bitsOf blk 280 279 with
        | 1 => .rebeicaMapPatch
        | 2 => .rebeicaUnmap
        | _ => .rebeicaMapObject)
    else s'

/-- A write of a device register from the device side. -/
def devStore (s : State) (off : Nat) (v : Word) : Option State :=
  if off < 0x40 then some (rebeicaStore s off v)
  else if 0x100000 ≤ off && off < 0x100040 then
    let a := s.adapter
    some (match (off - 0x100000) / 8 with
      | 0 => { s with adapter := { a with ctab := v } }
      | 1 => { s with adapter := { a with cnum := v } }
      | 2 => { s with adapter := { a with rtab := v } }
      | 3 => { s with adapter := { a with rnum := v } }
      | 4 => { s with adapter := { a with pq := v } }
      | 5 => { s with adapter := { a with pqsig := v } }
      | 6 => { s with adapter := { a with resume := v } }.later (.adapterResume v.toNat)
      | _ => { s with adapter := { a with ep := v } })
  else if 0x200000 ≤ off && off < 0x201000 then
    some (match (off - 0x200000) / 8 with
      | 1 => if v.getLsbD 0 then clearPend s else s
      | 2 => { s with mailbox := { s.mailbox with ddata := v } }
      | 3 => setDpend s
      | _ => s)
  else none

/-- A naturally aligned read of n bytes in the Device range. DESIGN CHOICE (log 12): an access narrower than its
register reads that part of it. -/
def devRead (pa n : Nat) : M (List Byte) := do
  let s ← get
  let off := pa - Config.device
  match devReg s (off - off % 8) with
  | none => throw (.refuse (.unknownDevice off))
  | some v => return leBytes n (v.toNat / 2 ^ (8 * (off % 8)))

/-- A naturally aligned write in the Device range; a narrower one keeps the register's other bytes (log 12), and one of the whole register
ends its error (12:R350). -/
def devWrite (pa : Nat) (b : List Byte) : M Unit := do
  let s ← get
  let off := pa - Config.device
  let base := off - off % 8
  match devReg s base with
  | none => throw (.refuse (.unknownDevice off))
  | some v =>
    let v' := setBits v.toNat (8 * (off % 8) + 8 * b.length - 1) (8 * (off % 8)) (leNat b)
    match devStore s base (BitVec.ofNat 64 v') with
    | none => throw (.refuse (.unknownDevice off))
    | some s' => set { s' with bad := healed s'.bad (run pa b.length) }

/-! ## What follows a write to the scheduler control block -/

/-- Base of queue q's descriptor (03:R64). -/
def descPa (q : Nat) : Nat := Config.scb + 64 * q
/-- Base of invalidation block n (09:R262). -/
def invPa (n : Nat) : Nat := Config.scb + 0x10000 + 64 * n
/-- Whether an address lies in the invalidation blocks. -/
def inInv (pa : Nat) : Bool := decide (Config.scb + 0x10000 ≤ pa) && decide (pa < Config.scb + 0x11000)
/-- Whether a byte lies in an invalidation block whose GO reads 1: stores there are ignored (09:R262). -/
def inBusyInv (mem : List Host.Cell) (pa : Nat) : Bool :=
  inInv pa && (memRead mem (pa - (pa - Config.scb) % 64)).getLsbD 0
/-- What a store of byte b leaves at an address: ERR of an invalidation block is the device's, and a store to a block whose GO
reads 1 is ignored (09:R262); no store clears a bit of the trip map (01:R22). -/
def landsAs (mem : List Host.Cell) (pa : Nat) (b : Byte) : Byte :=
  if inBusyInv mem pa then memRead mem pa
  else if inInv pa && (pa - Config.scb) % 64 == 0 then (b &&& 0xFD) ||| (memRead mem pa &&& 2)
  else if Config.scb + 0x21100 ≤ pa && pa < Config.scb + 0x21160 then b ||| memRead mem pa
  else b

/-- Events that one written byte of the control block brings about: a store to a queue's TAIL or EN (03:R66, R67), GO of an
invalidation block (09:R262). -/
def scbEvent (s : State) (pa : Nat) : Option Instr :=
  if Config.scb ≤ pa && pa < Config.scb + 0x10000 then
    let q := (pa - Config.scb) / 64
    let o := (pa - Config.scb) % 64
    if 28 ≤ o && o < 32 then some (.queueDoorbell q)
    else if o == 19 then
      some (if (memRead s.mem pa).getLsbD 4 then .queueEnableObserved q else .queueDisableObserved q)
    else none
  else if inInv pa && (pa - Config.scb) % 64 == 0 then
    let n := (pa - Config.scb - 0x10000) / 64
    if (memRead s.mem pa).getLsbD 0 then
      some (match bitsOf (s.peek (invPa n) 64) 129 128 with
        | 1 => .invalidateAsid n
        | 2 => .invalidateAll n
        | _ => .invalidateRange n)
    else none
  else none
/-- The events of one store's bytes, each once, in the order of its addresses. -/
def scbEvents (s : State) (pas : List Nat) : State :=
  { s with agenda := s.agenda ++ (pas.filterMap (scbEvent s)).eraseDups }

/-! ## Physical effects of accesses -/

/-- The line in L2 after the request that gave it, if one did. -/
def hostState (s : State) (line : Nat) (m : Mesi) (o : List Out) : State :=
  { s with hostLines := (line, m) :: s.hostLines.filter (fun p => p.1 != line), out := s.out ++ o }
/-- What a load or store brings about at L2: CXL.cache requests for a Host-class line (11:R325); a Pool line is held (11:R327); host
copies of a line that conflict are taken back or shared (11:R326). -/
def touchHost (s : State) (store : Bool) (pa : Nat) : State :=
  let line := pa / 64
  match paClass pa with
  | some .host =>
    (match s.hostLines.lookup line, store with
      | none, false => hostState s line (if Config.hostGrantsE s.tick then .e else .s) [.rdShared line]
      | some _, false => s
      | none, true | some .s, true => hostState s line .m [.rdOwn line]
      | some _, true => hostState s line .m [])
  | some .pool => if s.poolLines.contains line then s else { s with poolLines := line :: s.poolLines }
  | some .hbm | some .scb =>
    (match s.hostCopies.lookup line, store with
      | some _, true =>
        { s with hostCopies := s.hostCopies.filter (fun p => p.1 != line), out := s.out ++ [.backInvalidate line] }
      | _, true => s
      | _, false => backRead s pa)
  | _ => s
def touchLines (s : State) (store : Bool) : List Nat → State
  | [] => s
  | pa :: t => if t.head? == some (pa + 1) && pa % 64 != 63 then touchLines s store t
               else touchLines (touchHost s store pa) store t

/-- Bytes that a device reads at consecutive physical addresses, line by line. -/
def State.lookAt (s : State) (pa n : Nat) : State :=
  (List.range ((pa % 64 + n + 63) / 64)).foldl (fun s i => touchHost s false (64 * (pa / 64 + i))) s

/-- Stores whose cells at these addresses are gone: a later store of another agent has replaced them for everyone (log 5). -/
def pruned (l : List Unseen) (pas : List Nat) : List Unseen :=
  (l.map (fun u => { u with cells := u.cells.filter (fun c => !pas.contains c.1),
                            beaten := u.beaten ++ (u.cells.map (·.1)).filter pas.contains })).filter (fun u => !u.cells.isEmpty)
/-- Bytes put into memory at their addresses, and what every write brings about: errors cleared, host copies recalled, earlier
unseen stores replaced. -/
def State.writeAt (s : State) (pas : List Nat) (b : List Byte) : State :=
  touchLines { s with mem := memWriteAt s.mem pas b, unseen := pruned s.unseen pas, bad := healed s.bad pas } true pas
/-- Physical write of bytes at their addresses: the control block keeps what stores may not change, and observes the store. -/
def State.putAt (s : State) (pas : List Nat) (b : List Byte) : State :=
  scbEvents (s.writeAt pas (List.zipWith (landsAs s.mem) pas b)) (pas.filter (fun pa => !inBusyInv s.mem pa))

/-- Some of n bytes lies in an uncorrectable granule (12:R349). -/
def State.badAt (s : State) (pa n : Nat) : Bool := !s.bad.isEmpty && (firstBad s.bad (run pa n) 0).isSome

/-- A device's write at physical addresses performs: no byte lies in a frame Rebeica protects (12:R353), in an uncorrectable
granule that the write covers only in part (12:R350), or in the Pool while its port is down (11:R327). -/
def State.takes (s : State) (pas : List Nat) : Bool :=
  !pas.any (permitted s) && (s.bad.isEmpty || (firstPartial s.bad pas pas 0).isNone) &&
  (s.poolUp || !pas.any (fun pa => paClass pa == some .pool))
/-- Physical write of consecutive bytes by a device. -/
def State.putN (s : State) (pa : Nat) (b : List Byte) : State :=
  if s.takes (run pa b.length) then s.putAt (run pa b.length) b else s
/-- A device's write of its own fields: no store that the control block observes. -/
def State.pokeN (s : State) (pa : Nat) (b : List Byte) : State :=
  if s.takes (run pa b.length) then s.writeAt (run pa b.length) b else s
def State.poke (s : State) (pa n v : Nat) : State := s.pokeN pa (leBytes n v)

/-! ## Accesses of an agent -/

/-- Class and error checks of one byte of a translated access: Device where not allowed takes ACCESS, Pool while port 1 is down
takes DATAERR (11:R327), an uncorrectable granule read, or covered in part by a write, takes DATAERR (12:R349, R350). -/
def byteFault (s : State) (k : AccKind) (devOk : Bool) (all : List Nat) (pa : Nat) : Option Cause :=
  if paClass pa == some .device && !devOk then some .access
  else if !s.poolUp && paClass pa == some .pool then some .dataerr
  else if s.bad.contains (granuleOf pa) && !(k == .write && coversGranule all pa) then some .dataerr
  else none
/-- The first byte that faults, by position in the access. -/
def firstFault (p : Nat → Option Cause) : List Nat → Nat → Option (Nat × Cause)
  | [], _ => none
  | pa :: t, i =>
    match p pa with
    | some c => some (i, c)
    | none => firstFault p t (i + 1)
/-- Those checks of an access from va on, at its lowest address that fails one. -/
def physCheck (s : State) (k : AccKind) (va : Word) (pas : List Nat) (devOk : Bool) : Except (Cause × Word) Unit :=
  match firstFault (byteFault s k devOk pas) pas 0 with
  | some (i, c) => .error (c, va + BitVec.ofNat 64 i)
  | none => .ok ()

/-- Every byte of an access translated and checked, or its lowest faulting address (14:R416, 15:R449, R454). -/
def reachN (s : State) (c : Ctx) (k : AccKind) (va : Word) (n : Nat) (devOk : Bool) : Except (Cause × Word) (List Nat) :=
  match xlatN s c k va n with
  | .ok pas => (physCheck s k va pas devOk).map (fun _ => pas)
  | .error e =>
    match xlatEach s c k va n va (e.2 - va).toNat with
    | .ok low =>
      (match physCheck s k va low devOk with
        | .ok _ => .error e
        | .error e' => .error e')
    | .error _ => .error e
/-- Every byte is translated and checked before any moves; the agent keeps what it read of the tables, whatever comes of it (09:R261). -/
def addresses (c : Ctx) (k : AccKind) (va : Word) (n : Nat) (devOk : Bool) : M (List Nat) := do
  let s ← get
  modify (fun s => noteXlat s c va n)
  liftX (reachN s c k va n devOk)

/-- What a device's read of bytes in an address space brings about at L2 (11:R325, R326). -/
def State.glance (s : State) (asid : BitVec 16) (va : Word) (n : Nat) : State :=
  match reachN s (devCtx asid) .read va n false with
  | .ok pas => touchLines s false pas
  | .error _ => s
/-- A device's read of bytes in an address space, or its lowest faulting address. -/
def devRead' (s : State) (asid : BitVec 16) (va : Word) (n : Nat) : Except (Cause × Word) (List Byte) :=
  (reachN s (devCtx asid) .read va n false).map (memReadAt s.mem)
/-- n bytes read by an agent. -/
def readMem (c : Ctx) (va : Word) (n : Nat) : M (List Byte) := do
  let pas ← addresses c .read va n false
  modify (fun s => touchLines s false pas)
  return memReadAt (← get).mem pas
/-- Bytes written by an agent. -/
def writeMem (c : Ctx) (va : Word) (b : List Byte) : M Unit := do
  let pas ← addresses c .write va b.length false
  modify (fun s => s.putAt pas b)

/-! ## Stores that one side of a hart may see late (07:R216-R218; 10:R277-R293; log 53)

Memory holds what all stores leave. A V hart's own stores, and the bytes that copies and NGET fetch for a hart, stay listed
as unseen until both its sides must see them: each side sees a part of them that is closed under coherence order. -/

/-- A side of the owner sees the store: a rule makes it, or the store has landed there. -/
def Unseen.landed (s : State) (vec : Bool) (site : Nat) (u : Unseen) : Bool :=
  let at_ := Config.lands vec (hartSite u.owner) u.id
  if vec then
    u.toV || decide (at_ < s.hart.strip) || (at_ == s.hart.strip && Config.choice s.tick (65536 * u.id + site))
  else u.toS || decide (at_ ≤ s.tick)
/-- Two stores share a byte. -/
def Unseen.meets (u w : Unseen) : Bool := u.cells.any (fun c => w.cells.any (fun d => d.1 == c.1))
/-- Stores in coherence order: those seen, with every earlier one that shares a byte with a seen one, and the rest. -/
def splitSeen (p : Unseen → Bool) : List Unseen → List Unseen × List Unseen
  | [] => ([], [])
  | u :: t =>
    let r := splitSeen p t
    if p u || r.1.any u.meets then (u :: r.1, r.2) else (r.1, u :: r.2)
def State.ownUnseen (s : State) (id : HartId) : List Unseen := s.unseen.filter (fun u => u.owner == id)
/-- A store has written one of these bytes. -/
def Unseen.hits (pas : List Nat) (u : Unseen) : Bool := u.cells.any (fun c => pas.contains c.1)
/-- An access to these bytes finds a later store of another agent in a byte of it, and so sees it whole (10:R277). -/
def Unseen.passed (pas : List Nat) (u : Unseen) : Bool := u.beaten.any pas.contains
/-- The acting hart's stores, those that p holds of, with what comes before them, and the rest, where any is to these bytes. -/
def State.splitBy (s : State) (p : Unseen → Bool) (pas : List Nat) : List Unseen × List Unseen :=
  let own := s.ownUnseen s.hart.id
  if own.any (Unseen.hits pas) then splitSeen (fun u => p u || u.passed pas) own else (own, [])
/-- Those that an access of a side to these bytes sees before those that it does not. -/
def State.splitOwn (s : State) (vec : Bool) (site : Nat) (pas : List Nat) : List Unseen × List Unseen :=
  s.splitBy (Unseen.landed s vec site) pas
/-- What an atomic reads and writes after: what its side sees, and other atomics, whose write follows their read at once (10:R287). -/
def Unseen.fixed (s : State) (vec : Bool) (u : Unseen) : Bool := u.landed s vec 0 || u.kind == .atomic
/-- The instruction at VCP, resumed, made the store before it stopped (17:R510). -/
def Unseen.resumes (h : Hart) (u : Unseen) : Bool :=
  h.ves != 0 && (match h.vq, u.kind with
    | q :: _, .part a => a == q.addr
    | _, _ => false)
/-- A store of a side need not come after the bytes that an .acq load of its strip has acquired (17:R511). -/
def Unseen.precedes (s : State) (vec : Bool) (u : Unseen) : Bool :=
  (u.fixed s vec && !(vec && u.acq == some s.hart.strip && Config.choice s.tick (2 ^ 73 + u.id))) || (vec && u.resumes s.hart)
/-- The byte at an address before the first of these stores to it. -/
def byteBefore (l : List Unseen) (pa : Nat) : Option Byte := l.findSome? (fun u => u.cells.lookup pa)
/-- Bytes as they are before some stores that are not seen. -/
def State.bytesBefore (s : State) (late : List Unseen) (pas : List Nat) : List Byte :=
  pas.map (fun pa => (byteBefore late pa).getD (memRead s.mem pa))
/-- What an access of one side of the acting hart reads. -/
def State.sees (s : State) (vec : Bool) (site : Nat) (pas : List Nat) : List Byte := s.bytesBefore (s.splitOwn vec site pas).2 pas
/-- What an atomic of one side reads. -/
def State.atomicSees (s : State) (vec : Bool) (pas : List Nat) : List Byte := s.bytesBefore (s.splitBy (Unseen.fixed s vec) pas).2 pas

/-- Stores that both sides see, and those before them in coherence order, need no record. -/
def tidy (l : List Unseen) : List Unseen :=
  let ns := (splitSeen (·.toS) l).2
  let nv := (splitSeen (·.toV) l).2
  l.filter (fun u => ns.any (fun w => w.id == u.id) || nv.any (fun w => w.id == u.id))
/-- The unseen stores of a hart change. -/
def State.setOwn (s : State) (id : HartId) (l : List Unseen) : State :=
  { s with unseen := s.unseen.filter (fun u => u.owner != id) ++ tidy l }
def State.order (s : State) (id : HartId) (f : Unseen → Unseen) : State := s.setOwn id ((s.ownUnseen id).map f)

/-- The first of the stores to an address replaces another byte than before. -/
def replaces (p : Nat × Byte) : List Unseen → List Unseen
  | [] => []
  | u :: t =>
    if (u.cells.lookup p.1).isSome then { u with cells := u.cells.map (fun c => if c.1 == p.1 then p else c) } :: t
    else u :: replaces p t
/-- The bytes that a store leaves in memory where later ones, not seen yet, already stand. -/
def State.underlaid (s : State) (late : List Unseen) (z : List (Nat × Byte)) : List Byte :=
  z.map (fun p => if (byteBefore late p.1).isSome then memRead s.mem p.1 else p.2)
/-- The acting hart is in an exchange step, whose stores and TSENDs to one word leave either (15:R461). -/
def State.exchanging (s : State) : Bool :=
  s.hart.cls == .t && (s.gang s.hart.id.gang).any (fun g => g.stepKind == .exchange)
/-- The record of a store of one side of the acting hart; a hart without a vector side sees its stores itself, and they stay listed
until an exchange step is over. -/
def State.recordOf (s : State) (vec : Bool) (kind : StoreKind) (late : List Unseen) (z : List (Nat × Byte)) : Unseen :=
  ⟨s.hart.id, s.hart.stores, if s.exchanging then .exchange else if vec then .vector else .scalar, !vec,
    s.hart.cls != .v && !s.exchanging, none,
    z.map (fun p => (p.1, (byteBefore late p.1).getD (memRead s.mem p.1))), [], false, false, kind⟩
/-- Stores, each one access, that come after those seen and before those the side does not see. -/
def State.putUnits (s : State) (vec : Bool) (kind : StoreKind) (seen late : List Unseen) : List (List (Nat × Byte)) → State
  | [] => s.setOwn s.hart.id (seen ++ late)
  | z :: t =>
    let s1 := s.putAt (z.map (·.1)) (s.underlaid late z)
    let s2 := { s1 with hart := { s1.hart with stores := s1.hart.stores + 1 } }
    s2.putUnits vec kind (seen ++ [s.recordOf vec kind late z]) (z.foldl (fun l p => replaces p l) late) t
/-- A store of one side of the acting hart, of units that are single-copy atomic each: it comes after the stores that p holds of. -/
def State.putAs (s : State) (vec : Bool) (kind : StoreKind) (p : Unseen → Bool) (l : List (List (Nat × Byte))) : State :=
  let pas := l.flatten.map (·.1)
  if s.hart.cls != .v && (s.ownUnseen s.hart.id).isEmpty && !s.exchanging then s.putAt pas (l.flatten.map (·.2))
  else
    let r := s.splitBy p pas
    let t := s.putUnits vec kind r.1 r.2 l
    { t with bad := healed t.bad pas }
/-- A plain store. -/
def State.putOwn (s : State) (vec : Bool) (l : List (List (Nat × Byte))) : State := s.putAs vec .plain (Unseen.precedes s vec) l
/-- The write of an atomic, after what it has read. -/
def State.putAtomic (s : State) (vec : Bool) (l : List (List (Nat × Byte))) : State := s.putAs vec .atomic (Unseen.fixed s vec) l

/-- The single-copy atomic units of an access: the whole of a naturally aligned one of up to 8 bytes, else each byte (10:R277). -/
def atomicUnits (z : List (Nat × Byte)) : List (List (Nat × Byte)) :=
  if z.length ≤ 8 && (z.head?.map (·.1)).getD 0 % z.length == 0 then [z] else z.map (fun p => [p])

/-- A hart's scalar read at translated addresses. -/
def scalarBytes (pas : List Nat) : M (List Byte) := do
  modify (fun s => touchLines s false pas)
  return (← get).sees false 0 pas
/-- A hart's scalar write at translated addresses. -/
def scalarPut (pas : List Nat) (b : List Byte) : M Unit := modify (fun s => s.putOwn false (atomicUnits (pas.zip b)))
/-- A list in pieces of n. -/
def pieces {α : Type} (n : Nat) (l : List α) : List (List α) :=
  (List.range ((l.length + n - 1) / n)).map (fun i => (l.drop (i * n)).take n)
/-- What a vector access of elements of n bytes reads; `site` tells one read of an instruction from another. -/
def State.seesElts (s : State) (site n : Nat) (pas : List Nat) : List Byte :=
  (pieces n pas).zipIdx.flatMap (fun p => s.sees true (site + p.2) p.1)
/-- The bytes of copies and responses that a vector access sees are noted: a scalar access after VFENCE.vs sees them too (10:R278). -/
def State.noteSaw (s : State) (site n : Nat) (pas : List Nat) : State :=
  let brought (u : Unseen) : Bool := match u.origin with
    | .copy .. | .remote _ => u.hits pas
    | _ => false
  if (s.ownUnseen s.hart.id).any brought then
    let seen := (pieces n pas).zipIdx.flatMap (fun p => ((s.splitOwn true (site + p.2) p.1).1.filter (Unseen.hits p.1)).map (·.id))
    s.order s.hart.id (fun u => if seen.contains u.id then { u with saw := true } else u)
  else s
/-- A hart's vector read of elements of n bytes; those of one byte are bytes each on its own. -/
def vectorBytes (site n : Nat) (pas : List Nat) : M (List Byte) := do
  modify (fun s => touchLines s false pas)
  let b := (← get).seesElts site n pas
  modify (fun s => s.noteSaw site n pas)
  return b
/-- A hart's vector write of elements. -/
def vectorPut (l : List (List (Nat × Byte))) : M Unit := modify (fun s => s.putOwn true l)
/-- A hart's vector write of bytes in elements of n. -/
def vectorPutElts (n : Nat) (pas : List Nat) (b : List Byte) : M Unit := vectorPut (pieces n (pas.zip b))

/-- The unseen stores of every hart change. -/
def State.orderAll (s : State) (f : Unseen → Unseen) : State :=
  ((s.unseen.map (·.owner)).eraseDups).foldl (fun s id => s.order id f) s
/-- A copy's bytes have performed for everyone (11:R306, 10:R292). -/
def Unseen.ofCopy (u : Unseen) (p : HartId → BitVec 32 → Bool) : Bool :=
  match u.origin with
  | .copy i t _ _ => p i t
  | _ => false
def State.seeCopies (s : State) (p : HartId → BitVec 32 → Bool) : State :=
  s.orderAll (fun u => if u.ofCopy p then { u with toS := true, toV := true } else u)
/-- Stores that an engine or another hart makes, each one access, which these harts need not see yet (10:R290, R293; 15:R461). -/
def State.bring (s : State) (ids : List HartId) (o : Origin) (l : List (List (Nat × Byte))) : State :=
  let t := s.putAt (l.flatten.map (·.1)) (l.flatten.map (·.2))
  ids.eraseDups.foldl (fun t id =>
    match t.hartOf id with
    | none => t
    | some h =>
      let new := l.zipIdx.map (fun p =>
        (⟨id, h.stores + p.2, o, false, h.cls != .v, none, p.1.map (fun c => (c.1, memRead s.mem c.1)), [], false, false, .plain⟩ : Unseen))
      (t.setOwn id (t.ownUnseen id ++ new)).modHartOf id (fun h => { h with stores := h.stores + l.length })) t

/-- An acquire of a hart: its scalar side sees the copies' bytes that another hart has acquired before (10:R284; DESIGN CHOICE, log 80). -/
def State.acquire (s : State) (id : HartId) : State :=
  if (s.ownUnseen id).any (·.shared) then s.order id (fun u => { u with toS := u.toS || u.shared }) else s
def acquireM : M Unit := modify (fun s => s.acquire s.hart.id)
/-- An acquire of every hart of a gang. -/
def State.acquireGang (s : State) (g : BitVec 32) : State :=
  if s.unseen.any (fun u => u.shared && u.owner.gang == g) then
    s.orderAll (fun u => if u.owner.gang == g then { u with toS := u.toS || u.shared } else u)
  else s
/-- Later vector accesses come after all earlier ones: a strip is over (07:R215, R217), VFENCE.vv stands there (07:R216), or a
projection instruction (08:R237). -/
def State.closeStrip (s : State) : State :=
  if s.hart.cls == .v then
    let s1 := s.order s.hart.id (fun u => { u with toV := u.toV || u.origin == .vector })
    { s1 with hart := { s1.hart with strip := s1.hart.strip + 1 } }
  else s

/-- A scalar load of n bytes (14:R416): alignment is required where a byte lies in the Device class. -/
def loadScalar (va : Word) (n : Nat) : M Nat := do
  let s ← get
  let pas ← addresses s.ctx .read va n true
  if pas.any (fun pa => paClass pa == some .device) then
    checkM (va.toNat % n == 0) .misalign va
    return leNat (← devRead (pas.headD 0) n)
  else return leNat (← scalarBytes pas)
/-- A scalar store of bytes (15:R449). -/
def storeScalar (va : Word) (b : List Byte) : M Unit := do
  let s ← get
  let pas ← addresses s.ctx .write va b.length true
  if pas.any (fun pa => paClass pa == some .device) then
    checkM (va.toNat % b.length == 0) .misalign va
    devWrite (pas.headD 0) b
  else scalarPut pas b

/-- One indivisible read-modify-write of n bytes (13:R365): write permission, no Device class, Host-class lines in M even where
nothing is written (13:R366, R376); `f` gives the new value or none to write nothing. Answers the old value. -/
def atomicScalar (va : Word) (n : Nat) (f : Nat → Option Nat) : M Nat := do
  checkM (va.toNat % n == 0) .misalign va
  let s ← get
  let pas ← addresses s.ctx .write va n false
  liftX (physCheck (← get) .read va pas false)
  modify (fun s => touchLines s true (pas.filter (fun pa => paClass pa == some .host)))
  modify (fun s => touchLines s false pas)
  let old := leNat ((← get).atomicSees false pas)
  match f old with
  | some v => modify (fun s => s.putAtomic false [pas.zip (leBytes n v)])
  | none => pure ()
  acquireM
  return old

/-! ## Signal words -/

/-- SIGNAL's add on a word at a translated address: one read-modify-write (15:R447). -/
def addWord (s : State) (pa : Nat) (v : BitVec 32) : State :=
  s.putN pa (leBytes 4 (((BitVec.ofNat 32 (s.peek pa 4)) + v).toNat))
/-- A device's SIGNAL in an address space; one that cannot be translated is not performed. -/
def signalVa (s : State) (asid : BitVec 16) (va : Word) (v : BitVec 32) : State :=
  if va = 0 then s
  else
    match xlatN s (devCtx asid) .write va 4 with
    | .ok (pa :: _) => addWord s pa v
    | _ => s
/-- A device's SIGNAL at a physical address (11:R321). -/
def signalPa (s : State) (pa : Nat) (v : BitVec 32) : State :=
  if (paClass pa).isNone then s else addWord s pa v
/-- A device's SIGNAL on a DONE word, zero for none (09:R262, 12:R355). -/
def signalDone (s : State) (pa : Nat) (v : BitVec 32) : State := if pa = 0 then s else signalPa s pa v

/-! ## The trap area (12:R335, R336) and the queue image (07:R208) -/

/-- Offset of a level's trap area in the context block (12:R339): B is VLEN/8. -/
def imageSize (lg : Nat) : Nat := 102 * (512 * lg) + 2112
def Hart.ctxBase (h : Hart) : Nat := h.ctxb.toNat * 64
def Hart.areaVa (h : Hart) (l : Level) : Word :=
  BitVec.ofNat 64 (h.ctxBase + imageSize h.lg + (if l == .m then 1664 else 0))

/-- The VTYPE that a SETVT carries: the captured one (07:R208), or the one it names where a refilled image holds a reserved code (log 71). -/
def carriedType (t : VType) (opnd : Word) : VType := if opnd.toNat < 2 ^ 14 then (vtypeOf (opnd.setWidth 14)).getD t else t
/-- One or two 24-byte entries. -/
def entryBytes (e : QEntry) : List (List Byte) :=
  let base := e.addr.toNat * 2 ^ 130
  let first := leBytes 24 (base + e.opnd.toNat * 2 ^ 64 + e.tail.toNat * 2 ^ 32 + e.head.toNat)
  match e.cont with
  | none => [first]
  | some o => [first, leBytes 24 (base + 2 ^ 128 + o.toNat * 2 ^ 64)]
/-- Slots an entry takes (07:R202). -/
def QEntry.slots (e : QEntry) : Nat := if e.cont.isSome then 2 else 1
def queueImage (q : List QEntry) : List (List Byte) := (q.map entryBytes).flatten
def queueSlotsUsed (q : List QEntry) : Nat := (q.map QEntry.slots).sum

def lixWord (l : Lix) : Nat := (if l.act then 2 ^ 63 else 0) + l.member.toNat * 2 ^ 32 + l.iter.toNat
def xposWord (p : Xpos) : Nat := (if p.act then 2 ^ 63 else 0) + (if p.bwd then 2 ^ 62 else 0) + p.group.toNat

/-- The header's value (12:R336). -/
def areaHeader (h : Hart) (count : Nat) : Nat :=
  1 + count * 2 + h.ves.toNat * 2 ^ 32 + lixWord h.lix * 2 ^ 64 + xposWord h.xpos * 2 ^ 128 +
    h.vc.vl.toNat * 2 ^ 192 + (vtypeBits h.vc.vt).toNat * 2 ^ 224 + h.vc.mr.toNat * 2 ^ 256 + h.vlen * 2 ^ 320

/-- What the device writes at trap entry: entries, 40 zero bytes at the end of the 1,664, and then the header
(DESIGN CHOICE, log 13: the header last). -/
def areaParts (h : Hart) : List (Nat × List Byte) :=
  let img := queueImage h.vq
  let body := img.flatten
  [(64, body), (1624, leBytes 40 0), (0, leBytes 64 (areaHeader h img.length))]

def writeParts (c : Ctx) (base : Word) : List (Nat × List Byte) → M Unit
  | [] => pure ()
  | (o, b) :: t => do
    if b.isEmpty then pure () else writeMem c (base + BitVec.ofNat 64 o) b
    writeParts c base t

/-! ## Taking a trap (12:R329-R335) -/

/-- The level a cause is taken at (12:R330). -/
def Hart.trapLevel (h : Hart) (c : Cause) : Level :=
  if h.lv == .m || h.mkeep.getLsbD (c.code - 1) then .m else .k

/-- Step 3 of 12:R332: bank L receives cause, value, pc, level and IE; IE is cleared, the level is L, the pc the
handler's; a convoy not yet whole in the queue is dissolved (04:R138). -/
def Hart.enter (h : Hart) (l : Level) (c : Cause) (v : Word) (retPc : Word) : Hart :=
  let old := if l == .m then h.mb else h.kb
  let b : TrapBank := { old with trapc := BitVec.ofNat 8 c.code, trapv := v, trappc := retPc.setWidth 56,
                                 plv := h.lv, pie := h.ie }
  let vec := if l == .m then h.mtvec else h.ktvec
  { h with kb := if l == .m then h.kb else b, mb := if l == .m then b else h.mb,
           ie := false, lv := l, pc := (vec.setWidth 64) <<< 2, convoyLeft := 0 }

/-- A wait is abandoned: arrivals are withdrawn, the place among a semaphore's waiters is given up (12:R331,
14:R406, 15:R443, R463). -/
def State.abandonWait (s : State) : State :=
  { s with hart := { s.hart with waitOn := none, gbarHere := false, stepDone := false },
           files := s.files.map (fun f =>
             (f.1, { f.2 with waiters := f.2.waiters.filter (fun w => w.2 != s.hart.id) })) }

/-- TRAPV of an MCHECK: event in [62:56], address in [55:0] (12:R329). -/
def mcheckV (event addr : Nat) : Word := BitVec.ofNat 64 (event * 2 ^ 56 + addr % 2 ^ 56)

/-- What the vector side leaves once its image is written: an empty queue, the CSRs at the stopped values. -/
def Hart.stopVector (h : Hart) (l : Level) : Hart :=
  { h with vq := [], pcfg := h.vc, stopped := some l, desc := none,
           vcp := match h.vq with
             | e :: _ => e.addr
             | [] => h.vcp }

/-- Trap entry at a level (12:R332, R335): on a V hart the vector side stops and the trap area of the level is
written; where that fails the hart takes MCHECK at M with event 4 instead and the queue contents are lost. -/
def enterTrapAt (s : State) (l : Level) (c : Cause) (v : Word) (retPc : Word) : State :=
  let s := { s.abandonWait with hart := s.abandonWait.hart.finishTmma }
  let h := s.hart
  if h.cls != .v then { s with hart := h.enter l c v retPc }
  else if h.ctxb = 0 then
    { s with hart := (h.stopVector .m).enter .m .mcheck (mcheckV 4 0) retPc }
  else
    match runM (writeParts (s.ctxAt false) (h.areaVa l) (areaParts h)) s with
    | (.ok _, s') => { s' with hart := (s'.hart.stopVector l).enter l c v retPc }
    | (.error (.trap _ a), s') =>
      { s' with hart := (s'.hart.stopVector .m).enter .m .mcheck (mcheckV 4 a.toNat) retPc }
    | (.error _, s') => { s' with hart := (s'.hart.stopVector .m).enter .m .mcheck (mcheckV 4 0) retPc }
/-- Trap entry at the level 12:R330 gives. -/
def enterTrap (s : State) (c : Cause) (v : Word) (retPc : Word) : State :=
  enterTrapAt s (s.hart.trapLevel c) c v retPc

/-- The MCHECK of 12:R337: no trap area is written. -/
def enterNoArea (s : State) (c : Cause) (v : Word) (retPc : Word) : State :=
  { s with hart := s.hart.enter .m c v retPc }

/-- Trap entry waits until every pending NAMO destination has been written (15:R434). -/
def takeTrap (s : State) (c : Cause) (v : Word) (retPc : Word) : Host.Outcome State Fault Refusal :=
  if s.hart.namoPend.isEmpty then .next (enterTrap s c v retPc) else .next s

/-! ## The outcome of an instruction -/

/-- First parcel of an instruction, as TRAPV of PRIV and CLASS (12:R329). -/
def headWord (i : Instr) : Word := (headOf i).setWidth 64
/-- TRAPV of ILLEGAL (04:R133): the tail above the first parcel. -/
def illegalV (i : Instr) : Word := ((tailOf i).setWidth 64 <<< 32) ||| headWord i

/-- The outcome of an action of an instruction at pc: its state, or the trap it takes with TRAPPC = pc, or the state
in which it still waits. -/
def finish (pc : Word) (r : Except Stop Unit × State) : Host.Outcome State Fault Refusal :=
  match r with
  | (.ok _, s) => .next s
  | (.error (.trap c v), s) => takeTrap s c v pc
  | (.error .wait, s) => .next s
  | (.error (.move d), s) => .next (if s.hart.namoPend.isEmpty then startMove s d else s)
  | (.error (.areaFault quiet a), s) =>
    if !s.hart.namoPend.isEmpty then .next s
    else if quiet then .next (enterNoArea s .mcheck (mcheckV 4 a.toNat) pc)
    else .next (enterTrapAt s .m .mcheck (mcheckV 4 a.toNat) pc)
  | (.error (.refuse e), _) => .refused e

/-- An event that can happen only where its condition holds. -/
def given (ok : Bool) (name : String) (s : State) : Host.Outcome State Fault Refusal :=
  if ok then .next s else .refused (.notEnabled name)
/-- The package runs (01:R29 step 7). -/
def State.up (s : State) : Bool := s.phase == .running

/-- An instruction's action, run at the acting hart's pc. -/
def runInstr (m : M Unit) (s : State) : Host.Outcome State Fault Refusal := finish s.hart.pc (runM m s)

end Sys2Proof.Machine
end

