-- ==== Sys2Proof/Machine/Run.lean ====
section
/-! DEFINITION. Fetching an instruction (04:R103, R104; 09:R256; 12:R353). -/
namespace Sys2Proof.Machine
open Sys2Proof

/-- What a fetch at the pc gives: an instruction, or the trap the fetch or the decoding takes (04:R134 checks 1 to 3). -/
inductive Fetched
  | instr (i : Instr) (s : State)
  | trap (c : Cause) (v : Word) (s : State)
  deriving DecidableEq, Repr

/-- Versions of a line that the acting hart's core, or T tile, holds (01:R14). -/
def State.codeHeld (s : State) (line : Nat) : List (List Byte) :=
  (s.icache.filter (fun l => l.cls == s.hart.cls && l.core == s.hart.agent && l.line == line)).map (·.bytes)
/-- A line as memory holds it. -/
def State.codeNow (s : State) (line : Nat) : List Byte := memReadN s.mem (64 * line) 64
/-- The line a fetch reads: a version held, which may be older than the latest store, or memory's (09:R268, 10:R295). -/
def State.codeLine (s : State) (line : Nat) : List Byte :=
  let now := s.codeNow line
  (pickHeld s line 2 ((s.codeHeld line).filter (· != now))).getD now
/-- The core holds the line it has read. -/
def State.holdLine (s : State) (line : Nat) : State :=
  { s with icache := addNew s.icache ⟨s.hart.cls, s.hart.agent, line, s.codeLine line⟩ }
/-- One parcel at an address, as an instruction fetch. -/
def fetchParcel (va : Word) : M Parcel := do
  let s ← get
  let pas ← addresses s.ctx .fetch va 4 false
  let t ← get
  let b := pas.map (fun pa => (t.codeLine (pa / 64)).getD (pa % 64) 0)
  modify (fun s => ((pas.map (· / 64)).eraseDups).foldl State.holdLine s)
  return BitVec.ofNat 32 (leNat b)

/-- The parcels of the instruction at an address. -/
def fetchParcels (pc : Word) : M (Parcel × Parcel) := do
  let h ← fetchParcel pc
  if isLong h then return (h, ← fetchParcel (pc + 4)) else return (h, 0)

/-- Fetch and decode at the pc. -/
def fetch (s : State) : Fetched :=
  match runM (fetchParcels s.hart.pc) s with
  | (.error (.trap c v), s') => .trap c v s'
  | (.error _, s') => .trap .page s.hart.pc s'
  | (.ok (h, t), s') =>
    match decode h t with
    | .error _ => .trap .illegal ((t.setWidth 64 <<< 32) ||| h.setWidth 64) s'
    | .ok i =>
      if i == .tret && s.hart.lv == .a then .trap .priv (h.setWidth 64) s' else .instr i s'

/-! ## Placing an instruction where the machine fetches -/

/-- A level-3 table entry that maps 256 GiB from 0, executable (09:R258): V, LEAF, X. -/
def bootLeaf : Nat := 0xB
/-- The physical address the boot leaf gives a virtual address below 256 GiB is the address itself. -/
def placeCode (s : State) (pc : Nat) (b : List Byte) : State :=
  let m := memWriteN s.mem (Config.scb + 0x100000) (leBytes 16 (Config.bootTables + 1))
  let m := memWriteN m (Config.bootTables + 8 * (pc / 2 ^ 38)) (leBytes 8 (bootLeaf + pc / 2 ^ 38 * 2 ^ 38))
  { s with mem := memWriteN m pc b, agenda := [], hold := [], turns := [], pace := [], stimuli := [], tlb := [], walks := [], icache := [],
           rebeica := { s.rebeica with permits := [frameOf pc, frameOf (pc + 7)] } }

end Sys2Proof.Machine
end

