-- ==== Sys2Proof/Machine/Operands.lean ====
section
/-! DEFINITION. The scalar operand forms: W forms, immediates, bit fields (04:R115-R119; 13:R361; 14:R396; 15:R437). -/
namespace Sys2Proof.Machine
open Sys2Proof

def lo32 (v : Word) : BitVec 32 := v.setWidth 32
/-- SignExtend(v, 32). -/
def sx32 (v : BitVec 32) : Word := v.signExtend 64
def imm16s (i : BitVec 16) : Word := i.signExtend 64
def imm16z (i : BitVec 16) : Word := i.setWidth 64
def imm13s (i : BitVec 13) : Word := i.signExtend 64
def imm21s (i : BitVec 21) : Word := i.signExtend 64
/-- A branch displacement, in parcels (04:R106). -/
def disp13 (i : BitVec 13) : Word := (i.signExtend 64) <<< 2
def disp26 (i : BitVec 26) : Word := (i.signExtend 64) <<< 2

/-- A two-operand operation at width 64, or in a W form at 32 with the result sign-extended (13:R361). -/
def binW (w : Bool) (f : Word → Word → Word) (g : BitVec 32 → BitVec 32 → BitVec 32) (a b : Word) : Word :=
  if w then sx32 (g (lo32 a) (lo32 b)) else f a b

/-- The n-bit quotient of 14:R395. -/
def divBits {n : Nat} (u : Bool) (a b : BitVec n) : BitVec n :=
  if b = 0 then BitVec.allOnes n
  else if u then a.udiv b
  else BitVec.ofInt n (a.toInt.tdiv b.toInt)
/-- The n-bit remainder of 14:R395. -/
def remBits {n : Nat} (u : Bool) (a b : BitVec n) : BitVec n :=
  if b = 0 then a
  else if u then a.umod b
  else BitVec.ofInt n (a.toInt.tmod b.toInt)
/-- Upper half of the exact product (14:R426). -/
def mulhBits {n : Nat} (u : Bool) (a b : BitVec n) : BitVec n :=
  if u then BitVec.ofNat n (a.toNat * b.toNat / 2 ^ n)
  else BitVec.ofInt n (a.toInt * b.toInt / (2 ^ n : Nat))

/-- The shift amount of a register form (15:R437). -/
def shAmount (w : Bool) (b : Word) : Nat := if w then b.toNat % 32 else b.toNat % 64

/-- One bits of a number. -/
def popCount : Nat → Nat → Nat
  | 0, _ => 0
  | n + 1, v => v % 2 + popCount n (v / 2)
/-- Leading zeros of an n-bit number (13:R362). -/
def clzBits (n v : Nat) : Nat := if v = 0 then n else n - 1 - Nat.log2 v
/-- Trailing zeros of an n-bit number (13:R362). -/
def ctzBits : Nat → Nat → Nat
  | 0, _ => 0
  | n + 1, v => if v % 2 = 1 then 0 else 1 + ctzBits n (v / 2)
/-- A unary count at width 64 or 32. -/
def countW (w : Bool) (f : Nat → Nat → Nat) (a : Word) : Word :=
  BitVec.ofNat 64 (if w then f 32 (lo32 a).toNat else f 64 a.toNat)
/-- Bytes reversed (13:R362). -/
def bswap64 (a : Word) : Word := BitVec.ofNat 64 (leNat (leBytes 8 a.toNat).reverse)

/-- The field of len bits at p, zero- or sign-extended (14:R396). -/
def extField (u : Bool) (v : Word) (p len : Nat) : Word :=
  let f := bitsOf v.toNat (p + len - 1) p
  if u then BitVec.ofNat 64 f else BitVec.ofInt 64 (readInt true len f)
/-- xd with len bits at p replaced (14:R396). -/
def insField (old v : Word) (p len : Nat) : Word := BitVec.ofNat 64 (setBits old.toNat (p + len - 1) p v.toNat)
/-- Position and length of a register form: the length is cut at bit 63 (14:R396). -/
def fieldPos (b : Word) : Nat := b.toNat % 64
def fieldLen (b : Word) : Nat := min (bitsOf b.toNat 13 8 + 1) (64 - fieldPos b)

/-- Bytes of an LD size, and whether it sign-extends (04:R118). -/
def ldBytes : LdSize → Nat
  | .b | .bu => 1 | .h | .hu => 2 | .w | .wu => 4 | .d => 8
def ldSigned : LdSize → Bool
  | .b | .h | .w | .d => true
  | _ => false
def sizeBytes : Size → Nat
  | .b => 1 | .h => 2 | .w => 4 | .d => 8
def asizeBytes : ASize → Nat
  | .w => 4 | .d => 8
/-- A loaded value of n bytes extended to 64 bits. -/
def extendN (signed : Bool) (n v : Nat) : Word := BitVec.ofInt 64 (readInt signed (8 * n) v)

/-- Op(old, b) of an atomic at n bytes (13:R365). -/
def amoOp (o : AmoOp) (n old b : Nat) : Nat :=
  let w := 8 * n
  match o with
  | .add => (old + b) % 2 ^ w
  | .and => old &&& b
  | .or => old ||| b
  | .xor => old ^^^ b
  | .min => if readInt true w old ≤ readInt true w b then old else b
  | .max => if readInt true w b ≤ readInt true w old then old else b
  | .minu => if old ≤ b then old else b
  | .maxu => if b ≤ old then old else b
  | .swap => b

/-- A result in xd and the next instruction. -/
def State.result (s : State) (d : Reg) (v : Word) : State := (s.setX d v).advance 1

end Sys2Proof.Machine
end

