-- ==== Sys2Proof/Machine/Elems.lean ====
section
/-! DEFINITION. Elements of vector, tile and mask registers, and their values (05:R148; 06:R172, R173, R179, R183-R188). -/
namespace Sys2Proof.Machine
open Sys2Proof

/-- Element i of width w (05:R148). -/
def getE (w v i : Nat) : Nat := (v >>> (w * i)) % 2 ^ w
/-- v with element i replaced. -/
def putE (w v i x : Nat) : Nat := v - (getE w v i <<< (w * i)) + ((x % 2 ^ w) <<< (w * i))
/-- Elements 0 to n - 1. -/
def elems (w v n : Nat) : List Nat := (List.range n).map (getE w v)
/-- A register of elements. -/
def packE (w : Nat) : List Nat → Nat
  | [] => 0
  | x :: t => x % 2 ^ w + (packE w t) <<< w

/-- The value of an element pattern (06:R171, R188); with `ftz` a subnormal reads as a zero of its sign (06:R179; DEDUCED,
log 24: in every format), a CODE8 element exactly as its entry. -/
def readElt (t : ET) (ct : Vector CtEntry 256) (ftz : Bool) (b : Nat) : FV :=
  match etKind t with
  | .flt f => decodeF f ftz b
  | .code => decode8 (ct[b % 256]'(Nat.mod_lt _ (by decide)))
  | .int sg => ofInt (readInt sg (etSew t) b)

/-- Index shift of VTYPE.BL (06:R184). -/
def blShift : Bl → Nat
  | .b16 => 4 | .b32 => 5 | .b64 => 6
/-- ScaleOf (06:R184). -/
def scaleByte (sc : ScReg) (bl : Bl) (n : Nat) : Nat := getE 8 sc.toNat (n >>> blShift bl % 256)
/-- A scaled value (06:R185): exact, and NaN without a flag under the scale NaN. -/
def scaled (b : Nat) (v : FV) : FV := if b = 255 then .nan false else scaleF ((b : Int) - 127) v
/-- A value divided by a scale (06:R187). -/
def unscaled (b : Nat) (v : FV) : FV := if b = 255 then .nan false else scaleF (127 - (b : Int)) v

/-- The table's values in code order (06:R188). -/
def ctValues (ct : Vector CtEntry 256) : List FV := ct.toList.map decode8

/-- Rounding or encoding a value into an element type (06:R182, R190): bits and flags. -/
def writeElt (t : ET) (ct : Vector CtEntry 256) (mode : Rm) (ftz : Bool) (d : Nat) (v : FV) : Nat × Flags :=
  match etKind t with
  | .flt f => roundTo f mode ftz d v
  | .code => encode8 (ctValues ct) v
  | .int sg =>
    let r := toInt sg (etSew t) mode d v
    (wrapInt (etSew t) r.1, r.2)

end Sys2Proof.Machine
end

