-- ==== Sys2Proof/Machine/LoadStore.lean ====
section
/-! DEFINITION. Scalar memory and atomics, majors 16 to 18, and the fences of major 19 that move nothing
(13:R364-R367, R376, R377; 14:R402, R408, R416, R417; 15:R449, R450). Each access performs when it executes (log 5), so an
acquire, a release or a fence orders nothing more. -/
namespace Sys2Proof.Machine
open Sys2Proof

/-- xd written and the next instruction. -/
def doneX (d : Reg) (v : Word) : M Unit := modify (fun s => s.result d v)
def done1 : M Unit := modify (fun s => s.advance 1)

/-- 14:R416. -/
def execLd (d a : Reg) (z : LdSize) (i : BitVec 13) (s : State) : Host.Outcome State Fault Refusal :=
  runInstr (do
    let v ← loadScalar (s.getX a + imm13s i) (ldBytes z)
    doneX d (extendN (ldSigned z) (ldBytes z) v)) s
/-- 15:R449. -/
def execSt (r a : Reg) (z : Size) (i : BitVec 13) (s : State) : Host.Outcome State Fault Refusal :=
  runInstr (do
    storeScalar (s.getX a + imm13s i) (leBytes (sizeBytes z) (s.getX r).toNat)
    done1) s
/-- 14:R417: misalignment traps before translation. -/
def execLdaq (d a : Reg) (_sc : Scope) (z : Size) (s : State) : Host.Outcome State Fault Refusal :=
  runInstr (do
    checkM ((s.getX a).toNat % sizeBytes z == 0) .misalign (s.getX a)
    let v ← loadScalar (s.getX a) (sizeBytes z)
    acquireM
    doneX d (extendN true (sizeBytes z) v)) s
/-- 15:R450. -/
def execStrl (a b : Reg) (_sc : Scope) (z : Size) (s : State) : Host.Outcome State Fault Refusal :=
  runInstr (do
    checkM ((s.getX a).toNat % sizeBytes z == 0) .misalign (s.getX a)
    storeScalar (s.getX a) (leBytes (sizeBytes z) (s.getX b).toNat)
    done1) s
/-- 13:R365, R366. -/
def execAmo (d a b : Reg) (_sc : Scope) (z : ASize) (o : AmoOp) (s : State) : Host.Outcome State Fault Refusal :=
  runInstr (do
    let n := asizeBytes z
    let old ← atomicScalar (s.getX a) n (fun old => some (amoOp o n old ((s.getX b).toNat % 2 ^ (8 * n))))
    doneX d (extendN true n old)) s
/-- 13:R376. -/
def execCas (d a b : Reg) (_sc : Scope) (z : ASize) (s : State) : Host.Outcome State Fault Refusal :=
  runInstr (do
    let n := asizeBytes z
    let old ← atomicScalar (s.getX a) n (fun old =>
      if old = (s.getX d).toNat % 2 ^ (8 * n) then some ((s.getX b).toNat % 2 ^ (8 * n)) else none)
    doneX d (extendN true n old)) s
/-- 14:R402: every earlier access has performed already (log 5). -/
def execFence (_sc : Scope) (_x _y : AccSet) (s : State) : Host.Outcome State Fault Refusal := .next (s.advance 1)
/-- Cores whose instruction caches a scope instance of the hart holds (10:R275); .h means its own core's (DEDUCED, log 6). -/
def Hart.scopeHas (h : Hart) (sc : Scope) (cls : Class) (core : Nat) : Bool :=
  match sc with
  | .h | .c => cls == h.cls && core == h.agent
  | .cl => cls == h.cls && (match h.cls with | .c => core / 16 == h.agent / 16 | .v => core / 8 == h.agent / 8 | .t => core == h.agent)
  | .p | .s => true
/-- Lines of the instance are discarded. -/
def State.dropCode (s : State) (sc : Scope) : State :=
  { s with icache := s.icache.filter (fun l => !s.hart.scopeHas sc l.cls l.core) }
/-- 14:R408, 10:R295: the hart's earlier stores have performed (log 5). -/
def execIfence (sc : Scope) (s : State) : Host.Outcome State Fault Refusal := .next ((s.dropCode sc).advance 1)

end Sys2Proof.Machine
end

