-- ==== Sys2Proof/Machine/Issue.lean ====
section
/-! DEFINITION. What stands before an instruction's own effect: its class (02:R52-R54, 04:R134), what the vector queue
still holds (07:R204, R228), and waiting (12:R352). -/
namespace Sys2Proof.Machine
open Sys2Proof

/-- A C hart moves to V where 02:R54 allows it; otherwise CLASS. -/
def migrateOrClass (i : Instr) : M Unit := do
  let s ← get
  if s.hart.migTrap && s.canArrive .v then throw (.move .v) else trapM .cls (headWord i)
/-- An instruction of V harts only (02:R52). -/
def needV (i : Instr) : M Unit := do
  match (← getHart).cls with
  | .v => pure ()
  | .c => migrateOrClass i
  | .t => trapM .cls (headWord i)
/-- An instruction of V and T harts (02:R52). -/
def needVT (i : Instr) : M Unit := do
  if (← getHart).cls == .c then migrateOrClass i
/-- An instruction of T harts only (02:R52). -/
def needT (i : Instr) : M Unit := do checkM ((← getHart).cls == .t) .cls (headWord i)
/-- An instruction of C and V harts (02:R52). -/
def needCV (i : Instr) : M Unit := do checkM ((← getHart).cls != .t) .cls (headWord i)

/-- VLEN of the acting hart; on a C hart the one it would take on arrival on V (05:R160). -/
def State.vlenOf (s : State) (h : Hart) : Nat :=
  match h.cls with
  | .v => h.vlen
  | .c => 4096 * laneCount (match s.gang h.id.gang with | some g => g.mlg | none => 0)
  | .t => 0
/-- VLMAX (05:R154). -/
def State.vlmax (s : State) (t : VType) : Nat := vlmaxOf (s.vlenOf s.hart) t

/-! ## What queued instructions still do -/

/-- Whether a queued instruction stores to memory (02:R44). -/
def isVStore : Instr → Bool
  | .vst .. | .vsts .. | .vstx .. | .vsave .. | .vamo .. | .vamom .. | .scst .. | .ctst .. | .xhstore ..
  | .xprojb .. | .cpy .. => true
  | _ => false
/-- Whether a queued instruction writes mask ka (07:R228). -/
def writesK (ka : BitVec 3) : Instr → Bool
  | .vcmp kd .. | .kop kd .. | .kmov kd .. => kd == ka
  | .vrstr _ m => m.getLsbD 8
  | _ => false
/-- The base register of a captured loop's memory member (07:R225, R226). -/
def loopBase : Instr → Option Reg
  | .vld _ s _ _ _ | .vst _ s _ _ | .vlds _ s _ _ _ _ | .vsts _ s _ _ _ => some s
  | .vldx _ s _ _ _ _ | .vstx _ s _ _ _ => some s
  | .vamo _ _ _ s _ _ _ _ _ | .vamom _ _ _ s _ _ _ _ _ => some s
  | _ => none
/-- The x register a queued instruction will write (07:R204). -/
def writesX : Instr → Option Reg
  | .vmvx x _ _ | .kpopc x _ _ | .kfirst x _ _ => some x
  | _ => none
def opIs (p : Instr → Bool) : QOp → Bool
  | .ok i => p i
  | .bad => false
/-- Some queued instruction has a property. -/
def Hart.queued (h : Hart) (p : Instr → Bool) : Bool := h.vq.any (fun e => opIs p e.op)

/-- Registers pending for queued instructions (07:R204, R226). -/
def loopPending : List QEntry → Nat → List Reg
  | [], _ => []
  | e :: t, n =>
    match e.op with
    | .ok (.vloop _ k) => loopPending t (k.toNat + 1)
    | .ok i =>
      (match writesX i with | some r => [r] | none => []) ++
      (if n = 0 then [] else match loopBase i with | some r => [r] | none => []) ++ loopPending t (n - 1)
    | .bad => loopPending t (n - 1)
/-- Every pending x register (07:R204, R226; 15:R434). -/
def Hart.pendingX (h : Hart) : List Reg := h.namoPend ++ loopPending h.vq 0

/-! ## Waiting of the scalar side (12:R352) -/

/-- The instruction waits at pc; its count starts anew at another address, and IDLE has none. -/
def Hart.waitHere (h : Hart) (i : Instr) : Hart :=
  { h with waitOn := some i, waitS := if h.waitS.addr == some h.pc || i == .idle || i == .idleX then h.waitS else ⟨some h.pc, 0⟩ }
def waitAt {α : Type} (i : Instr) : M α := do
  modHart (fun h => h.waitHere i)
  waitM
/-- A count returns to zero when the wait it has counted for is over. -/
def WaitCount.over (w : WaitCount) (addr : Word) : WaitCount := if w.addr == some addr then { w with ns := 0 } else w
/-- The wait at pc is over. -/
def Hart.endWait (h : Hart) : Hart := { h with waitOn := none, waitS := h.waitS.over h.pc }
def doneWait : M Unit := do
  modHart Hart.endWait
  done1
/-- A waiting hart's instruction completes by another agent's action: it goes on at the next instruction. -/
def Hart.passWait (h : Hart) : Hart := { h.endWait with pc := h.pc + 4, gbarHere := false, stepDone := false }

/-! ## The gang barrier (14:R405) -/

/-- The instance completes when every hart that has not ended has arrived: the waiting harts go on. -/
def gbarCheck (s : State) (g : BitVec 32) : State :=
  let hs := s.gangHarts g
  if hs.any (·.gbarHere) && hs.all (fun h => h.ended || h.gbarHere) then
    (s.modHarts (fun h => h.id.gang == g)
      (fun h => { (if h.gbarHere then h.passWait else h) with gbarDone := h.gbarDone + 1 })).acquireGang g
  else s

/-! ## The step barrier of a T gang (02:R58) -/

/-- Every hart of a gang has executed TSYNC in the present step, an ended hart counting as arrived (02:R46). -/
def State.allSynced (s : State) (g : BitVec 32) : Bool := (s.gangHarts g).all (fun h => h.ended || h.stepDone)
/-- The hart waits at a TSYNC whose barrier has completed (15:R463). -/
def State.syncPassed (s : State) : Bool :=
  s.hart.waitOn == some .tsync && s.hart.stepDone &&
  (match s.gang s.hart.id.gang with
    | some g => g.stepKind == .toExchange || g.stepKind == .toCompute
    | none => false)
/-- The arrived harts' TSYNC completes. -/
def State.passSync (s : State) (g : BitVec 32) : State :=
  (s.modHarts (fun h => h.id.gang == g && h.stepDone) Hart.passWait).acquireGang g
/-- In a compute step the barrier completes with the last arrival, and EXCHANGE_STEP_BEGIN follows after the interval of
07:R232, until which the harts wait (02:R58). -/
def tsyncCheck (s : State) (id : BitVec 32) : State :=
  match s.gang id with
  | none => s
  | some g =>
    if g.cls == .t && g.stepKind == .compute && (s.gangHarts id).any (·.stepDone) && s.allSynced id then
      (s.modGang id (fun g => { g with stepKind := .toExchange })).later (.exchangeStepBegin id)
    else s

end Sys2Proof.Machine
end

