-- ==== Sys2Proof/Machine/Tensor.lean ====
section
/-! DEFINITION. Tensor tiles and exchange, majors 40 to 42 (15:R452-R463; 07:R229, R230; 02:R57-R61). A TMMA issued with no
enable set stays in flight until TMMA_COMPLETE or until an instruction that must wait for it executes. -/
namespace Sys2Proof.Machine
open Sys2Proof

/-- Waiting for a TMMA in flight: it completes (07:R229). -/
def settleTmma : M Unit := modHart Hart.finishTmma
/-- Waiting for it only where it uses a register. -/
def settleTmmaIf (p : TmmaFly → Bool) : M Unit := do
  match (← getHart).tmma with
  | some t => if p t then settleTmma
  | none => pure ()

def Hart.getTile (h : Hart) : Tile → TReg
  | .w n => h.getW n
  | .ta n => h.getTa n
def Hart.setTile (h : Hart) (t : Tile) (v : TReg) : Hart :=
  match t with
  | .w n => h.setW n v
  | .ta n => h.setTa n v
/-- A tile the TMMA in flight reads or writes. -/
def tileBusy (t : Tile) (f : TmmaFly) : Bool :=
  match t with
  | .w n => f.reads.contains n
  | .ta n => f.ta == n

/-- 15:R453, R454: every byte is read before the tile changes. -/
def execTld (t : Tile) (a : Reg) (i : BitVec 13) (s : State) : Host.Outcome State Fault Refusal :=
  runInstr (do
    needT (.tld t a i)
    settleTmmaIf (tileBusy t)
    let ea := s.getX a + imm13s i
    checkM (ea.toNat % 64 == 0) .misalign ea
    let pas ← addresses s.ctx .read ea 1024 false
    let b ← scalarBytes pas
    modHart (fun h => h.setTile t (BitVec.ofNat 8192 (leNat b)))
    done1) s
/-- 15:R453, R454: every byte is translated before one is written. -/
def execTst (t : Tile) (a : Reg) (i : BitVec 13) (s : State) : Host.Outcome State Fault Refusal :=
  runInstr (do
    needT (.tst t a i)
    settleTmmaIf (fun f => match t with | .ta n => f.ta == n | .w _ => false)
    let ea := s.getX a + imm13s i
    checkM (ea.toNat % 64 == 0) .misalign ea
    let pas ← addresses s.ctx .write ea 1024 false
    let h ← getHart
    scalarPut pas (leBytes 1024 (h.getTile t).toNat)
    done1) s

/-- Elements converted in ascending order, each with its own draw: results, flags of all, the generator; or the number and
flags of the first that traps with the flags of it and those below, and the generator before its draw (15:R452). -/
def cvtElems (conv : Nat → FV → Nat × Flags) (mode : Rm) (en : Flags) :
    List FV → Nat → Flags → Word → Except (Nat × Flags × Flags × Word) (List Nat × Flags × Word)
  | [], _, fl, seed => .ok ([], fl, seed)
  | v :: t, i, fl, seed =>
    let dr := drawFor mode seed
    let r := conv dr.1 v
    if trapping en r.2 != 0 then .error (i, trapping en r.2, fl ||| r.2, seed)
    else
      match cvtElems conv mode en t (i + 1) (fl ||| r.2) dr.2 with
      | .error e => .error e
      | .ok (l, f, s) => .ok (r.1 :: l, f, s)

/-- TRAPV of an FPTRAP at result number i (06:R181). -/
def fpTrapV (i : Nat) (fl : Flags) : Word := BitVec.ofNat 64 (i * 2 ^ 32 + fl.toNat)

/-- FTZ reads an FP32 input of a conversion as zero except into an OCP format or CODE8 (06:R179). -/
def ftzInto (e : ET) (ftz : Bool) : Bool := ftz && (etIsIeee e || etIsInt e)

/-- 15:R452. -/
def execTcvt (t : BitVec 3) (a : BitVec 1) (e : ET) (r : Rm) (s : State) : Host.Outcome State Fault Refusal :=
  runInstr (do
    needT (.tcvt t a e r)
    checkM (e != .code8 || !s.hart.nres.getLsbD 10) .lazy 0x400
    settleTmmaIf (fun f => f.ta == a || f.reads.contains t)
    let h ← getHart
    let src := (elems 32 (h.getTa a).toNat 256).map (decodeF fmt32 (ftzInto e h.ftz))
    match cvtElems (fun d v => writeElt e h.ct r h.ftz d v) r h.fen src 0 0 h.srseed with
    | .error (i, fl, all, seed) =>
      modHart (fun h => { h with fflags := h.fflags ||| all, srseed := seed })
      trapM .fptrap (fpTrapV i fl)
    | .ok (l, fl, seed) =>
      modHart (fun h => { h.setW t (BitVec.ofNat 8192 (packE (etSew e) l)) with
                          fflags := h.fflags ||| fl, srseed := seed })
      done1) s

/-! ## TMMA -/

/-- The bits of an operand: one register, or two for the 16-bit types (07:R230). -/
def Hart.tileBits (h : Hart) (e : ET) (r : BitVec 3) : Nat :=
  (h.getW r).toNat + (if e.is16Float then (h.getW (r + 1)).toNat <<< 8192 else 0)
/-- An operand element, scaled where SC is set (15:R456, 06:R186). -/
def Hart.tileElt (h : Hart) (e : ET) (sc : Bool) (j : BitVec 2) (bits n scN : Nat) : FV :=
  let v := readElt e h.ct h.ftz (getE (etSew e) bits n)
  if sc then scaled (scaleByte (h.getSc j) h.vc.vt.bl scN) v else v
/-- The terms of row r of A as depth and value (07:R230). -/
def Hart.tileRow (h : Hart) (e : ET) (sc : Bool) (a : BitVec 3) (sp : Option (Sparse × BitVec 3)) (r : Nat) :
    List (Nat × FV) :=
  let bits := h.tileBits e a
  match sp with
  | none => (List.range 64).map (fun k => (k, h.tileElt e sc 0 bits (64 * r + k) (64 * r + k)))
  | some (n, m) =>
    let cnt := match n with | .n16 => 16 | .n32 => 32
    let depth (t : Nat) : Nat := getE 6 (h.getW m).toNat (cnt * r + t)
    (List.range cnt).map (fun t => (depth t, h.tileElt e sc 0 bits (cnt * r + t) (64 * r + depth t)))
/-- What the elements absent from a sparse row add: they count as +0 (06:R192) and form no product (15:R456; DEDUCED, log 25). -/
def absentTerms (sp : Option (Sparse × BitVec 3)) : List (FV × Flags) := if sp.isSome then [(.fin false 0 0, 0)] else []
/-- One exact product sum with the accumulator element, rounded once (15:R456). -/
def dotRound (f : Fmt) (mode : Rm) (ftz : Bool) (d : Nat) (acc : FV) (ps : List (FV × Flags)) : Nat × Flags :=
  let t := sumExact mode (acc :: ps.map (·.1))
  let fl := ps.foldl (fun x p => x ||| p.2) t.2
  let r := roundTo f mode ftz d t.1
  (r.1, r.2 ||| fl)
/-- The whole panel: results and flags by element number. -/
def Hart.tmmaPanel (h : Hart) (d : BitVec 1) (a b : BitVec 3) (sp : Option (Sparse × BitVec 3)) (sc : Bool) (e : ET) :
    List (Nat × Flags) :=
  let bb := h.tileBits e b
  let acc := (h.getTa d).toNat
  let cols := (List.range 16).map (fun c => (List.range 64).map (fun k =>
    h.tileElt e sc 1 bb (64 * c + k) (64 * c + k)))
  ((List.range 16).map (fun r =>
    let row := h.tileRow e sc a sp r
    (List.range 16).map (fun c =>
      let col := cols.getD c []
      dotRound fmt32 .rne h.ftz 0 (decodeF fmt32 h.ftz (getE 32 acc (16 * r + c)))
        (row.map (fun t => mulF t.2 (col.getD t.1 (.fin false 0 0))) ++ absentTerms sp)))).flatten

/-- The first element that raises an enabled flag, with its enabled flags and all flags up to it (15:R457). -/
def firstTrap (en : Flags) : List Flags → Nat → Flags → Option (Nat × Flags × Flags)
  | [], _, _ => none
  | f :: t, i, acc =>
    if trapping en f != 0 then some (i, trapping en f, acc ||| f) else firstTrap en t (i + 1) (acc ||| f)

/-- 15:R455-R457, 07:R229. -/
def tmmaAct (i : Instr) (d : BitVec 1) (a b : BitVec 3) (sp : Option (Sparse × BitVec 3)) (sc : Bool) (e : ET) :
    M Unit := do
  needT i
  let h ← getHart
  let lz := h.nres &&& ((if sc then 0x200 else 0) ||| (if e == .code8 then 0x400 else 0))
  checkM (lz == 0) .lazy (lz.setWidth 64)
  settleTmma
  let h ← getHart
  let panel := h.tmmaPanel d a b sp sc e
  let value := BitVec.ofNat 8192 (packE 32 (panel.map (·.1)))
  let fl := panel.foldl (fun x p => x ||| p.2) (0 : Flags)
  if h.fen == 0 then
    let pair (r : BitVec 3) : List (BitVec 3) := if e.is16Float then [r, r + 1] else [r]
    let reads := pair a ++ pair b ++ (match sp with | some (_, m) => [m] | none => [])
    modHart (fun h => { h with tmma := some ⟨d, reads, value, fl⟩ })
    done1
  else
    match firstTrap h.fen (panel.map (·.2)) 0 0 with
    | some (n, t, all) =>
      modHart (fun h => { h with fflags := h.fflags ||| all })
      trapM .fptrap (fpTrapV n t)
    | none =>
      modHart (fun h => { h.setTa d value with fflags := h.fflags ||| fl })
      done1

/-- 15:R455. -/
def execTmma (d : BitVec 1) (a b : BitVec 3) (sc : Bool) (e : ET) (s : State) : Host.Outcome State Fault Refusal :=
  runInstr (tmmaAct (.tmma d a b sc e) d a b none sc e) s
/-- 15:R455, the sparse forms. -/
def execTmmaS (d : BitVec 1) (a b : BitVec 3) (n : Sparse) (m : BitVec 3) (sc : Bool) (e : ET) (s : State) :
    Host.Outcome State Fault Refusal :=
  runInstr (tmmaAct (.tmmaS d a b n m sc e) d a b (some (n, m)) sc e) s

/-! ## Exchange -/

/-- What a device's read in a gang's address space finds. -/
def gangRead (s : State) (g : Gang) (va : Word) (n : Nat) : Except (Cause × Word) (List Byte) := devRead' s g.asid va n
/-- Number of tables of the step plan (02:R57). -/
def planTables (s : State) (g : Gang) : Except (Cause × Word) Nat :=
  (gangRead s g g.plan 64).map (fun b => bitsOf (leNat b) 31 0)
/-- Address of entry h of the present step's table. -/
def planEntry (g : Gang) (h : Nat) : Word := g.plan + BitVec.ofNat 64 (64 + 4 * g.harts * g.stepNo + 4 * h)
/-- The expected count of one hart (02:R57, R59). Of a plan changed while its gang is live the spec allows the old or the new value of each
count; here each read gives what memory holds then (DESIGN CHOICE, log 77). -/
def planCount (s : State) (g : Gang) (h : Nat) : Except (Cause × Word) Nat :=
  match planTables s g with
  | .error e => .error (e.1, planEntry g h)
  | .ok n =>
    if n ≤ g.stepNo then .ok 0
    else (gangRead s g (planEntry g h) 4).map leNat
/-- Every count of the present step, or the lowest address that cannot be read (02:R57, R60). -/
def planCounts (s : State) (g : Gang) : Except (Cause × Word) (List Nat) :=
  match planTables s g with
  | .error e => .error e
  | .ok n =>
    if n ≤ g.stepNo then .ok (List.replicate g.harts 0)
    else (List.range g.harts).mapM (fun h => (gangRead s g (planEntry g h) 4).map leNat)
/-- The reads of the plan's header and of n counts from hart h on, at L2 (11:R325, R326). -/
def State.seePlan (s : State) (g : Gang) (h n : Nat) : State := (s.glance g.asid g.plan 64).glance g.asid (planEntry g h) (4 * n)

/-- Window slot and offset of an address of a T gang (09:R254). -/
def winSlot (g : Gang) (va : Word) : Option (Nat × Nat) :=
  let a := va.toNat
  if Config.window ≤ a && a < Config.window + Config.windowSize then
    let o := a - Config.window
    if o / 16384 < g.harts then some (o / 16384, o % 16384) else none
  else none

/-- The words of a TSEND that are left (15:R461): where one of the same step, or a store of
the receiver, has written a word, it holds the value of either. -/
def sentWords (s : State) (to_ : HartId) (z : List (Nat × Byte)) : List (List (Nat × Byte)) :=
  (pieces 8 z).filter (fun w =>
    !(s.ownUnseen to_).any (fun u => u.origin == .exchange && u.hits (w.map (·.1))) || Config.choice s.tick (2 ^ 74 + (w.map (·.1)).headD 0))
/-- 15:R460, R461: the receiver need not see the words before the step completes (02:R60, log 76). l holds len/8 - 1. -/
def execTsend (a b : Reg) (l : BitVec 9) (s : State) : Host.Outcome State Fault Refusal :=
  runInstr (do
    needT (.tsend a b l)
    match s.gang s.hart.id.gang with
    | none => trapM .step 0
    | some g =>
      let xa := s.getX a
      let xb := s.getX b
      let len := 8 * (l.toNat + 1)
      checkM (g.stepKind == .exchange) .step 0
      checkM (xa.toNat % 8 == 0) .misalign xa
      checkM (xb.toNat % 8 == 0) .misalign xb
      match winSlot g xa with
      | none => trapM .page xa
      | some (rx, off) =>
        checkM (off + len ≤ 16384) .page (xa + BitVec.ofNat 64 (16384 - off))
        let own := match winSlot g xb with
          | some (hx, o) => hx == s.hart.id.ix && decide (o + len ≤ 16384)
          | none => false
        checkM own .access xb
        modify (fun s => s.seePlan g rx 1)
        let cnt ← liftX (planCount s g rx)
        let had := match s.hartOf ⟨g.id, rx⟩ with | some h => h.incoming | none => 0
        checkM (had + len ≤ cnt) .step (BitVec.ofNat 64 (2 ^ 63 + rx))
        let src ← addresses s.ctx .read xb len false
        let bytes ← scalarBytes src
        let dst ← addresses s.ctx .write xa len false
        modify (fun s => (s.bring [⟨g.id, rx⟩] .exchange (sentWords s ⟨g.id, rx⟩ (dst.zip bytes))).modHartOf ⟨g.id, rx⟩
          (fun h => { h with incoming := h.incoming + len }))
        done1) s

/-- The plan cannot be read: every hart of the gang takes the fault at its TSYNC of the step, those that wait in it at once
(02:R57). -/
def planFails (s : State) (g : BitVec 32) (p : Cause × Word) : State :=
  let waits (h : Hart) : Bool := h.waitOn == some .tsync && h.stepDone
  let s1 := s.modHarts (fun h => h.id.gang == g && !h.ended && !waits h) (fun h => { h with planFault := some p })
  ((s1.gangHarts g).filter waits).foldl (fun s h => s.asHart h.id (fun s => enterTrap s p.1 p.2 s.hart.pc)) s1
/-- The fault of the step that the acting hart has still to take; then the plan is read again (02:R57). -/
def planCheck (g : Gang) : M Unit := do
  match (← getHart).planFault with
  | some p =>
    modHart (fun h => { h with planFault := none })
    trapM p.1 p.2
  | none =>
    let s ← get
    set (s.seePlan g 0 g.harts)
    match planCounts s g with
    | .ok _ => pure ()
    | .error p =>
      modify (fun s => planFails s g.id p)
      modHart (fun h => { h with planFault := none })
      trapM p.1 p.2
/-- 15:R462: the arrival at the step barrier, or the declaration that sending is finished. -/
def execTsync (s : State) : Host.Outcome State Fault Refusal :=
  runInstr (do
    needT .tsync
    match s.gang s.hart.id.gang with
    | none => done1
    | some g =>
      if g.stepKind == .exchange then planCheck g
      modHart (fun h => { h.waitHere .tsync with stepDone := true })
      modify (fun s => tsyncCheck s g.id)) s

end Sys2Proof.Machine
end

