-- ==== Sys2Proof/Machine/Uses.lean ====
section
/-! DEFINITION. Which registers and sections a vector instruction reads and writes (05:R163, R164; 16:R465), and what it
captures (07:R208). -/
namespace Sys2Proof.Machine
open Sys2Proof

def vsrcRegs : VSrc → List Reg
  | .vv b => [b]
  | _ => []
def fsrcRegs : FSrc → List Reg
  | .vv b => [b]
  | _ => []

/-- The v registers an instruction reads as sources. -/
def vSrcs : Instr → List Reg
  | .vldx _ _ i _ _ _ => [i]
  | .vst s _ _ _ | .vsts s _ _ _ _ => [s]
  | .vstx s _ i _ _ => [s, i]
  | .vadd _ a b _ | .vsub _ a b _ | .vmul _ a b _ | .vmulh _ a b _ | .vand _ a b _ | .vor _ a b _ | .vxor _ a b _
  | .vshl _ a b _ | .vshr _ a b _ | .vsar _ a b _ | .vmin _ a b _ | .vmax _ a b _ | .vsadd _ a b _
  | .vssub _ a b _ => a :: vsrcRegs b
  | .vcmp _ a b _ _ => a :: vsrcRegs b
  | .vfadd _ a b _ _ | .vfsub _ a b _ _ | .vfmul _ a b _ _ | .vfdiv _ a b _ _ => a :: fsrcRegs b
  | .vfmin _ a b _ | .vfmax _ a b _ => a :: fsrcRegs b
  | .vfma _ a b _ _ => a :: (match b with | .vv x y => [x, y] | .vf _ y => [y])
  | .vfsqrt _ a _ _ | .vfexp2 _ a _ _ | .vfrcp _ a _ _ => [a]
  | .vcvt _ a _ _ _ | .vqenc _ a _ | .vqdec _ a _ | .vhbfly _ a _ _ _ | .vscale _ a _ _ _ => [a]
  | .vperm _ a b _ | .vmerge _ a b _ => [a, b]
  | .vslide _ a _ _ _ | .vcompr _ a _ | .vmvx _ a _ => [a]
  | .vred d a _ _ _ _ _ => [d, a]
  | .vscan _ a _ _ _ _ _ => [a]
  | .vamo _ a i _ _ _ _ _ _ | .vamom _ a i _ _ _ _ _ _ => [a, i]
  | .mma _ a b _ _ => a :: (List.range 8).map (fun k => b + BitVec.ofNat 5 k)
  | .mwr a _ _ => [a]
  | .xproj _ a _ _ => [a]
  | .xprojb _ a b _ _ => [a, b]
  | _ => []

/-- The v register an instruction writes. -/
def vDst : Instr → Option Reg
  | .vld d _ _ _ _ | .vlds d _ _ _ _ _ | .vldx d _ _ _ _ _ => some d
  | .vadd d .. | .vsub d .. | .vmul d .. | .vmulh d .. | .vand d .. | .vor d .. | .vxor d .. | .vshl d .. | .vshr d ..
  | .vsar d .. | .vmin d .. | .vmax d .. | .vsadd d .. | .vssub d .. => some d
  | .vfadd d .. | .vfsub d .. | .vfmul d .. | .vfdiv d .. | .vfma d .. | .vfsqrt d .. | .vfmin d .. | .vfmax d ..
  | .vfexp2 d .. | .vfrcp d .. => some d
  | .vcvt d .. | .vqenc d .. | .vqdec d .. | .vhbfly d .. | .vscale d .. => some d
  | .vperm d .. | .vslide d .. | .vsplat d .. | .vmerge d .. | .vcompr d .. | .vidx d .. | .vmxv d .. => some d
  | .vred d .. | .vscan d .. | .mrd d .. => some d
  | .vamo d _ _ _ _ _ ret _ _ | .vamom d _ _ _ _ _ ret _ _ => if ret then some d else none
  | _ => none

/-- The mask registers an instruction reads: its predicate or selector, and its sources. -/
def kSrcs : Instr → List (BitVec 3)
  | .vld _ _ _ _ m | .vlds _ _ _ _ _ m | .vldx _ _ _ _ _ m => [m.k]
  | .vst _ _ _ k | .vsts _ _ _ _ k | .vstx _ _ _ _ k => [k]
  | .vadd _ _ _ m | .vsub _ _ _ m | .vmul _ _ _ m | .vmulh _ _ _ m | .vand _ _ _ m | .vor _ _ _ m | .vxor _ _ _ m
  | .vshl _ _ _ m | .vshr _ _ _ m | .vsar _ _ _ m | .vmin _ _ _ m | .vmax _ _ _ m | .vsadd _ _ _ m
  | .vssub _ _ _ m => [m.k]
  | .vfadd _ _ _ _ m | .vfsub _ _ _ _ m | .vfmul _ _ _ _ m | .vfdiv _ _ _ _ m | .vfma _ _ _ _ m => [m.k]
  | .vfsqrt _ _ _ m | .vfexp2 _ _ _ m | .vfrcp _ _ _ m | .vfmin _ _ _ m | .vfmax _ _ _ m => [m.k]
  | .vcvt _ _ _ _ m | .vhbfly _ _ _ _ m | .vscale _ _ _ _ m | .vqenc _ _ m | .vqdec _ _ m => [m.k]
  | .vperm _ _ _ m | .vslide _ _ _ _ m | .vsplat _ _ m | .vcompr _ _ m | .vidx _ m => [m.k]
  | .vmerge _ _ _ k => [k]
  | .vcmp _ _ _ _ m => [m.k]
  | .kop _ a b _ m => [a, b, m.k]
  | .kmov _ a m => [a, m.k]
  | .kpopc _ a k | .kfirst _ a k => [a, k]
  | .vred _ _ _ _ _ _ k => [k]
  | .vscan _ _ _ _ _ _ m => [m.k]
  | .vamo _ _ _ _ _ _ _ _ k | .vamom _ _ _ _ _ _ _ _ k => [k]
  | .mrd _ _ _ _ k => [k]
  | _ => []
/-- The mask register an instruction writes. -/
def kDst : Instr → Option (BitVec 3)
  | .vcmp d .. | .kop d .. | .kmov d .. => some d
  | _ => none
/-- The accumulator tiles an instruction uses, and whether it writes them. -/
def tiles : Instr → List (BitVec 2 × Bool)
  | .mzero d | .mma d .. | .mwr _ d _ | .xproj d .. | .xprojb d .. | .xhload d .. => [(d, true)]
  | .mrd _ s .. | .xhstore s .. => [(s, false)]
  | .xmerge d a => [(d, true), (a, false)]
  | _ => []

/-- Whether VTYPE's scales make an instruction read a scale (05:R164; 06:R184). -/
def readsScales (t : VType) : Instr → Bool
  | .mma .. => (t.sa || t.sb) && etScaled t.et
  | .vcvt _ _ e _ _ => (t.sa && etScaled t.et) || (t.sb && etScaled e)
  | .vqenc .. => (t.sa && etScaled t.et) || t.sb
  | .vqdec .. => t.sa || (t.sb && etScaled t.et)
  | .vscale .. | .scld .. | .scst .. => true
  | _ => false
/-- Whether an instruction decodes or encodes code8, or names the table (05:R164). -/
def readsTable (t : VType) : Instr → Bool
  | .mma .. | .mrd .. => t.et == .code8
  | .vcvt _ _ e _ _ => t.et == .code8 || e == .code8
  | .vqenc .. | .vqdec .. | .ctld .. | .ctst .. => true
  | _ => false
def usesShadow : Instr → Bool
  | .vred .. | .vscan .. => true
  | _ => false

def secBit (n : Nat) : BitVec 12 := BitVec.ofNat 12 (2 ^ n)
/-- Section of a v register (05:R163). -/
def vSec (r : Reg) : BitVec 12 := secBit (r.toNat / 8)
def orAll (l : List (BitVec 12)) : BitVec 12 := l.foldl (· ||| ·) 0
def secIf (c : Bool) (n : Nat) : BitVec 12 := if c then secBit n else 0

/-- Sections an instruction uses under a VTYPE (05:R164); VSAVE and VRSTR take no LAZY. -/
def sections (t : VType) (i : Instr) : BitVec 12 :=
  orAll ((vSrcs i).map vSec) ||| (match vDst i with | some d => vSec d | none => 0) |||
  orAll ((tiles i).map (fun p => secBit (4 + p.1.toNat))) |||
  secIf ((kSrcs i).any (· != 0) || (kDst i).isSome) 8 ||| secIf (readsScales t i) 9 ||| secIf (readsTable t i) 10 |||
  secIf (usesShadow i) 11
/-- Sections whose VDIRTY and LIVE bits it sets when it commits or stops (05:R163); a write of k0 sets none. -/
def marks (i : Instr) : BitVec 12 :=
  (match vDst i with | some d => vSec d | none => 0) |||
  orAll ((tiles i).map (fun p => if p.2 then secBit (4 + p.1.toNat) else 0)) |||
  secIf (match kDst i with | some k => k != 0 | none => false) 8 |||
  (match i with | .scld .. => secBit 9 | .ctld .. => secBit 10 | _ => 0)
def Hart.mark (h : Hart) (m : BitVec 12) : Hart := { h with vdirty := h.vdirty ||| m, live := h.live ||| m }

/-- Vector accesses a VFENCE.vs waits for (10:R274, 16:R482). -/
def isVAccess : Instr → Bool
  | .vld .. | .vlds .. | .vldx .. | .vst .. | .vsts .. | .vstx .. | .vsave .. | .vrstr .. | .vamo .. | .vamom ..
  | .scld .. | .scst .. | .ctld .. | .ctst .. | .xproj .. | .xprojb .. | .xhload .. | .xhstore .. | .cpywt ..
  | .colwait .. => true
  | _ => false

/-- The x register whose value is captured (07:R208, 13:R388). -/
def captureX : Instr → Option Reg
  | .vld _ s _ _ _ | .vlds _ s _ _ _ _ | .vldx _ s _ _ _ _ | .vst _ s _ _ | .vsts _ s _ _ _ | .vstx _ s _ _ _ => some s
  | .vsave s _ | .vrstr s _ => some s
  | .vadd _ _ (.vx x) _ | .vsub _ _ (.vx x) _ | .vmul _ _ (.vx x) _ | .vmulh _ _ (.vx x) _ | .vand _ _ (.vx x) _
  | .vor _ _ (.vx x) _ | .vxor _ _ (.vx x) _ | .vshl _ _ (.vx x) _ | .vshr _ _ (.vx x) _ | .vsar _ _ (.vx x) _
  | .vmin _ _ (.vx x) _ | .vmax _ _ (.vx x) _ | .vsadd _ _ (.vx x) _ | .vssub _ _ (.vx x) _ => some x
  | .vcmp _ _ (.vx x) _ _ => some x
  | .vslide _ _ x _ _ | .vsplat _ x _ | .vmxv _ x _ => some x
  | .vamo _ _ _ s _ _ _ _ _ | .vamom _ _ _ s _ _ _ _ _ => some s
  | .xproj _ _ s _ | .xprojb _ _ _ s _ | .xhload _ s _ | .xhstore _ s _ => some s
  | .scld _ s _ _ | .scst _ s _ _ | .ctld s _ | .ctst s _ => some s
  | .cpy _ s _ _ | .cpywt s | .cpycan s | .colbind _ s | .vloop s _ => some s
  | _ => none
/-- The f register whose value is captured. -/
def captureF : Instr → Option Reg
  | .vfadd _ _ (.vf f) _ _ | .vfsub _ _ (.vf f) _ _ | .vfmul _ _ (.vf f) _ _ | .vfdiv _ _ (.vf f) _ _
  | .vfmin _ _ (.vf f) _ | .vfmax _ _ (.vf f) _ | .vfma _ _ (.vf f _) _ _ => some f
  | _ => none
/-- The x register captured in the continuation. -/
def captureCont : Instr → Option Reg
  | .vlds _ _ t _ _ _ | .vsts _ _ t _ _ | .scld _ _ t _ | .scst _ _ t _ => some t
  | _ => none

/-- OPND of 07:R208; the markers' values are given where they are posted. -/
def capture (h : Hart) (i : Instr) : Word :=
  match captureX i with
  | some r => (match i with | .vloop .. => ((h.getX r).setWidth 32).setWidth 64 | _ => h.getX r)
  | none =>
    match captureF i with
    | some r => h.getF r
    | none => 0
def entryAt (h : Hart) (i : Instr) (pc : Word) : QEntry :=
  ⟨BitVec.ofNat 54 (pc.toNat / 4), headOf i, tailOf i, .ok i, capture h i, (captureCont i).map h.getX, false, h.stores⟩

end Sys2Proof.Machine
end

