-- ==== Sys2Proof/Machine/Time.lean ====
section
/-! DEFINITION. Time and the WAITMAX counts (05:R158; 12:R352): what the vector side waits for at VCP, and how long each side has
waited. -/
namespace Sys2Proof.Machine
open Sys2Proof

/-! ## The instruction at VCP -/

/-- Body entries of the loop at VCP. -/
def bodyOf (q : QEntry) (t : List QEntry) : Option (List QEntry) :=
  match q.op with
  | .ok (.vloop _ n) => some (t.take (n.toNat + 1))
  | _ => none
/-- The entry in progress: the loop's member while one is open. -/
def Hart.atVcp (h : Hart) : Option QEntry :=
  match h.vq with
  | [] => none
  | q :: t =>
    match bodyOf q t with
    | some body => if h.lix.act then some (body.getD h.lix.member.toNat q) else some q
    | none => some q
def QEntry.at (q : QEntry) : Word := q.addr.setWidth 64 <<< 2

/-! ## What it waits for -/

/-- Bindings whose register an instruction reads. -/
def Hart.boundSrcs (h : Hart) (i : Instr) : List Binding := h.bindings.filter (fun b => (vSrcs i).contains b.vd)
/-- Mask bits below VL that are marked expected (11:R305). -/
def Hart.expectedBelow (h : Hart) (k : BitVec 3) : Nat :=
  ((List.range h.vc.vl.toNat).filter (fun i => (h.expected[k.toNat]'k.isLt).getLsbD i)).length
/-- A mask under which a vector load waits for expected bits. -/
def acqMask : Instr → Option (BitVec 3)
  | .vld _ _ _ true m | .vlds _ _ _ _ true m | .vldx _ _ _ _ true m => some m.k
  | _ => none
/-- The instruction at VCP is an .acq load with expected bits, which has not started (11:R305). -/
def Hart.waitsAcq (h : Hart) : Bool :=
  match h.atVcp with
  | some q => (match q.op with | .ok i => (match acqMask i with | some k => h.expectedBelow k != 0 | none => false) | .bad => false)
  | none => false
/-- TRAPV of the vector side's wait at VCP: a bound read, an .acq load, CPYWT, COLWAIT; a T hart waits in CPYWT at issue. -/
def vectorTimeout (h : Hart) : Option Word :=
  let busy (tag : Word) : Option Word := if h.copies.any (fun c => c.tag.setWidth 64 == tag && c.err.isNone) then some tag else none
  match h.waitOn, h.atVcp with
  | some (.cpywt t), _ => busy (h.getX t)
  | _, some q =>
    match q.op with
    | .bad => none
    | .ok i =>
      match (h.boundSrcs i).find? (fun b => decide (b.reduced.length ≤ b.recv)) with
      | some b => some (BitVec.ofNat 64 b.recv)
      | none =>
        match i with
        | .cpywt _ => busy q.opnd
        | .colwait d =>
          (match h.bindings.find? (fun b => b.vd == d) with
            | some b => if b.reduced.length < b.count then some (BitVec.ofNat 64 (b.count - b.reduced.length)) else none
            | none => none)
        | _ =>
          match acqMask i with
          | some k => if h.expectedBelow k != 0 then some (BitVec.ofNat 64 (h.expectedBelow k)) else none
          | none => none
  | _, none => none

/-! ## The counts (12:R352) -/

/-- The scalar side waits in an instruction that counts. -/
def Hart.scalarWaits (h : Hart) : Bool :=
  match h.waitOn with
  | some (.waitsig ..) | some (.semts _) | some .gbar | some .tsync => true
  | _ => false
/-- The vector side's count starts anew at another address. -/
def Hart.waitVcp (h : Hart) : Hart :=
  match h.atVcp with
  | none => h
  | some q =>
    if (vectorTimeout h).isNone then h
    else { h with waitV := if h.waitV.addr == some q.at then h.waitV else ⟨some q.at, 0⟩ }
/-- A count after ns more nanoseconds: WAITTIMEOUT comes before the count is LIMIT + 1 microseconds. -/
def WaitCount.grown (w : WaitCount) (limit : BitVec 32) (ns : Nat) : WaitCount :=
  { w with ns := if limit = 0 then w.ns + ns else min (w.ns + ns) (max w.ns (1000 * limit.toNat + 999)) }
/-- The counts of a hart after ns nanoseconds: each grows while its side waits and the hart is resident. -/
def Hart.lapse (h : Hart) (ns : Nat) : Hart :=
  if !h.resident then h
  else
    let h1 := if h.scalarWaits then { h with waitS := h.waitS.grown h.waitmax ns } else h
    if (vectorTimeout h).isSome then { h1 with waitV := h1.waitV.grown h.waitmax ns } else h1
/-- Nanoseconds pass; TIME never decreases (05:R158). -/
def State.lapse (s : State) (ns : Nat) : State :=
  ({ s with time := BitVec.ofNat 64 (min (2 ^ 64 - 1) (s.time.toNat + ns)) } : State).modHarts (fun _ => true) (·.lapse ns)
/-- Time has come at least this far. -/
def State.until (s : State) (ns : Nat) : State := s.lapse (ns - s.time.toNat)
/-- Some nanoseconds and cycles pass: TIME and CYCLE depend on timing alone (01:R23). -/
def State.passTime (s : State) : State :=
  let c := BitVec.ofNat 64 (Config.cycleStep s.tick)
  (s.lapse (Config.timeStep s.tick)).modHarts (·.resident) (fun h => { h with cycle := h.cycle + c })

end Sys2Proof.Machine
end

