-- ==== Sys2Proof/Machine/VFrame.lean ====
section
/-! DEFINITION. The frames of the vector instructions at VCP (07:R205, R206; 16:R464, R465, R476; 06:R178, R181). A vop
works on the acting hart's registers under VL, VTYPE and MR at VCP, from VES upward, and stops with VES at the element
that traps. -/
namespace Sys2Proof.Machine
open Sys2Proof

/-- Element i is not masked off (16:R464). -/
def Hart.active (h : Hart) (k : BitVec 3) (i : Nat) : Bool := k == 0 || (h.getK k).getLsbD i
def Hart.vlN (h : Hart) : Nat := h.vc.vl.toNat
def Hart.et (h : Hart) : ET := h.vc.vt.et
def Hart.sew (h : Hart) : Nat := etSew h.et
/-- The mode an rm field names (04:R112). -/
def Hart.rmOf (h : Hart) (r : RmDyn) : Rm :=
  match r with
  | .st m => m
  | .dyn => h.vc.vt.rm
/-- ILLEGAL at VCP with the entry's parcels (04:R133, 16:R465). -/
def QEntry.illegalV (q : QEntry) : Word :=
  ((if isLong q.head then q.tail.setWidth 64 else 0) <<< 32) ||| q.head.setWidth 64
def needVcp (q : QEntry) (ok : Bool) : M Unit := do
  if !ok then
    modHart (fun h => { h with ves := 0 })
    trapM .illegal q.illegalV
/-- E3M2 and E2M3 containers are written with bits [7:6] zero (06:R172). -/
def trimElt (t : ET) (x : Nat) : Nat := if t == .e3m2 || t == .e2m3 then x % 64 else x

/-- What a loop over elements has formed: the destination, the flags and the generator. -/
structure ElemAcc where
  v : Nat
  fl : Flags
  seed : Word
  deriving DecidableEq, Repr

/-- A loop over elements from i upward (16:R464): f gives element i's bits, flags and the generator after it, from the
destination as it stands; the first element that raises an enabled flag stops it, unwritten and undrawn (06:R178,
R181). -/
def elemGo (w : Nat) (act : Nat → Bool) (kz : Bool) (en : Flags) (f : Nat → Nat → Word → Nat × Flags × Word) :
    Nat → Nat → ElemAcc → ElemAcc × Option (Nat × Flags)
  | 0, _, a => (a, none)
  | n + 1, i, a =>
    if act i then
      let r := f i a.v a.seed
      if trapping en r.2.1 != 0 then ({ a with fl := a.fl ||| r.2.1 }, some (i, trapping en r.2.1))
      else elemGo w act kz en f n (i + 1) ⟨putE w a.v i r.1, a.fl ||| r.2.1, r.2.2⟩
    else elemGo w act kz en f n (i + 1) (if kz then { a with v := putE w a.v i 0 } else a)

/-- Elements of one hart element group (07:R212). -/
def Hart.groupElts (h : Hart) : Nat := max 1 (512 * h.lg / h.sew)
/-- The unit at which the instruction at VCP ends in this turn of the vector side: its last, or the stop point at which it
rests (07:R206). -/
def Hart.unitEnd (h : Hart) (grain total : Nat) : Nat :=
  match h.rest with
  | some (0, u) => min total ((h.ves.toNat + u + grain - 1) / grain * grain)
  | _ => total
/-- An instruction whose end in this turn lies before its last unit rests there. -/
def restAt (e total : Nat) : M Unit := do
  if e < total then
    modHart (fun h => { h with ves := BitVec.ofNat 32 e })
    waitM

/-- FPTRAP at result e with the instruction stopped there (06:R181). -/
def fpStop {α : Type} (e : Nat) (fl : Flags) : M α := do
  modHart (fun h => { h with ves := BitVec.ofNat 32 e })
  trapM .fptrap (BitVec.ofNat 64 (e * 2 ^ 32 + fl.toNat))

/-- An element-wise write of vd at width w. -/
def elementwise (i : Instr) (d : Reg) (w : Nat) (m : Pred) (f : Nat → Nat → Word → Nat × Flags × Word) : M Unit := do
  let h ← getHart
  let ves := h.ves.toNat
  let e := h.unitEnd h.groupElts h.vlN
  let r := elemGo w (h.active m.k) m.kz h.fen f (e - ves) ves ⟨(h.getV d).toNat, 0, h.srseed⟩
  modHart (fun h => { (h.setV d (BitVec.ofNat 16384 r.1.v)).mark (marks i) with
                      fflags := h.fflags ||| r.1.fl, srseed := r.1.seed })
  match r.2 with
  | none => restAt e h.vlN
  | some (e, t) => fpStop e t

/-- The operand bits of a v register, live where it is the destination. -/
def Hart.live? (h : Hart) (d r : Reg) (cur : Nat) : Nat := if r == d then cur else (h.getV r).toNat

/-- A pure result without flags. -/
def plainF (f : Nat → Nat → Nat) : Nat → Nat → Word → Nat × Flags × Word := fun i cur seed => (f i cur, 0, seed)
/-- A rounded result with its draw (06:R178). -/
def roundedF (mode : Rm) (f : Nat → Nat → Nat → Nat × Flags) : Nat → Nat → Word → Nat × Flags × Word :=
  fun i cur seed =>
    let dr := drawFor mode seed
    let r := f i cur dr.1
    (r.1, r.2, dr.2)

/-- A whole destination built from element results, written at once by an instruction without stop points: element i
gets `f i` where active, and zero or its old value otherwise. -/
def wholeV (w : Nat) (act : Nat → Bool) (kz : Bool) (f : Nat → Option Nat) : Nat → Nat → Nat → Nat
  | 0, _, v => v
  | n + 1, i, v =>
    wholeV w act kz f n (i + 1)
      (if act i then
        match f i with
        | some x => putE w v i x
        | none => v
      else if kz then putE w v i 0 else v)
def writeWhole (i : Instr) (d : Reg) (w : Nat) (m : Pred) (f : Nat → Option Nat) : M Unit :=
  modHart (fun h =>
    (h.setV d (BitVec.ofNat 16384 (wholeV w (h.active m.k) m.kz f h.vlN 0 (h.getV d).toNat))).mark (marks i))

/-- An element-wise write of a k register; on completion bits VL and above are zero (05:R149). -/
def elementwiseK (i : Instr) (d : BitVec 3) (m : Pred) (f : Nat → Nat → Word → Nat × Flags × Word) : M Unit := do
  let h ← getHart
  let ves := h.ves.toNat
  let e := h.unitEnd h.groupElts h.vlN
  let r := elemGo 1 (h.active m.k) m.kz h.fen f (e - ves) ves ⟨(h.getK d).toNat, 0, h.srseed⟩
  let v := if r.2.isNone && e == h.vlN then r.1.v % 2 ^ h.vlN else r.1.v
  modHart (fun h => { (h.setK d (BitVec.ofNat 4096 v)).mark (marks i) with
                      fflags := h.fflags ||| r.1.fl, srseed := r.1.seed })
  match r.2 with
  | none => restAt e h.vlN
  | some (e, t) => fpStop e t

end Sys2Proof.Machine
end

