-- ==== Sys2Proof/Machine/VFp.lean ====
section
/-! DEFINITION. Floating element-wise operations, major 50 (16:R478-R480), at VCP. -/
namespace Sys2Proof.Machine
open Sys2Proof

/-- The IEEE format of a type (fp64 where it is none: the frame has checked). -/
def etFmt (e : ET) : Fmt := match etKind e with | .flt f => f | _ => fmt64

/-- Element i of a register as a value; subnormals read as zero under FTZ (06:R179). -/
def Hart.fElt (h : Hart) (d r : Reg) (cur i : Nat) : FV :=
  decodeF (etFmt h.et) h.ftz (getE h.sew (h.live? d r cur) i)
/-- The captured f operand, read as ET (16:R464). -/
def Hart.fScalar (h : Hart) (q : QEntry) : FV := decodeF (etFmt h.et) h.ftz (q.opnd.toNat % 2 ^ h.sew)
def Hart.fOpB (h : Hart) (q : QEntry) (d : Reg) (b : FSrc) (cur i : Nat) : FV :=
  match b with
  | .vv r => h.fElt d r cur i
  | .vf _ => h.fScalar q

/-- The frame of 16:R478: the exact value v of each active element is rounded once into ET. -/
def fpOp (ins : Instr) (types : ET → Bool) (d : Reg) (mode : Hart → Rm) (m : Pred) (q : QEntry)
    (v : Hart → Nat → Nat → FV × Flags) : M Unit := do
  let h ← getHart
  needVcp q (types h.et)
  elementwise ins d h.sew m (roundedF (mode h) (fun i cur dr =>
    let x := v h cur i
    let r := roundTo (etFmt h.et) (mode h) h.ftz dr x.1
    (r.1, r.2 ||| x.2)))

/-- Two-operand operations (16:R479). -/
def fpOp2 (ins : Instr) (f : Rm → FV → FV → FV × Flags) (d a : Reg) (b : FSrc) (r : RmDyn) (m : Pred) (q : QEntry) :
    M Unit :=
  fpOp ins etIsIeee d (fun h => h.rmOf r) m q (fun h cur i => f (h.rmOf r) (h.fElt d a cur i) (h.fOpB q d b cur i))
/-- VFMIN and VFMAX have no rounding and make no draw (16:R478). -/
def fpMinMax (ins : Instr) (mx : Bool) (d a : Reg) (b : FSrc) (m : Pred) (q : QEntry) : M Unit :=
  fpOp ins etIsIeee d (fun _ => .rne) m q (fun h cur i => maxMinF mx (h.fElt d a cur i) (h.fOpB q d b cur i))
/-- One-operand operations. -/
def fpOp1 (ins : Instr) (types : ET → Bool) (f : FV → FV × Flags) (d a : Reg) (r : RmDyn) (m : Pred) (q : QEntry) :
    M Unit :=
  fpOp ins types d (fun h => h.rmOf r) m q (fun h cur i => f (h.fElt d a cur i))

/-- VFMA (16:R478): va * vb + vc, or va * fs + vb. -/
def vopFma (ins : Instr) (d a : Reg) (b : FmaSrc) (r : RmDyn) (m : Pred) (q : QEntry) : M Unit :=
  fpOp ins etIsIeee d (fun h => h.rmOf r) m q (fun h cur i =>
    match b with
    | .vv x y => fmaF (h.rmOf r) (h.fElt d a cur i) (h.fElt d x cur i) (h.fElt d y cur i)
    | .vf _ y => fmaF (h.rmOf r) (h.fElt d a cur i) (h.fScalar q) (h.fElt d y cur i))

/-- 1 / a (16:R479, R480). -/
def rcpF (a : FV) : FV × Flags := divF (.fin false 1 0) a
/-- VFEXP2's types (06:R196). -/
def exp2Types : ET → Bool
  | .fp32 | .fp16 | .bf16 => true
  | _ => false

/-! The ten operations (16:R479). -/

def vopVfadd (d a : Reg) (b : FSrc) (r : RmDyn) (m : Pred) (q : QEntry) : M Unit :=
  fpOp2 (.vfadd d a b r m) addF d a b r m q
def vopVfsub (d a : Reg) (b : FSrc) (r : RmDyn) (m : Pred) (q : QEntry) : M Unit :=
  fpOp2 (.vfsub d a b r m) subF d a b r m q
def vopVfmul (d a : Reg) (b : FSrc) (r : RmDyn) (m : Pred) (q : QEntry) : M Unit :=
  fpOp2 (.vfmul d a b r m) (fun _ => mulF) d a b r m q
def vopVfdiv (d a : Reg) (b : FSrc) (r : RmDyn) (m : Pred) (q : QEntry) : M Unit :=
  fpOp2 (.vfdiv d a b r m) (fun _ => divF) d a b r m q
def vopVfma (d a : Reg) (b : FmaSrc) (r : RmDyn) (m : Pred) (q : QEntry) : M Unit :=
  vopFma (.vfma d a b r m) d a b r m q
def vopVfmin (d a : Reg) (b : FSrc) (m : Pred) (q : QEntry) : M Unit := fpMinMax (.vfmin d a b m) false d a b m q
def vopVfmax (d a : Reg) (b : FSrc) (m : Pred) (q : QEntry) : M Unit := fpMinMax (.vfmax d a b m) true d a b m q
def vopVfsqrt (d a : Reg) (r : RmDyn) (m : Pred) (q : QEntry) : M Unit := fpOp1 (.vfsqrt d a r m) etIsIeee sqrtF d a r m q
def vopVfexp2 (d a : Reg) (r : RmDyn) (m : Pred) (q : QEntry) : M Unit := fpOp1 (.vfexp2 d a r m) exp2Types exp2F d a r m q
def vopVfrcp (d a : Reg) (r : RmDyn) (m : Pred) (q : QEntry) : M Unit := fpOp1 (.vfrcp d a r m) etIsIeee rcpF d a r m q

end Sys2Proof.Machine
end

