-- ==== Sys2Proof/Machine/VInt.lean ====
section
/-! DEFINITION. Integer element-wise operations, major 49 (16:R466-R468), at VCP. -/
namespace Sys2Proof.Machine
open Sys2Proof

def etSigned (e : ET) : Bool := match etKind e with | .int s => s | _ => false

/-- Operand b of element i (16:R464). -/
def Hart.opB (h : Hart) (q : QEntry) (d : Reg) (b : VSrc) (i cur : Nat) : Nat :=
  match b with
  | .vv r => getE h.sew (h.live? d r cur) i
  | .vx _ => q.opnd.toNat % 2 ^ h.sew
  | .vi imm => wrapInt h.sew imm.toInt

/-- An operation of the family on containers of w bits. -/
abbrev IntOp := Bool → Nat → Nat → Nat → Nat

/-- The frame of 16:R466: ET must be an integer type. -/
def intOp (ins : Instr) (op : IntOp) (d a : Reg) (b : VSrc) (m : Pred) (q : QEntry) : M Unit := do
  let h ← getHart
  needVcp q (etIsInt h.et)
  elementwise ins d h.sew m (plainF (fun i cur =>
    op (etSigned h.et) h.sew (getE h.sew (h.live? d a cur) i) (h.opB q d b i cur)))

/-- Clamping to the range of the type. -/
def clampInt (sg : Bool) (w : Nat) (x : Int) : Nat := wrapInt w (max (intMin sg w) (min (intMax sg w) x))

/-- The results of 16:R467. -/
def iAdd : IntOp := fun _ w a b => (a + b) % 2 ^ w
def iSub : IntOp := fun _ w a b => (a + 2 ^ w - b) % 2 ^ w
def iMul : IntOp := fun _ w a b => a * b % 2 ^ w
def iMulh : IntOp := fun sg w a b => wrapInt w (readInt sg w a * readInt sg w b / (2 ^ w : Nat))
def iAnd : IntOp := fun _ _ a b => a &&& b
def iOr : IntOp := fun _ _ a b => a ||| b
def iXor : IntOp := fun _ _ a b => a ^^^ b
def iShl : IntOp := fun _ w a b => a * 2 ^ (b % w) % 2 ^ w
def iShr : IntOp := fun _ w a b => a / 2 ^ (b % w)
def iSar : IntOp := fun _ w a b => wrapInt w (readInt true w a / (2 ^ (b % w) : Nat))
def iMin : IntOp := fun sg w a b => if readInt sg w a ≤ readInt sg w b then a else b
def iMax : IntOp := fun sg w a b => if readInt sg w b ≤ readInt sg w a then a else b
def iSadd : IntOp := fun sg w a b => clampInt sg w (readInt sg w a + readInt sg w b)
def iSsub : IntOp := fun sg w a b => clampInt sg w (readInt sg w a - readInt sg w b)

/-! The fourteen operations (16:R466, R467). -/

def vopVadd (d a : Reg) (b : VSrc) (m : Pred) (q : QEntry) : M Unit := intOp (.vadd d a b m) iAdd d a b m q
def vopVsub (d a : Reg) (b : VSrc) (m : Pred) (q : QEntry) : M Unit := intOp (.vsub d a b m) iSub d a b m q
def vopVmul (d a : Reg) (b : VSrc) (m : Pred) (q : QEntry) : M Unit := intOp (.vmul d a b m) iMul d a b m q
def vopVmulh (d a : Reg) (b : VSrc) (m : Pred) (q : QEntry) : M Unit := intOp (.vmulh d a b m) iMulh d a b m q
def vopVand (d a : Reg) (b : VSrc) (m : Pred) (q : QEntry) : M Unit := intOp (.vand d a b m) iAnd d a b m q
def vopVor (d a : Reg) (b : VSrc) (m : Pred) (q : QEntry) : M Unit := intOp (.vor d a b m) iOr d a b m q
def vopVxor (d a : Reg) (b : VSrc) (m : Pred) (q : QEntry) : M Unit := intOp (.vxor d a b m) iXor d a b m q
def vopVshl (d a : Reg) (b : VSrc) (m : Pred) (q : QEntry) : M Unit := intOp (.vshl d a b m) iShl d a b m q
def vopVshr (d a : Reg) (b : VSrc) (m : Pred) (q : QEntry) : M Unit := intOp (.vshr d a b m) iShr d a b m q
def vopVsar (d a : Reg) (b : VSrc) (m : Pred) (q : QEntry) : M Unit := intOp (.vsar d a b m) iSar d a b m q
def vopVmin (d a : Reg) (b : VSrc) (m : Pred) (q : QEntry) : M Unit := intOp (.vmin d a b m) iMin d a b m q
def vopVmax (d a : Reg) (b : VSrc) (m : Pred) (q : QEntry) : M Unit := intOp (.vmax d a b m) iMax d a b m q
def vopVsadd (d a : Reg) (b : VSrc) (m : Pred) (q : QEntry) : M Unit := intOp (.vsadd d a b m) iSadd d a b m q
def vopVssub (d a : Reg) (b : VSrc) (m : Pred) (q : QEntry) : M Unit := intOp (.vssub d a b m) iSsub d a b m q

end Sys2Proof.Machine
end

