-- ==== Sys2Proof/Machine/VConv.lean ====
section
/-! DEFINITION. The converter's instructions, major 51 (16:R476, R477, R483; 17:R497, R498, R504), at VCP. -/
namespace Sys2Proof.Machine
open Sys2Proof

/-- FTZ reads a subnormal source of a conversion as zero except into an OCP format or CODE8 (06:R179). -/
def convFtz (dst : ET) (ftz : Bool) : Bool := ftz && (etIsIeee dst || etIsInt dst)
/-- Element n converted from type src to type dst (16:R477, 06:R187): bits and flags. -/
def Hart.convert (h : Hart) (src dst : ET) (mode : Rm) (n d b : Nat) : Nat × Flags :=
  let v := readElt src h.ct (convFtz dst h.ftz) b
  let v := if h.vc.vt.sa && etScaled src then scaled (scaleByte (h.getSc 0) h.vc.vt.bl n) v else v
  let v := if h.vc.vt.sb && etScaled dst then unscaled (scaleByte (h.getSc 1) h.vc.vt.bl n) v else v
  let r := writeElt dst h.ct mode h.ftz d v
  if etIsInt src && etIsInt dst then (r.1, flagIf (r.2 != 0) flagNX) else r
/-- The frame of 16:R476. -/
def convOp (ins : Instr) (src dst : ET) (mode : Rm) (d a : Reg) (m : Pred) (q : QEntry) : M Unit := do
  let h ← getHart
  needVcp q (decide (h.vlN * etSew src ≤ h.vlen) && decide (h.vlN * etSew dst ≤ h.vlen))
  elementwise ins d (etSew dst) m (roundedF mode (fun i cur dr =>
    h.convert src dst mode i dr (getE (etSew src) (h.live? d a cur) i)))

/-- 16:R477. -/
def vopVcvt (d a : Reg) (e : ET) (r : RmDyn) (m : Pred) (q : QEntry) : M Unit := do
  let h ← getHart
  convOp (.vcvt d a e r m) h.et e (h.rmOf r) d a m q
/-- 17:R498. -/
def vopVqenc (d a : Reg) (m : Pred) (q : QEntry) : M Unit := do
  let h ← getHart
  needVcp q (etIsIeee h.et)
  convOp (.vqenc d a m) h.et .code8 .rne d a m q
/-- 17:R497. -/
def vopVqdec (d a : Reg) (m : Pred) (q : QEntry) : M Unit := do
  let h ← getHart
  needVcp q (etIsIeee h.et)
  convOp (.vqdec d a m) .code8 h.et .rne d a m q
/-- 17:R504. -/
def vopVscale (d a : Reg) (sc : BitVec 2) (r : RmDyn) (m : Pred) (q : QEntry) : M Unit := do
  let h ← getHart
  needVcp q (etIsIeee h.et)
  elementwise (.vscale d a sc r m) d h.sew m (roundedF (h.rmOf r) (fun i cur dr =>
    roundTo (etFmt h.et) (h.rmOf r) h.ftz dr (scaled (scaleByte (h.getSc sc) h.vc.vt.bl i) (h.fElt d a cur i))))

/-- HadStage at element i (06:R191): x is the whole source as it stood. -/
def Hart.hadamard (h : Hart) (mode : Rm) (dist x i dr : Nat) : Nat × Flags :=
  let w := h.sew
  let j := i ^^^ dist
  if h.vlN ≤ j then (getE w x i, 0)
  else if etIsInt h.et then
    (if i &&& dist = 0 then iAdd false w (getE w x i) (getE w x j) else iSub false w (getE w x j) (getE w x i), 0)
  else
    let f := etFmt h.et
    let xi := decodeF f h.ftz (getE w x i)
    let xj := decodeF f h.ftz (getE w x j)
    let v := if i &&& dist = 0 then addF mode xi xj else subF mode xj xi
    let r := roundTo f mode h.ftz dr v.1
    (r.1, r.2 ||| v.2)
/-- 16:R483: a trap leaves vd, and the generator, as they stood. -/
def vopVhbfly (d a : Reg) (l : BitVec 5) (r : RmDyn) (m : Pred) (q : QEntry) : M Unit := do
  let h ← getHart
  needVcp q ((etIsIeee h.et || etIsInt h.et) && decide (2 ^ l.toNat * h.sew < h.vlen))
  let mode := if etIsInt h.et then .rne else h.rmOf r
  let x := (h.getV a).toNat
  let o := elemGo h.sew (h.active m.k) m.kz h.fen
    (roundedF mode (fun i _ dr => h.hadamard mode (2 ^ l.toNat) x i dr)) h.vlN 0 ⟨(h.getV d).toNat, 0, h.srseed⟩
  modHart (fun h => h.mark (marks (.vhbfly d a l r m)))
  match o.2 with
  | none =>
    modHart (fun h => { h.setV d (BitVec.ofNat 16384 o.1.v) with fflags := h.fflags ||| o.1.fl, srseed := o.1.seed })
  | some (e, t) =>
    let (_, own) := (h.hadamard mode (2 ^ l.toNat) x e
      (drawFor mode o.1.seed).1)
    modHart (fun h => { h with fflags := h.fflags ||| own, ves := 0 })
    trapM .fptrap (BitVec.ofNat 64 (e * 2 ^ 32 + t.toNat))

end Sys2Proof.Machine
end

