-- ==== Sys2Proof/Machine/Matrix.lean ====
section
/-! DEFINITION. Accumulator tiles, major 56 (14:R422-R425, R427, R428; 06:R186, R192), at VCP. Row ownership (07:R219) orders
what the queue already runs in order. -/
namespace Sys2Proof.Machine
open Sys2Proof

def accW : Acc → Nat
  | .fp64 => 64
  | _ => 32
def accFmt : Acc → Fmt
  | .fp64 => fmt64
  | _ => fmt32
/-- Types MMA takes with an accumulator type (14:R423). -/
def mmaTypes (e : ET) (a : Acc) : Bool :=
  match e, a with
  | .fp64, .fp64 => true
  | .int8, .int32 | .uint8, .int32 | .int4, .int32 | .uint4, .int32 => true
  | .fp64, _ | _, .int32 => false
  | e, _ => etKind e == .code || (match etKind e with | .flt _ => true | _ => false)
/-- VL fits a row of the accumulator (14:R423, R425, R427). -/
def Hart.rowFits (h : Hart) : Bool := decide (h.vlN * accW h.vc.vt.acc ≤ h.vlen)

/-- 14:R428. -/
def vopMzero (md : BitVec 2) (_ : QEntry) : M Unit := do
  let h ← getHart
  let e := h.unitEnd 1 h.vc.mr.toNat
  modHart (fun h =>
    ((List.range e).foldl (fun h r => if h.ves.toNat ≤ r then h.setM md r 0 else h) h).mark
      (marks (.mzero md)))
  restAt e h.vc.mr.toNat

/-- An operand element of MMA, scaled where its side is (06:R186). -/
def Hart.mmaElt (h : Hart) (on : Bool) (sc : BitVec 2) (n b : Nat) : FV :=
  let v := readElt h.et h.ct h.ftz b
  if on && etScaled h.et then scaled (scaleByte (h.getSc sc) h.vc.vt.bl n) v else v
/-- Elements of one row from j upward (06:R192): bits, or the enabled and all flags of the one that traps. -/
def mmaRow (f : Nat → Nat → Nat × Flags) (mode : Rm) (en : Flags) (w : Nat) :
    Nat → Nat → Nat → Flags → Word → Except Flags (Nat × Flags × Word)
  | 0, _, row, fl, seed => .ok (row, fl, seed)
  | n + 1, j, row, fl, seed =>
    let dr := drawFor mode seed
    let r := f j dr.1
    if trapping en r.2 != 0 then .error r.2
    else mmaRow f mode en w n (j + 1) (putE w row j r.1) (fl ||| r.2) dr.2
/-- The element j of row i (06:R192). -/
def Hart.mmaCell (h : Hart) (a b : Reg) (scA scB : BitVec 2) (row i j dr : Nat) : Nat × Flags :=
  let w := h.sew
  let bit (k : Nat) : Nat × Nat :=
    (getE w (h.getV a).toNat (8 * i + k), getE w (h.getV (b + BitVec.ofNat 5 k)).toNat j)
  if h.vc.vt.acc == .int32 then
    let sg := etSigned h.et
    let t := ((List.range 8).map (fun k => readInt sg w (bit k).1 * readInt sg w (bit k).2)).sum
    (wrapInt 32 (readInt true 32 (getE 32 row j) + t), 0)
  else
    let f := accFmt h.vc.vt.acc
    dotRound f h.vc.vt.rm h.ftz dr (decodeF f h.ftz (getE (accW h.vc.vt.acc) row j))
      ((List.range 8).map (fun k =>
        mulF (h.mmaElt h.vc.vt.sa scA (8 * i + k) (bit k).1) (h.mmaElt h.vc.vt.sb scB j (bit k).2)))
/-- Rows from i upward; a trap leaves its row and the generator as they stood before the row (14:R424). An MMA that accumulates integers
draws nothing under a stochastic mode, as 16:R483 has it elsewhere and no rule says of MMA (DESIGN CHOICE, log 83). -/
def mmaGo (md : BitVec 2) (a b : Reg) (scA scB : BitVec 2) : Nat → Nat → M Unit
  | 0, _ => pure ()
  | n + 1, i => do
    let h ← getHart
    let acc := h.vc.vt.acc
    let row := (h.getM md i).toNat
    let mode := if acc == .int32 then .rne else h.vc.vt.rm
    match mmaRow (h.mmaCell a b scA scB row i) mode h.fen (accW acc) h.vlN 0 row 0 h.srseed with
    | .ok (v, fl, seed) =>
      modHart (fun h => { h.setM md i (BitVec.ofNat 16384 v) with fflags := h.fflags ||| fl, srseed := seed })
      mmaGo md a b scA scB n (i + 1)
    | .error f =>
      modHart (fun h => { h with fflags := h.fflags ||| f })
      fpStop i (trapping h.fen f)
/-- 14:R422-R424. -/
def vopMma (md : BitVec 2) (a b : Reg) (scA scB : BitVec 2) (q : QEntry) : M Unit := do
  let h ← getHart
  let mr := h.vc.mr.toNat
  needVcp q (mmaTypes h.et h.vc.vt.acc && decide (8 * mr * h.sew ≤ h.vlen) && h.rowFits)
  modHart (fun h => h.mark (marks (.mma md a b scA scB)))
  let e := h.unitEnd 1 mr
  mmaGo md a b scA scB (e - h.ves.toNat) h.ves.toNat
  restAt e mr

/-- Convert of 14:R425. -/
def Hart.mrdCell (h : Hart) (mode : Rm) (row j dr : Nat) : Nat × Flags :=
  let acc := h.vc.vt.acc
  let b := getE (accW acc) row j
  if acc == .int32 then
    let r := writeElt h.et h.ct mode h.ftz dr (ofInt (readInt true 32 b))
    if etIsInt h.et then (r.1, flagIf (r.2 != 0) flagNX) else r
  else writeElt h.et h.ct mode h.ftz dr (decodeF (accFmt acc) (convFtz h.et h.ftz) b)
/-- 14:R425: a trap leaves vd, and the generator, as they stood. -/
def vopMrd (d : Reg) (ms : BitVec 2) (row : BitVec 4) (r : RmDyn) (k : BitVec 3) (q : QEntry) : M Unit := do
  let h ← getHart
  needVcp q h.rowFits
  let mode := h.rmOf r
  let src := (h.getM ms row.toNat).toNat
  let o := elemGo h.sew (h.active k) false h.fen (roundedF mode (fun j _ dr => h.mrdCell mode src j dr)) h.vlN 0
    ⟨(h.getV d).toNat, 0, h.srseed⟩
  modHart (fun h => h.mark (marks (.mrd d ms row r k)))
  match o.2 with
  | none =>
    modHart (fun h => { h.setV d (BitVec.ofNat 16384 o.1.v) with fflags := h.fflags ||| o.1.fl, srseed := o.1.seed })
  | some (e, t) =>
    let own := h.mrdCell mode src e (drawFor mode o.1.seed).1
    modHart (fun h => { h with fflags := h.fflags ||| own.2, ves := 0 })
    trapM .fptrap (BitVec.ofNat 64 (e * 2 ^ 32 + t.toNat))
/-- 14:R427. -/
def vopMwr (a : Reg) (md : BitVec 2) (row : BitVec 4) (q : QEntry) : M Unit := do
  let h ← getHart
  needVcp q h.rowFits
  let n := h.vlN * accW h.vc.vt.acc
  let old := (h.getM md row.toNat).toNat
  let v := (old / 2 ^ n) * 2 ^ n + (h.getV a).toNat % 2 ^ n
  modHart (fun h => (h.setM md row.toNat (BitVec.ofNat 16384 v)).mark (marks (.mwr a md row)))

end Sys2Proof.Machine
end

