-- ==== Sys2Proof/Machine/VMem.lean ====
section
/-! DEFINITION. Vector loads and stores, major 48 (16:R485-R489; 17:R502, R503, R508-R511), and vector-state images
(05:R166-R170), at VCP. -/
namespace Sys2Proof.Machine
open Sys2Proof

/-- An action as data: its answer, or why it stopped. -/
def tryM {α : Type} (m : M α) : M (Except Stop α) := tryCatch (do return .ok (← m)) (fun e => return .error e)
/-- A trap inside stops the instruction with VES at unit i. -/
def atUnit {α : Type} (i : Nat) (m : M α) : M α :=
  tryCatch m (fun e => do
    match e with
    | .trap _ _ => modHart (fun h => { h with ves := BitVec.ofNat 32 i })
    | _ => pure ()
    throw e)

/-- Element addresses (16:R486); a four-bit element lies in the byte at i >> 1. -/
inductive Addressing
  | unit (disp : BitVec 21)
  | strided (disp : BitVec 21)
  | indexed (ix : Reg) (sh : BitVec 2)
  deriving DecidableEq, Repr
def Hart.eltAddr (h : Hart) (q : QEntry) (m : Addressing) (i : Nat) : Word :=
  match m with
  | .unit disp => q.opnd + imm21s disp + BitVec.ofNat 64 (if h.sew = 4 then i / 2 else i * (h.sew / 8))
  | .strided disp => q.opnd + imm21s disp + BitVec.ofNat 64 i * q.cont.getD 0
  | .indexed ix sh => q.opnd + BitVec.ofNat 64 (getE h.sew (h.getV ix).toNat i * 2 ^ sh.toNat)
/-- Elements between stop points (07:R206). -/
def Hart.memGrain (h : Hart) (m : Addressing) : Nat := match m with | .unit _ => h.groupElts | _ => 1
/-- VLD and VST take four-bit elements in pairs; the other forms do not take them (16:R486). -/
def Hart.eltShape (h : Hart) (m : Addressing) : Bool :=
  h.sew != 4 || (match m with | .unit _ => h.vlN % 2 == 0 | _ => false)
/-- Bytes of a container in memory. -/
def Hart.eltBytes (h : Hart) : Nat := max 1 (h.sew / 8)

/-- One element loaded: alignment, translation, class, error (16:R487). -/
def loadElt (h : Hart) (q : QEntry) (m : Addressing) (i : Nat) : M Nat := do
  let s ← get
  let ea := h.eltAddr q m i
  checkM (h.sew = 4 || ea.toNat % h.eltBytes == 0) .misalign ea
  let pas ← addresses s.ctx .read ea h.eltBytes false
  let v := leNat (← vectorBytes i h.eltBytes pas)
  return if h.sew = 4 then getE 4 v (i % 2) else trimElt h.et v
/-- Elements from i upward; each lands before the next is read (16:R488). -/
def loadGo (q : QEntry) (m : Addressing) (d : Reg) (p : Pred) : Nat → Nat → M Unit
  | 0, _ => pure ()
  | n + 1, i => do
    let h ← getHart
    if h.active p.k i then
      let v ← atUnit i (loadElt h q m i)
      modHart (fun h => h.setV d (BitVec.ofNat 16384 (putE h.sew (h.getV d).toNat i v)))
    else if p.kz then
      modHart (fun h => h.setV d (BitVec.ofNat 16384 (putE h.sew (h.getV d).toNat i 0)))
    loadGo q m d p n (i + 1)
/-- A load with .acq under mask k acquires the store: it is a chunk's whose bit below VL is set (10:R290). -/
def chunkSet (h : Hart) (k : BitVec 3) (u : Unseen) : Bool :=
  match u.origin with
  | .copy _ _ k' n => k != 0 && k' == k && decide (n < h.vlN) && (h.getK k).getLsbD n
  | _ => false
def acquired (h : Hart) (k : BitVec 3) (u : Unseen) : Unseen :=
  if chunkSet h k u then { u with toV := true, acq := u.acq.or (some h.strip) } else u
/-- Other harts' records of the chunks that it acquires note it (10:R284). -/
def State.shareChunks (s : State) (k : BitVec 3) : State :=
  let got := ((s.ownUnseen s.hart.id).filter (chunkSet s.hart k)).map (·.origin)
  if s.unseen.any (fun u => u.owner != s.hart.id && got.contains u.origin) then
    { s with unseen := s.unseen.map (fun u => if u.owner != s.hart.id && got.contains u.origin then { u with shared := true } else u) }
  else s
/-- The loads (16:R485-R489): .acq waits until no bit below VL of its mask is expected. -/
def vload (ins : Instr) (m : Addressing) (d : Reg) (acq : Bool) (p : Pred) (q : QEntry) : M Unit := do
  let h ← getHart
  needVcp q (h.eltShape m)
  if acq && h.expectedBelow p.k != 0 then waitM
  if acq && h.ves.toNat == 0 then modify (fun s => (s.shareChunks p.k).order s.hart.id (acquired h p.k))
  modHart (fun h => h.mark (marks ins))
  let e := h.unitEnd (h.memGrain m) h.vlN
  loadGo q m d p (e - h.ves.toNat) h.ves.toNat
  restAt e h.vlN

def vopVld (d s : Reg) (disp : BitVec 21) (acq : Bool) (m : Pred) (q : QEntry) : M Unit :=
  vload (.vld d s disp acq m) (.unit disp) d acq m q
def vopVlds (d s t : Reg) (disp : BitVec 21) (acq : Bool) (m : Pred) (q : QEntry) : M Unit :=
  vload (.vlds d s t disp acq m) (.strided disp) d acq m q
def vopVldx (d s i : Reg) (sh : BitVec 2) (acq : Bool) (m : Pred) (q : QEntry) : M Unit :=
  vload (.vldx d s i sh acq m) (.indexed i sh) d acq m q

/-- The check of one element before a store writes any (17:R509): its addresses. -/
def storeCheck (h : Hart) (q : QEntry) (m : Addressing) (i : Nat) : M (List Nat) := do
  let s ← get
  let ea := h.eltAddr q m i
  checkM (h.sew = 4 || ea.toNat % h.eltBytes == 0) .misalign ea
  addresses s.ctx .write ea h.eltBytes false
/-- Checks from element i upward: the elements that may be written, and the first that fails. -/
def storeChecks (h : Hart) (q : QEntry) (m : Addressing) (k : BitVec 3) :
    Nat → Nat → M (List (Nat × List Nat) × Option (Nat × Stop))
  | 0, _ => return ([], none)
  | n + 1, i => do
    if h.active k i then
      match ← tryM (storeCheck h q m i) with
      | .error e => return ([], some (i, e))
      | .ok pas =>
        let r ← storeChecks h q m k n (i + 1)
        return ((i, pas) :: r.1, r.2)
    else storeChecks h q m k n (i + 1)
/-- Bytes of four-bit elements: a byte with one element written keeps its other nibble (17:R508). -/
def nibbleBytes (src : Nat) : List (Nat × List Nat) → M (List (List (Nat × Byte)))
  | [] => return []
  | (i, pas) :: (j, pas') :: t => do
    if i % 2 = 0 && j = i + 1 then
      let r ← nibbleBytes src t
      return pas.map (fun p => (p, BitVec.ofNat 8 (getE 8 src (i / 2)))) :: r
    else
      let old := leNat (← vectorBytes 0 1 pas)
      let r ← nibbleBytes src ((j, pas') :: t)
      return pas.map (fun p => (p, BitVec.ofNat 8 (putE 4 old (i % 2) (getE 4 src i)))) :: r
  | [(i, pas)] => do
    let old := leNat (← vectorBytes 0 1 pas)
    return [pas.map (fun p => (p, BitVec.ofNat 8 (putE 4 old (i % 2) (getE 4 src i))))]
/-- The bytes a store writes, in ascending element order: the highest element remains at a shared address (17:R510). -/
def storeBytes (h : Hart) (src : Nat) (l : List (Nat × List Nat)) : M (List (List (Nat × Byte))) :=
  if h.sew = 4 then nibbleBytes src l
  else return l.map (fun p => p.2.zip (leBytes h.eltBytes (trimElt h.et (getE h.sew src p.1))))
/-- Stores from a number on are those of an instruction that stops (17:R510). -/
def partOf (first : Nat) (addr : BitVec 54) (u : Unseen) : Unseen := if first ≤ u.id && u.origin == .vector then { u with kind := .part addr } else u
/-- The stores (17:R508-R510). -/
def vstore (m : Addressing) (d : Reg) (k : BitVec 3) (q : QEntry) : M Unit := do
  let h ← getHart
  needVcp q (h.eltShape m)
  let e := h.unitEnd (h.memGrain m) h.vlN
  let r ← storeChecks h q m k (e - h.ves.toNat) h.ves.toNat
  let b ← storeBytes h (h.getV d).toNat r.1
  if !b.isEmpty then vectorPut b
  if e < h.vlN || r.2.isSome then modify (fun s => s.order s.hart.id (partOf h.stores q.addr))
  match r.2 with
  | none => restAt e h.vlN
  | some (i, x) => atUnit i (throw x)

def vopVst (d _s : Reg) (disp : BitVec 21) (k : BitVec 3) (q : QEntry) : M Unit := vstore (.unit disp) d k q
def vopVsts (d _s _t : Reg) (disp : BitVec 21) (k : BitVec 3) (q : QEntry) : M Unit := vstore (.strided disp) d k q
def vopVstx (d _s i : Reg) (sh : BitVec 2) (k : BitVec 3) (q : QEntry) : M Unit := vstore (.indexed i sh) d k q

/-! ## Images (05:R167-R170) -/

/-- Offset and size of each section in ascending image offset; B is VLEN / 8. -/
def imageSpans (b : Nat) : List (Nat × Nat × Nat) :=
  (List.range 4).map (fun g => (g, 64 + 8 * b * g, 8 * b)) ++
  (List.range 4).map (fun t => (4 + t, 64 + 32 * b + 16 * b * t, 16 * b)) ++
  [(8, 64 + 96 * b, 4 * b), (11, 64 + 100 * b, 2 * b), (9, 64 + 102 * b, 1024), (10, 64 + 102 * b + 1024, 1024)]
/-- A section as one little-endian number of the image. -/
def Hart.sectionBits (h : Hart) (b n : Nat) : Nat :=
  if n < 4 then packE (8 * b) ((List.range 8).map (fun j => (h.getV (BitVec.ofNat 5 (8 * n + j))).toNat))
  else if n < 8 then packE (8 * b) ((List.range 16).map (fun r => (h.getM (BitVec.ofNat 2 (n - 4)) r).toNat))
  else if n = 8 then packE (4 * b) ((List.range 8).map (fun j => if j = 0 then 0 else (h.getK (BitVec.ofNat 3 j)).toNat))
  else if n = 9 then packE 2048 ((List.range 4).map (fun j => (h.getSc (BitVec.ofNat 2 j)).toNat))
  else if n = 10 then packE 32 (h.ct.toList.map BitVec.toNat)
  else packE (8 * b) ((List.range 2).map (fun j => (h.getSh (BitVec.ofNat 1 j)).toNat))
/-- A section restored from its bits: k0's slot, the high halves of mask slots and bits [31:19] of table entries are
ignored. -/
def Hart.setSection (h : Hart) (b n v : Nat) : Hart :=
  if n < 4 then
    (List.range 8).foldl (fun h j => h.setV (BitVec.ofNat 5 (8 * n + j)) (BitVec.ofNat 16384 (getE (8 * b) v j))) h
  else if n < 8 then
    (List.range 16).foldl (fun h r => h.setM (BitVec.ofNat 2 (n - 4)) r (BitVec.ofNat 16384 (getE (8 * b) v r))) h
  else if n = 8 then
    (List.range 8).foldl (fun h j => h.setK (BitVec.ofNat 3 j) (BitVec.ofNat 4096 (getE (4 * b) v j % 2 ^ (2 * b)))) h
  else if n = 9 then
    (List.range 4).foldl (fun h j => h.setSc (BitVec.ofNat 2 j) (BitVec.ofNat 2048 (getE 2048 v j))) h
  else if n = 10 then
    let t : Vector CtEntry 256 := Vector.ofFn (fun c => BitVec.ofNat 19 (getE 32 v c.val))
    { h with ct := t, perm := codeOrder t }
  else (List.range 2).foldl (fun h j => h.setSh (BitVec.ofNat 1 j) (BitVec.ofNat 16384 (getE (8 * b) v j))) h

/-- MAGIC, VER and VDEP as this part writes them (05:R168). -/
def imageMagic : Nat := 0x4C565349 + 2 ^ 32 + 2 ^ 48
def imageHeader (vlen present : Nat) : Nat := imageMagic + vlen * 2 ^ 64 + present * 2 ^ 96
/-- MAGIC, VER and VDEP match and every reserved bit is zero. -/
def headerFits (hd : Nat) : Bool := hd % 2 ^ 64 == imageMagic && hd / 2 ^ 108 == 0

/-- What image accesses come after: the hart's earlier ones too (05:R169, R170; 19:R541). -/
def Unseen.ofImage (u : Unseen) : Bool := u.kind == .image
/-- What an image access reads, each byte by itself. -/
def State.imageSees (s : State) (pas : List Nat) : List Byte :=
  pas.zipIdx.flatMap (fun p => s.bytesBefore (s.splitBy (fun u => u.landed s true p.2 || u.ofImage) [p.1]).2 [p.1])
/-- Who moves image bytes: the hart's vector side, or the Peel. -/
def imageRead (dev : Bool) (va : Word) (n : Nat) : M (List Byte) := do
  let s ← get
  if dev then readMem (s.ctxAt false) va n
  else
    let pas ← addresses s.ctx .read va n false
    modify (fun s => touchLines s false pas)
    return (← get).imageSees pas
def imageWrite (dev : Bool) (va : Word) (b : List Byte) : M Unit := do
  let s ← get
  if dev then writeMem (s.ctxAt false) va b
  else
    let pas ← addresses s.ctx .write va b.length false
    modify (fun s => s.putAs true .image (fun u => u.precedes s true || u.ofImage) (pieces 1 (pas.zip b)))

/-- The image offset at which VSAVE or VRSTR rests in this turn (07:R206). -/
def Hart.imageEnd (h : Hart) : Option Nat :=
  match h.rest with
  | some (0, u) => some (h.ves.toNat + 64 * u)
  | _ => none
/-- At image offset o: past the rest, the instruction rests there. -/
def imageRest (stop : Option Nat) (o : Nat) : M Unit := do
  match stop with
  | some e =>
    if e ≤ o then
      modHart (fun h => { h with ves := BitVec.ofNat 32 o })
      waitM
  | none => pure ()

/-- 64-byte blocks of a section written from image offset `start` upward. -/
def saveBlocks (dev : Bool) (base : Word) (stop : Option Nat) (start off v : Nat) : Nat → Nat → M Unit
  | 0, _ => pure ()
  | n + 1, j => do
    if start ≤ off + 64 * j then
      imageRest stop (off + 64 * j)
      atUnit (off + 64 * j) (imageWrite dev (base + BitVec.ofNat 64 (off + 64 * j)) (leBytes 64 (getE 512 v j)))
    saveBlocks dev base stop start off v n (j + 1)
def saveSpans (dev : Bool) (base : Word) (mask : BitVec 12) (stop : Option Nat) (start b : Nat) : List (Nat × Nat × Nat) → M Unit
  | [] => pure ()
  | (n, off, size) :: t => do
    if mask.getLsbD n then
      saveBlocks dev base stop start off ((← getHart).sectionBits b n) (size / 64) 0
    saveSpans dev base mask stop start b t
/-- VSAVE's three stages (05:R169): header read, sections, header write. -/
def saveImage (dev : Bool) (base : Word) (mask : BitVec 12) : M Unit := do
  let h ← getHart
  let b := 512 * h.lg
  let hd := leNat (← imageRead dev base 64)
  let old := if headerFits hd && bitsOf hd 95 64 == h.vlen then bitsOf hd 107 96 else 0
  let wrote := mask &&& ~~~h.nres
  saveSpans dev base wrote h.imageEnd h.ves.toNat b (imageSpans b)
  imageRest h.imageEnd (imageSize h.lg)
  atUnit (imageSize h.lg) (imageWrite dev base (leBytes 64 (imageHeader h.vlen (old ||| wrote.toNat))))

/-- A mask that names a group holding a bound register takes COLLECTIVE with reason 5 (11:R312, 17:R502, R503). -/
def boundIn (h : Hart) (mask : BitVec 12) : Option Reg :=
  ((List.range 32).map (BitVec.ofNat 5)).find? (fun r =>
    mask.getLsbD (r.toNat / 8) && h.bindings.any (fun b => b.vd == r))
/-- TRAPV of COLLECTIVE (11:R312). -/
def collectiveV (vd : Reg) (reason : Nat) : Word := BitVec.ofNat 64 (vd.toNat * 256 + reason)
def imageChecks (mask : BitVec 12) (q : QEntry) : M Unit := do
  match boundIn (← getHart) mask with
  | some r => trapM .collective (collectiveV r 5)
  | none => checkM (q.opnd.toNat % 64 == 0) .misalign q.opnd

/-- 17:R503. -/
def vopVsave (_s : Reg) (mask : BitVec 12) (q : QEntry) : M Unit := do
  imageChecks mask q
  saveImage false q.opnd mask

def loadBlocks (base : Word) (stop : Option Nat) (start b sec off : Nat) : Nat → Nat → M Unit
  | 0, _ => pure ()
  | n + 1, j => do
    if start ≤ off + 64 * j then
      imageRest stop (off + 64 * j)
      let d ← atUnit (off + 64 * j) (imageRead false (base + BitVec.ofNat 64 (off + 64 * j)) 64)
      modHart (fun h => h.setSection b sec (putE 512 (h.sectionBits b sec) j (leNat d)))
    loadBlocks base stop start b sec off n (j + 1)
def loadSpans (base : Word) (mask : BitVec 12) (stop : Option Nat) (start b : Nat) : List (Nat × Nat × Nat) → M Unit
  | [] => pure ()
  | (n, off, size) :: t => do
    if mask.getLsbD n then loadBlocks base stop start b n off (size / 64) 0
    loadSpans base mask stop start b t
/-- 17:R502, 05:R170; 11:R304 for the fold. -/
def vopVrstr (_s : Reg) (mask : BitVec 12) (q : QEntry) : M Unit := do
  imageChecks mask q
  let h ← getHart
  let hd := leNat (← imageRead false q.opnd 64)
  let vlen := bitsOf hd 95 64
  let miss := mask &&& ~~~(BitVec.ofNat 12 (bitsOf hd 107 96))
  checkM (headerFits hd) .vimage (BitVec.ofNat 64 (2 ^ 32 + vlen))
  checkM (vlen == h.vlen) .vimage (BitVec.ofNat 64 (2 * 2 ^ 32 + vlen))
  checkM (miss == 0) .vimage (BitVec.ofNat 64 (miss.toNat * 2 ^ 48 + 3 * 2 ^ 32 + vlen))
  loadSpans q.opnd mask h.imageEnd h.ves.toNat (512 * h.lg) (imageSpans (512 * h.lg))
  modHart (fun h => { h with nres := h.nres &&& ~~~mask, vdirty := h.vdirty &&& ~~~mask, live := h.live ||| mask })
  if mask.getLsbD 8 then modHart Hart.foldChunks

end Sys2Proof.Machine
end

