-- ==== Sys2Proof/Machine/Scale.lean ====
section
/-! DEFINITION. Scale registers and the code table, major 58 (13:R392-R394; 15:R438-R440): at VCP on a V hart, at issue on a
T hart. A write of the table sorts it anew (06:R189). -/
namespace Sys2Proof.Machine
open Sys2Proof

/-- A hart's access of elements of n bytes as its class makes it: vector on V, scalar on T. -/
def classBytes (n : Nat) (pas : List Nat) : M (List Byte) := do
  if (← getHart).cls == .v then vectorBytes 0 n pas else scalarBytes pas
def classPut (n : Nat) (pas : List Nat) (b : List Byte) : M Unit := do
  if (← getHart).cls == .v then vectorPutElts n pas b else modify (fun s => s.putOwn false (pieces n (pas.zip b)))

/-- Addresses of n bytes at a stride, each translated (15:R439). -/
def strideAddrs (k : AccKind) (ea xt : Word) : Nat → M (List Nat)
  | 0 => return []
  | n + 1 => do
    let s ← get
    let p ← addresses s.ctx k ea 1 false
    return p ++ (← strideAddrs k (ea + xt) xt n)
/-- On the vector side an instruction that stops at its trap point has marked its section (05:R163). -/
def markAtVcp (i : Instr) : M Unit := modHart (fun h => if h.cls == .v then h.mark (marks i) else h)
/-- SCLD (15:R439): the register changes only after every read. -/
def scldAct (i : Instr) (n : BitVec 2) (ea xt : Word) : M Unit := do
  markAtVcp i
  let b ← classBytes 1 (← strideAddrs .read ea xt 256)
  modHart (fun h => (h.setSc n (BitVec.ofNat 2048 (leNat b))).mark (marks i))
/-- SCST (15:R439): every address is translated first; the higher byte remains at a shared address. -/
def scstAct (n : BitVec 2) (ea xt : Word) : M Unit := do
  let pas ← strideAddrs .write ea xt 256
  classPut 1 pas (leBytes 256 ((← getHart).getSc n).toNat)
/-- CTLD (13:R392, R393). -/
def ctldAct (i : Instr) (ea : Word) : M Unit := do
  markAtVcp i
  checkM (ea.toNat % 4 == 0) .misalign ea
  let s ← get
  let v := leNat (← classBytes 4 (← addresses s.ctx .read ea 1024 false))
  let t : Vector CtEntry 256 := Vector.ofFn (fun c => BitVec.ofNat 19 (getE 32 v c.val))
  modHart (fun h => { h with ct := t, perm := codeOrder t }.mark (marks i))
/-- n code-table entries from ea upward, each one access of 4 bytes: all are translated and checked before any is written (13:R393). -/
def entryAddresses : Nat → Word → M (List Nat)
  | 0, _ => pure []
  | n + 1, ea => do
    let s ← get
    let low ← addresses s.ctx .write ea 4 false
    let rest ← entryAddresses n (ea + 4)
    pure (low ++ rest)

/-- CTST (13:R392, R393). -/
def ctstAct (ea : Word) : M Unit := do
  checkM (ea.toNat % 4 == 0) .misalign ea
  let pas ← entryAddresses 256 ea
  classPut 4 pas (leBytes 1024 (packE 32 ((← getHart).ct.toList.map BitVec.toNat)))

def vopScld (n : BitVec 2) (s t : Reg) (disp : BitVec 21) (q : QEntry) : M Unit :=
  scldAct (.scld n s t disp) n (q.opnd + imm21s disp) (q.cont.getD 0)
def vopScst (n : BitVec 2) (_s _t : Reg) (disp : BitVec 21) (q : QEntry) : M Unit :=
  scstAct n (q.opnd + imm21s disp) (q.cont.getD 0)
def vopCtld (s : Reg) (disp : BitVec 21) (q : QEntry) : M Unit := ctldAct (.ctld s disp) (q.opnd + imm21s disp)
def vopCtst (_s : Reg) (disp : BitVec 21) (q : QEntry) : M Unit := ctstAct (q.opnd + imm21s disp)

end Sys2Proof.Machine
end

