-- ==== Sys2Proof/Machine/CopyEngine.lean ====
section
/-! DEFINITION. Copy engines, major 59 (11:R300-R309; 13:R384-R388). A copy moves one chunk per COPY_CHUNK_COMPLETE. -/
namespace Sys2Proof.Machine
open Sys2Proof

/-- An engine acting for a hart: in the hart's address space, with the level at which the instruction was issued
(DEDUCED, log 30), through the translation caches of the core that holds the hart's share. -/
def State.engineCtx (s : State) (h : Hart) (user : Bool) : Ctx :=
  match s.gang h.id.gang with
  | none => ⟨.v, h.agent, 0, user, h.id.gang, false⟩
  | some g =>
    let core := match g.shares.lookup h.id.ix with | some sh => sh.core | none => h.core
    ⟨if g.cls == .t then .t else .v, if g.cls == .t then core / 256 else core, g.asid, user, g.id, false⟩

/-! ## The descriptor (11:R301, R302) -/

/-- Bits of the descriptor that must be zero. -/
def copyResOk (b : Nat) : Bool :=
  bitsOf b 63 56 == 0 && bitsOf b 127 120 == 0 && bitsOf b 263 261 == 0 && b / 2 ^ 296 == 0
/-- T and NCH (11:R301). -/
def Copy.total (c : Copy) : Nat := c.rowLen * c.rows
def Copy.chunks (c : Copy) : Nat := (c.total + 2 ^ c.chlog - 1) / 2 ^ c.chlog
def copyOf (b : Nat) (k : BitVec 3) (rel : Option Scope) (user : Bool) : Copy where
  tag := 0
  src := BitVec.ofNat 64 (bitsOf b 55 0)
  dst := BitVec.ofNat 64 (bitsOf b 119 64)
  rowLen := bitsOf b 159 128
  rows := bitsOf b 191 160
  sstride := readInt true 32 (bitsOf b 223 192)
  dstride := readInt true 32 (bitsOf b 255 224)
  chlog := bitsOf b 260 256
  first := bitsOf b 275 264
  cons := bitsOf b 295 276
  k := k
  rel := rel
  next := 0
  moved := false
  stop := false
  err := none
  user := user
/-- Step 3 of 11:R302. -/
def copyLegal (s : State) (b : Nat) (c : Copy) : Bool :=
  copyResOk b && c.rowLen != 0 && c.rows != 0 && decide (6 ≤ c.chlog) && decide (c.chlog ≤ 20) &&
  decide (c.total < 2 ^ 40) && !(s.hart.cls == .t && (c.k != 0 || c.cons != 0)) &&
  (c.k == 0 ||
    (match s.gang s.hart.id.gang with
      | none => false
      | some g => decide (c.cons < g.harts)) &&
    (match s.hartOf ⟨s.hart.id.gang, c.cons⟩ with
      | none => false
      | some h => decide (c.first + c.chunks ≤ s.vlenOf h / 4)))
/-- The checks of 11:R302, in order. -/
def readCopy (ill desc : Word) (k : BitVec 3) (rel : Option Scope) : M Copy := do
  checkM (desc.toNat % 64 == 0) .misalign desc
  let s ← get
  let b := leNat (← classBytes 1 (← addresses s.ctx .read desc 64 false))
  let s ← get
  let c := copyOf b k rel (s.hart.lv == .a)
  checkM (copyLegal s b c) .illegal ill
  return c

/-! ## Chunk masks (11:R303, R304) -/

/-- Bits lo to lo + n - 1. -/
def bitRun (lo n : Nat) : KReg := BitVec.ofNat 4096 ((2 ^ n - 1) * 2 ^ lo)
/-- The consumer's mask section is where the engine can reach it. -/
def Hart.masksHere (h : Hart) : Bool := h.cls == .v && h.resident && !h.nres.getLsbD 8
def setAt (v : Vector KReg 8) (k : BitVec 3) (x : KReg) : Vector KReg 8 := v.set k.toNat x k.isLt
/-- The engine clears or sets bits of a mask, at once or in the pending-chunk word. -/
def Hart.engineBits (h : Hart) (k : BitVec 3) (set : Bool) (m : KReg) : Hart :=
  if h.masksHere then
    let h' := h.setK k (if set then h.getK k ||| m else h.getK k &&& ~~~m)
    if set then h'.mark 0x100 else h'
  else
    let c := h.pendClr[k.toNat]'k.isLt
    let o := h.pendSet[k.toNat]'k.isLt
    { h with pendClr := setAt h.pendClr k (if set then c &&& ~~~m else c ||| m),
             pendSet := setAt h.pendSet k (if set then o ||| m else o &&& ~~~m) }
/-- Marks of bits expected, set or removed. -/
def Hart.expect (h : Hart) (k : BitVec 3) (on : Bool) (m : KReg) : Hart :=
  let e := h.expected[k.toNat]'k.isLt
  { h with expected := setAt h.expected k (if on then e ||| m else e &&& ~~~m) }

/-- The start of a checked copy: its bits are cleared and expected. -/
def beginCopy (tag : BitVec 32) (c : Copy) : M Unit := do
  let c := { c with tag := tag }
  modHart (fun h => { h with copies := h.copies ++ [c] })
  if c.k != 0 then
    let m := bitRun c.first c.chunks
    modify (fun s => s.modHartOf ⟨s.hart.id.gang, c.cons⟩ (fun h => (h.engineBits c.k false m).expect c.k true m))
/-- Copies a hart may have outstanding (11:R300). -/
def copyLimit (h : Hart) : Nat := if h.cls == .t then 2 else 16
/-- The next value of the tag counter (11:R300). -/
def nextTag (t : BitVec 32) : BitVec 32 := if t + 1 = 0 then 1 else t + 1

/-! ## The instructions at VCP, or at issue on a T hart -/

/-- 13:R384, R385 on a V hart: the continuation holds the tag. -/
def vopCpy (_t _s : Reg) (k : BitVec 3) (rel : Option Scope) (q : QEntry) : M Unit := do
  let h ← getHart
  if copyLimit h ≤ h.copies.length then waitM
  beginCopy ((q.cont.getD 0).setWidth 32) (← readCopy q.illegalV q.opnd k rel)
/-- 13:R387, 11:R306: of a copy that has ended every byte has performed. -/
def cpywtAct (tag : Word) : M Unit := do
  match (← getHart).copies.find? (fun c => c.tag.setWidth 64 == tag) with
  | none => modify (fun s => s.seeCopies (fun i t => i == s.hart.id && t.setWidth 64 == tag))
  | some c =>
    match c.err with
    | none => waitM
    | some (cause, va) =>
      modHart (fun h => { h with copies := h.copies.filter (fun c => c.tag.setWidth 64 != tag) })
      trapM cause va
/-- 13:R386, 11:R307: the engine stops once the chunk in progress is complete, and the instruction waits for that. -/
def cpycanAct (tag : Word) : M Unit := do
  match (← getHart).copies.find? (fun c => c.tag.setWidth 64 == tag) with
  | none => pure ()
  | some c =>
    let upd (f : Copy → List Copy) : M Unit :=
      modHart (fun h => { h with copies := h.copies.flatMap (fun c => if c.tag.setWidth 64 == tag then f c else [c]) })
    if c.err.isSome then upd (fun _ => [])
    else
      upd (fun c => [{ c with stop := true }])
      waitM
def vopCpywt (_t : Reg) (q : QEntry) : M Unit := cpywtAct q.opnd
def vopCpycan (_t : Reg) (q : QEntry) : M Unit := cpycanAct q.opnd

/-! ## A chunk -/

/-- Byte i's row and column as source and destination addresses (11:R303). -/
def Copy.srcAt (c : Copy) (i : Nat) : Word :=
  c.src + BitVec.ofInt 64 ((i / c.rowLen : Nat) * c.sstride) + BitVec.ofNat 64 (i % c.rowLen)
def Copy.dstAt (c : Copy) (i : Nat) : Word :=
  c.dst + BitVec.ofInt 64 ((i / c.rowLen : Nat) * c.dstride) + BitVec.ofNat 64 (i % c.rowLen)
/-- Runs of one row from byte i to byte e of the transfer: first byte and length. -/
def Copy.runs (c : Copy) : Nat → Nat → Nat → List (Nat × Nat)
  | 0, _, _ => []
  | n + 1, i, e =>
    if e ≤ i then []
    else
      let l := min (c.rowLen - i % c.rowLen) (e - i)
      (i, l) :: c.runs n (i + l) e
/-- Source bytes and destination addresses of runs. -/
def gatherRuns (ctx : Ctx) (c : Copy) : List (Nat × Nat) → M (List (Nat × Byte))
  | [] => return []
  | (i, l) :: t => do
    let b ← readMem ctx (c.srcAt i) l
    let pas ← addresses ctx .write (c.dstAt i) l false
    return pas.zip b ++ (← gatherRuns ctx c t)
/-- Bytes from i upward where a copy failed: each is written or not (11:R306: one of). -/
def strayBytes (ctx : Ctx) (c : Copy) : Nat → Nat → State → State
  | 0, _, s => s
  | n + 1, i, s =>
    strayBytes ctx c n (i + 1)
      (match runM (gatherRuns ctx c [(i, 1)]) s with
        | (.ok [(pa, b)], _) => if Config.choice s.tick pa then s.putAt [pa] [b] else s
        | _ => s)
/-- Harts that need not see a copy's bytes yet: its consumer and its issuer (10:R290). -/
def Copy.blind (c : Copy) (h : Hart) : List HartId := if c.k == 0 then [h.id] else [⟨h.id.gang, c.cons⟩, h.id]
/-- The copy of a hart becomes what f says. -/
def setCopy (s : State) (h : Hart) (c : Copy) (f : Copy → List Copy) : State :=
  s.modHartOf h.id (fun h => { h with copies := h.copies.flatMap (fun d => if d.tag == c.tag then f d else [d]) })
/-- Expected marks of chunk n upward are removed. -/
def unexpect (s : State) (h : Hart) (c : Copy) (n : Nat) : State :=
  if c.k == 0 then s
  else s.modHartOf ⟨h.id.gang, c.cons⟩ (fun h => h.expect c.k false (bitRun (c.first + n) (c.chunks - n)))
/-- The bytes of a copy's next chunk are read and written, or the copy ends with an error (11:R303, R306). -/
def chunkMove (s : State) (h : Hart) (c : Copy) : State :=
  let ctx := s.engineCtx h c.user
  let lo := c.next * 2 ^ c.chlog
  let hi := min ((c.next + 1) * 2 ^ c.chlog) c.total
  match runM (gatherRuns ctx c (c.runs (hi - lo) lo hi)) s with
  | (.ok l, s') =>
    setCopy (s'.bring (c.blind h) (.copy h.id c.tag c.k (c.first + c.next)) (l.map ([·]))) h c (fun d => [{ d with moved := true }])
  | (.error (.trap cause va), _) =>
    setCopy (unexpect (strayBytes ctx c (c.total - lo) lo s) h c c.next) h c (fun d => [{ d with err := some (cause, va) }])
  | (.error _, _) => s
/-- The chunk is complete: its bit is set, and the copy ends with its last chunk, or where CPYCAN stops it (11:R303, R307). -/
def chunkEnd (s : State) (h : Hart) (c : Copy) : State :=
  let s1 :=
    if c.k == 0 then s
    else
      let m := bitRun (c.first + c.next) 1
      s.modHartOf ⟨h.id.gang, c.cons⟩ (fun h => (h.engineBits c.k true m).expect c.k false m)
  if c.next + 1 = c.chunks then setCopy s1 h c (fun _ => [])
  else if c.stop then setCopy (unexpect s1 h c (c.next + 1)) h c (fun _ => [])
  else setCopy s1 h c (fun d => [{ d with next := d.next + 1, moved := false }])
/-- Order of harts by identity. -/
def hartBefore (a b : HartId) : Bool := a.gang.toNat < b.gang.toNat || (a.gang == b.gang && a.ix < b.ix)
def insertHart (h : Hart) : List Hart → List Hart
  | [] => [h]
  | x :: t => if hartBefore h.id x.id then h :: x :: t else x :: insertHart h t
/-- Every hart in the order of their identities. -/
def State.sorted (s : State) : List Hart := s.harts.foldr insertHart []
/-- The copies in progress, hart by hart. -/
def State.running (s : State) : List (Hart × Copy) :=
  (s.sorted.map (fun h => (h.copies.filter (·.err.isNone)).map (fun c => (h, c)))).flatten
/-- COPY_CHUNK_COMPLETE of the n-th copy in progress (11:R303): the next chunk's bytes, which may be seen from then on (10:R290), and
with the event after that its bit. -/
def execCopyChunkComplete (n : Nat) (s : State) : Host.Outcome State Fault Refusal :=
  match s.running[n]? with
  | none => .refused (.notEnabled "COPY_CHUNK_COMPLETE")
  | some (h, c) => given s.up "COPY_CHUNK_COMPLETE" (if c.moved then chunkEnd s h c else chunkMove s h c)

end Sys2Proof.Machine
end

