-- ==== Sys2Proof/Machine/Projection.lean ====
section
/-! DEFINITION. The streaming vocabulary projection, major 57 (08:R233-R251; 17:R514, R515, R517-R519), at VCP. -/
namespace Sys2Proof.Machine
open Sys2Proof

/-- A record (08:R233): FP32 fields as bits, its entries as value and index, and the reserved header bits. -/
structure XRec where
  m : Nat
  s : Nat
  l : Nat
  label : Nat
  lo : Nat
  hi : Nat
  k : Nat
  nan : Bool
  lbl : Bool
  spill : Bool
  merged : Bool
  chk : Bool
  res : Nat
  ents : List (Nat × Nat)
  deriving DecidableEq, Repr

def negInf32 : Nat := 0xFF800000
def nan32 : Nat := 0x7FC00000
def one32 : Nat := 0x3F800000
def noIndex : Nat := 0xFFFFFFFF

/-- Entries e to e + n - 1 of a row: 64-bit slots from bit 256 upward. -/
def rowEnts (row n : Nat) : List (Nat × Nat) :=
  (List.range n).map (fun e => (getE 32 row (8 + 2 * e), getE 32 row (9 + 2 * e)))
def XRec.ofRow (row : Nat) : XRec where
  m := bitsOf row 31 0
  s := bitsOf row 63 32
  l := bitsOf row 95 64
  label := bitsOf row 127 96
  lo := bitsOf row 151 128
  hi := bitsOf row 175 152
  k := bitsOf row 183 176
  nan := row.testBit 184
  lbl := row.testBit 185
  spill := row.testBit 186
  merged := row.testBit 187
  chk := row.testBit 188
  res := bitsOf row 255 189
  ents := rowEnts row (bitsOf row 183 176)
/-- Header and entries as bits [256 + 64 K - 1 : 0]. -/
def XRec.bits (r : XRec) : Nat :=
  packE 32 [r.m, r.s, r.l, r.label] + r.lo * 2 ^ 128 + r.hi * 2 ^ 152 + r.k * 2 ^ 176 +
    (r.nan.toNat + 2 * r.lbl.toNat + 4 * r.spill.toNat + 8 * r.merged.toNat + 16 * r.chk.toNat) * 2 ^ 184 +
    r.res * 2 ^ 189 + packE 64 (r.ents.map (fun e => e.1 + e.2 * 2 ^ 32)) * 2 ^ 256
/-- The record in a row whose bits above the record stay. -/
def XRec.into (r : XRec) (row : Nat) : Nat :=
  let n := 256 + 64 * r.ents.length
  (row / 2 ^ n) * 2 ^ n + r.bits

/-- K_max (08:R234). -/
def Hart.kMax (h : Hart) : Nat := (h.vlen - 256) / 64

/-- The order of entries (08:R234). -/
def entBefore (a b : Nat × Nat) : Bool :=
  (cmpF .gt (fvOf32 a.1) (fvOf32 b.1)).1 || ((cmpF .eq (fvOf32 a.1) (fvOf32 b.1)).1 && decide (a.2 < b.2))
def entInsert (x : Nat × Nat) : List (Nat × Nat) → List (Nat × Nat)
  | [] => [x]
  | e :: t => if entBefore x e then x :: e :: t else e :: entInsert x t
/-- Admit (08:R239). -/
def XRec.take (r : XRec) (z v : Nat) : XRec := { r with ents := (entInsert (z, v) r.ents).take r.ents.length }

/-- Scale2 (08:R239) on FP32 bits. -/
def scale2 (a b : Nat) : Nat :=
  if a = negInf32 then 0
  else if (cmpF .eq (fvOf32 a) (fvOf32 b)).1 then one32
  else round32 (exp2F (round32V (subF .rne (fvOf32 a) (fvOf32 b)).1)).1

/-- The products of 64 elements, exactly. -/
def chunkSum (a b : List FV) : Nat := round32 (sumExact .rne (List.zipWith (fun x y => (mulF x y).1) a b)).1
/-- The logit z (06:R194): chunks of 64 products. -/
def logitGo : Nat → List FV → List FV → Nat → Nat
  | 0, _, _, z => z
  | n + 1, a, b, z =>
    if a.isEmpty then z
    else logitGo n (a.drop 64) (b.drop 64)
      (round32 (addF .rne (fvOf32 z) (fvOf32 (chunkSum (a.take 64) (b.take 64)))).1)
/-- z and y (06:R194). -/
def logit (a b : List FV) : Nat × Nat :=
  let z := logitGo (a.length / 64 + 1) (a.drop 64) (b.drop 64) (chunkSum (a.take 64) (b.take 64))
  (z, round32 (mulF (fvOf32 z) (fvOf32 0x3FB8AA3B)).1)

/-- One entry v of 08:R239's loop. -/
def XRec.feed (r : XRec) (v : Nat) (zy : Nat × Nat) : XRec :=
  let (z, y) := zy
  let r := if v = r.label then { r with l := z, lbl := true } else r
  let r := if fvIsNan (fvOf32 z) then { r with nan := true } else r.take z v
  if r.nan then { r with m := nan32, s := nan32 }
  else if (cmpF .gt (fvOf32 y) (fvOf32 r.m)).1 then
    { r with s := round32 (sumExact .rne [(mulF (fvOf32 r.s) (fvOf32 (scale2 r.m y))).1, fvOf32 one32]).1, m := y }
  else { r with s := round32 (addF .rne (fvOf32 r.s) (fvOf32 (scale2 y r.m))).1 }

/-! ## Descriptor and operands (08:R235, R236) -/

structure XDesc where
  wbase : Nat
  wstride : Nat
  d : Nat
  ty : ET
  init : Bool
  spl : Bool
  lo : Nat
  hi : Nat
  gbase : Nat
  gstride : Nat
  deriving DecidableEq, Repr

def xdescType : Nat → Option ET
  | 1 => some .fp32
  | 2 => some .fp16
  | 3 => some .bf16
  | _ => none
/-- Bytes of an element of the descriptor's type. -/
def XDesc.es (x : XDesc) : Nat := etSew x.ty / 8
/-- The descriptor, or none where step 4 of 08:R238, or 08:R248 for XPROJB, refuses it. -/
def XDesc.parse (b : Nat) (bwd : Bool) : Option XDesc :=
  match xdescType (bitsOf b 116 112) with
  | none => none
  | some ty =>
    let x : XDesc := { wbase := bitsOf b 55 0, wstride := bitsOf b 95 64, d := bitsOf b 111 96 + 1, ty := ty, init := b.testBit 117, spl := b.testBit 118, lo := bitsOf b 151 128, hi := bitsOf b 175 152, gbase := bitsOf b 247 192, gstride := bitsOf b 287 256 }
    let resOk := bitsOf b 63 56 == 0 && bitsOf b 127 119 == 0 && bitsOf b 191 176 == 0 && bitsOf b 255 248 == 0 &&
      b / 2 ^ 288 == 0
    let fwdOk := x.lo ≤ x.hi && x.d * x.es ≤ x.wstride && x.wstride % x.es == 0 && x.wbase % x.es == 0
    let bwdOk := !bwd || (x.gbase % 4 == 0 && x.gstride % 4 == 0 && 4 * x.d ≤ x.gstride)
    if resOk && fwdOk && bwdOk then some x else none
/-- Steps 2 to 4 of 08:R238. -/
def readDesc (q : QEntry) (bwd : Bool) : M XDesc := do
  checkM (q.opnd.toNat % 64 == 0) .misalign q.opnd
  let s ← get
  let b := leNat (← vectorBytes 0 1 (← addresses s.ctx .read q.opnd 64 false))
  match XDesc.parse b bwd with
  | some x =>
    modHart (fun h => { h with desc := some b })
    return x
  | none => trapM .illegal q.illegalV
/-- Slots t and 16 + t of an operand register (08:R235). -/
def Hart.xslot (h : Hart) (r : Reg) (t : Nat) : Word := BitVec.ofNat 64 (getE 64 (h.getV r).toNat t)
def Hart.xlabel (h : Hart) (r : Reg) (t : Nat) : Nat := getE 64 (h.getV r).toNat (16 + t) % 2 ^ 32

/-- Earlier vector accesses have performed (08:R237). -/
def orderVector : M Unit := modify State.closeStrip
/-- n elements of a type at an address. -/
def readVec (ty : ET) (va : Word) (n : Nat) : M (List FV) := do
  let s ← get
  let b ← vectorBytes 0 (etSew ty / 8) (← addresses s.ctx .read va (n * (etSew ty / 8)) false)
  return (elems (etSew ty) (leNat b) n).map (decodeF (etFmtX ty) false)
where etFmtX (e : ET) : Fmt := match etKind e with | .flt f => f | _ => fmt32

/-- Hidden vectors of tokens t upward (08:R235: aligned to their elements). -/
def readHidden (x : XDesc) (a : Reg) : Nat → Nat → M (List (List FV))
  | 0, _ => return []
  | n + 1, t => do
    let va := (← getHart).xslot a t
    checkM (va.toNat % x.es == 0) .misalign va
    let v ← readVec x.ty va x.d
    return v :: (← readHidden x a n (t + 1))
/-- Vocabulary indices of group g (08:R239). -/
def XDesc.group (x : XDesc) (g : Nat) : List Nat :=
  (List.range 64).map (fun i => x.lo + 64 * g + i) |>.filter (fun v => v ≤ x.hi)
def XDesc.groups (x : XDesc) : Nat := (x.hi - x.lo + 1 + 63) / 64
def XDesc.wAddr (x : XDesc) (v : Nat) : Word := BitVec.ofNat 64 (x.wbase + x.wstride * (v - x.lo))
def XDesc.gAddr (x : XDesc) (v : Nat) : Word := BitVec.ofNat 64 (x.gbase + x.gstride * (v - x.lo))
def readRows (x : XDesc) : List Nat → M (List (Nat × List FV))
  | [] => return []
  | v :: t => do
    let w ← readVec x.ty (x.wAddr v) x.d
    return (v, w) :: (← readRows x t)

/-- TRAPV of MERGEORDER (08:R238, R246). -/
def mergeV (reason t : Nat) : Word := BitVec.ofNat 64 (reason * 2 ^ 32 + t)
/-- The first row that fails a check, with its reason. -/
def rowCheck (f : Nat → Option Nat) : Nat → Nat → M Unit
  | 0, _ => pure ()
  | n + 1, t =>
    match f t with
    | some r => trapM .mergeorder (mergeV r t)
    | none => rowCheck f n (t + 1)
def setXpos (act bwd : Bool) (g : Nat) : M Unit :=
  modHart (fun h => { h with xpos := ⟨act, bwd, BitVec.ofNat 32 g⟩, ves := 0 })
/-- XPOS says that this direction continues (17:R519). -/
def Hart.continues (h : Hart) (bwd : Bool) : Bool := h.xpos.act && h.xpos.bwd == bwd

/-- The groups done when the projection ends in this turn of the vector side (08:R244; 07:R206). -/
def Hart.groupsEnd (h : Hart) (g total : Nat) : Nat :=
  match h.rest with
  | some (0, u) => min total (g + u)
  | _ => total
/-- Complete, or at rest between two groups. -/
def xprojEnd (e total : Nat) : M Unit :=
  if e < total then waitM
  else do
    modHart (fun h => { h with desc := none })
    setXpos false false 0
/-- The descriptor of a projection that goes on after a rest, which is no stop (08:R241). -/
def Hart.resting (h : Hart) (bwd : Bool) : Option XDesc :=
  if h.continues bwd then h.desc.bind (XDesc.parse · bwd) else none

/-! ## XPROJ (08:R238-R244) -/

/-- The rows at the start of group 0 (08:R240). -/
def xprojSetUp (md : BitVec 2) (a : Reg) (x : XDesc) (k : Nat) (h : Hart) (t : Nat) : Hart :=
  let row := (h.getM md t).toNat
  if x.init then
    let r : XRec := ⟨negInf32, 0, 0, h.xlabel a t, x.lo, x.hi, k, false, false, x.spl, false, false, 0,
      List.replicate k (negInf32, noIndex)⟩
    h.setM md t (BitVec.ofNat 16384 r.bits)
  else
    let r := XRec.ofRow row
    h.setM md t (BitVec.ofNat 16384 ({ r with hi := x.hi, spill := r.spill || x.spl }.into row))
/-- Token t after one group. -/
def xprojToken (md : BitVec 2) (rows : List (Nat × List FV)) (h : Hart) (t : Nat) (hid : List FV) : Hart :=
  let row := (h.getM md t).toNat
  let r := rows.foldl (fun r w => r.feed w.1 (logit hid w.2)) (XRec.ofRow row)
  h.setM md t (BitVec.ofNat 16384 (r.into row))
/-- Groups from g upward (08:R239, R241). Of several elements of a group that fault the spec names none to report: here the hidden
vectors come first, by token, and then the weight rows, by entry (DESIGN CHOICE, log 84). -/
def xprojGo (md : BitVec 2) (a : Reg) (x : XDesc) : Nat → Nat → M Unit
  | 0, _ => pure ()
  | n + 1, g => do
    let hid ← readHidden x a (← getHart).vc.mr.toNat 0
    let rows ← readRows x (x.group g)
    modHart (fun h => (hid.zipIdx).foldl (fun h p => xprojToken md rows h p.2 p.1) h)
    setXpos true false (g + 1)
    xprojGo md a x n (g + 1)

/-- XPROJ as it starts, or continues after a stop (08:R238, R240, R241). -/
def xprojStart (md : BitVec 2) (a : Reg) (kk : BitVec 8) (q : QEntry) : M XDesc := do
  let h ← getHart
  let cont := h.continues false
  let mr := h.vc.mr.toNat
  if !cont then setXpos false false 0
  checkM (kk.toNat ≤ h.kMax) .heapspill (BitVec.ofNat 64 h.kMax)
  let x ← readDesc q false
  if !cont then
    if !x.init then
      rowCheck (fun t =>
        let r := XRec.ofRow (h.getM md t).toNat
        if r.hi + 1 != x.lo then some 1
        else if r.k != kk.toNat then some 2
        else if r.label != h.xlabel a t then some 3
        else none) mr 0
    modHart (fun h => (List.range mr).foldl (xprojSetUp md a x kk.toNat) h)
    setXpos true false 0
  return x
/-- 08:R238-R241; 17:R517, R519. -/
def vopXproj (md : BitVec 2) (a s : Reg) (kk : BitVec 8) (q : QEntry) : M Unit := do
  orderVector
  modHart (fun h => h.mark (marks (.xproj md a s kk)))
  let x ← match (← getHart).resting false with
    | some x => pure x
    | none => xprojStart md a kk q
  let g := (← getHart).xpos.group.toNat
  let e := (← getHart).groupsEnd g x.groups
  xprojGo md a x (e - g) g
  orderVector
  xprojEnd e x.groups

/-! ## XPROJB (08:R248-R250) -/

/-- G[t][v] for one token: each v's gradient, and whether the row's CHK is set (08:R248, R249). -/
def xGrad (r : XRec) (kk u : Nat) (rows : List (Nat × List FV)) (hid : List FV) : List Nat × Bool :=
  let zy := rows.map (fun w => (w.1, logit hid w.2))
  let g := zy.map (fun p =>
    let pr := if r.nan then nan32 else round32 (divF (fvOf32 (scale2 p.2.2 r.m)) (fvOf32 r.s)).1
    let dl : FV := if p.1 = r.label then .fin false 1 0 else .fin false 0 0
    round32 (mulF (fvOf32 u) (subF .rne (fvOf32 pr) dl).1).1)
  let badL := r.lbl && zy.any (fun p => p.1 == r.label && p.2.1 != r.l)
  let badE := (r.ents.take kk).any (fun e => zy.any (fun p => p.1 == e.2 && p.2.1 != e.1))
  (g, badL || badE)
/-- dW(v) after one group: i is v's place in the group. -/
def xDw (hid : List (List FV)) (g : List (List Nat)) (i : Nat) (old : List FV) : List Nat :=
  old.zipIdx.map (fun (w, d) =>
    round32 (sumExact .rne (w :: List.zipWith (fun hv gv =>
      (mulF (fvOf32 (gv.getD i 0)) (hv.getD d (.fin false 0 0))).1) hid g)).1)
/-- dh(t) after one group. -/
def xDh (rows : List (Nat × List FV)) (g : List Nat) (old : List FV) : List Nat :=
  old.zipIdx.map (fun (x, d) =>
    round32 (addF .rne x (round32V (sumExact .rne (List.zipWith (fun w gv =>
      (mulF (fvOf32 gv) (w.2.getD d (.fin false 0 0))).1) rows g)).1)).1)
def readDw (x : XDesc) : List Nat → M (List (List FV))
  | [] => return []
  | v :: t => do
    let w ← readVec .fp32 (x.gAddr v) x.d
    return w :: (← readDw x t)
def readDh (x : XDesc) (b : Reg) : Nat → Nat → M (List (List FV))
  | 0, _ => return []
  | n + 1, t => do
    let va := (← getHart).xslot b t
    checkM (va.toNat % 4 == 0) .misalign va
    let v ← readVec .fp32 va x.d
    return v :: (← readDh x b n (t + 1))
def xTargets (n : Nat) : List Word → M (List (List Nat))
  | [] => return []
  | va :: t => do
    let s ← get
    let pas ← addresses s.ctx .write va n false
    return pas :: (← xTargets n t)
def xWrites : List (List Nat) → List (List Nat) → M Unit
  | pas :: t, v :: u => do
    vectorPutElts 4 pas (leBytes pas.length (packE 32 v))
    orderVector
    xWrites t u
  | _, _ => pure ()

/-- One group: every read, every translation, then the writes in order (08:R250). A dh vector that two tokens share
takes the one's value and then the other's, as read before the group. Of several accesses of a group that fault the spec names none to
report: here the reads of hidden vectors, weights, dW and dh come in this order, and the write translations after them (DESIGN CHOICE, log 84). -/
def xprojbGroup (md : BitVec 2) (a b : Reg) (kk : Nat) (x : XDesc) (g : Nat) : M Unit := do
  let h ← getHart
  let mr := h.vc.mr.toNat
  let vs := x.group g
  let hid ← readHidden x a mr 0
  let rows ← readRows x vs
  let dw ← readDw x vs
  let dh ← readDh x b mr 0
  let tw ← xTargets (4 * x.d) (vs.map x.gAddr)
  let th ← xTargets (4 * x.d) ((List.range mr).map (h.xslot b))
  let gr := hid.zipIdx.map (fun (v, t) => xGrad (XRec.ofRow (h.getM md t).toNat) kk (h.xlabel b t) rows v)
  xWrites tw (dw.zipIdx.map (fun (w, i) => xDw hid (gr.map (·.1)) i w))
  xWrites th (dh.zipIdx.map (fun (w, t) => xDh rows ((gr.map (·.1)).getD t []) w))
  modHart (fun h => gr.zipIdx.foldl (fun h (r, t) =>
    if r.2 then h.setM md t (BitVec.ofNat 16384 (setBits (h.getM md t).toNat 188 188 1)) else h) h)
def xprojbGo (md : BitVec 2) (a b : Reg) (kk : Nat) (x : XDesc) : Nat → Nat → M Unit
  | 0, _ => pure ()
  | n + 1, g => do
    xprojbGroup md a b kk x g
    setXpos true true (g + 1)
    xprojbGo md a b kk x n (g + 1)
/-- XPROJB as it starts, or continues after a stop (08:R248, R250). -/
def xprojbStart (md : BitVec 2) (a : Reg) (kk : BitVec 8) (q : QEntry) : M XDesc := do
  let h ← getHart
  let cont := h.continues true
  let mr := h.vc.mr.toNat
  if cont then checkM (kk.toNat ≤ h.kMax) .heapspill (BitVec.ofNat 64 h.kMax)
  else setXpos false false 0
  let x ← readDesc q true
  if !cont then
    rowCheck (fun t =>
      let r := XRec.ofRow (h.getM md t).toNat
      if r.k < kk.toNat then some 2
      else if r.label != h.xlabel a t then some 3
      else none) mr 0
    setXpos true true 0
  return x
/-- 08:R248-R250; 17:R518, R519. -/
def vopXprojb (md : BitVec 2) (a b s : Reg) (kk : BitVec 8) (q : QEntry) : M Unit := do
  orderVector
  modHart (fun h => h.mark (marks (.xprojb md a b s kk)))
  let x ← match (← getHart).resting true with
    | some x => pure x
    | none => xprojbStart md a kk q
  let g := (← getHart).xpos.group.toNat
  let e := (← getHart).groupsEnd g x.groups
  xprojbGo md a b kk.toNat x (e - g) g
  orderVector
  xprojEnd e x.groups

/-! ## Merging, and records in memory (08:R245-R247, 17:R514, R515) -/

/-- The first n of two ordered lists of entries. -/
def entMerge (a b : List (Nat × Nat)) : List (Nat × Nat) := b.foldl (fun l e => entInsert e l) a
/-- Merge (08:R245). -/
def XRec.merge (a b : XRec) : XRec :=
  let nan := a.nan || b.nan
  let m := if nan then nan32 else round32 (maxMinF true (fvOf32 a.m) (fvOf32 b.m)).1
  let s := if nan then nan32
    else round32 (sumExact .rne [(mulF (fvOf32 a.s) (fvOf32 (scale2 a.m m))).1,
      (mulF (fvOf32 b.s) (fvOf32 (scale2 b.m m))).1]).1
  { a with m := m, s := s, nan := nan, lbl := a.lbl || b.lbl, l := if a.lbl then a.l else if b.lbl then b.l else 0,
           hi := b.hi, spill := a.spill || b.spill, chk := a.chk || b.chk, merged := true, res := 0,
           ents := (entMerge a.ents b.ents).take a.ents.length }
/-- The reason a pair of records is refused (08:R246). -/
def mergeReason (same : Bool) (a b : XRec) : Option Nat :=
  if same || a.hi + 1 != b.lo then some 1
  else if a.k != b.k then some 2
  else if a.label != b.label then some 3
  else none
def mergeChecks (kmax : Nat) (same : Bool) (pair : Nat → XRec × XRec) : Nat → Nat → M Unit
  | 0, _ => pure ()
  | n + 1, t => do
    let (a, b) := pair t
    checkM (a.k ≤ kmax && b.k ≤ kmax) .heapspill (BitVec.ofNat 64 kmax)
    match mergeReason same a b with
    | some r => trapM .mergeorder (mergeV r t)
    | none => mergeChecks kmax same pair n (t + 1)
/-- 08:R245, R246. -/
def vopXmerge (md ma : BitVec 2) (_ : QEntry) : M Unit := do
  orderVector
  modHart (fun h => h.mark (marks (.xmerge md ma)))
  let h ← getHart
  let pair (t : Nat) := (XRec.ofRow (h.getM md t).toNat, XRec.ofRow (h.getM ma t).toNat)
  mergeChecks h.kMax (md == ma) pair h.vc.mr.toNat 0
  modHart (fun h => ((List.range h.vc.mr.toNat).foldl (fun h t =>
    h.setM md t (BitVec.ofNat 16384 ((pair t).1.merge (pair t).2).bits)) h))

/-- Bytes of a record with K entries. -/
def recBytes (k : Nat) : Nat := 32 + 8 * k
/-- 08:R247, 17:R514. -/
def vopXhstore (md : BitVec 2) (_s : Reg) (disp : BitVec 21) (q : QEntry) : M Unit := do
  orderVector
  let h ← getHart
  let mr := h.vc.mr.toNat
  let ea := q.opnd + imm21s disp
  checkM (ea.toNat % 8 == 0) .misalign ea
  let kOf (t : Nat) := bitsOf (h.getM md t).toNat 183 176
  checkM (kOf 0 ≤ h.kMax) .heapspill (BitVec.ofNat 64 h.kMax)
  rowCheck (fun t => if kOf t != kOf 0 then some 2 else none) mr 0
  let n := recBytes (kOf 0)
  let s ← get
  let pas ← addresses s.ctx .write ea (n * mr) false
  vectorPutElts 8 pas ((List.range mr).map (fun t => leBytes n (h.getM md t).toNat)).flatten
  orderVector
/-- 08:R247, 17:R514. Every byte of the records is read before the headers after the first are checked, so a fault on an entry comes
before MERGEORDER: the spec gives no order between them (DESIGN CHOICE, log 84). -/
def vopXhload (md : BitVec 2) (s : Reg) (disp : BitVec 21) (q : QEntry) : M Unit := do
  orderVector
  modHart (fun h => h.mark (marks (.xhload md s disp)))
  let h ← getHart
  let mr := h.vc.mr.toNat
  let ea := q.opnd + imm21s disp
  checkM (ea.toNat % 8 == 0) .misalign ea
  let st ← get
  let first := leNat (← vectorBytes 0 8 (← addresses st.ctx .read ea 32 false))
  let k := bitsOf first 183 176
  checkM (k ≤ h.kMax) .heapspill (BitVec.ofNat 64 h.kMax)
  let n := recBytes k
  let all := leNat (← vectorBytes 0 8 (← addresses st.ctx .read ea (n * mr) false))
  let rec' (t : Nat) := getE (8 * n) all t
  rowCheck (fun t =>
    let hd := rec' t % 2 ^ 256
    if hd / 2 ^ 189 != 0 || bitsOf hd 175 152 < bitsOf hd 151 128 then some 4
    else if bitsOf hd 183 176 != k then some 2
    else none) mr 0
  modHart (fun h => (List.range mr).foldl (fun h t => h.setM md t (BitVec.ofNat 16384 (rec' t))) h)
  orderVector

end Sys2Proof.Machine
end

