-- ==== Sys2Proof/Machine/VRed.lean ====
section
/-! DEFINITION. Reductions and scans, major 54 (17:R499-R501, R505; 06:R193; 07:R211), at VCP. Combinations are formed in the
order in which their blocks end; level b of the stack holds Node(e - e mod 2^(b+1), 2^b) where bit b of e is 1. -/
namespace Sys2Proof.Machine
open Sys2Proof

/-- What a reduction has formed when elements below some e are combined. -/
structure RedAcc where
  nodes : List (Option Nat)
  lin : Option Nat
  fl : Flags
  seed : Word
  v : Nat
  deriving DecidableEq, Repr

/-- How two present values combine: the operation, its mode (rne where no rounding draws) and the enables. -/
structure RedOps where
  op : Nat → Nat → Nat → Nat × Flags
  mode : Rm
  en : Flags

/-- Op, where an absent value leaves the other (06:R193); the flags of a combination that traps. -/
def RedOps.comb (o : RedOps) (x y : Option Nat) (fl : Flags) (seed : Word) :
    Except Flags (Option Nat × Flags × Word) :=
  match x, y with
  | none, y => .ok (y, fl, seed)
  | x, none => .ok (x, fl, seed)
  | some a, some b =>
    let dr := drawFor o.mode seed
    let r := o.op dr.1 a b
    if trapping o.en r.2 != 0 then .error r.2 else .ok (some r.1, fl ||| r.2, dr.2)

/-- A node joins the stack when element e is done: every block that ends at e + 1 is formed. The error names the level
of the combination that traps. -/
def RedOps.carry (o : RedOps) : List (Option Nat) → Nat → Nat → Option Nat → Flags → Word →
    Except (Nat × Flags) (List (Option Nat) × Flags × Word)
  | [], _, _, _, fl, seed => .ok ([], fl, seed)
  | n :: t, lvl, e, c, fl, seed =>
    if e % 2 = 1 then
      match o.comb n c fl seed with
      | .error f => .error (lvl, f)
      | .ok (c', fl', seed') =>
        match o.carry t (lvl + 1) (e / 2) c' fl' seed' with
        | .error x => .error x
        | .ok (l, r) => .ok (none :: l, r)
    else .ok (c :: t, fl, seed)
/-- Node(0, W): the stack's nodes joined from the lowest level (06:R193). -/
def RedOps.tail (o : RedOps) : List (Option Nat) → Nat → Option Nat → Flags → Word →
    Except (Nat × Flags) (Option Nat × Flags × Word)
  | [], _, c, fl, seed => .ok (c, fl, seed)
  | n :: t, lvl, c, fl, seed =>
    match o.comb n c fl seed with
    | .error f => .error (lvl, f)
    | .ok (c', fl', seed') => o.tail t (lvl + 1) c' fl' seed'
/-- Blocks of a prefix combined from the left. -/
def RedOps.prefix (o : RedOps) : List (Option Nat) → Option Nat → Flags → Word → Except Flags (Option Nat × Flags × Word)
  | [], c, fl, seed => .ok (c, fl, seed)
  | n :: t, c, fl, seed =>
    match o.comb c n fl seed with
    | .error f => .error f
    | .ok (c', fl', seed') => o.prefix t c' fl' seed'

/-- The highest active element below hi, or `lo`. -/
def topActive (act : Nat → Bool) (lo : Nat) : Nat → Nat
  | 0 => lo
  | n + 1 => if act n then n else topActive act lo n

/-- The first active element from e upward, among n. -/
def nextActive (act : Nat → Bool) : Nat → Nat → Nat
  | 0, e => e
  | n + 1, e => if act e then e else nextActive act n (e + 1)

/-- n elements from e upward. The error is the flags raised and the element at which the trap stops: of a reduction the highest active
element that the combination covers (17:R501), of a scan the element whose result the combination first goes into (17:R505). -/
def RedOps.go (o : RedOps) (lin scan kz : Bool) (w : Nat) (act : Nat → Bool) (src : Nat) :
    Nat → Nat → RedAcc → Except (Nat × Flags) RedAcc
  | 0, _, a => .ok a
  | n + 1, e, a =>
    let x := if act e then some (getE w src e) else none
    let write (a : RedAcc) (r : Option Nat) : RedAcc :=
      if scan then
        match x, r with
        | some _, some b => { a with v := putE w a.v e b }
        | _, _ => if kz then { a with v := putE w a.v e 0 } else a
      else a
    if lin then
      match o.comb a.lin x a.fl a.seed with
      | .error f => .error (e, f)
      | .ok (c, fl, seed) => o.go lin scan kz w act src n (e + 1) (write { a with lin := c, fl := fl, seed := seed } c)
    else
      match o.carry a.nodes 0 e x a.fl a.seed with
      | .error (_, f) => .error (if scan then nextActive act 2048 e else topActive act 0 (e + 1), f)
      | .ok (l, fl, seed) =>
        let a := { a with nodes := l, fl := fl, seed := seed }
        if scan && x.isSome then
          match o.prefix l.reverse none fl seed with
          | .error f => .error (e, f)
          | .ok (r, fl, seed) => o.go lin scan kz w act src n (e + 1) (write { a with fl := fl, seed := seed } r)
        else o.go lin scan kz w act src n (e + 1) (write a none)

/-- The operation on containers of ET (06:R174, R193; 17:R500). -/
def Hart.redOp (h : Hart) (o : RedOp) (mode : Rm) : Nat → Nat → Nat → Nat × Flags :=
  if etIsInt h.et then
    let sg := etSigned h.et
    fun _ a b => (match o with
      | .sum => iAdd sg h.sew a b
      | .max => iMax sg h.sew a b
      | .min => iMin sg h.sew a b
      | .and => a &&& b
      | .or => a ||| b
      | .xor => a ^^^ b, 0)
  else
    let f := etFmt h.et
    fun d a b =>
      let x := decodeF f h.ftz a
      let y := decodeF f h.ftz b
      let v := match o with
        | .max => maxMinF true x y
        | .min => maxMinF false x y
        | _ => addF mode x y
      let r := roundTo f mode h.ftz d v.1
      (r.1, r.2 ||| v.2)

/-- The partial state read from a shadow at VES = e (07:R211). -/
def redLoad (sh : Nat) (w e : Nat) : List (Option Nat) × Option Nat :=
  let pres := getE 64 sh 0 % 2 ^ 16
  ((List.range 15).map (fun b =>
      if e.testBit b && pres.testBit b then some (getE 64 sh (b + 1) % 2 ^ w) else none),
    if pres.testBit 0 then some (getE 64 sh 1 % 2 ^ w) else none)
/-- Slots from 1 upward: each present node, or zero. -/
def redSlots : List (Option Nat) → Nat → Nat → Nat
  | [], _, sh => sh
  | n :: t, i, sh => redSlots t (i + 1) (putE 64 sh i (n.getD 0))
def redPres : List (Option Nat) → Nat
  | [] => 0
  | n :: t => (if n.isSome then 1 else 0) + 2 * redPres t
/-- The shadow as a stop at VES = e writes it (07:R211): slots 1 to 15, as many as the register holds. -/
def redStore (lin : Bool) (vlen e : Nat) (a : RedAcc) (sh : Nat) : Nat :=
  let l := if lin then [a.lin] else a.nodes
  let l := (l ++ List.replicate 15 none).take (min 15 (vlen / 64 - 1))
  putE 64 (redSlots l 1 sh) 0 (e * 2 ^ 32 + (if lin then 2 ^ 16 else 0) + redPres l)

/-- The FPTRAP of 17:R501 and R505 at element t: the execution from `start` is formed again up to the stop. Below a scan's stop an
inactive element may end a block whose combination is the one that trapped: the partial state of 07:R211 holds that block's node, so the
combination is formed here as one not enabled and not again on resumption (DEDUCED, log 81). -/
def redTrap (i : Instr) (d : Reg) (lin scan : Bool) (shr : BitVec 1) (start t : Nat) (f : Flags)
    (again : Nat → Except (Nat × Flags) RedAcc) : M Unit := do
  let stop := max t start
  match again (stop - start) with
  | .error _ => pure ()
  | .ok a =>
    let keep := decide (start ≤ t) && stop != 0
    modHart (fun h =>
      let h := { h with fflags := h.fflags ||| a.fl ||| f, srseed := a.seed, ves := BitVec.ofNat 32 stop }
      let h := if scan then h.setV d (BitVec.ofNat 16384 a.v) else h
      let h := if keep then
          (h.setSh shr (BitVec.ofNat 16384 (redStore lin h.vlen stop a (h.getSh shr).toNat))).mark (secBit 11)
        else h
      h.mark (marks i))
  let h ← getHart
  trapM .fptrap (BitVec.ofNat 64 (t * 2 ^ 32 + (trapping h.fen f).toNat))

/-- A rest at element e > 0 with its partial state (07:R206, R211). -/
def redRest (i : Instr) (d : Reg) (lin scan : Bool) (shr : BitVec 1) (e : Nat) (a : RedAcc) : M Unit := do
  modHart (fun h =>
    let h := { h with fflags := h.fflags ||| a.fl, srseed := a.seed, ves := BitVec.ofNat 32 e }
    let h := if scan then h.setV d (BitVec.ofNat 16384 a.v) else h
    ((h.setSh shr (BitVec.ofNat 16384 (redStore lin h.vlen e a (h.getSh shr).toNat))).mark (secBit 11)).mark (marks i))
  waitM

/-- Checks of 17:R499 at VCP. -/
def redTypes (h : Hart) (o : RedOp) (r : RmDyn) : Bool :=
  if etIsInt h.et then r == .st .rne
  else etIsIeee h.et && (match o with | .sum | .max | .min => true | _ => false)

/-- 17:R499-R501. -/
def vopVred (d a : Reg) (o : RedOp) (lin : Bool) (sh : BitVec 1) (r : RmDyn) (k : BitVec 3) (q : QEntry) : M Unit := do
  let h ← getHart
  needVcp q (redTypes h o r)
  let w := h.sew
  let i : Instr := .vred d a o lin sh r k
  let mode := h.rmOf r
  let ops : RedOps := ⟨h.redOp o mode, if etIsInt h.et then .rne else mode, h.fen⟩
  let act (i : Nat) : Bool := decide (i < h.vlN) && h.active k i
  let start := h.ves.toNat
  let init := getE w (h.getV d).toNat 0
  let (nodes, s) := if start = 0 then (List.replicate 15 none, some init) else redLoad (h.getSh sh).toNat w start
  let s := if s.isNone then some init else s
  let acc : RedAcc := ⟨nodes, s, 0, h.srseed, 0⟩
  let go (n : Nat) : Except (Nat × Flags) RedAcc := ops.go lin false false w act (h.getV a).toNat n start acc
  let top := topActive act 0 h.vlN
  let e := h.unitEnd h.groupElts h.vlN
  if e < h.vlN then
    match go (e - start) with
    | .error (t, f) => redTrap i d lin false sh start t f go
    | .ok x => redRest i d lin false sh e x
  let fin : Except (Nat × Flags) (Option Nat × Flags × Word) :=
    match go (h.vlN - start) with
    | .error e => .error e
    | .ok x =>
      if lin then .ok (x.lin, x.fl, x.seed)
      else
        match ops.tail x.nodes 0 none x.fl x.seed with
        | .error e => .error (top, e.2)
        | .ok (c, fl, seed) =>
          match ops.comb (some init) c fl seed with
          | .error f => .error (top, f)
          | .ok y => .ok y
  match fin with
  | .error (t, f) => redTrap i d lin false sh start t f go
  | .ok (c, fl, seed) =>
    modHart (fun h =>
      { (h.setV d (BitVec.ofNat 16384 (putE w (h.getV d).toNat 0 (c.getD init)))).mark (marks i) with
        fflags := h.fflags ||| fl, srseed := seed })

/-- A scan at rest at element e, past its last active element: its results and flags stand, with zeros up to e where kz writes them, and
the shadow holds the nodes at e (07:R211), which no result needs. -/
def scanPast (ops : RedOps) (lin kz : Bool) (w e : Nat) (x : RedAcc) (nodes : RedOps → Except (Nat × Flags) RedAcc) (last : Nat) : RedAcc :=
  let y := match nodes { ops with en := 0 } with
    | .ok y => y
    | .error _ => x
  { x with nodes := y.nodes, lin := if lin then y.lin else x.lin, v := wholeV w (fun _ => false) kz (fun _ => none) (e - last) last x.v }
/-- 17:R505. Results are formed up to the last active element. -/
def vopVscan (d a : Reg) (o : RedOp) (lin : Bool) (sh : BitVec 1) (r : RmDyn) (m : Pred) (q : QEntry) : M Unit := do
  let h ← getHart
  needVcp q (redTypes h o r)
  let w := h.sew
  let i : Instr := .vscan d a o lin sh r m
  let mode := h.rmOf r
  let ops : RedOps := ⟨h.redOp o mode, if etIsInt h.et then .rne else mode, h.fen⟩
  let act (i : Nat) : Bool := decide (i < h.vlN) && h.active m.k i
  let start := h.ves.toNat
  let (nodes, s) := if start = 0 then (List.replicate 15 none, none) else redLoad (h.getSh sh).toNat w start
  let acc : RedAcc := ⟨nodes, s, 0, h.srseed, (h.getV d).toNat⟩
  let src := (h.getV a).toNat
  let goes (ops : RedOps) (n : Nat) : Except (Nat × Flags) RedAcc := ops.go lin true m.kz w act src n start acc
  let go := goes ops
  let last := if (List.range h.vlN).any act then topActive act 0 h.vlN + 1 else start
  let e := h.unitEnd h.groupElts h.vlN
  if e < h.vlN then
    match go (min e last - start) with
    | .error (t, f) => redTrap i d lin true sh start t f (goes { ops with en := 0 })
    | .ok x =>
      redRest i d lin true sh e (if e ≤ last then x else scanPast ops lin m.kz w e x (fun o => goes o (e - start)) (max last start))
  match go (last - start) with
  | .error (t, f) => redTrap i d lin true sh start t f (goes { ops with en := 0 })
  | .ok x =>
    let done := max last start
    let v := wholeV w (fun _ => false) m.kz (fun _ => none) (h.vlN - done) done x.v
    modHart (fun h => { (h.setV d (BitVec.ofNat 16384 v)).mark (marks i) with
                        fflags := h.fflags ||| x.fl, srseed := x.seed })

end Sys2Proof.Machine
end

