-- ==== Sys2Proof/Machine/Collective.lean ====
section
/-! DEFINITION. Collective streams, major 60 (11:R310-R317; 13:R378-R382; 06:R197-R200). -/
namespace Sys2Proof.Machine
open Sys2Proof

/-! ## The record (11:R310, R312) -/

/-- Fields set by software, or none where reason 2 of 11:R312 applies. -/
def bindingOf (vlen : Nat) (vd : Reg) (record : Word) (user : Bool) (b : Nat) : Option Binding :=
  let op := bitsOf b 170 168
  let res := bitsOf b 63 56 == 0 && bitsOf b 127 120 == 0 && bitsOf b 191 182 == 0 && bitsOf b 327 325 == 0 &&
    b / 2 ^ 368 == 0
  match etOf (bitsOf b 178 174), rmOf (bitsOf b 181 179) with
  | some ty, some rm =>
    let isInt := etIsInt ty
    let exact := b.testBit 173
    let chunk := bitsOf b 223 192
    let ok := res && op != 7 && bitsOf b 172 171 != 3 && (isInt || etIsIeee ty) &&
      !(decide (3 ≤ op) && decide (op ≤ 5) && !isInt) &&
      !(exact && (op != 0 || isInt || ty == .fp64)) && !(op == 6 && (exact || chunk != 0)) &&
      (op == 6 || (chunk != 0 && decide (chunk * etSew ty ≤ vlen))) &&
      decide (bitsOf b 167 148 < bitsOf b 147 128) && bitsOf b 255 224 != 0
    if ok then
      some { vd := vd, record := record, cid := BitVec.ofNat 32 (bitsOf b 367 336), op := op, pattern := bitsOf b 172 171, exact := exact, ty := ty, rm := rm, chunk := chunk, count := bitsOf b 255 224, nranks := bitsOf b 147 128, rank := bitsOf b 167 148, dest := BitVec.ofNat 64 (bitsOf b 119 64), group := [], ports := [], sent := 0, recv := 0, reduced := [], written := 0, destFault := none, seed := 0x6A09E667F3BCC908 ^^^ (BitVec.ofNat 64 (bitsOf b 367 336)), err := 0, flags := 0, mergeBad := [], user := user, recDirty := false, recFault := none }
    else none
  | _, _ => none

/-- The engine writes SENT, RECV, FLAGS and ERR; a fault is kept for the binding hart (13:R378). -/
def recordBytes (b : Binding) : List Byte :=
  leBytes 4 b.sent ++ leBytes 4 b.recv ++ leBytes 1 b.flags.toNat ++ leBytes 1 b.err
def setBinding (s : State) (id : HartId) (b : Binding) : State :=
  s.modHartOf id (fun h => { h with bindings := h.bindings.map (fun c => if c.vd == b.vd then b else c) })
def getBinding (s : State) (id : HartId) (vd : Reg) : Option (Hart × Binding) :=
  match s.hartOf id with
  | none => none
  | some h => (h.bindings.find? (fun b => b.vd == vd)).map (fun b => (h, b))
def writeRecord (s : State) (h : Hart) (b : Binding) : State :=
  match runM (writeMem (s.engineCtx h b.user) (b.record + 32) (recordBytes b)) s with
  | (.ok _, s') => setBinding s' h.id { b with recDirty := false }
  | (.error (.trap c v), _) => setBinding s h.id { b with recDirty := true, recFault := some (c, v) }
  | (.error _, _) => setBinding s h.id { b with recDirty := true }

/-- Contributions that no longer count. -/
def dropContributions (s : State) (p : Contribution → Bool) : State :=
  { s with contributions := s.contributions.filter (fun c => !p c) }

/-- The engine's word before an instruction that names a binding: a kept fault is taken; then the fields are written
again first (13:R378). -/
def recordCheck (b : Binding) : M Unit := do
  match b.recFault with
  | some (c, v) =>
    modify (fun s => setBinding s s.hart.id { b with recFault := none })
    trapM c v
  | none =>
    if b.recDirty then
      modify (fun s => writeRecord s s.hart b)
      match getBinding (← get) (← getHart).id b.vd with
      | some (_, b') =>
        match b'.recFault with
        | some (c, v) =>
          modify (fun s => setBinding s s.hart.id { b' with recFault := none })
          trapM c v
        | none => pure ()
      | none => pure ()

/-- The package of the rank that a group table's entry names (11:R311). -/
def entryHere (s : State) (e : BitVec 64) : Bool := bitsOf e.toNat 18 0 == bitsOf s.adapter.ep.toNat 18 0
/-- Some rank of a group is on another package. -/
def State.abroad (s : State) (group : List (BitVec 64)) : Bool := !(group.all (entryHere s))
/-- System software has enabled an Ultra Ethernet port (01:R32). -/
def State.etherUp (s : State) : Bool := s.portsOn.any (fun l => decide (l < 16))
/-- What ranks elsewhere are sent waits for an Ultra Ethernet port (01:R32). -/
def State.sendPeers (s : State) (group : List (BitVec 64)) (o : Out) : State :=
  if !s.abroad group then s
  else if s.etherUp then { s with out := s.out ++ [o] }
  else { s with adapter := { s.adapter with kept := s.adapter.kept ++ [o] } }
/-- A port is enabled (01:R32): an Ultra Ethernet port lets go what waited for one. -/
def State.enablePort (s : State) (l : Nat) : State :=
  if 16 < l || s.portsOn.contains l then s
  else
    let s := { s with portsOn := l :: s.portsOn }
    if s.etherUp then { s with out := s.out ++ s.adapter.kept, adapter := { s.adapter with kept := [] } } else s
/-- Ports that a binding uses: some of those enabled, where a rank is on another package (11:R316). -/
def portsUsed (s : State) (group : List (BitVec 64)) : List Nat :=
  if !s.abroad group then [] else (List.range 16).filter (fun l => s.portsOn.contains l && Config.choice s.tick (2 ^ 70 + l))
/-- COLBIND (11:R312, 13:R378). -/
def vopColbind (d _s : Reg) (q : QEntry) : M Unit := do
  let a := q.opnd
  checkM (a.toNat % 64 == 0) .misalign a
  let s ← get
  let b := leNat (← vectorBytes 0 1 (← addresses s.ctx .read a 64 false))
  let group := BitVec.ofNat 64 (bitsOf b 55 0)
  checkM (group.toNat % 8 == 0) .misalign group
  let h ← getHart
  checkM (!(h.bindings.any (fun c => c.vd == d)) && decide (h.bindings.length < 8)) .collective (collectiveV d 1)
  match bindingOf h.vlen d a (h.lv == .a) b with
  | none => trapM .collective (collectiveV d 2)
  | some c =>
    let t := leNat (← vectorBytes 0 8 (← addresses s.ctx .read group (8 * c.nranks) false))
    let group := (elems 64 t c.nranks).map (BitVec.ofNat 64)
    let c := { c with group := group, ports := portsUsed (← get) group }
    vectorPutElts 1 (← addresses s.ctx .write (a + 32) 10 false) (recordBytes c)
    modHart (fun h => { h with bindings := h.bindings ++ [c] })
    modify (fun s => dropContributions s (fun x => x.cid == c.cid && x.rank == c.rank))

/-! ## Reads and contributions (11:R313, 13:R379) -/

/-- Mask numbers an instruction names other than k0 (11:R312 reason 3). -/
def namesMask (i : Instr) : Bool := (kSrcs i).any (· != 0)
def Hart.boundDst (h : Hart) (i : Instr) : List Binding := h.bindings.filter (fun b => vDst i == some b.vd)
/-- Reason 3 of 11:R312. -/
def chunkShape (h : Hart) (i : Instr) (b : Binding) : Bool :=
  !namesMask i && h.et == b.ty && (b.op == 6 || h.vlN == b.chunk)
def checkEach (f : Binding → M Unit) : List Binding → M Unit
  | [] => pure ()
  | b :: t => do
    f b
    checkEach f t
/-- A read that has not completed delivers no chunk: its register holds what it did, but for the elements the instruction itself has
written there (13:R379). -/
def Hart.undeliver (h : Hart) (i : Instr) (g : Hart) : Hart :=
  (h.boundSrcs i).foldl (fun g b =>
    let keep := if vDst i == some b.vd then g.ves.toNat * g.sew else 0
    let old := (h.getV b.vd).toNat
    g.setV b.vd (BitVec.ofNat 16384 (old / 2 ^ keep * 2 ^ keep + (g.getV b.vd).toNat % 2 ^ keep))) g
/-- A read before it starts: its chunk's number, the binding's standing, and the chunk itself (11:R312, R313, R315). -/
def readCheck (b : Binding) : M Unit := do
  checkM (decide (b.recv < b.count) && decide (b.recv < b.sent)) .collective (collectiveV b.vd 4)
  checkM (!(b.err == 1 || b.err == 2 || b.err == 3)) .collective (collectiveV b.vd 6)
  match b.mergeBad.lookup b.recv with
  | some v => trapM .mergeorder v
  | none => if b.reduced.length ≤ b.recv then waitM
/-- Reduced chunk RECV stands in the register; an element a resumed instruction has already written stays. -/
def fillChunk (h : Hart) (i : Instr) (b : Binding) : Hart :=
  let v := (b.reduced.getD b.recv 0).toNat
  let keep := if vDst i == some b.vd then h.ves.toNat * h.sew else 0
  let old := (h.getV b.vd).toNat
  (h.setV b.vd (BitVec.ofNat 16384 (v / 2 ^ keep * 2 ^ keep + old % 2 ^ keep))).mark (vSec b.vd)
/-- Before an instruction that names bound registers. -/
def boundPre (i : Instr) : M Unit := do
  let h ← getHart
  let src := h.boundSrcs i
  let dst := h.boundDst i
  if h.ves = 0 then checkEach recordCheck (src ++ dst)
  let h ← getHart
  checkEach (fun b => checkM (chunkShape h i b) .collective (collectiveV b.vd 3)) (src ++ dst)
  checkEach (fun b => checkM (decide (b.sent < b.count)) .collective (collectiveV b.vd 4)) dst
  checkEach readCheck src
  modHart (fun h => (h.boundSrcs i).foldl (fun h b => fillChunk h i b) h)

/-- The chunk a contribution sends: elements 0 to VL - 1, or one record in the layout of 08:R247 (11:R313, R315). -/
def contributed (h : Hart) (b : Binding) : VReg :=
  let v := (h.getV b.vd).toNat
  let n := if b.op == 6 then 8 * recBytes (bitsOf v 183 176) else h.vlN * h.sew
  BitVec.ofNat 16384 (v % 2 ^ n)
def bumpRecv (s : State) (b : Binding) : State :=
  match getBinding s s.hart.id b.vd with
  | some (h, c) => writeRecord s h { c with recv := c.recv + 1 }
  | none => s
def contribute (s : State) (b : Binding) : State :=
  match getBinding s s.hart.id b.vd with
  | some (h, c) =>
    let v := contributed h c
    writeRecord (({ s with contributions := s.contributions ++ [⟨c.cid, c.rank, c.sent, v⟩] } : State).sendPeers c.group (.contribution c.cid c.rank c.sent v))
      h { c with sent := c.sent + 1 }
  | none => s
/-- After its completion. -/
def boundPost (i : Instr) : M Unit := do
  let h ← getHart
  modify (fun s => (h.boundSrcs i).foldl bumpRecv s)
  modify (fun s => (h.boundDst i).foldl contribute s)

/-! ## COLWAIT and COLFREE (11:R317, 13:R381, R382) -/

/-- Bytes of a chunk at DEST, and its offset. -/
def destPart (b : Binding) (j : Nat) : Nat × List Byte :=
  let v := (b.reduced.getD j 0).toNat
  if b.op == 6 then
    let n := recBytes (bitsOf v 183 176)
    (j * n, leBytes n v)
  else (j * b.chunk * etSew b.ty / 8, leBytes ((b.chunk * etSew b.ty + 7) / 8) v)
/-- Chunks not yet written at DEST, in order; nothing of a chunk whose merge failed is written. -/
def writeDest (h : Hart) (user : Bool) (b : Binding) : Nat → State → State × Binding
  | 0, s => (s, b)
  | n + 1, s =>
    if b.dest = 0 || b.reduced.length ≤ b.written || b.destFault.isSome then (s, b)
    else if (b.mergeBad.lookup b.written).isSome then writeDest h user { b with written := b.written + 1 } n s
    else
      let p := destPart b b.written
      match runM (writeMem (s.engineCtx h user) (b.dest + BitVec.ofNat 64 p.1) p.2) s with
      | (.ok _, s') => writeDest h user { b with written := b.written + 1 } n s'
      | (.error (.trap c v), s') => (s', { b with destFault := some (c, v) })
      | (.error _, s') => (s', b)
def findBound (d : Reg) : M Binding := do
  match (← getHart).bindings.find? (fun b => b.vd == d) with
  | some b => return b
  | none => trapM .collective (collectiveV d 7)
def vopColwait (d : Reg) (_ : QEntry) : M Unit := do
  recordCheck (← findBound d)
  let b ← findBound d
  checkM (!(b.err == 1 || b.err == 2 || b.err == 3)) .collective (collectiveV d 6)
  match b.mergeBad with
  | (_, v) :: _ => trapM .mergeorder v
  | [] => pure ()
  if b.reduced.length < b.count then waitM
  match b.destFault with
  | some (c, v) =>
    modify (fun s => setBinding s s.hart.id { b with destFault := none })
    trapM c v
  | none =>
    let s ← get
    let r := writeDest s.hart b.user b b.count s
    set (setBinding r.1 s.hart.id { r.2 with destFault := none })
    match r.2.destFault with
    | some (c, v) => trapM c v
    | none => pure ()

/-- Bindings of one stream on this package. -/
def State.stream (s : State) (cid : BitVec 32) : List (Hart × Binding) :=
  (s.sorted.map (fun h => (h.bindings.filter (fun b => b.cid == cid)).map (fun b => (h, b)))).flatten
/-- One byte of a reduced chunk at DEST, where the choice has it written before the binding ends. -/
def leaveByte (c : Ctx) (base : Word) (s : State) (p : Byte × Nat) : State :=
  if Config.choice s.tick (2 ^ 71 + base.toNat + p.2) then
    match runM (writeMem c (base + BitVec.ofNat 64 p.2) [p.1]) s with
    | (.ok _, s') => s'
    | _ => s
  else s
/-- DEST bytes of reduced chunks not yet written when the binding ends: each its old value or the reduced one (11:R317; log 60). -/
def leaveDest (s : State) (h : Hart) (b : Binding) : State :=
  if b.dest = 0 then s
  else
    ((List.range b.reduced.length).filter (fun j => decide (b.written ≤ j) && (b.mergeBad.lookup j).isNone)).foldl (fun s j =>
      let p := destPart b j
      p.2.zipIdx.foldl (leaveByte (s.engineCtx h b.user) (b.dest + BitVec.ofNat 64 p.1)) s) s
/-- A binding ends; ranks that still expect contributions from it learn of it (11:R317). -/
def freeBinding (s : State) (id : HartId) (b : Binding) : State :=
  let s := match s.hartOf id with
    | some h => leaveDest s h b
    | none => s
  let s1 := s.modHartOf id (fun h => { h with bindings := h.bindings.filter (fun c => c.vd != b.vd) })
  if b.sent < b.count && b.nranks != 1 then
    let s2 := s1.sendPeers b.group (.peerFreed b.cid)
    (s1.stream b.cid).foldl (fun s p =>
      if p.2.reduced.length < p.2.count then s.later (.collectivePeerFreed p.1.id p.2.vd) else s) s2
  else s1
/-- A contribution of the binding has not been sent. -/
def State.unsent (s : State) (b : Binding) : Bool :=
  s.adapter.kept.any (fun o => match o with
    | .contribution cid rank _ _ => cid == b.cid && rank == b.rank
    | _ => false)
def vopColfree (d : Reg) (_ : QEntry) : M Unit := do
  recordCheck (← findBound d)
  let b ← findBound d
  if (← get).unsent b then waitM
  modify (fun s => freeBinding s s.hart.id b)

/-! ## Reduction (11:R314, R315) -/

/-- One level of the canonical tree: neighbours combine where both are present. -/
def treeLevel {α σ : Type} (f : α → α → σ → Except Word α × σ) : List α → σ → Except Word (List α) × σ
  | a :: b :: t, s =>
    match f a b s with
    | (.error e, s') => (.error e, s')
    | (.ok c, s') =>
      match treeLevel f t s' with
      | (.error e, s'') => (.error e, s'')
      | (.ok l, s'') => (.ok (c :: l), s'')
  | l, s => (.ok l, s)
/-- Node(0, W), level after level. -/
def treeFold {α σ : Type} (f : α → α → σ → Except Word α × σ) : Nat → List α → σ → Except Word (List α) × σ
  | 0, l, s => (.ok l, s)
  | n + 1, l, s =>
    if l.length ≤ 1 then (.ok l, s)
    else
      match treeLevel f l s with
      | (.error e, s') => (.error e, s')
      | (.ok l', s') => treeFold f n l' s'

def colRedOp (op : Nat) : RedOp :=
  match op with
  | 0 => .sum | 1 => .max | 2 => .min | 3 => .and | 4 => .or | _ => .xor
/-- Op of an element type, without FTZ; a draw for a sum only. -/
def colOp (b : Binding) (x y : Nat) (st : Flags × Word) : Except Word Nat × (Flags × Word) :=
  let w := etSew b.ty
  if etIsInt b.ty then
    let sg := etSigned b.ty
    (.ok (match colRedOp b.op with
      | .sum => iAdd sg w x y
      | .max => iMax sg w x y
      | .min => iMin sg w x y
      | .and => x &&& y
      | .or => x ||| y
      | .xor => x ^^^ y), st)
  else
    let f := etFmt b.ty
    let p := decodeF f false x
    let q := decodeF f false y
    match colRedOp b.op with
    | .max | .min =>
      let v := maxMinF (b.op == 1) p q
      (.ok (roundTo f .rne false 0 v.1).1, (st.1 ||| v.2, st.2))
    | _ =>
      let v := addF b.rm p q
      let d := drawFor b.rm st.2
      let r := roundTo f b.rm false d.1 v.1
      (.ok r.1, (st.1 ||| v.2 ||| r.2, d.2))
/-- Exact mode (06:R198-R200). -/
def colExact (b : Binding) (l : List Nat) (st : Flags × Word) : Nat × (Flags × Word) :=
  let f := etFmt b.ty
  let wide := l.foldl (fun a x => wideNorm (wideAdd a (wideOf (decodeF f false x)))) (List.replicate 7 0)
  match wideValue wide with
  | .fin n m e =>
    let d := drawFor b.rm st.2
    let r := roundTo f b.rm false d.1 (.fin n m e)
    (r.1, (st.1 ||| r.2, d.2))
  | v => ((roundTo f .rne false 0 v).1, st)
/-- Elements from e upward. -/
def colElems (b : Binding) (vals : List Nat) : Nat → Nat → Flags × Word → List Nat × (Flags × Word)
  | 0, _, st => ([], st)
  | n + 1, e, st =>
    let l := vals.map (fun v => getE (etSew b.ty) v e)
    let r : Nat × (Flags × Word) :=
      if b.exact then colExact b l st
      else
        match treeFold (colOp b) 20 l st with
        | (.ok (x :: _), st') => (x, st')
        | (_, st') => (0, st')
    let t := colElems b vals n (e + 1) r.2
    (r.1 :: t.1, t.2)
/-- A merge of two stored records, checked as 08:R246: K against K_max of the binding's hart (DEDUCED, log 73), and then the
three reasons. -/
def colMerge (kmax : Nat) (x y : Nat) (st : Unit) : Except Word Nat × Unit :=
  let a := XRec.ofRow x
  let b := XRec.ofRow y
  if kmax < a.k || kmax < b.k then (.error (BitVec.ofNat 64 kmax), st)
  else
    match mergeReason false a b with
    | some r => (.error (mergeV r 0), st)
    | none => (.ok (a.merge b).bits, st)
/-- A reduced chunk with its flags and generator, or the TRAPV of a merge that failed. -/
def reduceChunk (kmax : Nat) (b : Binding) (vals : List Nat) : Except Word Nat × (Flags × Word) :=
  if b.op == 6 then
    match treeFold (colMerge kmax) 20 vals () with
    | (.ok (x :: _), _) => (.ok x, (0, b.seed))
    | (.ok [], _) => (.ok 0, (0, b.seed))
    | (.error e, _) => (.error e, (0, b.seed))
  else
    let r := colElems b vals b.chunk 0 (0, b.seed)
    (.ok (packE (etSew b.ty) r.1), r.2)

/-- What must agree at every rank (11:R311). -/
def agrees (a b : Binding) : Bool :=
  a.nranks == b.nranks && a.op == b.op && a.pattern == b.pattern && a.exact == b.exact && a.ty == b.ty &&
  a.rm == b.rm && a.chunk == b.chunk && a.count == b.count && a.group == b.group
/-- An error of a binding, where it has none yet. -/
def setErr (s : State) (id : HartId) (vd : Reg) (e : Nat) : State :=
  match getBinding s id vd with
  | some (h, b) => if b.err = 0 then writeRecord s h { b with err := e } else s
  | none => s
/-- Values of a chunk in rank order: contributed on this package, or by those of the event's peers that are elsewhere. -/
def chunkValues (s : State) (b : Binding) (j : Nat) (peers : List (Nat × VReg)) : Nat → Option (List Nat)
  | 0 => some []
  | n + 1 =>
    let r := b.nranks - (n + 1)
    let v := match s.contributions.find? (fun c => c.cid == b.cid && c.rank == r && c.chunk == j) with
      | some c => some c.value
      | none => if s.abroad [b.group.getD r 0] then peers.lookup r else none
    match v, chunkValues s b j peers n with
    | some x, some t => some (x.toNat :: t)
    | _, _ => none
/-- A reduced chunk reaches one binding: FLAGS, ERR, and DEST now or later (11:R314, R315, R317; DESIGN CHOICE,
log 60). -/
def deliver (j : Nat) (r : Except Word Nat × (Flags × Word)) (s : State) (id : HartId) (vd : Reg) : State :=
  match getBinding s id vd with
  | none => s
  | some (h, b) =>
    let b := { b with flags := b.flags ||| r.2.1, seed := r.2.2 }
    let b := match r.1 with
      | .ok v => { b with reduced := b.reduced ++ [BitVec.ofNat 16384 v] }
      | .error e => { b with reduced := b.reduced ++ [0], mergeBad := b.mergeBad ++ [(j, e)], err := if b.err = 0 then 4 else b.err }
    let w := if Config.choice s.tick (2 ^ 72 + 32 * hartSite id + vd.toNat) then writeDest h b.user b (b.reduced.length + 1) s else (s, b)
    writeRecord w.1 h w.2
/-- Bindings of ranks on this package that have contributed a first chunk as ranks of the binding's group, but under another CID
(11:R311: the group table names a rank's package and its hart's HARTIX; DEDUCED, log 73). -/
def strangers (s : State) (h : Hart) (b : Binding) : List (Hart × Binding) :=
  if b.sent = 0 || b.reduced != [] then []
  else
    (b.group.zipIdx.filter (fun p => entryHere s p.1)).flatMap (fun p =>
      match s.hartOf ⟨h.id.gang, bitsOf p.1.toNat 38 19⟩ with
      | none => []
      | some g =>
        if g.bindings.any (fun c => c.cid == b.cid) then []
        else (g.bindings.filter (fun c => c.rank == p.2 && decide (0 < c.sent) && c.reduced == [])).map (fun c => (g, c)))
/-- COLLECTIVE_CHUNK_REDUCED: the next chunk of a binding's stream at every binding of it here (11:R311, R314). `disagree`: the engine
meets a disagreement in the first chunk, with ranks of other packages or with strangers. -/
def chunkReduced (s : State) (id : HartId) (vd : Reg) (peers : List (Nat × VReg)) (disagree : Bool) : Option State :=
  match getBinding s id vd with
  | none => none
  | some (h, b) =>
    let j := b.reduced.length
    let all := (s.stream b.cid).filter (fun p => p.2.reduced.length == j)
    let err (l : List (Hart × Binding)) : State := l.foldl (fun s p => setErr s p.1.id p.2.vd 1) s
    if b.err == 1 || b.count ≤ j then none
    else if disagree && !(strangers s h b).isEmpty then some (err ((h, b) :: strangers s h b))
    else if (disagree || s.abroad b.group) && !(s.etherUp && s.abroad b.group) then none
    else
      match chunkValues s b j peers b.nranks with
      | none => none
      | some vals =>
        if j = 0 && (disagree || !(all.all (fun p => agrees b p.2))) then some (err all)
        else
          let r := reduceChunk h.kMax b vals
          let s1 := all.foldl (fun s p => deliver j r s p.1.id p.2.vd) s
          some (dropContributions s1 (fun c => c.cid == b.cid && c.chunk == j))
/-- 11:R314. -/
def execCollectiveChunkReduced (h : HartId) (v : Reg) (peers : List (Nat × VReg)) (disagree : Bool) (s : State) :
    Host.Outcome State Fault Refusal :=
  match chunkReduced s h v peers disagree with
  | some s' => given s.up "COLLECTIVE_CHUNK_REDUCED" s'
  | none => .refused (.notEnabled "COLLECTIVE_CHUNK_REDUCED")
/-- 11:R317: ERR := 2 at a rank that still expects contributions. -/
def execCollectivePeerFreed (h : HartId) (v : Reg) (s : State) : Host.Outcome State Fault Refusal :=
  match getBinding s h v with
  | some (_, b) => given s.up "COLLECTIVE_PEER_FREED" (if b.reduced.length < b.count then setErr s h v 2 else s)
  | none => .refused (.notEnabled "COLLECTIVE_PEER_FREED")
/-- 11:R310: ERR := 3. -/
def execCollectivePeerUnreachable (h : HartId) (v : Reg) (s : State) : Host.Outcome State Fault Refusal :=
  match getBinding s h v with
  | some _ => given s.up "COLLECTIVE_PEER_UNREACHABLE" (setErr s h v 3)
  | none => .refused (.notEnabled "COLLECTIVE_PEER_UNREACHABLE")

end Sys2Proof.Machine
end

