-- ==== Sys2Proof/Machine/Registers.lean ====
section
/-! DEFINITION. Uncorrectable errors of a hart's registers (12:R348-R350): what each instruction reads and what it writes whole, by file
number (12:R349) and register. -/
namespace Sys2Proof.Machine
open Sys2Proof

/-- TRAPV of DATAERR for the first of some registers that is in error. -/
def Hart.inError (h : Hart) (l : List (Nat × Nat)) : Option Word :=
  if h.badRegs.isEmpty then none
  else (l.find? (fun p => h.badRegs.contains p)).map (fun p => BitVec.ofNat 64 (2 ^ 63 + 256 * p.1 + p.2))
/-- Registers written whole are in error no more. -/
def Hart.cleanse (h : Hart) (l : List (Nat × Nat)) : Hart :=
  if h.badRegs.isEmpty then h else { h with badRegs := h.badRegs.filter (fun p => !l.contains p) }
def fileRegs (file n : Nat) : List (Nat × Nat) := (List.range n).map (fun r => (file, r))

/-! ## The vector side -/

/-- Accumulator tiles of which an instruction reads elements. -/
def mSrcs : Instr → List (BitVec 2)
  | .mma d .. | .xproj d .. | .xprojb d .. => [d]
  | .mrd _ s .. | .xhstore s .. => [s]
  | .xmerge d a => [d, a]
  | _ => []
/-- Registers of the groups in a mask (05:R167). -/
def groupRegs (m : BitVec 12) : List (Nat × Nat) :=
  (List.range 32).filterMap (fun r => if m.getLsbD (r / 8) then some (2, r) else none) ++
  (List.range 4).filterMap (fun r => if m.getLsbD (4 + r) then some (4, r) else none) ++
  (if m.getLsbD 8 then (fileRegs 3 8).tail else []) ++ (if m.getLsbD 9 then fileRegs 5 4 else []) ++
  (if m.getLsbD 10 then fileRegs 7 256 else []) ++ (if m.getLsbD 11 then fileRegs 6 2 else [])
/-- Registers an instruction at VCP reads. -/
def vecReads (t : VType) (i : Instr) : List (Nat × Nat) :=
  (vSrcs i).map (fun r => (2, r.toNat)) ++ ((kSrcs i).filter (· != 0)).map (fun k => (3, k.toNat)) ++
  (mSrcs i).map (fun m => (4, m.toNat)) ++
  (match i with
    | .scld .. => []
    | .scst n _ _ _ => [(5, n.toNat)]
    | _ => if readsScales t i then fileRegs 5 4 else []) ++
  (match i with
    | .ctld .. => []
    | _ => if readsTable t i then fileRegs 7 256 else []) ++
  (match i with
    | .vred _ _ _ _ sh _ _ | .vscan _ _ _ _ sh _ _ => [(6, sh.toNat)]
    | .vsave _ m => groupRegs m
    | _ => [])
/-- Registers it writes whole: of a v or k register, where every element is active and VL is VLMAX. -/
def vecWrites (h : Hart) (i : Instr) : List (Nat × Nat) :=
  (if (kSrcs i).all (· == 0) && h.vlN * h.sew == h.vlen then (match vDst i with | some d => [(2, d.toNat)] | none => []) else []) ++
  (match i with
    | .kmov k _ ⟨0, _⟩ | .kop k _ _ _ ⟨0, _⟩ | .vcmp k _ _ _ ⟨0, _⟩ => if h.vlN * h.sew == h.vlen then [(3, k.toNat)] else []
    | .mzero d | .xhload d .. => [(4, d.toNat)]
    | .scld n .. => [(5, n.toNat)]
    | .ctld .. => fileRegs 7 256
    | .vrstr _ m => groupRegs m
    | .vmvx x _ _ | .kpopc x _ _ | .kfirst x _ _ => [(0, x.toNat)]
    | _ => [])
/-- An instruction at VCP that reads a register in error (12:R349). -/
def checkRegs (i : Instr) : M Unit := do
  let h ← getHart
  match h.inError (vecReads h.vc.vt i) with
  | some v => trapM .dataerr v
  | none => pure ()

/-! ## The scalar side -/

/-- The x register an unposted instruction writes, and the x registers it reads. -/
def scalarX : Instr → Option Reg × List Reg
  | .add d a b _ | .sub d a b _ | .mul d a b _ | .mulh d a b _ _ | .div d a b _ _ | .rem d a b _ _ | .and d a b
  | .or d a b | .xor d a b | .andn d a b | .shl d a b _ | .shr d a b _ | .sar d a b _ | .ror d a b _
  | .min d a b _ | .max d a b _ | .set d a b _ | .ext d a b _ | .lea d a b _ => (some d, [a, b])
  | .sel d a b | .ins d a b => (some d, [d, a, b])
  | .addImm d a _ | .andImm d a _ | .orImm d a _ | .xorImm d a _ | .shlImm d a _ _ | .shrImm d a _ _ | .sarImm d a _ _
  | .rorImm d a _ _ | .setImm d a _ _ | .clz d a _ | .ctz d a _ | .popc d a _ | .bswap d a | .extImm d a _ _ _ => (some d, [a])
  | .insImm d a _ _ => (some d, [d, a])
  | .lim d _ | .addpc d _ => (some d, [])
  | .ld d a _ _ | .ldaq d a _ _ => (some d, [a])
  | .st s a _ _ => (none, [s, a])
  | .strl a b _ _ => (none, [a, b])
  | .amo d a b _ _ _ => (some d, [a, b])
  | .cas d a b _ _ => (some d, [d, a, b])
  | .b a b _ _ | .btab a b _ => (none, [a, b])
  | .call _ => (some 31, [])
  | .jr d a => (some d, [a])
  | .fcmp d _ _ _ _ | .fclass d _ _ => (some d, [])
  | .fcvt d a k _ _ => (match k with | .toI _ => (some d, []) | .ofI _ => (none, [a]) | .toF _ => (none, []))
  | .fmov d a k _ => (match k with | .fx => (some d, []) | .xf => (none, [a]) | .ff => (none, []))
  | .crld d _ | .semtry d _ | .csrr d _ | .setvt d _ => (some d, [])
  | .crst a _ | .trap a _ | .csrw a _ | .tld _ a _ | .tst _ a _ | .nflush a _ => (none, [a])
  | .csrx d a _ | .setvl d a | .setmr d a => (some d, [a])
  | .launch d a b => (some d, [a, b])
  | .signal a b _ | .waitsig a b _ | .tsend a b _ => (none, [a, b])
  | .nput a b c d | .nget a b c d => (none, [a, b, c, d])
  | .namo d a b c _ _ => (some d, [a, b, c])
  | .cpy t _ _ _ => (some t, [])
  | _ => (none, [])
/-- x registers an instruction reads as it issues: a posted one captures its sources. -/
def xReads (i : Instr) : List Reg := (captureX i).toList ++ (captureCont i).toList ++ (scalarX i).2
/-- x registers an instruction names as it issues: CPY writes its tag. -/
def xRegs (i : Instr) : List Reg := xReads i ++ (scalarX i).1.toList
/-- f registers a scalar instruction reads or a posted one captures. -/
def fReads : Instr → List Reg
  | .fadd _ a b _ _ | .fsub _ a b _ _ | .fmul _ a b _ _ | .fdiv _ a b _ _ | .fmin _ a b _ | .fmax _ a b _
  | .fcmp _ a b _ _ => [a, b]
  | .fsqrt _ a _ _ | .fclass _ a _ => [a]
  | .fma _ a b c _ _ => [a, b, c]
  | .fcvt _ a k _ _ => (match k with | .ofI _ => [] | _ => [a])
  | .fmov _ a k _ => (match k with | .xf => [] | _ => [a])
  | i => (captureF i).toList
/-- The f register it writes. -/
def fWrites : Instr → List Reg
  | .fadd d .. | .fsub d .. | .fmul d .. | .fdiv d .. | .fmin d .. | .fmax d .. | .fsqrt d .. | .fma d .. => [d]
  | .fcvt d _ k _ _ => (match k with | .toI _ => [] | _ => [d])
  | .fmov d _ k _ => (match k with | .fx => [] | _ => [d])
  | _ => []
/-- A tensor tile as a file and register (12:R349). -/
def tileReg : Tile → Nat × Nat
  | .w n => (8, n.toNat)
  | .ta n => (9, n.toNat)
/-- Registers an instruction reads as it issues. -/
def issueReads (i : Instr) : List (Nat × Nat) :=
  ((xReads i).filter (· != 0)).map (fun r => (0, r.toNat)) ++ (fReads i).map (fun r => (1, r.toNat)) ++
  (match i with
    | .tst t _ _ => [tileReg t]
    | .tcvt _ a _ _ => [(9, a.toNat)]
    | .tmma d a b _ _ => [(8, a.toNat), (8, b.toNat), (8, (b + 1).toNat), (9, d.toNat)]
    | .tmmaS d a b _ m _ _ => [(8, a.toNat), (8, b.toNat), (8, (b + 1).toNat), (8, m.toNat), (9, d.toNat)]
    | _ => [])
/-- Registers it writes whole as it issues. -/
def issueWrites (i : Instr) : List (Nat × Nat) :=
  ((scalarX i).1.toList.filter (fun _ => match i with | .namo .. => false | _ => true)).map (fun r => (0, r.toNat)) ++ (fWrites i).map (fun r => (1, r.toNat)) ++
  (match i with
    | .tld t _ _ => [tileReg t]
    | .tcvt t .. => [(8, t.toNat)]
    | _ => [])

end Sys2Proof.Machine
end

