-- ==== Sys2Proof/Machine/Remote.lean ====
section
/-! DEFINITION. Remote memory, major 61 (15:R429-R435), and the Ultra Ethernet adapter as initiator and as target (11:R318-R323;
10:R293, R294). -/
namespace Sys2Proof.Machine
open Sys2Proof

/-! ## Connections (11:R318) -/

/-- A connection's descriptor as 512 bits. -/
def State.connOf (s : State) (c : Nat) : Nat := s.peek (s.adapter.ctab.toNat + 64 * c) 64
/-- TRAPV of REMOTE (11:R323). -/
def remoteV (reason conn : Nat) : Word := BitVec.ofNat 64 (conn % 2 ^ 24 * 256 + reason)
/-- The handle names a connection of the hart's address space (15:R430), `open` where its STATE must be 1. -/
def State.connFits (s : State) (xc : Word) (opened : Bool) : Bool :=
  decide (xc.toNat < 2 ^ 24) && decide (xc.toNat < s.adapter.cnum.toNat) && !s.badAt (s.adapter.ctab.toNat + 64 * xc.toNat) 64 &&
  (let d := s.connOf xc.toNat
   bitsOf d 79 64 == (s.asidOf s.hart).toNat && (!opened || bitsOf d 89 88 == 1))
/-- Check 1 of 15:R430; a descriptor that cannot be read is no connection's (DESIGN CHOICE, log 79). -/
def checkConn (xc : Word) (opened : Bool) : M Unit := do
  modify (fun s => s.lookAt (s.adapter.ctab.toNat + 64 * xc.toNat) 64)
  checkM ((← get).connFits xc opened) .remote (remoteV 1 xc.toNat)
/-- STATE := 2 and ERR := reason (11:R323). -/
def failConn (s : State) (c : Nat) (reason : BitVec 8) : State :=
  let w := s.adapter.ctab.toNat + 64 * c + 8
  s.putN w (leBytes 8 (setBits (setBits (s.peek w 8) 25 24 2) 39 32 reason.toNat))
/-- Message numbers by connection. -/
def numOf (l : List (Nat × Nat)) (c : Nat) : Nat := match l.lookup c with | some n => n | none => 0
def bumpNum (l : List (Nat × Nat)) (c : Nat) : List (Nat × Nat) := (c, numOf l c + 1) :: l.filter (fun p => p.1 != c)

/-- The next message on a connection takes its number. -/
def nextMsg (c : Nat) : M Nat := do
  let n := numOf (← get).adapter.sent c
  modify (fun s => { s with adapter := { s.adapter with sent := bumpNum s.adapter.sent c } })
  return n
def emit (o : Out) : M Unit := modify (fun s => { s with out := s.out ++ [o] })
/-- Offsets of the packets of a message of n bytes: 4,096 payload bytes each, the last shorter (11:R320). -/
def packetOffs (n : Nat) : List Nat := (List.range ((n + 4095) / 4096)).map (4096 * ·)

/-- Translation of a local range in units of 16 KiB: the lowest faulting address decides (15:R430). -/
def rangeAddrs (k : AccKind) : Nat → Word → Nat → M (List Nat)
  | 0, _, _ => return []
  | f + 1, va, n => do
    if n = 0 then return []
    let m := min n (16384 - va.toNat % 16384)
    let s ← get
    let l ← addresses s.ctx k va m false
    return l ++ (← rangeAddrs k f (va + BitVec.ofNat 64 m) (n - m))

/-- An operation becomes outstanding; its packets are sent from then on. -/
def issueRemote (kind : PacketKind) (conn : Nat) (offset va : Word) (pas : List Nat) (xd : Reg) (data : List Byte) (offs : List Nat) : M Unit := do
  let m ← nextMsg conn
  let r := bitsOf ((← get).connOf conn) 55 32
  modHart (fun h => { h with remote := h.remote ++ [⟨conn, m, kind, r, offset.toNat, va, pas, [], xd, data, offs, offs⟩] })
def done2 : M Unit := modify (fun s => s.advance 2)

/-- NPUT (15:R430, R432): the bytes read at issue, or their later values, are sent (10:R293; DESIGN CHOICE, log 59). -/
def execNput (xn xl xo xc : Reg) (s : State) : Host.Outcome State Fault Refusal :=
  runInstr (do
    needCV (.nput xn xl xo xc)
    let c := s.getX xc
    let n := (s.getX xn).toNat
    checkConn c true
    checkM (n ≤ 2 ^ 30) .illegal (illegalV (.nput xn xl xo xc))
    if n = 0 then done2
    else
      let pas ← rangeAddrs .read (n / 16384 + 2) (s.getX xl) n
      let b ← scalarBytes pas
      issueRemote .put c.toNat (s.getX xo) (s.getX xl) pas 0 b (packetOffs n)
      done2) s
/-- NGET (15:R430, R433). -/
def execNget (xn xl xo xc : Reg) (s : State) : Host.Outcome State Fault Refusal :=
  runInstr (do
    needCV (.nget xn xl xo xc)
    let c := s.getX xc
    let n := (s.getX xn).toNat
    checkConn c true
    checkM (n ≤ 2 ^ 30) .illegal (illegalV (.nget xn xl xo xc))
    if n = 0 then done2
    else
      let pas ← rangeAddrs .write (n / 16384 + 2) (s.getX xl) n
      issueRemote (.getReq n) c.toNat (s.getX xo) (s.getX xl) pas 0 [] [0]
      done2) s
/-- NAMO (15:R430, R434). -/
def execNamo (d xb xo xc : Reg) (o : AmoOp) (z : ASize) (s : State) : Host.Outcome State Fault Refusal :=
  runInstr (do
    needCV (.namo d xb xo xc o z)
    let c := s.getX xc
    checkConn c true
    checkM ((s.getX xo).toNat % asizeBytes z == 0) .misalign (s.getX xo)
    issueRemote (.amo o z (s.getX xb)) c.toNat (s.getX xo) 0 [] d [] [0]
    if d != 0 then modHart (fun h => { h with namoPend := h.namoPend ++ [d] })
    done2) s

/-- The report with the lowest-numbered covered connection (15:R435). -/
def lowestReport (all : Bool) (c : Nat) : List (Nat × BitVec 8) → Option (Nat × BitVec 8)
  | [] => none
  | r :: t =>
    match lowestReport all c t with
    | none => if all || r.1 == c then some r else none
    | some q => if (all || r.1 == c) && r.1 < q.1 then some r else some q
/-- NFLUSH (15:R430, R434, R435; 10:R294): a report is consumed by the trap, which waits for pending NAMO destinations. The acknowledgement of a put may have arrived or not: one of (log 32). -/
def execNflush (xc : Reg) (sc : Scope) (s : State) : Host.Outcome State Fault Refusal :=
  runInstr (do
    needCV (.nflush xc sc)
    let c := s.getX xc
    if xc != 0 then checkConn c false
    let covers (n : Nat) : Bool := xc == 0 || n == c.toNat
    let busy := s.hart.remote.filter (fun o => covers o.conn)
    if busy.any (fun o => o.kind != .put || !o.unsent.isEmpty) then waitM
    if !busy.isEmpty && !Config.choice s.tick c.toNat then waitM
    modHart (fun h => { h with remote := h.remote.filter (fun o => !covers o.conn) })
    modify (fun s => s.order s.hart.id (fun u => match u.origin with
      | .remote n => if covers n then { u with toS := true, toV := true } else u
      | _ => u))
    match lowestReport (xc == 0) c.toNat s.hart.reports with
    | some (n, r) =>
      if !s.hart.namoPend.isEmpty then waitM
      modHart (fun h => { h with reports := h.reports.filter (fun p => p.1 != n) })
      trapM .remote (remoteV r.toNat n)
    | none => done2) s

/-! ## What the initiator sends -/

/-- Two records of one operation. -/
def RemoteOp.same (a b : RemoteOp) : Bool := a.conn == b.conn && a.seq == b.seq
/-- An operation becomes what f says, where its hart or its retired gang holds it. -/
def State.modOp (s : State) (o : RemoteOp) (f : RemoteOp → List RemoteOp) : State :=
  let upd (l : List RemoteOp) : List RemoteOp := l.flatMap (fun q => if q.same o then f q else [q])
  ({ s with adapter := { s.adapter with orphans := s.adapter.orphans.flatMap (fun p => (upd [p.2]).map (fun q => (p.1, q))) } } : State).modHarts
    (fun h => h.remote.any (·.same o)) (fun h => { h with remote := upd h.remote })
/-- Every outstanding operation. -/
def State.remoteOps (s : State) : List RemoteOp := s.harts.flatMap (·.remote) ++ s.adapter.orphans.map (·.2)
/-- Bytes of an NPUT's packet: of one never sent before, each the byte at issue or the one there now (10:R293; DESIGN CHOICE, log 59). -/
def RemoteOp.payload (s : State) (o : RemoteOp) (off : Nat) : List Byte :=
  if o.virgin.contains off then
    (((o.data.zip o.pas).drop off).take 4096).zipIdx.map (fun p =>
      if Config.choice s.tick (2 ^ 73 + off + p.2) then memRead s.mem p.1.2 else p.1.1)
  else (o.data.drop off).take 4096
/-- A packet of an operation is sent; one sent again carries what it carried before (11:R321). -/
def sendPacket (s : State) (o : RemoteOp) (off : Nat) : State :=
  let b := o.payload s off
  let len := match o.kind with
    | .put => o.pas.length
    | .amo _ z _ => asizeBytes z
    | _ => 0
  let sent (q : RemoteOp) : RemoteOp :=
    { q with unsent := q.unsent.filter (· != off), virgin := q.virgin.filter (· != off),
             data := q.data.take off ++ b ++ q.data.drop (off + b.length) }
  { s.modOp o (fun q => [sent q]) with out := s.out ++ [.packet o.conn ⟨o.conn, o.seq, o.kind, o.region, o.offset, len, off, b⟩] }
/-- Packets that may be sent, with their operations. -/
def State.toSend (s : State) : List (RemoteOp × Nat) :=
  if !s.etherUp then [] else s.remoteOps.flatMap (fun o => o.unsent.map (fun off => (o, off)))
/-- Some packet of an operation has been sent. -/
def RemoteOp.begun (o : RemoteOp) : Bool :=
  decide (o.virgin.length < (match o.kind with | .put => packetOffs o.pas.length | _ => [0]).length)
/-- A peer asks for a message again from a packet on (11:R321). -/
def sendAgain (s : State) (conn msg first : Nat) : State :=
  match s.remoteOps.find? (fun o => o.conn == conn && o.seq == msg) with
  | none => s
  | some o =>
    let offs := match o.kind with | .put => packetOffs o.pas.length | _ => [0]
    s.modOp o (fun q => [{ q with unsent := offs.filter (fun off => decide (first ≤ off) || q.unsent.contains off) }])

/-! ## What comes back to the initiator -/

/-- One operation of a hart ends refused: a NAMO's register receives 0, and the refusal is to be reported. -/
def Hart.refuseOp (h : Hart) (o : RemoteOp) (reason : BitVec 8) : Hart :=
  let h := { h with remote := h.remote.filter (fun p => !p.same o),
                    reports := if h.reports.any (fun p => p.1 == o.conn) then h.reports else h.reports ++ [(o.conn, reason)] }
  if o.xd = 0 then h else { (h.setX o.xd 0) with namoPend := h.namoPend.filter (· != o.xd) }
/-- Outstanding operations on a connection, and those of which a packet has been sent. -/
def State.onConn (s : State) (c : Nat) : List RemoteOp := s.remoteOps.filter (fun o => o.conn == c)
def State.sentOn (s : State) (c : Nat) : List RemoteOp := (s.onConn c).filter (·.begun)
/-- An operation of a retired gang is over. -/
def dropOrphan (s : State) (o : RemoteOp) : State :=
  { s with adapter := { s.adapter with orphans := s.adapter.orphans.filter (fun p => !p.2.same o) } }
/-- The oldest of a list. -/
def oldest (l : List RemoteOp) : Option RemoteOp :=
  l.foldl (fun a o => match a with
    | none => some o
    | some p => if o.seq < p.seq then some o else some p) none
def refuseAt (s : State) (o : RemoteOp) (reason : BitVec 8) : State :=
  (dropOrphan s o).modHarts (fun h => h.remote.any (·.same o)) (fun h => h.refuseOp o reason)
/-- 15:R434: the response of the oldest NAMO on the connection. -/
def execNamoResponseArrival (c : Nat) (old : Word) (s : State) : Host.Outcome State Fault Refusal :=
  match oldest ((s.sentOn c).filter (fun o => match o.kind with | .amo .. => true | _ => false)) with
  | some o =>
    let n := match o.kind with | .amo _ z _ => asizeBytes z | _ => 8
    given (s.up && s.etherUp) "NAMO_RESPONSE_ARRIVAL" ((dropOrphan s o).modHarts (fun h => h.remote.any (·.same o)) (fun h =>
      { ((h.cleanse [(0, o.xd.toNat)]).setX o.xd (extendN true n (old.toNat % 2 ^ (8 * n)))) with
        remote := h.remote.filter (fun p => !p.same o), namoPend := h.namoPend.filter (· != o.xd) }))
  | none => .refused (.notEnabled "NAMO_RESPONSE_ARRIVAL")

/-- The NGET whose response is the head on a connection. -/
def State.headGet (s : State) (c : Nat) : Option RemoteOp :=
  oldest ((s.sentOn c).filter (fun o => match o.kind with | .getReq _ => true | _ => false))
/-- Those of some bytes that a device may write: in no frame that Rebeica has come to permit (12:R353, R356 step 2), no uncorrectable
granule that they cover only in part (12:R350), and no Pool memory while its port is down (11:R327). -/
def State.mayPlace (s : State) (l : List (Nat × Byte)) : List (Nat × Byte) :=
  l.filter (fun p =>
    !permitted s p.1 && (s.poolUp || paClass p.1 != some .pool) &&
    (s.bad.isEmpty || !s.bad.contains (granuleOf p.1) || coversGranule (l.map (·.1)) p.1))
/-- Bytes a response on connection c brings for harts. -/
def placeBytes (s : State) (ids : List HartId) (c : Nat) (l : List (Nat × Byte)) : State :=
  s.bring ids (.remote c) ((s.mayPlace l).map ([·]))
/-- A packet of the head response is placed; the NGET ends with its last (15:R433). -/
def placeResp (s : State) (o : RemoteOp) (p : Packet) : State :=
  let ids := (s.harts.filter (fun h => h.remote.any (·.same o))).map (·.id)
  let got := p.pktOff :: o.got
  (placeBytes s ids o.conn ((o.pas.drop p.pktOff).zip p.bytes)).modOp o
    (fun q => if (packetOffs o.pas.length).all got.contains then [] else [{ q with got := got }])
/-- Responses held are placed as they become the head. -/
def drainResp (c : Nat) : Nat → State → State
  | 0, s => s
  | n + 1, s =>
    match s.headGet c with
    | none => s
    | some o =>
      match s.adapter.resp.find? (fun p => p.conn == c && p.msg == o.seq) with
      | none => s
      | some p =>
        drainResp c n (placeResp { s with adapter := { s.adapter with resp := s.adapter.resp.erase p } } o p)

/-- The operation that a refusal from the peer ends (11:R323): the spec has the message refused, which its sender knows; here any of
which a packet has been sent (log 32). Response packets held for it are no more. -/
def refuseOne (s : State) (c : Nat) (reason : BitVec 8) : State :=
  match s.sentOn c with
  | [] => s
  | o :: t =>
    let o := (o :: t).getD (Config.pick s.tick % (t.length + 1)) o
    let s := refuseAt s o reason
    { s with adapter := { s.adapter with resp := s.adapter.resp.filter (fun p => !(p.conn == c && p.msg == o.seq)) } }
/-- A refusal reaches its connection (11:R323, 15:R431): operations of which nothing has been sent are refused locally, and never
are, and the responses behind the one refused are placed (11:R320). -/
def connRefused (s : State) (c : Nat) (reason : BitVec 8) : State :=
  let s1 := refuseOne (failConn s c reason) c reason
  let s2 := ((s1.onConn c).filter (fun o => !o.begun)).foldl (fun s o => refuseAt s o reason) s1
  drainResp c (s2.adapter.resp.length + 1) s2
/-- 11:R323. -/
def execRemoteRefusalArrival (c : Nat) (reason : BitVec 8) (s : State) : Host.Outcome State Fault Refusal :=
  given (s.up && s.etherUp && decide (c < s.adapter.cnum.toNat)) "REMOTE_REFUSAL_ARRIVAL" (connRefused s c reason)
/-- No acknowledgement within 100 ms: reason 6 (11:R323). -/
def execRemoteAckTimeout (c : Nat) (s : State) : Host.Outcome State Fault Refusal :=
  given (s.up && !(s.sentOn c).isEmpty) "REMOTE_ACK_TIMEOUT" (connRefused s c 6)

/-! ## The adapter as target (11:R319-R322) -/

/-- A region's descriptor as 512 bits. -/
def State.region (s : State) (r : Nat) : Nat := s.peek (s.adapter.rtab.toNat + 64 * r) 64
def requestBytes (msgLen : Nat) : PacketKind → Nat
  | .getReq n => n
  | .amo _ z _ => asizeBytes z
  | _ => msgLen
/-- Why a message is refused when its first packet arrives, if it is (11:R322, R323; 12:R349; 15:R432-R434). -/
def regionReason (s : State) (p : Packet) : Option (BitVec 8) :=
  let d := s.region p.region
  let st := bitsOf d 125 124
  if p.region < s.adapter.rnum.toNat && s.badAt (s.adapter.rtab.toNat + 64 * p.region) 64 then some 7
  else if s.adapter.rnum.toNat ≤ p.region || !(st == 1 || (st == 2 && !s.adapter.revoking.contains p.region)) then some 2
  else if bitsOf d 103 64 < p.offset + requestBytes p.msgLen p.kind then some 3
  else
    let granted := match p.kind with
      | .put => d.testBit 121
      | .amo .. => d.testBit 122
      | _ => d.testBit 120
    if granted then none else some 4

/-- What placing a packet did: bytes put, each with the one it replaced. -/
inductive Placed
  | ok (s : State) (under : List (Nat × Byte × Byte))
  | fault (va : Word)
  | err
  deriving DecidableEq, Repr
/-- A packet acts at the target in the region's address space (15:R432-R434). -/
def actPacket (s : State) (p : Packet) : Placed :=
  let d := s.region p.region
  let ctx := devCtx (BitVec.ofNat 16 (bitsOf d 119 104))
  let ea := BitVec.ofNat 64 (bitsOf d 55 0 + p.offset + p.pktOff)
  let answer (r : Except Stop (State × List (Nat × Byte × Byte)) × State) : Placed :=
    match r with
    | (.ok p, _) => .ok p.1 p.2
    | (.error (.trap .dataerr _), _) => .err
    | (.error (.trap _ va), _) => .fault va
    | (.error _, _) => .err
  match p.kind with
  | .put =>
    answer (runM (do
      let pas ← addresses ctx .write ea p.bytes.length false
      let s := (← get)
      let t := s.putAt pas p.bytes
      return (t, pas.map (fun pa => (pa, memRead s.mem pa, memRead t.mem pa)))) s)
  | .getReq n =>
    answer (runM (do
      let b ← readMem ctx ea n
      let s ← get
      return ({ s with out := s.out ++ (packetOffs n).map (fun o => .getResp p.conn p.msg o ((b.drop o).take 4096)) }, [])) s)
  | .amo o z operand =>
    answer (runM (do
      let n := asizeBytes z
      let pas ← addresses ctx .write ea n false
      liftX (physCheck (← get) .read ea pas false)
      let s ← get
      let old := leNat (memReadAt s.mem pas)
      let s' := s.putAt pas (leBytes n (amoOp o n old (operand.toNat % 2 ^ (8 * n))))
      return ({ s' with out := s'.out ++ [.namoResp p.conn (BitVec.ofNat 64 old)] }, [])) s)
  | .getResp => .ok s []

def modMsg (s : State) (c m : Nat) (f : InMsg → List InMsg) : State :=
  { s with adapter := { s.adapter with incoming := (s.adapter.incoming.map (fun i => if i.conn == c && i.msg == m then f i else [i])).flatten } }
def State.msg (s : State) (c m : Nat) : Option InMsg := s.adapter.incoming.find? (fun i => i.conn == c && i.msg == m)
/-- The head of a connection ends: the next message is the head. -/
def passHead (s : State) (c : Nat) : State :=
  let m := numOf s.adapter.heads c
  let s := modMsg s c m (fun _ => [])
  { s with adapter := { s.adapter with heads := bumpNum s.adapter.heads c, stalled := s.adapter.stalled.filter (fun p => p.1 != c) } }
/-- The head of a connection is refused (11:R323): it has no effect, so that bytes that it placed, and that nothing has replaced, are
again what they were, where a device may write them. -/
def refuseMsg (s : State) (c : Nat) (reason : BitVec 8) : State :=
  let under : List (Nat × Byte × Byte) := match s.msg c (numOf s.adapter.heads c) with
    | some i => i.under
    | none => []
  let l := s.mayPlace ((under.filter (fun u => memRead s.mem u.1 == u.2.2)).map (fun u => (u.1, u.2.1)))
  passHead (({ s with out := s.out ++ [.refusal c reason] } : State).writeAt (l.map (·.1)) (l.map (·.2))) c
/-- A translation fault on a placed byte (11:R321): ring entry, signal, and the stall or the request to send again. -/
def pageFault (s : State) (p : Packet) (va : Word) : State :=
  let d := s.region p.region
  let a := s.adapter
  let entry := va.toNat % 2 ^ 56 + bitsOf d 119 104 * 2 ^ 64 + p.conn % 2 ^ 24 * 2 ^ 88
  let s1 := s.putN (a.pq.toNat + 16 * (a.pqCount % 4096)) (leBytes 16 entry)
  let s2 := signalPa { s1 with adapter := { s1.adapter with pqCount := a.pqCount + 1, stalled := (p.conn, p) :: a.stalled.filter (fun q => q.1 != p.conn) } } a.pqsig.toNat 1
  if d.testBit 123 then
    modMsg { s2 with out := s2.out ++ [.resend p.conn p.msg] } p.conn p.msg (fun i => [{ i with held := [] }])
  else modMsg s2 p.conn p.msg (fun i => [{ i with held := i.held.filter (· != p) }])
/-- A packet of the head is placed; the message completes with its last. -/
def placeHead (s : State) (i : InMsg) (p : Packet) : State :=
  match actPacket s p with
  | .fault va => pageFault s p va
  | .err => refuseMsg s p.conn 7
  | .ok s1 under =>
    let placed := p.pktOff :: i.placed
    let new := under.filter (fun u => !i.under.any (fun v => v.1 == u.1))
    let whole := match p.kind with
      | .put => (packetOffs p.msgLen).all placed.contains
      | _ => true
    if whole then passHead s1 p.conn
    else modMsg s1 p.conn p.msg (fun i => [{ i with placed := placed, held := i.held.filter (· != p), under := i.under ++ new }])
/-- Held packets of the head, then of the messages after it, while nothing stalls the connection. -/
def drainConn (c : Nat) : Nat → State → State
  | 0, s => s
  | n + 1, s =>
    if s.adapter.stalled.any (fun p => p.1 == c) then s
    else
      match s.msg c (numOf s.adapter.heads c) with
      | none => s
      | some i =>
        if !i.accepted then drainConn c n (passHead s c)
        else
          match i.held with
          | [] => s
          | p :: _ => drainConn c n (placeHead s i p)
/-- Steps that bound a drain. -/
def drainFuel (s : State) : Nat := ((s.adapter.incoming.map (fun i => i.held.length + 1)).sum) + 1

/-- A request packet: accepted or refused with the first of its message, then held until it is the head's (11:R320). -/
def requestArrival (s : State) (p : Packet) : State :=
  if p.msg < numOf s.adapter.heads p.conn then s
  else
    let s1 :=
      match s.msg p.conn p.msg with
      | some _ => s
      | none =>
        let reason := regionReason s p
        let s := s.lookAt (s.adapter.rtab.toNat + 64 * p.region) 64
        let i : InMsg := ⟨p.conn, p.msg, p, [], [], reason.isNone, []⟩
        let s' := { s with adapter := { s.adapter with incoming := s.adapter.incoming ++ [i] } }
        match reason with
        | none => s'
        | some r => { s' with out := s'.out ++ [.refusal p.conn r] }
    let dropped := s1.adapter.stalled.any (fun q => q.1 == p.conn && q.2.msg == p.msg && (s1.region q.2.region).testBit 123)
    let s2 := modMsg s1 p.conn p.msg (fun i => [if i.accepted && !dropped then { i with held := i.held ++ [p] } else i])
    drainConn p.conn (drainFuel s2) s2
/-- REMOTE_PACKET_ARRIVAL (11:R320-R322). -/
def execRemotePacketArrival (p : Packet) (s : State) : Host.Outcome State Fault Refusal :=
  given (s.up && s.etherUp) "REMOTE_PACKET_ARRIVAL"
    (match p.kind with
      | .getResp =>
        if (s.sentOn p.conn).any (fun o => o.seq == p.msg && (match o.kind with | .getReq _ => true | _ => false)) then
          let s1 := { s with adapter := { s.adapter with resp := s.adapter.resp ++ [p] } }
          drainResp p.conn (s1.adapter.resp.length + 1) s1
        else s
      | _ => requestArrival s p)
/-- A write of RESUME (11:R321): a stalled connection retries the faulting packet; a resending one receives it again. -/
def execAdapterResume (c : Nat) (s : State) : Host.Outcome State Fault Refusal :=
  match s.adapter.stalled.lookup c with
  | none => given s.up "ADAPTER_RESUME" s
  | some p =>
    let s1 := { s with adapter := { s.adapter with stalled := s.adapter.stalled.filter (fun q => q.1 != c) } }
    let s2 := if (s1.region p.region).testBit 123 then s1
      else modMsg s1 c p.msg (fun i => [{ i with held := p :: i.held }])
    given s.up "ADAPTER_RESUME" (drainConn c (drainFuel s2) s2)
/-- A fault not resolved within 10 ms refuses the message with reason 5 (11:R321). -/
def execRemotePageFaultTimeout (c : Nat) (s : State) : Host.Outcome State Fault Refusal :=
  match s.adapter.stalled.lookup c with
  | none => .refused (.notEnabled "REMOTE_PAGE_FAULT_TIMEOUT")
  | some _ =>
    let s1 := refuseMsg s c 5
    given s.up "REMOTE_PAGE_FAULT_TIMEOUT" (drainConn c (drainFuel s1) s1)
/-- The acceptance point of a revocation (11:R322). -/
def execRegionRevokeAccept (r : Nat) (s : State) : Host.Outcome State Fault Refusal :=
  given (s.up && bitsOf (s.region r) 125 124 == 2 && !s.adapter.revoking.contains r) "REGION_REVOKE_ACCEPT"
    { s with adapter := { s.adapter with revoking := s.adapter.revoking ++ [r] } }
/-- Every accepted message to the region has completed (11:R322). -/
def revokeDone (s : State) (r : Nat) : Bool :=
  s.adapter.revoking.contains r && !s.adapter.incoming.any (fun i => i.accepted && i.head.region == r)
/-- 11:R322: STATE := 0 and SIGNAL +1 on DONE, in the region's address space. -/
def execRegionRevokeComplete (r : Nat) (s : State) : Host.Outcome State Fault Refusal :=
  let d := s.region r
  let w := s.adapter.rtab.toNat + 64 * r + 8
  let s1 := s.putN w (leBytes 8 (setBits (s.peek w 8) 61 60 0))
  let s2 := { s1 with adapter := { s1.adapter with revoking := s1.adapter.revoking.filter (· != r) } }
  given (s.up && revokeDone s r) "REGION_REVOKE_COMPLETE"
    (signalVa s2 (BitVec.ofNat 16 (bitsOf d 119 104)) (BitVec.ofNat 64 (bitsOf d 183 128)) 1)

end Sys2Proof.Machine
end

