-- ==== Sys2Proof/Machine/Csr.lean ====
section
/-! DEFINITION. The CSRs, major 36 (13:R390, R391; 05:R150-R164; 03:R90-R93, R98, R102). -/
namespace Sys2Proof.Machine
open Sys2Proof

/-- The CSRs of 05:R150. -/
inductive CsrName
  | vl | vtype | ves | vcp | mr | lix | xpos | vdirty | fflags | fenable | srseed | simb | fill | thr | balmode | btok
  | gangid | hartix | pcore | cycle | time | waitmax | hstat | ktvec | kscr | trapc | trapv | trappc | timecmp
  | lpart | migctl | vlazy | ctxb | qossh | mtvec | mscr | mkeep
  deriving DecidableEq, Repr

/-- 05:R150. -/
def csrName (n : Nat) : Option CsrName :=
  match n with
  | 0x000 => some .vl | 0x001 => some .vtype | 0x002 => some .ves | 0x003 => some .vcp | 0x004 => some .mr
  | 0x005 => some .lix | 0x006 => some .xpos | 0x007 => some .vdirty | 0x010 => some .fflags
  | 0x011 => some .fenable | 0x012 => some .srseed | 0x020 => some .simb | 0x021 => some .fill | 0x022 => some .thr
  | 0x023 => some .balmode | 0x024 => some .btok | 0x030 => some .gangid | 0x031 => some .hartix
  | 0x032 => some .pcore | 0x040 => some .cycle | 0x041 => some .time | 0x042 => some .waitmax
  | 0x100 => some .hstat | 0x101 => some .ktvec | 0x102 => some .kscr | 0x103 => some .trapc | 0x104 => some .trapv
  | 0x105 => some .trappc | 0x106 => some .timecmp | 0x110 => some .lpart | 0x111 => some .migctl
  | 0x112 => some .vlazy | 0x113 => some .ctxb | 0x114 => some .qossh | 0x200 => some .mtvec | 0x201 => some .mscr
  | 0x202 => some .mkeep | _ => none

/-- Lowest level that may read (05:R150). -/
def csrReadLevel : CsrName → Level
  | .hstat | .ktvec | .kscr | .trapc | .trapv | .trappc | .timecmp | .lpart | .migctl | .vlazy | .ctxb => .k
  | .mtvec | .mscr | .mkeep => .m
  | _ => .a
/-- Lowest level that may write, or none where no level may (05:R150; 03:R90-R93, R98). -/
def csrWriteLevel : CsrName → Option Level
  | .vcp | .btok | .gangid | .hartix | .pcore | .time | .lpart => none
  | .ves | .lix | .xpos | .vdirty | .fill | .thr | .cycle | .qossh => some .k
  | .hstat | .ktvec | .kscr | .trapc | .trapv | .trappc | .timecmp | .migctl | .vlazy | .ctxb => some .k
  | .mtvec | .mscr | .mkeep => some .m
  | _ => some .a
/-- CSRs whose access waits for the queue (05:R153). -/
def csrWaits : CsrName → Bool
  | .vl | .vtype | .mr | .ves | .lix | .xpos | .vdirty | .vlazy | .fflags | .fenable | .srseed => true
  | _ => false
/-- CSRs that wait for a TMMA in flight (15:R457). -/
def csrTmma : CsrName → Bool
  | .fflags | .fenable | .srseed => true
  | _ => false
/-- CSRs a T hart may not write (05:R154). -/
def csrNotT : CsrName → Bool
  | .vl | .mr | .ves | .lix | .xpos => true
  | _ => false


def Bal.code : Bal → Nat
  | .bal => 0 | .fill => 1 | .thr => 2
/-- 03:R90. -/
def simbWord (x : Str) (pos : Nat) : Nat :=
  x.peak * 2 ^ 40 + x.sbal * 2 ^ 34 + x.state.code * 2 ^ 32 + pos * 2 ^ 30 + x.under * 2 ^ 8 + x.imb
/-- 03:R98. -/
def btokWord (b : Bellows) (x : Str) : Nat :=
  b.epoch.toNat * 2 ^ 48 + x.spow * 2 ^ 32 + x.demand % 65536 * 2 ^ 16 + x.grant % 65536

/-- Harts resident on the acting hart's core (05:R159). -/
def State.coreMates (s : State) : List Hart :=
  s.harts.filter (fun h => h.cls == .v && h.core == s.hart.core && h.resident)
/-- Lane groups a V hart holds: those its share is bound to (09:R255). -/
def State.groupsOf (s : State) (h : Hart) : Nat × Nat :=
  match s.gang h.id.gang with
  | none => (0, h.lg)
  | some g =>
    match g.shares.lookup h.id.ix with
    | some sh => (sh.group, sh.groups)
    | none => (0, h.lg)
/-- LPART (05:R159, R160). DEDUCED (log 23): the shape is the one the core's occupants form. -/
def State.lpartWord (s : State) : Nat :=
  let mates := s.coreMates.map (fun h => (s.groupsOf h, h.slot))
  let owner (g : Nat) : Option Nat :=
    (mates.find? (fun m => decide (m.1.1 ≤ g) && decide (g < m.1.1 + m.1.2))).map (·.2)
  let free := (List.range 4).foldr (fun g a => a + (if (owner g).isNone then 2 ^ g else 0)) 0
  let own := (List.range 4).foldr (fun g a => a + (match owner g with | some sl => sl * 4 ^ g | none => 0)) 0
  let lg := if s.hart.lg = 4 then 2 else if s.hart.lg = 2 then 1 else 0
  let shape :=
    if mates.any (fun m => m.1.2 == 4) then 0
    else if mates.all (fun m => m.1.2 == 2) then 1
    else if mates.any (fun m => m.1.2 == 2 || m.1.1 == m.2 + 1) then 2
    else 3
  free * 2 ^ 16 + own * 2 ^ 8 + lg * 16 + s.hart.slot * 4 + shape

/-- The bank the executing level reaches (05:R152). -/
def Hart.bank (h : Hart) : TrapBank := if h.lv == .m then h.mb else h.kb
def Hart.setBank (h : Hart) (b : TrapBank) : Hart := if h.lv == .m then { h with mb := b } else { h with kb := b }

def bitN (b : Bool) : Nat := if b then 1 else 0

/-- The value a CSR reads (05:R154-R164). -/
def State.csrValue (s : State) (c : CsrName) : Nat :=
  let h := s.hart
  let onC := h.cls == .c
  match c with
  | .vl => h.vc.vl.toNat
  | .vtype => (vtypeBits h.vc.vt).toNat
  | .ves => h.ves.toNat
  | .vcp =>
    match h.vq with
    | e :: _ => e.addr.toNat * 4
    | [] => h.vcp.toNat * 4 + 1
  | .mr => h.vc.mr.toNat
  | .lix => lixWord h.lix
  | .xpos => xposWord h.xpos
  | .vdirty => h.vdirty.toNat
  | .fflags => h.fflags.toNat
  | .fenable => bitN h.ftz * 256 + h.fen.toNat
  | .srseed => h.srseed.toNat
  | .simb => if onC then 0 else simbWord (s.str h.stringIx) h.stringPos
  | .fill => h.fill.toNat
  | .thr => h.thrPow.toNat * 2 ^ 32 + h.thrBal.toNat
  | .balmode => bitN h.balThrottle
  | .btok => if onC then 0 else btokWord s.bellows (s.str h.stringIx)
  | .gangid => h.id.gang.toNat
  | .hartix => h.id.ix
  | .pcore => h.cls.code * 2 ^ 62 + h.slot * 2 ^ 48 + h.core
  | .cycle => h.cycle.toNat
  | .time => s.time.toNat
  | .waitmax => h.waitmax.toNat
  | .hstat => h.lv.code * 16 + h.bank.plv.code * 4 + bitN h.bank.pie * 2 + bitN h.ie
  | .ktvec => h.ktvec.toNat * 4
  | .kscr => h.bank.scr.toNat
  | .trapc => h.bank.trapc.toNat
  | .trapv => h.bank.trapv.toNat
  | .trappc => h.bank.trappc.toNat
  | .timecmp => h.timecmp.toNat
  | .lpart => if h.cls == .v then s.lpartWord else 0
  | .migctl => bitN h.migMix * 2 + bitN h.migTrap
  | .vlazy => h.live.toNat * 2 ^ 16 + h.nres.toNat
  | .ctxb => h.ctxb.toNat * 64
  | .qossh => h.qosShare.toNat * 256 + (match s.gang h.id.gang with | some g => g.tenant.toNat | none => 0)
  | .mtvec => h.mtvec.toNat * 4
  | .mscr => h.mb.scr.toNat
  | .mkeep => h.mkeep.toNat * 2

/-- Reserved bits and ranges (05:R151 check 3; 03:R93; 06:R177). -/
def State.csrValueOk (s : State) (c : CsrName) (v : Nat) : Bool :=
  (s.hart.cls != .t || !csrNotT c) &&
  (match c with
    | .vl => decide (1 ≤ v) && decide (v ≤ s.vlmax s.hart.vc.vt)
    | .vtype => decide (v < 2 ^ 14) && (vtypeOf (BitVec.ofNat 14 v)).isSome
    | .ves | .waitmax => decide (v < 2 ^ 32)
    | .mr => decide (1 ≤ v) && decide (v ≤ 16)
    | .lix => bitsOf v 62 37 == 0
    | .xpos => bitsOf v 61 32 == 0
    | .vdirty => decide (v < 2 ^ 12)
    | .fflags => decide (v < 32)
    | .fenable => decide (v < 2 ^ 9) && bitsOf v 7 5 == 0
    | .srseed => v != 0
    | .balmode => decide (v < 2)
    | .hstat => decide (v < 64) && bitsOf v 3 2 != 3
    | .ktvec | .mtvec => decide (v < 2 ^ 56) && v % 4 == 0
    | .trapc => decide (v < 256)
    | .trappc => decide (v < 2 ^ 56)
    | .migctl => decide (v < 4)
    | .vlazy => decide (v < 2 ^ 28) && bitsOf v 15 12 == 0
    | .ctxb => decide (v < 2 ^ 56) && v % 64 == 0
    | .qossh => decide (v < 2 ^ 19) && decide (bitsOf v 18 8 ≤ 1024)
    | .mkeep => decide (v < 2 ^ 26) && v % 2 == 0
    | _ => true)

/-- A write that passes its checks (05:R151-R164). -/
def State.csrStore (s : State) (c : CsrName) (v : Nat) : State :=
  let h := s.hart
  let put (h : Hart) : State := { s with hart := h }
  let cfg (vc : VCfg) : State := { s.closeStrip with hart := { s.closeStrip.hart with vc := vc, pcfg := vc } }
  let b := h.bank
  match c with
  | .vl =>
    let vc := { h.vc with vl := BitVec.ofNat 32 v }
    cfg vc
  | .vtype =>
    match vtypeOf (BitVec.ofNat 14 v) with
    | none => s
    | some t =>
      let vl := if h.cls == .t then h.vc.vl else BitVec.ofNat 32 (min h.vc.vl.toNat (s.vlmax t))
      let vc : VCfg := { h.vc with vt := t, vl := vl }
      cfg vc
  | .mr =>
    let vc := { h.vc with mr := BitVec.ofNat 5 v }
    cfg vc
  | .ves => put { h with ves := BitVec.ofNat 32 v }
  | .lix => put { h with lix := ⟨v.testBit 63, BitVec.ofNat 5 (bitsOf v 36 32), BitVec.ofNat 32 v⟩ }
  | .xpos => put { h with xpos := ⟨v.testBit 63, v.testBit 62, BitVec.ofNat 32 v⟩ }
  | .vdirty => put { h with vdirty := if h.cls == .t then BitVec.ofNat 12 v &&& 0x600 else BitVec.ofNat 12 v }
  | .fflags => put { h with fflags := BitVec.ofNat 5 v }
  | .fenable => put { h with ftz := v.testBit 8, fen := BitVec.ofNat 5 v }
  | .srseed => put { h with srseed := BitVec.ofNat 64 v }
  | .simb => if h.cls == .c then s else s.setStr { s.str h.stringIx with peak := bitsOf v 47 40 }
  | .fill => put { h with fill := BitVec.ofNat 64 v }
  | .thr => put { h with thrPow := BitVec.ofNat 32 (v / 2 ^ 32), thrBal := BitVec.ofNat 32 v }
  | .balmode => put { h with balThrottle := v.testBit 0 }
  | .cycle => put { h with cycle := BitVec.ofNat 64 v }
  | .waitmax => put { h with waitmax := BitVec.ofNat 32 v }
  | .hstat => put { (h.setBank { b with plv := levelOf (bitsOf v 3 2), pie := v.testBit 1 }) with ie := v.testBit 0 }
  | .ktvec => put { h with ktvec := BitVec.ofNat 54 (v / 4) }
  | .kscr => put (h.setBank { b with scr := BitVec.ofNat 64 v })
  | .trapc => put (h.setBank { b with trapc := BitVec.ofNat 8 v })
  | .trapv => put (h.setBank { b with trapv := BitVec.ofNat 64 v })
  | .trappc => put (h.setBank { b with trappc := BitVec.ofNat 56 v })
  | .timecmp => put { h with timecmp := BitVec.ofNat 64 v }
  | .migctl => put { h with migMix := v.testBit 1, migTrap := v.testBit 0 }
  | .vlazy =>
    let n := BitVec.ofNat 12 v
    let h' := { h.resetSections (h.nres &&& ~~~n) 12 with nres := n, live := BitVec.ofNat 12 (v / 2 ^ 16) }
    put (if h.nres.getLsbD 8 && !n.getLsbD 8 then h'.foldChunks else h')
  | .ctxb => put { h with ctxb := BitVec.ofNat 50 (v / 64) }
  | .qossh =>
    let t := s.tenantOf h
    let b := s.bellows
    let r := (h.netPort, t, bitsOf v 18 8) :: b.shares.filter (fun p => !(p.1 == h.netPort && p.2.1 == t))
    { put { h with qosShare := BitVec.ofNat 11 (bitsOf v 18 8) } with bellows := { b with shares := r } }
  | .mtvec => put { h with mtvec := BitVec.ofNat 54 (v / 4) }
  | .mscr => put { h with mb := { h.mb with scr := BitVec.ofNat 64 v } }
  | .mkeep => put { h with mkeep := BitVec.ofNat 25 (v / 2) }
  | .vcp | .btok | .gangid | .hartix | .pcore | .time | .lpart => s

/-- Offset and bytes of the trap-area header field a CSR write also writes while the vector side is stopped
(12:R336). -/
def headerField (c : CsrName) (v : Nat) : Option (Nat × List Byte) :=
  match c with
  | .ves => some (4, leBytes 4 v)
  | .lix => some (8, leBytes 8 v)
  | .xpos => some (16, leBytes 8 v)
  | _ => none
/-- The header write of 12:R336; where it faults the hart takes MCHECK and nothing changes. -/
def headerWrite (c : CsrName) (v : Nat) : M Unit := do
  let s ← get
  match s.hart.stopped, headerField c v with
  | some l, some (o, b) =>
    if s.hart.ctxb == 0 then return ()
    match runM (writeMem (s.ctxAt false) (s.hart.areaVa l + BitVec.ofNat 64 o) b) s with
    | (.ok _, s') => set s'
    | (.error _, _) => throw (.areaFault false (s.hart.areaVa l))
  | _, _ => pure ()

/-- Checks, waits and effect of one CSR instruction (05:R151, R153): `rd` where it reads into xd, `wr` the value it
writes. -/
def csrAct (i : Instr) (num : BitVec 12) (rd : Option Reg) (wr : Option Word) : M Unit := do
  match csrName num.toNat with
  | none => trapM .illegal (illegalV i)
  | some c =>
    let h ← getHart
    let needR := if rd.isSome then (csrReadLevel c).code else 0
    let needW := match wr with
      | none => 0
      | some _ => (match csrWriteLevel c with | some l => l.code | none => (csrReadLevel c).code)
    checkM (max needR needW ≤ h.lv.code) .priv (num.setWidth 64)
    checkM (wr.isNone || (csrWriteLevel c).isSome) .illegal (illegalV i)
    if csrWaits c && !h.vq.isEmpty then waitM
    if csrTmma c then modHart Hart.finishTmma
    if c == .cycle || c == .time then modify State.passTime
    if c == .fill || c == .thr then modify (fun s => { s with hart := s.hart.passWindow s })
    let s ← get
    let old := s.csrValue c
    match wr with
    | none => pure ()
    | some v =>
      checkM (s.csrValueOk c v.toNat) .illegal (illegalV i)
      headerWrite c v.toNat
      modify (fun s => s.csrStore c v.toNat)
    match rd with
    | some d => doneX d (BitVec.ofNat 64 old)
    | none => done1

/-- 13:R390. -/
def execCsrr (d : Reg) (c : BitVec 12) (s : State) : Host.Outcome State Fault Refusal :=
  runInstr (csrAct (.csrr d c) c (some d) none) s
/-- 13:R390. -/
def execCsrw (a : Reg) (c : BitVec 12) (s : State) : Host.Outcome State Fault Refusal :=
  runInstr (csrAct (.csrw a c) c none (some (s.getX a))) s
/-- 13:R390: the old value is read and the new one written as one action. -/
def execCsrx (d a : Reg) (c : BitVec 12) (s : State) : Host.Outcome State Fault Refusal :=
  runInstr (csrAct (.csrx d a c) c (some d) (some (s.getX a))) s

end Sys2Proof.Machine
end

