-- ==== Sys2Proof/Machine/Strings.lean ====
section
/-! DEFINITION. The string balancer (03:R84-R93, R101) and a string's trip (01:R22). Currents are in 64ths of a microampere, the
means of 64 cycles exactly. -/
namespace Sys2Proof.Machine
open Sys2Proof

/-- Nominal current of a tile of string s in microamperes (01:R19; strings in the order of 03:R94). -/
def nominalCurrent (s : Nat) : Nat := if s < 640 then 3240000 else 4460000
/-- What the ladder can move into or out of a node, in microamperes (01:R19, R20). -/
def ladderLimit (s : Nat) : Nat := if s < 640 then 390000 else 540000
/-- Windows of a tile's voltage in millivolts (01:R19). -/
def inOperating (mv : Nat) : Bool := decide (330 ≤ mv) && decide (mv ≤ 370)
def inProtection (mv : Nat) : Bool := decide (300 ≤ mv) && decide (mv ≤ 400)
/-- One filler step: 0.04375 of the nominal current (03:R84). -/
def stepCurrent (s : Nat) : Nat := nominalCurrent s * 7 / 160

def maxOf (l : List Nat) : Nat := l.foldl max 0
def minOf : List Nat → Nat
  | [] => 0
  | [a] => a
  | a :: t => min a (minOf t)
/-- IMB or IMB* of currents in 64ths of a microampere (03:R84). -/
def imbalance (s : Nat) (l : List Nat) : Nat := min 255 (256 * (maxOf l - minOf l) / (64 * nominalCurrent s))
/-- The unlimited step count of a tile (03:R86). -/
def unlimitedSteps (s : Nat) (l : List Nat) (i : Nat) : Nat :=
  (maxOf l - i - 2 * nominalCurrent s + 64 * stepCurrent s - 1) / (64 * stepCurrent s)
/-- Tokens of 0.5 W of filler steps at 0.35 V (03:R86). -/
def fillerTokens (s : Nat) (steps : List Nat) : Nat := (steps.sum * stepCurrent s * 35 + 49999999) / 50000000

/-- Harts resident on a string. -/
def State.onString (s : State) (ix : Nat) : List Hart :=
  s.harts.filter (fun h => h.resident && h.cls != .c && h.stringIx == ix)
/-- 03:R87; a string without a hart that votes is in fill mode. -/
def State.fillMode (s : State) (ix : Nat) : Bool :=
  let v := (s.onString ix).filter (fun h => !h.ended)
  v.isEmpty || v.any (fun h => !h.balThrottle)
/-- 03:R86: mode, reach, and the tokens of all steps in force, of which the string holds what its filler has drawn since the last
allocation. -/
def State.fillPermitted (s : State) (x : Str) (cur steps : List Nat) : Bool :=
  s.fillMode x.ix && (cur.map (unlimitedSteps x.ix cur)).all (· ≤ 16) &&
  decide (fillerTokens x.ix steps ≤ s.sched.freePool + x.fillTok)

/-- The balancer's state after a measurement, with S_bal and the steps set (03:R85, R86). Where both exits of FILL hold the string is
balanced (log 66). -/
def balance (permitted : Bool) (imb under : Nat) (u : List Nat) (x : Str) : Str :=
  let calm := if under ≤ 15 then x.calm + 1 else 0
  let fill : Str := { x with state := .fill, sbal := 0, calm := calm, steps := u.map (min 16) }
  let rest : Str := { x with state := .bal, sbal := 0, calm := 0, steps := [0, 0, 0, 0] }
  let b := min 48 (if 28 < imb then x.sbal + 16 else if 23 < imb then x.sbal + 4 else if 15 < imb then x.sbal else x.sbal - 1)
  let thr : Str := { x with state := .thr, sbal := b, calm := 0, steps := [0, 0, 0, 0] }
  match x.state with
  | .bal => if 23 < under then (if permitted then { fill with calm := 0 } else thr) else rest
  | .fill => if 4 ≤ calm then rest else if permitted then fill else thr
  | .thr => if permitted && 23 < under then { fill with calm := 0 } else if b = 0 then rest else thr

/-- Tokens of the filler are drawn from the free pool; those it needs no more come back with the next allocation (log 67). -/
def drawTokens (s : State) (old new : Nat) : State :=
  { s with sched := { s.sched with freePool := s.sched.freePool - (new - old) } }
/-- Steps in force on each tile: the balancer's, or those that BLIND has set for one of its datapaths where they are more (log 67). -/
def tileSteps (s : State) (x : Str) : List Nat :=
  x.steps.zipIdx.map (fun p =>
    ((s.onString x.ix).filter (fun h => h.stringPos == p.2)).foldl (fun n h => max n (h.blindSteps.getD 0)) p.1)
/-- The steps in force change: the settings are noted, and their tokens drawn. -/
def drawFill (s : State) (ix : Nat) : State :=
  let x := s.str ix
  let n := tileSteps s x
  let tok := max x.fillTok (fillerTokens ix n)
  let sets := List.zipWith (fun l v => if l.getLast? == some v then l else l ++ [v]) x.sets n
  drawTokens (s.setStr { x with sets := sets, fillTok := tok }) x.fillTok tok
/-- A measurement (03:R84-R92); it replaces the steps that BLIND has set. -/
def measure (s : State) (ix : Nat) (cur : List Nat) (w : Window) : State :=
  let x := s.str ix
  let total := cur.map (64 * ·)
  let star := List.zipWith (fun c f => c - f) total
    (List.zipWith (fun n f => (List.zipWith (· * ·) n f).sum * stepCurrent ix) x.sets w.fill)
  let imb := imbalance ix total
  let under := imbalance ix star
  let u := star.map (unlimitedSteps ix star)
  let y := balance (s.fillPermitted x star u) imb under u x
  let y := { y with imb := imb, under := under, peak := max x.peak imb, cur := star, expect := star, sets := y.steps.map ([·]),
                    winBal := x.sbal, winPow := x.spow }
  let s1 := (s.setStr y).modHarts (fun h => h.resident && h.cls != .c && h.stringIx == ix)
    (fun h => { h with blind := 0, blindSteps := none })
  w.harts.foldl (fun s e => s.modHartOf e.1 (fun h => { countWindow x e.2.1 e.2.2 h with seen := (0, 0) })) (drawFill s1 ix)
/-- Cycles of blind issue on a tile in a window: those under a setting of some steps. -/
def filledCycles (sets fill : List Nat) : Nat := (List.zipWith (fun n f => if n = 0 then 0 else f) sets fill).sum
/-- A measurement that the string can give: four tiles, cycles of the window's 64 under each setting, and each hart that resides there,
with the cycles that its counters do not hold yet. A tile leaves its operating window only after a failure (01:R21, R22). -/
def measurable (s : State) (ix : Nat) (mv cur : List Nat) (w : Window) : Bool :=
  let x := s.str ix
  let on := s.onString ix
  let cycles (n : List Nat) (f : List Nat) : Bool := n.length == f.length && decide (f.sum ≤ 64)
  mv.length == 4 && cur.length == 4 && w.fill.length == 4 && (List.zipWith cycles x.sets w.fill).all id &&
  on.all (fun h => w.harts.any (fun e => e.1 == h.id)) &&
  (w.harts.map (·.1)).Nodup &&
  w.harts.all (fun e => on.any (fun h => h.id == e.1 && decide (e.2.1 + h.seen.1 = 64) && decide (e.2.2 ≤ e.2.1) &&
    decide (e.2.2 + h.seen.2 ≤ filledCycles (x.sets.getD h.stringPos []) (w.fill.getD h.stringPos [])))) &&
  (w.failed || mv.all inOperating)

/-! ## A trip (01:R22) -/

/-- EXTINT with a source, on hart 0 of control core 0 (12:R329). -/
def raiseExtint (s : State) (src : BitVec 8) : State :=
  s.modHartOf ⟨0, 0⟩ (fun h => { h with extint := if h.extint.contains src then h.extint else h.extint ++ [src] })
/-- MCHECK with a TRAPV on harts. -/
def raiseMcheck (s : State) (p : Hart → Bool) (v : Word) : State :=
  s.modHarts p (fun h => { h with mcheck := h.mcheck ++ [v] })
/-- Physical base of the trip map. -/
def tripMap : Nat := Config.scb + 0x21100
/-- Harts on the string, or on their way to it, are lost, ended ones too (log 61). -/
def tripString (s : State) (ix : Nat) : State :=
  let on := s.onString ix ++ s.harts.filter (fun h => h.flying == some .v && (h.goal.map (fun g => 640 + g.1 / 4)) == some ix)
  let gangs := on.map (fun h => h.id.gang)
  let lost (h : Hart) : Bool := on.any (fun d => d.id == h.id)
  let engineOn (h : Hart) : Bool :=
    match s.gang h.id.gang with
    | none => false
    | some g =>
      match (g.shares ++ g.landing).lookup h.id.ix with
      | none => false
      | some sh => (if g.cls == .t then sh.core / 1024 else 640 + sh.core / 4) == ix
  let s1 := s.modHarts lost (fun h => { h with dead := true, vq := [] })
  let s2 := s1.modHarts (fun h => lost h || engineOn h) (fun h => { h with copies := [] })
  let s3 := s2.setStr { s2.str ix with tripped := true }
  let a := tripMap + ix / 8
  let s4 := s3.poke a 1 (s3.peek a 1 ||| 2 ^ (ix % 8))
  let s5 := raiseMcheck s4 (fun h => gangs.contains h.id.gang && !lost h) (BitVec.ofNat 64 ((if 640 ≤ ix then 2 ^ 63 else 0) + ix))
  let s6 := raiseExtint s5 4
  { s6 with out := s6.out ++ [.tripReport ix] }

/-- STRING_MEASUREMENT (03:R84); a tile outside its protection window trips the string (01:R22). -/
def execStringMeasurement (ix : Nat) (mv cur : List Nat) (w : Window) (s : State) : Host.Outcome State Fault Refusal :=
  given (s.up && decide (ix < 768) && !(s.str ix).tripped && measurable s ix mv cur w) "STRING_MEASUREMENT"
    (if mv.all inProtection then measure s ix cur w else tripString s ix)

/-! ## What is anticipated: BLIND and CONVOY (03:R83, R89; 13:R370, R383) -/

/-- Element i of a list replaced. -/
def setNth (l : List Nat) (i v : Nat) : List Nat := (List.range l.length).map (fun j => if j = i then v else l.getD j 0)
/-- The string is in FILL where the currents expected call for it (03:R85). -/
def foresee (s : State) (ix : Nat) (cur : List Nat) : State :=
  let x := s.str ix
  if x.state != .fill && 23 < imbalance ix cur then s.setStr { x with state := .fill, sbal := 0, calm := 0 } else s
/-- The datapath's steps return to those of the last measurement. -/
def unblind (s : State) (h : Hart) : State :=
  drawFill (s.modHartOf h.id (fun h => { h with blind := 0, blindSteps := none })) h.stringIx
/-- An announcement takes effect: the datapath counts as idle from the next cycle, where fill is permitted. -/
def blindEffect (s : State) (h : Hart) (c : Nat) : State :=
  if c = 0 then unblind s h
  else
    let x := s.str h.stringIx
    let p := h.stringPos
    let cur := setNth x.cur p (x.cur.getD p 0 - Config.datapathDraw s.tick)
    let n := min 16 (unlimitedSteps x.ix cur (cur.getD p 0))
    let t := (foresee s x.ix cur).modHartOf h.id (fun h => { h with blind := c, blindSteps := some n })
    if s.fillPermitted x cur (tileSteps t x) then drawFill t x.ix else s
/-- BLIND_PERIOD_END (03:R89): the announced cycles have passed. -/
def execBlindPeriodEnd (id : HartId) (s : State) : Host.Outcome State Fault Refusal :=
  match s.hartOf id with
  | some h => given (s.up && h.blind != 0) "BLIND_PERIOD_END" (unblind s h)
  | none => .refused (.notEnabled "BLIND_PERIOD_END")
/-- A posted convoy adds its predicted draw to its tile's expected current; one that would raise the underlying imbalance above 23 meets
fill at once (03:R83). Where fill is not permitted the spec does not say whether a throttle is anticipated: here nothing happens before
the next measurement (DESIGN CHOICE, log 14). -/
def convoyFill (s : State) (us : List VUnit) : State :=
  let ix := s.hart.stringIx
  let x := s.str ix
  let p := s.hart.stringPos
  let cur := setNth x.expect p (x.expect.getD p 0 + (us.map (fun u => Config.unitDraw (unitCode u).toNat)).sum)
  let s1 := s.setStr { x with expect := cur }
  let n := cur.map (fun i => min 16 (unlimitedSteps ix cur i))
  if 23 < imbalance ix cur && s.fillPermitted x cur (tileSteps s1 { x with steps := n }) then
    let s2 := foresee s1 ix cur
    drawFill (s2.setStr { s2.str ix with steps := n }) ix
  else s1

end Sys2Proof.Machine
end

