-- ==== Sys2Proof/Machine/VAtomic.lean ====
section
/-! DEFINITION. Vector atomics, major 55 (16:R469-R473), at VCP. -/
namespace Sys2Proof.Machine
open Sys2Proof

/-- ET must be a 32- or 64-bit integer type (16:R469). -/
def amoType (e : ET) : Bool := etIsInt e && (etSew e == 32 || etSew e == 64)
/-- Checks of one element's access: alignment, translation with W, class, permitted frames, the old value (16:R470,
R472). -/
def amoCheck (h : Hart) (ea : Word) : M (List Nat) := do
  let s ← get
  let n := h.eltBytes
  checkM (ea.toNat % n == 0) .misalign ea
  let pas ← addresses s.ctx .write ea n false
  liftX (physCheck (← get) .read ea pas false)
  return pas
/-- Elements in ascending order: those that may go through, with their addresses, and the first that stops (16:R470). -/
def amoChecks (h : Hart) (ea : Nat → Word) : List Nat → M (List (Nat × List Nat) × Option (Nat × Stop))
  | [] => return ([], none)
  | i :: t => do
    match ← tryM (amoCheck h (ea i)) with
    | .error e => return ([], some (i, e))
    | .ok pas =>
      let r ← amoChecks h ea t
      return ((i, pas) :: r.1, r.2)
/-- Values at locations this instruction has written, by address list, the latest to a location first. -/
abbrev Overlay := List (List Nat × Nat)
/-- Each element's read-modify-write in order: the locations written, and the old values by element. -/
def amoValues (op : AmoOp) (w n src : Nat) (mem : List Nat → Nat) : List (Nat × List Nat) → Overlay → Overlay × List (Nat × Nat)
  | [], o => (o, [])
  | (i, pas) :: t, o =>
    let old := (o.lookup pas).getD (mem pas)
    let r := amoValues op w n src mem t ((pas, amoOp op n old (getE w src i)) :: o)
    (r.1, (i, old) :: r.2)
/-- What is written: for VAMO one access an element, for VAMOM one in all, with each location's last value (10:R287, 16:R473). -/
def amoUnits (whole : Bool) (n : Nat) (o : Overlay) : List (List (Nat × Byte)) :=
  if whole then [((o.map (·.1)).eraseDups).flatMap (fun pas => pas.zip (leBytes n ((o.lookup pas).getD 0)))]
  else o.reverse.map (fun p => p.1.zip (leBytes n p.2))
/-- The elements take effect: their reads and writes see the same stores (13:R365, 16:R470). -/
def amoApply (whole : Bool) (op : AmoOp) (d a : Reg) (ret : Bool) (l : List (Nat × List Nat)) : M Unit := do
  if !l.isEmpty then
    modify (fun s => touchLines s false (l.flatMap (·.2)))
    let s ← get
    let h := s.hart
    let late := (s.splitBy (Unseen.fixed s true) (l.flatMap (·.2))).2
    let r := amoValues op h.sew h.eltBytes (h.getV a).toNat (fun pas => leNat (s.bytesBefore late pas)) l []
    modify (fun s => s.putAtomic true (amoUnits whole h.eltBytes r.1))
    if ret then
      modHart (fun h => h.setV d (BitVec.ofNat 16384 (r.2.foldl (fun v p => putE h.sew v p.1 p.2) (h.getV d).toNat)))

/-- The least j such that an active i < j has the same address (16:R471). -/
def dupIndex (ea : Nat → Word) : List Nat → List Word → Option Nat
  | [], _ => none
  | i :: t, seen => if seen.contains (ea i) then some i else dupIndex ea t (ea i :: seen)

def amoAddr (h : Hart) (q : QEntry) (ix : Reg) (sh : BitVec 2) (i : Nat) : Word := h.eltAddr q (.indexed ix sh) i
def activeList (h : Hart) (k : BitVec 3) : List Nat := (List.range h.vlN).filter (h.active k)

/-- 16:R469-R472. -/
def vopVamo (d a i s : Reg) (o : AmoOp) (sc : Scope) (ret : Bool) (sh : BitVec 2) (k : BitVec 3) (q : QEntry) :
    M Unit := do
  let h ← getHart
  needVcp q (amoType h.et)
  let act := activeList h k
  modHart (fun h => h.mark (marks (.vamo d a i s o sc ret sh k)))
  match dupIndex (amoAddr h q i sh) act [] with
  | some j => trapM .dupidx (BitVec.ofNat 64 j)
  | none =>
    let e := h.unitEnd 1 h.vlN
    let r ← amoChecks h (amoAddr h q i sh) (act.filter (fun n => h.ves.toNat ≤ n && n < e))
    amoApply false o d a ret r.1
    match r.2 with
    | some (n, x) => atUnit n (throw x)
    | none => restAt e h.vlN

/-- 16:R473: every active element is checked, and every location read, before one takes effect. -/
def vopVamom (d a i s : Reg) (o : AmoOp) (sc : Scope) (ret : Bool) (sh : BitVec 2) (k : BitVec 3) (q : QEntry) :
    M Unit := do
  let h ← getHart
  needVcp q (amoType h.et)
  modHart (fun h => h.mark (marks (.vamom d a i s o sc ret sh k)))
  let r ← amoChecks h (amoAddr h q i sh) (activeList h k)
  match r.2 with
  | some (_, x) => atUnit 0 (throw x)
  | none => amoApply true o d a ret (r.1.filter (fun p => decide (h.ves.toNat ≤ p.1)))

end Sys2Proof.Machine
end

