-- ==== Sys2Proof/Machine/VMask.lean ====
section
/-! DEFINITION. Compares and masks, major 53 (14:R411; 16:R474), at VCP. -/
namespace Sys2Proof.Machine
open Sys2Proof

def cmpIsUn : Cmp → Bool
  | .un => true
  | _ => false
def vsrcIsImm : VSrc → Bool
  | .vi _ => true
  | _ => false

/-- 16:R474. -/
def vopVcmp (kd : BitVec 3) (a : Reg) (b : VSrc) (c : Cmp) (m : Pred) (q : QEntry) : M Unit := do
  let h ← getHart
  let isInt := etIsInt h.et
  needVcp q (if isInt then !cmpIsUn c else etIsIeee h.et && !vsrcIsImm b)
  let va := (h.getV a).toNat
  elementwiseK (.vcmp kd a b c m) kd m (fun i _ seed =>
    let x := getE h.sew va i
    let y := match b with
      | .vv r => getE h.sew (h.getV r).toNat i
      | .vx _ => q.opnd.toNat % 2 ^ h.sew
      | .vi imm => wrapInt h.sew imm.toInt
    if isInt then
      let sg := etSigned h.et
      (if cmpInt c (readInt sg h.sew x) (readInt sg h.sew y) then 1 else 0, 0, seed)
    else
      let r := cmpF c (decodeF (etFmt h.et) h.ftz x) (decodeF (etFmt h.et) h.ftz y)
      (if r.1 then 1 else 0, r.2, seed))

/-- KOP and KMOV (14:R411). -/
def maskOp (i : Instr) (kd : BitVec 3) (m : Pred) (f : Hart → Nat → Bool) : M Unit := do
  let h ← getHart
  elementwiseK i kd m (plainF (fun n _ => if f h n then 1 else 0))
def vopKop (kd ka kb : BitVec 3) (tt : BitVec 4) (m : Pred) (_ : QEntry) : M Unit :=
  maskOp (.kop kd ka kb tt m) kd m (fun h n =>
    tt.getLsbD (2 * ((h.getK ka).getLsbD n).toNat + ((h.getK kb).getLsbD n).toNat))
def vopKmov (kd ka : BitVec 3) (m : Pred) (_ : QEntry) : M Unit :=
  maskOp (.kmov kd ka m) kd m (fun h n => (h.getK ka).getLsbD n)
/-- The active elements whose bit of ka is 1. -/
def Hart.setBitsOf (h : Hart) (ka k : BitVec 3) : List Nat :=
  (List.range h.vlN).filter (fun i => h.active k i && (h.getK ka).getLsbD i)
def vopKpopc (x : Reg) (ka k : BitVec 3) (_ : QEntry) : M Unit :=
  modHart (fun h => h.setX x (BitVec.ofNat 64 (h.setBitsOf ka k).length))
def vopKfirst (x : Reg) (ka k : BitVec 3) (_ : QEntry) : M Unit :=
  modHart (fun h => h.setX x (match h.setBitsOf ka k with
    | i :: _ => BitVec.ofNat 64 i
    | [] => BitVec.allOnes 64))

end Sys2Proof.Machine
end

