-- ==== Sys2Proof/Machine/VPerm.lean ====
section
/-! DEFINITION. Permutations, major 52 (16:R475, R484; 17:R493-R496, R506, R507), at VCP. They move containers as bits and
raise no flag. -/
namespace Sys2Proof.Machine
open Sys2Proof

/-- A container of a source, as it is read and written (06:R172). -/
def Hart.elt (h : Hart) (w : Nat) (a : Reg) (i : Nat) : Nat := trimElt h.et (getE w (h.getV a).toNat i)
/-- 17:R496. -/
def vopVperm (d a b : Reg) (m : Pred) (_ : QEntry) : M Unit := do
  let h ← getHart
  let w := h.sew
  writeWhole (.vperm d a b m) d w m (fun i =>
    let j := getE w (h.getV b).toNat i
    some (if j < h.vlN then h.elt w a j else 0))
/-- 17:R506. -/
def vopVslide (d a t : Reg) (dn : Bool) (m : Pred) (q : QEntry) : M Unit := do
  let h ← getHart
  let w := h.sew
  let n := q.opnd.toNat
  writeWhole (.vslide d a t dn m) d w m (fun i =>
    if dn then some (if i + n < h.vlN then h.elt w a (i + n) else 0)
    else if n ≤ i then some (h.elt w a (i - n))
    else none)
/-- 17:R507. -/
def vopVsplat (d s : Reg) (m : Pred) (q : QEntry) : M Unit := do
  let h ← getHart
  elementwise (.vsplat d s m) d h.sew m (plainF (fun _ _ => trimElt h.et (q.opnd.toNat % 2 ^ h.sew)))
/-- 17:R493: k selects and does not mask. -/
def vopVmerge (d a b : Reg) (k : BitVec 3) (_ : QEntry) : M Unit := do
  let h ← getHart
  elementwise (.vmerge d a b k) d h.sew ⟨0, false⟩ (plainF (fun i cur =>
    trimElt h.et (getE h.sew (if h.active k i then h.live? d a cur else h.live? d b cur) i)))
/-- 16:R475: k selects and does not mask. -/
def vopVcompr (d a : Reg) (m : Pred) (_ : QEntry) : M Unit := do
  let h ← getHart
  let w := h.sew
  let sel := (List.range h.vlN).filter (h.active m.k)
  let t := packE w (sel.map (h.elt w a))
  let c := sel.length
  writeWhole (.vcompr d a m) d w ⟨0, false⟩ (fun i =>
    if i < c then some (getE w t i) else if m.kz then some 0 else none)
/-- 16:R484. -/
def vopVidx (d : Reg) (m : Pred) (q : QEntry) : M Unit := do
  let h ← getHart
  needVcp q (etIsInt h.et)
  elementwise (.vidx d m) d h.sew m (plainF (fun i _ => i % 2 ^ h.sew))
/-- 17:R494. -/
def vopVmvx (x a : Reg) (i : BitVec 16) (q : QEntry) : M Unit := do
  let h ← getHart
  needVcp q (decide (i.toNat < h.vlN))
  let b := h.elt h.sew a i.toNat
  let sg := match etKind h.et with | .int s => s | _ => false
  modHart (fun h => h.setX x (BitVec.ofInt 64 (readInt sg h.sew b)))
/-- 17:R495. -/
def vopVmxv (d s : Reg) (i : BitVec 16) (q : QEntry) : M Unit := do
  let h ← getHart
  needVcp q (decide (i.toNat < h.vlN))
  let v := putE h.sew (h.getV d).toNat i.toNat (trimElt h.et (q.opnd.toNat % 2 ^ h.sew))
  modHart (fun h => (h.setV d (BitVec.ofNat 16384 v)).mark (marks (.vmxv d s i)))

end Sys2Proof.Machine
end

