-- ==== Sys2Proof/Machine/VExec.lean ====
section
/-! DEFINITION. The vector side: what an entry does at VCP, and the queue run in order (07:R203-R210, R224-R227; 12:R337). -/
namespace Sys2Proof.Machine
open Sys2Proof

/-! ## Markers, fences and BLIND at VCP (07:R202, R215-R218; 03:R89) -/

def vopSetvl (q : QEntry) : M Unit := do
  modify State.closeStrip
  modHart (fun h => { h with vc := { h.vc with vl := q.opnd.setWidth 32 } })
def vopSetvt (t : VType) (q : QEntry) : M Unit :=
  modHart (fun h =>
    let t := carriedType t q.opnd
    { h with vc := { h.vc with vt := t, vl := BitVec.ofNat 32 (min h.vc.vl.toNat (vlmaxOf h.vlen t)) } })
def vopSetmr (q : QEntry) : M Unit := modHart (fun h => { h with vc := { h.vc with mr := q.opnd.setWidth 5 } })
/-- After VFENCE.sv the vector side sees the scalar stores made before it was posted, and what the scalar side sees of others, which it
may have read (10:R278); the scalar side sees what the vector side has acquired or read (10:R290). -/
def seenAfterSv (s : State) (made : Nat) (u : Unseen) : Unseen :=
  match u.origin with
  | .scalar => { u with toV := u.toV || decide (u.id < made) }
  | .vector => { u with toV := u.toV || (decide (u.id < made) && u.landed s false 0) }
  | _ => { u with toS := u.toS || u.toV || u.saw, toV := u.toV || (decide (u.id < made) && u.landed s false 0) }
/-- Later vector accesses see every earlier scalar one (.sv), every earlier vector one (.vv), or both (16:R482). -/
def vopVfence (k : VfKind) (q : QEntry) : M Unit := do
  if k == .sv || k == .all then modify (fun s => s.order s.hart.id (seenAfterSv s q.made))
  if k == .vv || k == .all then modify State.closeStrip
def vopBlind (c : BitVec 21) (_ : QEntry) : M Unit := modify (fun s => blindEffect s s.hart c.toNat)

/-- What an instruction does at VCP; one of another kind is never there. -/
def vop (i : Instr) (q : QEntry) : M Unit :=
  match i with
  | .vld x0 x1 x2 x3 x4 => vopVld x0 x1 x2 x3 x4 q
  | .vlds x0 x1 x2 x3 x4 x5 => vopVlds x0 x1 x2 x3 x4 x5 q
  | .vldx x0 x1 x2 x3 x4 x5 => vopVldx x0 x1 x2 x3 x4 x5 q
  | .vst x0 x1 x2 x3 => vopVst x0 x1 x2 x3 q
  | .vsts x0 x1 x2 x3 x4 => vopVsts x0 x1 x2 x3 x4 q
  | .vstx x0 x1 x2 x3 x4 => vopVstx x0 x1 x2 x3 x4 q
  | .vsave x0 x1 => vopVsave x0 x1 q
  | .vrstr x0 x1 => vopVrstr x0 x1 q
  | .vadd x0 x1 x2 x3 => vopVadd x0 x1 x2 x3 q
  | .vsub x0 x1 x2 x3 => vopVsub x0 x1 x2 x3 q
  | .vmul x0 x1 x2 x3 => vopVmul x0 x1 x2 x3 q
  | .vmulh x0 x1 x2 x3 => vopVmulh x0 x1 x2 x3 q
  | .vand x0 x1 x2 x3 => vopVand x0 x1 x2 x3 q
  | .vor x0 x1 x2 x3 => vopVor x0 x1 x2 x3 q
  | .vxor x0 x1 x2 x3 => vopVxor x0 x1 x2 x3 q
  | .vshl x0 x1 x2 x3 => vopVshl x0 x1 x2 x3 q
  | .vshr x0 x1 x2 x3 => vopVshr x0 x1 x2 x3 q
  | .vsar x0 x1 x2 x3 => vopVsar x0 x1 x2 x3 q
  | .vmin x0 x1 x2 x3 => vopVmin x0 x1 x2 x3 q
  | .vmax x0 x1 x2 x3 => vopVmax x0 x1 x2 x3 q
  | .vsadd x0 x1 x2 x3 => vopVsadd x0 x1 x2 x3 q
  | .vssub x0 x1 x2 x3 => vopVssub x0 x1 x2 x3 q
  | .vfadd x0 x1 x2 x3 x4 => vopVfadd x0 x1 x2 x3 x4 q
  | .vfsub x0 x1 x2 x3 x4 => vopVfsub x0 x1 x2 x3 x4 q
  | .vfmul x0 x1 x2 x3 x4 => vopVfmul x0 x1 x2 x3 x4 q
  | .vfdiv x0 x1 x2 x3 x4 => vopVfdiv x0 x1 x2 x3 x4 q
  | .vfma x0 x1 x2 x3 x4 => vopVfma x0 x1 x2 x3 x4 q
  | .vfsqrt x0 x1 x2 x3 => vopVfsqrt x0 x1 x2 x3 q
  | .vfmin x0 x1 x2 x3 => vopVfmin x0 x1 x2 x3 q
  | .vfmax x0 x1 x2 x3 => vopVfmax x0 x1 x2 x3 q
  | .vfexp2 x0 x1 x2 x3 => vopVfexp2 x0 x1 x2 x3 q
  | .vfrcp x0 x1 x2 x3 => vopVfrcp x0 x1 x2 x3 q
  | .vcvt x0 x1 x2 x3 x4 => vopVcvt x0 x1 x2 x3 x4 q
  | .vqenc x0 x1 x2 => vopVqenc x0 x1 x2 q
  | .vqdec x0 x1 x2 => vopVqdec x0 x1 x2 q
  | .vhbfly x0 x1 x2 x3 x4 => vopVhbfly x0 x1 x2 x3 x4 q
  | .vscale x0 x1 x2 x3 x4 => vopVscale x0 x1 x2 x3 x4 q
  | .vperm x0 x1 x2 x3 => vopVperm x0 x1 x2 x3 q
  | .vslide x0 x1 x2 x3 x4 => vopVslide x0 x1 x2 x3 x4 q
  | .vsplat x0 x1 x2 => vopVsplat x0 x1 x2 q
  | .vmerge x0 x1 x2 x3 => vopVmerge x0 x1 x2 x3 q
  | .vcompr x0 x1 x2 => vopVcompr x0 x1 x2 q
  | .vidx x0 x1 => vopVidx x0 x1 q
  | .vmvx x0 x1 x2 => vopVmvx x0 x1 x2 q
  | .vmxv x0 x1 x2 => vopVmxv x0 x1 x2 q
  | .vcmp x0 x1 x2 x3 x4 => vopVcmp x0 x1 x2 x3 x4 q
  | .kop x0 x1 x2 x3 x4 => vopKop x0 x1 x2 x3 x4 q
  | .kpopc x0 x1 x2 => vopKpopc x0 x1 x2 q
  | .kfirst x0 x1 x2 => vopKfirst x0 x1 x2 q
  | .kmov x0 x1 x2 => vopKmov x0 x1 x2 q
  | .vred x0 x1 x2 x3 x4 x5 x6 => vopVred x0 x1 x2 x3 x4 x5 x6 q
  | .vscan x0 x1 x2 x3 x4 x5 x6 => vopVscan x0 x1 x2 x3 x4 x5 x6 q
  | .vamo x0 x1 x2 x3 x4 x5 x6 x7 x8 => vopVamo x0 x1 x2 x3 x4 x5 x6 x7 x8 q
  | .vamom x0 x1 x2 x3 x4 x5 x6 x7 x8 => vopVamom x0 x1 x2 x3 x4 x5 x6 x7 x8 q
  | .mzero x0 => vopMzero x0 q
  | .mma x0 x1 x2 x3 x4 => vopMma x0 x1 x2 x3 x4 q
  | .mrd x0 x1 x2 x3 x4 => vopMrd x0 x1 x2 x3 x4 q
  | .mwr x0 x1 x2 => vopMwr x0 x1 x2 q
  | .xproj x0 x1 x2 x3 => vopXproj x0 x1 x2 x3 q
  | .xprojb x0 x1 x2 x3 x4 => vopXprojb x0 x1 x2 x3 x4 q
  | .xmerge x0 x1 => vopXmerge x0 x1 q
  | .xhload x0 x1 x2 => vopXhload x0 x1 x2 q
  | .xhstore x0 x1 x2 => vopXhstore x0 x1 x2 q
  | .scld x0 x1 x2 x3 => vopScld x0 x1 x2 x3 q
  | .scst x0 x1 x2 x3 => vopScst x0 x1 x2 x3 q
  | .ctld x0 x1 => vopCtld x0 x1 q
  | .ctst x0 x1 => vopCtst x0 x1 q
  | .cpy x0 x1 x2 x3 => vopCpy x0 x1 x2 x3 q
  | .cpywt x0 => vopCpywt x0 q
  | .cpycan x0 => vopCpycan x0 q
  | .colbind x0 x1 => vopColbind x0 x1 q
  | .colfree x0 => vopColfree x0 q
  | .colwait x0 => vopColwait x0 q
  | .setvl .. => vopSetvl q
  | .setvt _ t => vopSetvt t q
  | .setmr .. => vopSetmr q
  | .vfence k => vopVfence k q
  | .blind c => vopBlind c q
  | _ => pure ()

/-! ## One entry -/

/-- Sections an instruction uses under a type and that are not resident; VSAVE and VRSTR take no LAZY (05:R164). -/
def Hart.lazyMask (h : Hart) (t : VType) (i : Instr) : BitVec 12 :=
  match i with
  | .vsave .. | .vrstr .. => 0
  | _ => sections t i &&& h.nres
/-- LAZY at VCP: a refilled entry has not been checked (05:R164). -/
def lazyAtVcp (q : QEntry) (i : Instr) : M Unit := do
  let h ← getHart
  let m := h.lazyMask h.vc.vt i
  checkM (!q.refilled || m == 0) .lazy (m.setWidth 64)
/-- An instruction at VCP that reads no register in error, with the streams of the bound registers it names; a read that stops has had no
chunk delivered (13:R379). -/
def runBound (i : Instr) (q : QEntry) : M Unit := do
  checkRegs i
  let h ← getHart
  if h.bindings.isEmpty then vop i q
  else
    boundPre i
    match ← tryM (vop i q) with
    | .ok _ => boundPost i
    | .error e =>
      modHart (h.undeliver i)
      throw e
/-- One entry at VCP runs to its end, or stops; a trap it raises itself is a stop, which marks what it writes (05:R163). -/
def runWhole (q : QEntry) : M Unit :=
  match q.op with
  | .bad => trapM .illegal q.illegalV
  | .ok i => do
    lazyAtVcp q i
    match ← tryM (runBound i q) with
    | .ok _ => modHart (fun h => h.cleanse (vecWrites h i))
    | .error (.trap c v) =>
      modHart (fun h => { h.mark (marks i) with desc := none })
      trapM c v
    | .error e => throw e

/-- What is left of the turn after an instruction. -/
def Hart.restLess (h : Hart) : Hart :=
  match h.rest with
  | none => h
  | some (n + 1, u) => { h with rest := some (n, u) }
  | some (0, _) => { h with rest := some (0, 0) }
/-- The turn is used up: the next instruction does not begin in it. -/
def Hart.rests (h : Hart) : Bool := h.rest == some (0, 0)
/-- One entry at VCP, as far as this turn takes it (log 45). -/
def runEntry (q : QEntry) : M Unit := do
  if (← getHart).rests then waitM
  runWhole q
  modHart (fun h => { h.restLess with waitV := h.waitV.over q.at })

/-! ## Captured loops (07:R224-R227) -/

/-- What a member's private base advances by at an iteration boundary (07:R225). -/
def baseStep (h : Hart) (q : QEntry) : Word :=
  match q.op with
  | .ok (.vld ..) | .ok (.vst ..) => BitVec.ofNat 64 (h.vlN * h.sew / 8)
  | .ok (.vlds ..) | .ok (.vsts ..) => BitVec.ofNat 64 h.vlN * q.cont.getD 0
  | _ => 0
/-- The member under its copy after n iterations. -/
def QEntry.atIter (q : QEntry) (h : Hart) (n : Nat) : QEntry := { q with opnd := q.opnd + BitVec.ofNat 64 n * baseStep h q }
/-- Progress to a member of an iteration. -/
def setLix (member iter : Nat) : M Unit :=
  modHart (fun h => { h with lix := ⟨true, BitVec.ofNat 5 member, BitVec.ofNat 32 iter⟩, ves := 0 })
/-- The replay from LIX (07:R225, R227). -/
def loopGo (trip : Nat) (body : List QEntry) : Nat → M Unit
  | 0 => pure ()
  | n + 1 => do
    let h ← getHart
    let it := h.lix.iter.toNat
    let mb := h.lix.member.toNat
    if trip ≤ it then pure ()
    else
      match body[mb]? with
      | some q => runEntry (q.atIter h it)
      | none => pure ()
      if mb + 1 < body.length then setLix (mb + 1) it
      else
        modify State.closeStrip
        setLix 0 (it + 1)
      loopGo trip body n
/-- At retirement each base register holds the final value of its last copy (07:R226). -/
def retireBases (trip : Nat) (body : List QEntry) (h : Hart) : Hart :=
  body.foldl (fun r q =>
    match q.op with
    | .ok i => (match loopBase i with
      | some b => r.setX b (q.atIter h trip).opnd
      | none => r)
    | .bad => r) h
def runLoop (q : QEntry) (body : List QEntry) : M Unit := do
  let trip := (q.opnd.setWidth 32).toNat
  if (← getHart).rests then waitM
  match q.op with
  | .ok i => lazyAtVcp q i
  | .bad => pure ()
  if !(← getHart).lix.act then setLix 0 0
  loopGo trip body ((trip + 1) * (body.length + 1))
  modHart (retireBases trip body)

/-! ## The queue -/

/-- n entries leave the queue completed. -/
def Hart.pop (h : Hart) (n : Nat) : Hart :=
  { h with vq := h.vq.drop n, ves := 0, lix := ⟨false, 0, 0⟩,
           vcp := match h.vq with | q :: _ => q.addr | [] => h.vcp }
def QEntry.isConvoy (q : QEntry) : Bool :=
  match q.op with
  | .ok (.convoy _) => true
  | _ => false
/-- The header of a convoy is held until its members are queued (03:R83): it is the last one posted (log 50). -/
def Hart.holdsHeader (h : Hart) (q : QEntry) (behind : List QEntry) : Bool :=
  h.convoyLeft != 0 && q.isConvoy && !behind.any QEntry.isConvoy
/-- The vector side runs its queue until it is empty, or waits, or stops (07:R203, R205). -/
def drain : Nat → M Unit
  | 0 => pure ()
  | n + 1 => do
    let h ← getHart
    match h.vq with
    | [] => pure ()
    | q :: t =>
      if h.holdsHeader q t then pure ()
      else
        let body := bodyOf q t
        match ← tryM (match body with | some b => runLoop q b | none => runEntry q) with
        | .ok _ =>
          modHart (fun h => h.pop (1 + (body.getD []).length))
          drain n
        | .error .wait => modHart Hart.waitVcp
        | .error e => throw e
/-- How far this turn of the vector side goes. -/
def takePace (s : State) : State :=
  match s.pace with
  | [] => s
  | p :: t => { s with pace := t, hart := { s.hart with rest := some p } }
/-- The acting hart's vector side, for one turn. -/
def drainAll : M Unit := do
  if (← getHart).vq.isEmpty then pure ()
  else
    modify takePace
    let r ← tryM (drain ((← getHart).vq.length + 1))
    modHart (fun h => { h with rest := none })
    match r with
    | .ok _ => pure ()
    | .error e => throw e

/-! ## Posting (07:R201, R202; 05:R164) -/

/-- LAZY at post, under the type the last marker carries. -/
def lazyAtPost (i : Instr) : M Unit := do
  let h ← getHart
  let m := h.lazyMask h.pcfg.vt i
  checkM (m == 0) .lazy (m.setWidth 64)
/-- Entries join the queue; into an empty one, work starts afresh at VCP. -/
def Hart.push (h : Hart) (l : List QEntry) : Hart :=
  let h := if h.vq.isEmpty then { h with ves := 0, lix := ⟨false, 0, 0⟩, desc := none } else h
  { h with vq := h.vq ++ l, stopped := none, convoyLeft := h.convoyLeft - 1 }
/-- Room for entries (07:R202), or the scalar side waits. -/
def needSlots (n : Nat) : M Unit := do
  let used := queueSlotsUsed (← getHart).vq
  if !(used + n ≤ Config.queueSlots || (used = 0 && n = Config.queueSlots + 1)) then waitM
/-- An instruction of n parcels is posted. -/
def post (n : Nat) (i : Instr) (f : Hart → QEntry → QEntry × Hart) : M Unit := do
  needV i
  lazyAtPost i
  let h ← getHart
  let r := f h (entryAt h i h.pc)
  needSlots r.1.slots
  modHart (fun _ => r.2.push [r.1])
  modify (fun s => s.advance n)
def asCaptured : Hart → QEntry → QEntry × Hart := fun h q => (q, h)
/-- The scalar side's action, and then the vector side's: its traps name the next instruction (12:R332). -/
def thenDrain (m : M Unit) (s : State) : Host.Outcome State Fault Refusal :=
  match runM m s with
  | (.ok _, s1) => finish s1.hart.pc (runM drainAll s1)
  | r => finish s.hart.pc r
/-- An instruction of two parcels that captures registers and no more. -/
def postInstr (i : Instr) (s : State) : Host.Outcome State Fault Refusal := thenDrain (post 2 i asCaptured) s

end Sys2Proof.Machine
end

