-- ==== Sys2Proof/Machine/VPost.lean ====
section
/-! DEFINITION. Posted instructions with more than capture at the scalar side: configuration markers (15:R444-R446), VFENCE
(16:R481, R482), BLIND (13:R370), copies (11:R300; 13:R384-R388), scales and table by class (13:R392-R394; 15:R438-R440), convoys
(04:R135-R139; 13:R383) and captured loops (07:R224-R227; 16:R490, R491). -/
namespace Sys2Proof.Machine
open Sys2Proof

/-! ## Markers -/

/-- A marker: its register's value, the value it carries, and the configuration after it. -/
def postMarker (i : Instr) (d : Reg) (v : VCfg → Nat → Word × Word × VCfg) (s : State) : Host.Outcome State Fault Refusal :=
  thenDrain (post 1 i (fun h q =>
    let r := v h.pcfg h.vlen
    ({ q with opnd := r.2.1 }, { h.setX d r.1 with pcfg := r.2.2 }))) s
/-- 15:R445. -/
def execSetvl (d a : Reg) (s : State) : Host.Outcome State Fault Refusal :=
  postMarker (.setvl d a) d (fun c vlen =>
    let n := min (s.getX a).toNat (vlmaxOf vlen c.vt)
    let vl := BitVec.ofNat 32 (max n 1)
    (BitVec.ofNat 64 n, vl.setWidth 64, { c with vl := vl })) s
/-- 15:R445. -/
def execSetvt (d : Reg) (t : VType) (s : State) : Host.Outcome State Fault Refusal :=
  postMarker (.setvt d t) d (fun c vlen =>
    let m := vlmaxOf vlen t
    (BitVec.ofNat 64 m, (vtypeBits t).setWidth 64, { c with vt := t, vl := BitVec.ofNat 32 (min c.vl.toNat m) })) s
/-- 15:R445. -/
def execSetmr (d a : Reg) (s : State) : Host.Outcome State Fault Refusal :=
  postMarker (.setmr d a) d (fun c _ =>
    let n := min (s.getX a).toNat 16
    let mr := BitVec.ofNat 5 (max n 1)
    (BitVec.ofNat 64 n, mr.setWidth 64, { c with mr := mr })) s

/-! ## VFENCE and BLIND -/

/-- Kinds at which the scalar side waits. -/
def fenceWaits : VfKind → Bool
  | .vs | .all => true
  | _ => false
/-- After VFENCE.vs the scalar side sees every vector store made, and what the vector side has acquired or read (10:R278, R281, R290). -/
def seenAfterVs (u : Unseen) : Unseen :=
  match u.origin with
  | .scalar => u
  | .vector => { u with toS := true }
  | _ => { u with toS := u.toS || u.toV || u.saw }
/-- 16:R482: the scalar side waits at .vs and .all until every vector access posted before has performed. -/
def execVfence (k : VfKind) (s : State) : Host.Outcome State Fault Refusal :=
  thenDrain (do
    needV (.vfence k)
    if fenceWaits k && s.hart.queued isVAccess then waitM
    post 1 (.vfence k) asCaptured
    if fenceWaits k then modify (fun s => s.order s.hart.id seenAfterVs)) s
/-- 13:R370: at commit on a T hart, at VCP on a V hart. -/
def execBlind (c : BitVec 21) (s : State) : Host.Outcome State Fault Refusal :=
  match s.hart.cls with
  | .t => runInstr (do
      modify (fun s => blindEffect s s.hart c.toNat)
      done1) s
  | _ => thenDrain (post 1 (.blind c) asCaptured) s

/-! ## Scales and code table -/

/-- On a T hart the effect comes at issue, after the LAZY check; elsewhere the instruction is posted. -/
def byClass (i : Instr) (act : M Unit) (s : State) : Host.Outcome State Fault Refusal :=
  match s.hart.cls with
  | .t => runInstr (do
      lazyAtPost i
      act
      done2) s
  | _ => postInstr i s
/-- 15:R438-R440: on a T hart it waits for a TMMA in flight. -/
def execScld (n : BitVec 2) (xs t : Reg) (disp : BitVec 21) (s : State) : Host.Outcome State Fault Refusal :=
  byClass (.scld n xs t disp) (do
    settleTmma
    scldAct (.scld n xs t disp) n (s.getX xs + imm21s disp) (s.getX t)) s
/-- 15:R438-R440. -/
def execScst (n : BitVec 2) (xs t : Reg) (disp : BitVec 21) (s : State) : Host.Outcome State Fault Refusal :=
  byClass (.scst n xs t disp) (scstAct n (s.getX xs + imm21s disp) (s.getX t)) s
/-- 13:R392-R394. -/
def execCtld (xs : Reg) (disp : BitVec 21) (s : State) : Host.Outcome State Fault Refusal :=
  byClass (.ctld xs disp) (do
    settleTmma
    ctldAct (.ctld xs disp) (s.getX xs + imm21s disp)) s
/-- 13:R392-R394. -/
def execCtst (xs : Reg) (disp : BitVec 21) (s : State) : Host.Outcome State Fault Refusal :=
  byClass (.ctst xs disp) (ctstAct (s.getX xs + imm21s disp)) s

/-! ## Copies -/

/-- The tag is written: at post on a V hart (11:R300). -/
def Hart.writeTag (h : Hart) (t : Reg) : Hart :=
  { h.setX t ((nextTag h.tagCtr).setWidth 64) with tagCtr := nextTag h.tagCtr }
/-- 13:R384, R385. -/
def execCpy (t xs : Reg) (k : BitVec 3) (rel : Option Scope) (s : State) : Host.Outcome State Fault Refusal :=
  let i : Instr := .cpy t xs k rel
  match s.hart.cls with
  | .t => runInstr (do
      if copyLimit s.hart ≤ s.hart.copies.length then waitM
      let c ← readCopy (illegalV i) (s.getX xs) k rel
      let tag := nextTag (← getHart).tagCtr
      modHart (fun h => h.writeTag t)
      beginCopy tag c
      done2) s
  | _ => thenDrain (post 2 i (fun h q =>
      ({ q with cont := some ((nextTag h.tagCtr).setWidth 64) }, h.writeTag t))) s
/-- 13:R387; on a T hart the wait is at issue. -/
def execCpywt (t : Reg) (s : State) : Host.Outcome State Fault Refusal :=
  match s.hart.cls with
  | .t =>
    runInstr (do
      match ← tryM (cpywtAct (s.getX t)) with
      | .ok _ =>
        modHart (fun h => { h with waitOn := none, waitV := h.waitV.over h.pc })
        done2
      | .error .wait =>
        modHart (fun h => { h with waitOn := some (.cpywt t), waitV := if h.waitV.addr == some h.pc then h.waitV else ⟨some h.pc, 0⟩ })
        waitM
      | .error e => throw e) s
  | _ => postInstr (.cpywt t) s
/-- 13:R386. -/
def execCpycan (t : Reg) (s : State) : Host.Outcome State Fault Refusal :=
  match s.hart.cls with
  | .t => runInstr (do
      cpycanAct (s.getX t)
      done2) s
  | _ => postInstr (.cpycan t) s

/-! ## Convoys -/

/-- Units of 04:R136 that an instruction may name; none where it is never a member. -/
def memberUnits : Instr → List VUnit
  | .vadd .. | .vsub .. | .vmul .. | .vmulh .. | .vand .. | .vor .. | .vxor .. | .vshl .. | .vshr .. | .vsar ..
  | .vmin .. | .vmax .. | .vsadd .. | .vssub .. => [.a, .b]
  | .vfadd .. | .vfsub .. | .vfmul .. | .vfdiv .. | .vfma .. | .vfsqrt .. | .vfmin .. | .vfmax .. | .vfexp2 ..
  | .vfrcp .. => [.a, .b]
  | .vcmp .. | .kop .. | .kpopc .. | .kfirst .. | .kmov .. => [.a, .b]
  | .vld .. | .vlds .. | .vldx .. | .vst .. | .vsts .. | .vstx .. | .vamo .. | .vamom .. => [.ls]
  | .mzero .. | .mma .. | .mrd .. | .mwr .. => [.mx]
  | .vcvt .. | .vqenc .. | .vqdec .. | .vhbfly .. | .vscale .. => [.cv]
  | .vperm .. | .vslide .. | .vsplat .. | .vmerge .. | .vcompr .. | .vidx .. | .vmvx .. | .vmxv .. | .vred ..
  | .vscan .. => [.pr]
  | .cpy .. | .cpywt .. | .cpycan .. | .colwait .. => [.eng]
  | _ => []
/-- An instruction fetched ahead: its address and parcels. -/
structure Ahead where
  pc : Word
  head : Parcel
  tail : Parcel
  deriving DecidableEq, Repr
def Ahead.illegalV (a : Ahead) : Word := (a.tail.setWidth 64 <<< 32) ||| a.head.setWidth 64
def Ahead.next (a : Ahead) : Word := a.pc + (if isLong a.head then 8 else 4)
/-- n instructions fetched from an address on. -/
def fetchAhead : Nat → Word → M (List Ahead)
  | 0, _ => return []
  | n + 1, va => do
    let p ← fetchParcels va
    let a : Ahead := ⟨va, p.1, p.2⟩
    return a :: (← fetchAhead n a.next)
/-- Members checked in order (04:R137), each against its slot. -/
def checkMembers (f : Ahead → M Instr) : Nat → List VUnit → List Ahead → M Unit
  | _, [], _ => pure ()
  | k, _ :: _, [] => trapM .convoy (BitVec.ofNat 64 k)
  | k, u :: us, a :: t => do
    let i ← f a
    checkM ((memberUnits i).contains u) .convoy (BitVec.ofNat 64 k)
    checkMembers f (k + 1) us t
def decodeAhead (a : Ahead) : M Instr :=
  match decode a.head a.tail with
  | .ok i => return i
  | .error _ => trapM .illegal a.illegalV
/-- CONVOY (04:R135-R138): its members are fetched and checked, and then it is posted. -/
def execConvoy (us : List VUnit) (s : State) : Host.Outcome State Fault Refusal :=
  thenDrain (do
    needV (.convoy us)
    let l ← fetchAhead us.length (s.hart.pc + 4)
    checkMembers decodeAhead 0 us l
    post 1 (.convoy us) asCaptured
    modify (fun s => convoyFill s us)
    modHart (fun h => { h with convoyLeft := us.length })) s

/-! ## Captured loops -/

/-- Instructions a body may hold (07:R224). -/
def bodyMember : Instr → Bool
  | .vsave .. | .vrstr .. => false
  | .convoy _ => true
  | i => let m := (headOf i).toNat / 2 ^ 26; 48 ≤ m && m ≤ 56
/-- Check 2 of 16:R491. -/
def decodeBody : List Ahead → M (List (Ahead × Instr))
  | [] => return []
  | a :: t => do
    let i ← decodeAhead a
    checkM (bodyMember i) .illegal a.illegalV
    return (a, i) :: (← decodeBody t)
/-- Check 4 of 16:R491: the convoys of the body, each member in order, so that a failure comes before an earlier convoy's end (log 70). -/
def bodyConvoys : Nat → List (Ahead × Instr) → M Unit
  | _, [] => pure ()
  | skip + 1, _ :: t => bodyConvoys skip t
  | 0, (_, i) :: t => do
    match i with
    | .convoy us =>
      checkMembers decodeAhead 0 us (t.map (·.1))
      bodyConvoys us.length t
    | _ => bodyConvoys 0 t
/-- x registers a body names. -/
def bodyRegs (i : Instr) : List Reg :=
  (match captureX i with | some r => [r] | none => []) ++ (match captureCont i with | some r => [r] | none => []) ++
  (match writesX i with | some r => [r] | none => [])
/-- Sections of a whole body under a type (05:R164). -/
def bodyLazy (h : Hart) (l : List Instr) : BitVec 12 := orAll (l.map (h.lazyMask h.pcfg.vt))
/-- VLOOP (07:R224-R227; 16:R490, R491): the loop and its body are posted as one unit. n holds the count less one. -/
def execVloop (xs : Reg) (n : BitVec 5) (s : State) : Host.Outcome State Fault Refusal :=
  thenDrain (do
    needV (.vloop xs n)
    let l ← fetchAhead (n.toNat + 1) (s.hart.pc + 8)
    let body ← decodeBody l
    let ins := body.map (·.2)
    let bases := (ins.filterMap loopBase).filter (· != 0)
    match body.find? (fun p => match writesX p.2 with | some r => bases.contains r | none => false) with
    | some p => trapM .illegal p.1.illegalV
    | none => pure ()
    bodyConvoys 0 body
    let h ← getHart
    let z := bodyLazy h ins
    checkM (z == 0) .lazy (z.setWidth 64)
    if ((ins.map bodyRegs).flatten).any h.pendingX.contains then waitM
    let unit := entryAt h (.vloop xs n) h.pc :: body.map (fun p => entryAt h p.2 p.1.pc)
    needSlots (queueSlotsUsed unit)
    modHart (fun h => h.push unit)
    modify (fun s => ins.foldl (fun s i => match i with | .convoy us => convoyFill s us | _ => s) s)
    modify (fun s => s.setPc ((l.getLast?.map Ahead.next).getD (s.hart.pc + 8)))) s

end Sys2Proof.Machine
end

