-- ==== Sys2Proof/Machine/Migrate.lean ====
section
/-! DEFINITION. MIGR, the moves the scheduler makes for a hart's mix, and arrival (14:R420, R421; 02:R53-R56; 03:R100; 05:R160,
R165, R166; 12:R344). -/
namespace Sys2Proof.Machine
open Sys2Proof

/-- A move restarts the windows and holds them for 16 (03:R100, 14:R421). -/
def Hart.restartMix (h : Hart) (hold : Nat) : Hart := { h with mixCount := 0, mixHits := 0, mixMoves := 0, mixRun := 0, mixHold := hold }
/-- Whether a V hart may go to C (05:R160, R166; 02:R54; 13:R380). -/
def State.mayLeaveV (s : State) : Bool :=
  let h := s.hart
  s.canArrive .c && h.bindings.isEmpty && !(h.ctxb == 0 && h.live != 0) &&
  (match s.gang h.id.gang with | some g => h.lg == laneCount g.mlg | none => false)
/-- The Peel writes the dirty resident sections to the image and clears their bits, or nothing of the hart changes
(05:R166). -/
def peelImage : M Unit := do
  let h ← getHart
  let dirty := h.vdirty &&& ~~~h.nres
  if dirty != 0 then
    modHart (fun h => { h with ves := 0 })
    let r ← tryM (saveImage true (BitVec.ofNat 64 h.ctxBase) dirty)
    modHart (fun g => { g with ves := h.ves })
    match r with
    | .ok _ => modHart (fun g => { g with vdirty := g.vdirty &&& ~~~dirty })
    | .error e => throw e

/-- MIGR.v (14:R420, R421). -/
def execMigrV (s : State) : Host.Outcome State Fault Refusal :=
  runInstr (do
    match s.hart.cls with
    | .v => done1
    | .t => trapM .cls (headWord .migrV)
    | .c =>
      checkM (s.hart.migTrap && s.canArrive .v) .cls (headWord .migrV)
      if !s.hart.namoPend.isEmpty then waitM
      modHart (fun h => h.restartMix 16)
      done1
      throw (.move .v)) s
/-- MIGR.c (14:R420, R421). -/
def execMigrC (s : State) : Host.Outcome State Fault Refusal :=
  runInstr (do
    match s.hart.cls with
    | .c => done1
    | .t => trapM .cls (headWord .migrC)
    | .v =>
      if !s.hart.vq.isEmpty then waitM
      checkM (s.hart.migTrap && s.mayLeaveV) .cls (headWord .migrC)
      if !s.hart.namoPend.isEmpty then waitM
      peelImage
      modHart (fun h => h.restartMix 16)
      done1
      throw (.move .c)) s

/-! ## Mix-driven moves (03:R100) -/

/-- Windows in a row. -/
def mixLimit : Nat := 4
/-- The window of 2^16 instructions is full. -/
def Hart.mixFull (h : Hart) : Bool := h.migMix && h.mixCount = 2 ^ 16
/-- A move of the Peel waits for pending NAMO destinations (15:R434), so it is not made before. -/
def Hart.mixReady (h : Hart) : Bool := h.mixFull && h.resident && !h.dead && h.namoPend.isEmpty
/-- The move once four windows have called for it; where the reserve has no free slot, or the image cannot be written (05:R166), the
counts restart. A V hart with a queue, or one that may not leave V, stays until a window ends otherwise. -/
def mixMove (s : State) : State :=
  let stay := { s with hart := s.hart.restartMix 0 }
  match s.hart.cls with
  | .c => if s.canArrive .v then startMove { s with hart := s.hart.restartMix 16 } .v else stay
  | .v =>
    if !s.hart.vq.isEmpty then s
    else if !s.canArrive .c then stay
    else if s.mayLeaveV then
      match runM peelImage s with
      | (.ok _, s') => startMove { s' with hart := s'.hart.restartMix 16 } .c
      | (.error _, s') => { s' with hart := s'.hart.restartMix 0 }
    else s
  | .t => s
/-- The window's verdict: 25 % or more of a C hart's instructions call for V; fewer than 1 % of a V hart's are posted. -/
def Hart.mixCalls (h : Hart) : Bool :=
  match h.cls with
  | .c => decide (2 ^ 16 ≤ 4 * h.mixMoves)
  | .v => decide (100 * h.mixHits < 2 ^ 16)
  | .t => false
/-- MIX_WINDOW_END of a hart whose window of 2^16 instructions is full; it acts when the hart does. -/
def mixEnd (s : State) : State :=
  let h := s.hart
  let run := if h.mixCalls then h.mixRun + 1 else 0
  let s' := { s with hart := { h with mixCount := 0, mixHits := 0, mixMoves := 0, mixRun := run, mixHold := h.mixHold - 1 } }
  if mixLimit ≤ run && h.mixHold = 0 then mixMove s' else s'
/-- 03:R100. -/
def execMixWindowEnd (id : HartId) (s : State) : Host.Outcome State Fault Refusal :=
  match s.hartOf id with
  | some h =>
    if s.up && h.mixReady then .next (s.asHart id mixEnd)
    else .refused (.notEnabled "MIX_WINDOW_END")
  | none => .refused (.notEnabled "MIX_WINDOW_END")

/-! ## Arrival -/

/-- Common state lost in the Peel (12:R344): each register the transfer carries holds a free value (log 72). -/
def Hart.lose (n : Nat) (h : Hart) : Hart :=
  let w (i : Nat) : Word := Config.lost n i
  let b (i : Nat) : Bool := (w i).getLsbD 0
  let lv (i : Nat) : Level := levelOf ((w i).toNat % 3)
  let bank (i : Nat) : TrapBank := ⟨(w i).setWidth 8, w (i + 1), (w (i + 2)).setWidth 56, w (i + 3), lv (i + 4), b (i + 5)⟩
  { h with
    x := (Vector.ofFn (fun i => w i.val)).set 0 0, f := Vector.ofFn (fun i => w (32 + i.val)), pc := w 64, lv := lv 65, ie := b 66,
    kb := bank 70, mb := bank 80, ktvec := (w 90).setWidth 54, mtvec := (w 91).setWidth 54, mkeep := (w 92).setWidth 25,
    vc := ⟨BitVec.ofNat 32 (max 1 ((w 93).toNat % 2 ^ 32)), (vtypeOf ((w 94).setWidth 14)).getD VCfg.reset.vt, BitVec.ofNat 5 ((w 95).toNat % 16 + 1)⟩,
    ves := (w 96).setWidth 32, vcp := (w 97).setWidth 54, lix := ⟨b 98, (w 99).setWidth 5, (w 100).setWidth 32⟩,
    xpos := ⟨b 101, b 102, (w 103).setWidth 32⟩, vdirty := (w 104).setWidth 12, live := (w 105).setWidth 12,
    fflags := (w 106).setWidth 5, ftz := b 107, fen := (w 108).setWidth 5, srseed := w 109, cycle := w 110, timecmp := w 111,
    waitmax := (w 112).setWidth 32, fill := w 113, thrPow := (w 114).setWidth 32, thrBal := (w 115).setWidth 32,
    balThrottle := b 116, migTrap := b 117, migMix := b 118, ctxb := (w 119).setWidth 50, qosShare := (w 120).setWidth 11 }
/-- PEEL_ARRIVAL (02:R53-R55; 05:R160, R165): the hart is resident at its place, with reset or lazily restored state. -/
def arrive (h : Hart) (dst : Class) (place : Nat × Nat × Nat) : Hart :=
  let h1 := { h with cls := dst, core := place.1, slot := place.2.1, lg := place.2.2, flying := none, goal := none, peelErr := false,
                     resident := true }
  match dst with
  | .v =>
    let vl := BitVec.ofNat 32 (min h1.vc.vl.toNat (vlmaxOf h1.vlen h1.vc.vt))
    let vc := { h1.vc with vl := vl }
    { h1.arriveState with vc := vc, pcfg := vc, desc := none }
  | _ => h1
/-- The share an arrival on V binds. -/
def State.land (s : State) (id : HartId) : State :=
  match (s.gang id.gang).bind (fun g => g.landing.lookup id.ix) with
  | some sh => s.bindShare id.gang id.ix sh
  | none => s
/-- The end of a flight (02:R53). After an uncorrectable error in the transfer, MCHECK event 2 is taken first (12:R344); on a tile
that has stopped meanwhile the hart is lost (01:R22). -/
def execPeelArrival (id : HartId) (s : State) : Host.Outcome State Fault Refusal :=
  match s.hartOf id with
  | some h =>
    match h.flying, h.goal with
    | some dst, some place =>
      let back (h : Hart) : Hart :=
        let g := (arrive (if h.peelErr then h.lose s.tick else h) dst place).joinWindow s
        { g with dead := g.dead || (dst == .v && s.vTripped place.1),
                 mcheck := if h.peelErr then g.mcheck ++ [mcheckV 2 0] else g.mcheck }
      given s.up "PEEL_ARRIVAL" ((s.land id).modHartOf id back).syncBuckets
    | _, _ => .refused (.notEnabled "PEEL_ARRIVAL")
  | none => .refused (.notEnabled "PEEL_ARRIVAL")

end Sys2Proof.Machine
end

