-- ==== Sys2Proof/Machine/Rebeica.lean ====
section
/-! DEFINITION. Code authorisation (12:R353-R358): Scetuson objects, the request block, permit bits, leaves; and the TLB
invalidation blocks (09:R262). -/
namespace Sys2Proof.Machine
open Sys2Proof

/-! ## Invalidation (09:R262, R263) -/

/-- A block as 512 bits, and its fields. -/
def State.inv (s : State) (n : Nat) : Nat := s.peek (invPa n) 64
def invMalformed (b : Nat) : Bool :=
  bitsOf b 511 308 != 0 || bitsOf b 255 248 != 0 || bitsOf b 143 130 != 0 || bitsOf b 127 2 != 0 ||
  bitsOf b 129 128 == 3 || (bitsOf b 160 160 == 0 && bitsOf b 191 160 == 0 && bitsOf b 129 128 == 0) ||
  bitsOf b 207 192 != 0 || bitsOf b 257 256 != 0
/-- GO and ERR as the device writes them. -/
def setInv (s : State) (n : Nat) (err : Bool) : State :=
  s.poke (invPa n) 1 (setBits (s.peek (invPa n) 1) 1 0 (if err then 2 else 0))
/-- Steps 1 and 2 of a valid request; a malformed one is answered at once. -/
def invalidate (s : State) (n : Nat) (gone : Nat → TlbEntry → Bool) (goneP : Nat → PtrEntry → Bool) : State :=
  let b := s.inv n
  if invMalformed b then setInv s n true
  else
    { s with tlb := s.tlb.filter (fun t => !gone b t), walks := s.walks.filter (fun p => !goneP b p.2), invRunning := n :: s.invRunning.filter (· != n) }.later (.invalidationComplete n)
def invAsid (b : Nat) : BitVec 16 := BitVec.ofNat 16 (bitsOf b 159 144)
/-- Page number `page` of pages of 2^lo bytes holds an address of count units of 64 KiB from the unit `first`. -/
def pageMeets (lo page first count : Nat) : Bool :=
  decide (page * 2 ^ lo < (first + count) * 65536) && decide (first * 65536 < (page + 1) * 2 ^ lo)
/-- Entries that cover an address of the named range (KIND 0). -/
def inRange (b : Nat) (t : TlbEntry) : Bool :=
  t.asid == invAsid b && pageMeets t.leaf.lo t.page (bitsOf b 247 208) (bitsOf b 191 160)
def ptrInRange (b : Nat) (p : PtrEntry) : Bool :=
  p.asid == invAsid b && pageMeets p.lo p.page (bitsOf b 247 208) (bitsOf b 191 160)
/-- A request of the named kinds is in progress. -/
def invStarts (s : State) (n : Nat) (kinds : List Nat) : Bool :=
  decide (n < 64) && (s.inv n).testBit 0 && kinds.contains (bitsOf (s.inv n) 129 128) && !s.invRunning.contains n
def execInvalidateRange (n : Nat) (s : State) : Host.Outcome State Fault Refusal :=
  given (s.up && invStarts s n [0, 3]) "INVALIDATE_RANGE" (invalidate s n inRange ptrInRange)
def execInvalidateAsid (n : Nat) (s : State) : Host.Outcome State Fault Refusal :=
  given (s.up && invStarts s n [1]) "INVALIDATE_ASID"
    (invalidate s n (fun b t => t.asid == invAsid b && !t.leaf.g) (fun b p => p.asid == invAsid b))
def execInvalidateAll (n : Nat) (s : State) : Host.Outcome State Fault Refusal :=
  given (s.up && invStarts s n [2]) "INVALIDATE_ALL" (invalidate s n (fun _ _ => true) (fun _ _ => true))
/-- An NGET whose local range the request covers has bytes still to place, or an NPUT's range is still to be read (11:R319). -/
def getCovered (b : Nat) (asid : BitVec 16) (o : RemoteOp) : Bool :=
  (match o.kind with
    | .getReq _ => true
    | .put => !o.virgin.isEmpty
    | _ => false) &&
  (bitsOf b 129 128 == 2 || (asid == invAsid b && (bitsOf b 129 128 != 0 ||
    (decide (o.va.toNat < (bitsOf b 247 208 + bitsOf b 191 160) * 65536) && decide (bitsOf b 247 192 < o.va.toNat + o.pas.length)))))
def getInRange (s : State) (b : Nat) : Bool :=
  s.harts.any (fun h => h.remote.any (getCovered b (s.asidOf h))) || s.adapter.orphans.any (fun p => getCovered b p.1 p.2)
/-- Steps 3 and 4 (09:R262). -/
def execInvalidationComplete (n : Nat) (s : State) : Host.Outcome State Fault Refusal :=
  given (s.up && s.invRunning.contains n && !getInRange s (s.inv n)) "INVALIDATION_COMPLETE"
    (signalDone { setInv s n false with invRunning := s.invRunning.filter (· != n) } (bitsOf (s.inv n) 307 256) 1)

/-! ## Objects (12:R354) -/

/-- An object's header as 2,048 bits. -/
structure ObjHead where
  bits : Nat
  deriving DecidableEq, Repr
def ObjHead.kind (o : ObjHead) : Nat := bitsOf o.bits 63 48
def ObjHead.key (o : ObjHead) : BitVec 32 := BitVec.ofNat 32 (bitsOf o.bits 95 64)
def ObjHead.user (o : ObjHead) : Bool := o.bits.testBit 96
def ObjHead.textOff (o : ObjHead) : Nat := bitsOf o.bits 191 128
def ObjHead.textLen (o : ObjHead) : Nat := bitsOf o.bits 255 192
def ObjHead.baseHash (o : ObjHead) : BitVec 512 := BitVec.ofNat 512 (bitsOf o.bits 767 256)
def ObjHead.patchOff (o : ObjHead) : Nat := bitsOf o.bits 831 768
/-- The header of an object of a kind and a length is well formed (DEDUCED, log 36: the text lies within the signed bytes,
a patch starts at a page). -/
def ObjHead.ok (o : ObjHead) (kind len : Nat) : Bool :=
  768 ≤ len && bitsOf o.bits 31 0 == 0x4F435353 && bitsOf o.bits 47 32 == 1 && o.kind == kind &&
  bitsOf o.bits 127 97 == 0 && o.textOff % 65536 == 0 && o.textLen != 0 && o.textLen % 65536 == 0 &&
  o.textOff + o.textLen + 512 ≤ len && (kind == 1 || o.baseHash == 0) && o.patchOff % 65536 == 0 &&
  bitsOf o.bits 2047 832 == 0
/-- Text frames of an object at a physical address. -/
def ObjHead.frames (o : ObjHead) (pa : Nat) : List Nat :=
  (List.range (o.textLen / 65536)).map (fun i => (pa + o.textOff) / 65536 + i)
/-- STATUS 5 (12:R355). -/
def framesFree (s : State) (l : List Nat) : Bool :=
  l.all (fun f => decide (f * 65536 < Config.hbmEnd) && !s.rebeica.permits.contains f)
/-- The digest of the signed bytes, and the signature's verdict (12:R354). -/
def objDigest (s : State) (pa len : Nat) : BitVec 512 := Config.sha512 (memReadN s.mem pa (len - 512))
def objSigned (s : State) (pa len : Nat) (o : ObjHead) : Bool :=
  Config.rsaOk o.key (objDigest s pa len) (BitVec.ofNat 4096 (s.peek (pa + len - 512) 512))
def permit (s : State) (l : List Nat) : State :=
  { s with rebeica := { s.rebeica with permits := l ++ s.rebeica.permits } }
def unpermit (s : State) (l : List Nat) : State :=
  { s with rebeica := { s.rebeica with permits := s.rebeica.permits.filter (fun f => !l.contains f) } }

/-! ## Leaves (09:R258) -/

/-- Address of the level-0 entry for an address, walking pointers only. -/
def slotFrom (s : State) (va : Nat) : List (Nat × Nat) → Nat → Option Nat
  | [], _ => none
  | (lo, n) :: rest, table =>
    let at' := table + 8 * ((va / 2 ^ lo) % 2 ^ n)
    match rest with
    | [] => some at'
    | _ =>
      match readEntry s at' 8 with
      | .error _ => none
      | .ok e => if pteV e && !pteLeaf e then slotFrom s va rest (bitsOf e 51 8 * 256) else none
def leafSlot (s : State) (asid : BitVec 16) (va : Nat) : Option Nat :=
  match readEntry s (Config.scb + 0x100000 + 16 * asid.toNat) 16 with
  | .error _ => none
  | .ok e => if e.testBit 0 then slotFrom s va walkLevels (bitsOf e 51 21 * 2 ^ 21) else none
/-- n pages from an address on. -/
def pages (va : Nat) (n : Nat) : List Nat := (List.range n).map (fun i => va + 65536 * i)
def allSlots (s : State) (asid : BitVec 16) : List Nat → Option (List Nat)
  | [] => some []
  | va :: t =>
    match leafSlot s asid va, allSlots s asid t with
    | some p, some l => some (p :: l)
    | _, _ => none
/-- An executable leaf of a frame. -/
def textLeaf (user : Bool) (frame : Nat) : Nat := frame * 65536 + 11 + (if user then 16 else 0)
def writeLeaves (s : State) : List Nat → List Nat → State
  | p :: ps, l :: ls => writeLeaves (s.poke p 8 l) ps ls
  | _, _ => s
/-- Frames that the valid leaves in these slots map. -/
def leafFrames (s : State) (slots : List Nat) : List Nat :=
  (slots.map (s.peek · 8)).filterMap (fun e => if pteV e && pteLeaf e then some (bitsOf e 51 16) else none)
/-- Translations of pages of an address space are removed everywhere (12:R356 as 09:R262). -/
def dropPages (s : State) (asid : BitVec 16) (vas : List Nat) : State :=
  { s with tlb := s.tlb.filter (fun t => !(t.asid == asid && vas.any (fun va => pageMeets t.leaf.lo t.page (va / 65536) 1))),
           walks := s.walks.filter (fun p => !(p.2.asid == asid && vas.any (fun va => pageMeets p.2.lo p.2.page (va / 65536) 1))) }

/-! ## Requests (12:R355-R358) -/

def reqBits (s : State) : Nat := s.rebeica.block.toNat
def reqAsid (b : Nat) : BitVec 16 := BitVec.ofNat 16 (bitsOf b 319 304)
def reqVa (b : Nat) : Nat := bitsOf b 375 320
def reqObj (b : Nat) : Nat := bitsOf b 243 192
def reqLen (b : Nat) : Nat := bitsOf b 167 128
def reqMalformed (b : Nat) : Bool :=
  bitsOf b 511 436 != 0 || bitsOf b 383 376 != 0 || bitsOf b 303 292 != 0 || bitsOf b 278 272 != 0 ||
  bitsOf b 255 244 != 0 || bitsOf b 191 168 != 0 || bitsOf b 127 2 != 0 || bitsOf b 280 279 == 3 ||
  bitsOf b 335 320 != 0 || bitsOf b 207 192 != 0 || bitsOf b 385 384 != 0
def reqHead (s : State) (b : Nat) : ObjHead := ⟨s.peek (reqObj b) 256⟩
/-- The request is in progress, of one of these operations, and not yet carried out. -/
def reqStarts (s : State) (ops : List Nat) : Bool :=
  s.up && (reqBits s).testBit 0 && ops.contains (bitsOf (reqBits s) 280 279) && s.rebeica.pending.isNone
/-- A request carried out with a STATUS, to be reported. -/
def carried (s : State) (status : Nat) : State :=
  { s with rebeica := { s.rebeica with pending := some status } }.later .rebeicaRequestDone
/-- Steps 2 to 4 of 12:R356 once the checks have passed: the state, and STATUS. -/
def mapText (s : State) (b : Nat) (o : ObjHead) (va : Nat) (after : List Nat → State → State) : State :=
  let frames := o.frames (reqObj b)
  match allSlots s (reqAsid b) (pages va frames.length) with
  | none => carried s 6
  | some slots =>
    if !objSigned s (reqObj b) (reqLen b) o then carried s 3
    else
      let old := leafFrames s slots
      let s1 := writeLeaves (permit s frames) slots (frames.map (textLeaf o.user))
      carried (after old { s1 with icache := [] }) 0
/-- Checks 1, 2, 4 and 5 of a map request (12:R355, R356). -/
def mapStatus (s : State) (b kind : Nat) : Option Nat :=
  let o := reqHead s b
  if reqMalformed b then some 1
  else if !o.ok kind (reqLen b) then some 2
  else if !Config.keySlot o.key then some 4
  else if !framesFree s (o.frames (reqObj b)) then some 5
  else none
/-- The mappings without those that have a page among the len bytes at the request's address. -/
def forget (s : State) (b len : Nat) : State :=
  let gone (m : Mapped) : Bool := m.asid == reqAsid b && decide (m.va < reqVa b + len) && decide (reqVa b < m.va + m.len)
  let rest := s.rebeica.mapped.filter (fun m => !gone m)
  { s with rebeica := { s.rebeica with mapped := rest } }
/-- Rebeica records a mapping (12:R356). -/
def remember (s : State) (b : Nat) (m : Mapped) : State :=
  let t := forget s b m.len
  { t with rebeica := { t.rebeica with mapped := m :: t.rebeica.mapped } }
/-- REBEICA_MAP_OBJECT (12:R356); an OP of 3 is malformed. -/
def execRebeicaMapObject (s : State) : Host.Outcome State Fault Refusal :=
  if reqStarts s [0, 3] then
    let b := reqBits s
    .next (match mapStatus s b 0 with
      | some st => carried s st
      | none =>
        let o := reqHead s b
        mapText s b o (reqVa b) (fun _ s' => remember s' b ⟨reqAsid b, reqVa b, o.textLen, objDigest s (reqObj b) (reqLen b)⟩))
  else .refused (.notEnabled "REBEICA_MAP_OBJECT")
/-- REBEICA_MAP_PATCH (12:R357): each leaf is swapped, and the old frames are released as by an unmap. -/
def execRebeicaMapPatch (s : State) : Host.Outcome State Fault Refusal :=
  if reqStarts s [1] then
    let b := reqBits s
    .next (match mapStatus s b 1 with
      | some st => carried s st
      | none =>
        let o := reqHead s b
        let va := reqVa b + o.patchOff
        match allSlots s (reqAsid b) (pages va (o.frames (reqObj b)).length),
          s.rebeica.mapped.find? (fun m => m.asid == reqAsid b && m.va == reqVa b && m.hash == o.baseHash) with
        | none, _ => carried s 6
        | _, none => carried s 7
        | _, some m =>
          if m.len < o.patchOff + o.textLen then carried s 2
          else
            mapText s b o va (fun old s' =>
              unpermit (dropPages s' (reqAsid b) (pages va (o.frames (reqObj b)).length)) old))
  else .refused (.notEnabled "REBEICA_MAP_PATCH")
/-- REBEICA_UNMAP (12:R356). -/
def execRebeicaUnmap (s : State) : Host.Outcome State Fault Refusal :=
  if reqStarts s [2] then
    let b := reqBits s
    .next (if reqMalformed b then carried s 1
      else
        let vas := pages (reqVa b) ((reqLen b + 65535) / 65536)
        match allSlots s (reqAsid b) vas with
        | none => carried s 6
        | some slots =>
          let s1 := dropPages (writeLeaves s slots (slots.map (fun _ => 0))) (reqAsid b) vas
          carried (forget (unpermit { s1 with icache := [] } (leafFrames s slots)) b (reqLen b)) 0)
  else .refused (.notEnabled "REBEICA_UNMAP")
/-- REBEICA_REQUEST_DONE: step 5 of 12:R356, and the held queue goes on (12:R358). -/
def execRebeicaRequestDone (s : State) : Host.Outcome State Fault Refusal :=
  match s.rebeica.pending with
  | none => .refused (.notEnabled "REBEICA_REQUEST_DONE")
  | some st =>
    let b := reqBits s
    let blk := setBits (setBits b 271 256 st) 1 0 (if st = 0 then 0 else 2)
    let s1 := { s with rebeica := { s.rebeica with block := BitVec.ofNat 512 blk, pending := none }, sched := { s.sched with held := if b.testBit 281 then s.sched.held.filter (fun p => p.1 != bitsOf b 291 282) else s.sched.held } }
    given s.up "REBEICA_REQUEST_DONE" (signalDone s1 (bitsOf b 435 384) 1)

end Sys2Proof.Machine
end

