-- ==== Sys2Proof/Machine/HostPort.lean ====
section
/-! DEFINITION. The CXL ports (11:R325-R328): the host mailbox, host snoops of Host-class lines, host requests to HDM, pool
memory; and the management controller's interrupt (12:R329). -/
namespace Sys2Proof.Machine
open Sys2Proof

/-! ## The mailbox (11:R328) -/

/-- A host write of HDOOR: EXTINT with source 2 on a rising edge. -/
def ringHost (s : State) : State :=
  let s' := { s with mailbox := { s.mailbox with pend := true } }
  if s.mailbox.pend then s' else raiseExtint s' 2
/-- A host write of HDATA: while PEND is 1 a device read may still return the old message. -/
def hostMessage (s : State) (v : Word) : State :=
  let m := s.mailbox
  { s with mailbox := { m with hdata := v, hdataOld := if m.pend then m.hdata else v } }
def clearDpend (s : State) : State := { s with mailbox := { s.mailbox with dpend := false } }

def execHostDoorbell (s : State) : Host.Outcome State Fault Refusal := given s.up "HOST_DOORBELL" (ringHost s)
def execMailboxPendClear (s : State) : Host.Outcome State Fault Refusal := given s.up "MAILBOX_PEND_CLEAR" (clearPend s)
def execDeviceDoorbell (s : State) : Host.Outcome State Fault Refusal := given s.up "DEVICE_DOORBELL" (setDpend s)
def execHostDpendClear (s : State) : Host.Outcome State Fault Refusal := given s.up "HOST_DPEND_CLEAR" (clearDpend s)

/-- Offset that stands for the function's MSI-X enable, which lies in its PCIe configuration space (log 37). -/
def msixEnable : Nat := 0x1000000
/-- A host write of a mailbox register; writes of the others are ignored. -/
def hostStore (s : State) (off : Nat) (v : Word) : State :=
  if off = msixEnable then { s with mailbox := { s.mailbox with msix := v.getLsbD 0 } }
  else if off = 0x200000 then hostMessage s v
  else if off = 0x200008 then ringHost s
  else if off = 0x200018 then (if v.getLsbD 0 then clearDpend s else s)
  else s
/-- REGISTER_WRITE (11:R318, R328). -/
def execRegisterWrite (off : Nat) (v : Word) (host : Bool) (s : State) : Host.Outcome State Fault Refusal :=
  if host then given s.up "REGISTER_WRITE" (hostStore s off v)
  else if !s.up then .refused (.notEnabled "REGISTER_WRITE")
  else
    match devStore s off v with
    | some s' => .next s'
    | none => .refused (.unknownDevice off)

/-! ## Host snoops (11:R325) -/

def hostLine (line : Nat) : Bool := paClass (64 * line) == some .host
/-- The data of a line goes to the host. -/
def sendLine (s : State) (line : Nat) : State :=
  { s with out := s.out ++ [.snoopData line (memReadN s.mem (64 * line) 64)] }
def dropLine (s : State) (line : Nat) : State := { s with hostLines := s.hostLines.filter (fun p => p.1 != line) }

/-- Data from an M line, written back; S after. -/
def execHostSnpData (line : Nat) (s : State) : Host.Outcome State Fault Refusal :=
  given (s.up && hostLine line) "HOST_SNP_DATA" (match s.hostLines.lookup line with
    | none => s
    | some st =>
      let s1 := if st == .m then sendLine s line else s
      { s1 with hostLines := (line, .s) :: s1.hostLines.filter (fun p => p.1 != line) })
/-- Data when M; I after. -/
def execHostSnpInv (line : Nat) (s : State) : Host.Outcome State Fault Refusal :=
  given (s.up && hostLine line) "HOST_SNP_INV" (match s.hostLines.lookup line with
    | none => s
    | some st => dropLine (if st == .m then sendLine s line else s) line)
/-- Data; unchanged after. -/
def execHostSnpCur (line : Nat) (s : State) : Host.Outcome State Fault Refusal :=
  given (s.up && hostLine line) "HOST_SNP_CUR" (match s.hostLines.lookup line with
    | none => s
    | some _ => sendLine s line)

/-! ## Host requests to HDM (11:R326; 12:R350, R353) -/

/-- Ranges the host reaches through port 0, of HBM as much as system software has set, and Host memory, which the host writes
itself. -/
def hdmReach (s : State) (pa n : Nat) : Bool :=
  n != 0 && (paClass pa == paClass (pa + n - 1)) &&
  (match paClass pa with | some .hbm => decide (pa + n ≤ s.hdm) | some .scb | some .host => true | _ => false)
/-- Bytes the host writes: what every write brings about but a recall of the host's own copies. -/
def hostPut (s : State) (pa : Nat) (b : List Byte) : State :=
  { s.putN pa b with hostLines := s.hostLines, hostCopies := s.hostCopies, poolLines := s.poolLines, out := s.out }
def hdmFails (s : State) (pa : Nat) : State := { s with out := s.out ++ [.hdmError pa] }
/-- HOST_HDM_REQUEST. A write to a frame Rebeica permits completes with an error and changes nothing; one that covers an
uncorrectable granule in part does not perform. The host writes a Host-class line only while L2 does not hold it. -/
def execHostHdmRequest (r : HdmReq) (s : State) : Host.Outcome State Fault Refusal :=
  match r with
  | .read pa n own =>
    given (s.up && hdmReach s pa n && paClass pa != some .host) "HOST_HDM_REQUEST"
      (if (firstBad s.bad (run pa n) 0).isSome then hdmFails s pa
       else
        let lines := ((run pa n).map (· / 64)).eraseDups
        { s with out := s.out ++ [.hdmData pa (memReadN s.mem pa n)], hostCopies := lines.map (·, own) ++ s.hostCopies.filter (fun p => !lines.contains p.1) })
  | .write pa b =>
    let pas := run pa b.length
    given (s.up && hdmReach s pa b.length &&
        (paClass pa != some .host || pas.all (fun a => (s.hostLines.lookup (a / 64)).isNone))) "HOST_HDM_REQUEST"
      (if pas.any (permitted s) || (firstPartial s.bad pas pas 0).isSome then hdmFails s pa else hostPut s pa b)

/-! ## Pool memory (11:R327) and the management controller; port 1 comes up once system software has enabled it (01:R32) -/

def execPoolBackInvalidate (line : Nat) (s : State) : Host.Outcome State Fault Refusal :=
  given (s.up && s.poolLines.contains line) "POOL_BACK_INVALIDATE" { s with poolLines := s.poolLines.filter (· != line) }
def execPoolPortDown (s : State) : Host.Outcome State Fault Refusal :=
  given (s.up && s.poolUp) "POOL_PORT_DOWN" { s with poolUp := false }
def execPoolPortUp (s : State) : Host.Outcome State Fault Refusal :=
  given (s.up && !s.poolUp && s.portsOn.contains 16) "POOL_PORT_UP" { s with poolUp := true }
/-- EXTINT source 1 (12:R329). -/
def execManagementControllerInterrupt (s : State) : Host.Outcome State Fault Refusal :=
  given s.up "MANAGEMENT_CONTROLLER_INTERRUPT" (raiseExtint s 1)

end Sys2Proof.Machine
end

