-- ==== Sys2Proof/Machine/Debug.lean ====
section
/-! DEFINITION. Debug under Rebeica's grants (12:R345-R347). -/
namespace Sys2Proof.Machine
open Sys2Proof

/-- Rebeica issues a nonce. -/
def execDebugNonceRequest (s : State) : Host.Outcome State Fault Refusal :=
  let n := Config.nonce s.rebeica.nonces
  given s.up "DEBUG_NONCE_REQUEST" { s with rebeica := { s.rebeica with nonces := s.rebeica.nonces + 1, nonce := some n }, out := s.out ++ [.nonce n] }

/-- The requested grant as it is signed: the tenant, or all, and the halt-on-BRK option (DESIGN CHOICE, log 39). -/
def grantBytes (tenant : Option (BitVec 8)) (haltOnBrk : Bool) : List Byte :=
  [match tenant with | some _ => 0 | none => 1, tenant.getD 0, if haltOnBrk then 1 else 0]
/-- The grant is given where the signature verifies over the outstanding nonce and the request. -/
def execDebugGrant (tenant : Option (BitVec 8)) (haltOnBrk : Bool) (key : BitVec 32) (sig : BitVec 4096) (s : State) :
    Host.Outcome State Fault Refusal :=
  match s.rebeica.nonce with
  | none => .refused (.notEnabled "DEBUG_GRANT")
  | some n =>
    let ok := Config.debugKey key && Config.rsaOk key (Config.sha512 (leBytes 64 n.toNat ++ grantBytes tenant haltOnBrk)) sig
    given s.up "DEBUG_GRANT" (if ok then { s with rebeica := { s.rebeica with nonce := none, grants := ⟨tenant, haltOnBrk⟩ :: s.rebeica.grants } }
      else s)
def execDebugRevoke (s : State) : Host.Outcome State Fault Refusal :=
  given (s.up && !s.rebeica.grants.isEmpty) "DEBUG_REVOKE" { s with rebeica := { s.rebeica with grants := [] } }

/-- A grant names the hart's tenant, or all. -/
def State.granted (s : State) (h : Hart) : Bool :=
  s.rebeica.grants.any (fun g =>
    match g.tenant with
    | none => true
    | some t => (match s.gang h.id.gang with | some x => x.tenant == t | none => false))
/-- An event about a hart that a grant covers and that meets a condition. -/
def debugEvent (name : String) (id : HartId) (p : Hart → Bool) (f : Hart → State) (s : State) :
    Host.Outcome State Fault Refusal :=
  match s.hartOf id with
  | some h => if s.up && s.granted h && p h then .next (f h) else .refused (.notEnabled name)
  | none => .refused (.notEnabled name)

/-- The hart stops at an instruction boundary outside any convoy; an instruction it waits in has had no effect (12:R346). A TSYNC that
has completed reaches its boundary as the next step begins (02:R58), and the halt waits for that. -/
def execDebugHalt (id : HartId) (s : State) : Host.Outcome State Fault Refusal :=
  debugEvent "DEBUG_HALT" id (fun h => h.resident && !h.dead && !h.ended && !h.halted && h.convoyLeft = 0)
    (fun _ => s.asHart id (fun s =>
      if s.syncPassed then s.later (.debugHalt id)
      else { s.abandonWait with hart := { s.abandonWait.hart with halted := true, stepping := false, desc := none } })) s
def execDebugResume (id : HartId) (s : State) : Host.Outcome State Fault Refusal :=
  debugEvent "DEBUG_RESUME" id (·.halted) (fun _ => s.modHartOf id (fun h => { h with halted := false, stepping := false })) s
/-- The hart runs for one instruction; step halts it again. -/
def execDebugSingleStep (id : HartId) (s : State) : Host.Outcome State Fault Refusal :=
  debugEvent "DEBUG_SINGLE_STEP" id (·.halted) (fun _ => s.modHartOf id (fun h => { h with halted := false, stepping := true })) s

/-! ## Registers -/

/-- Doubleword i of a register, and the register with it replaced. -/
def dword {n : Nat} (v : BitVec n) (i : Nat) : Word := BitVec.ofNat 64 (bitsOf v.toNat (64 * i + 63) (64 * i))
def setDword {n : Nat} (v : BitVec n) (i : Nat) (x : Word) : BitVec n := BitVec.ofNat n (setBits v.toNat (64 * i + 63) (64 * i) x.toNat)

/-- What a debugger reads of the acting hart. -/
def readDbg (s : State) (r : DbgReg) : Option Word :=
  let h := s.hart
  match r with
  | .x r => some (h.getX r)
  | .f r => some (h.getF r)
  | .pc => some h.pc
  | .csr n => (csrName n.toNat).map (fun c => BitVec.ofNat 64 (s.csrValue c))
  | .v r i => some (dword (h.getV r) i.toNat)
  | .k r i => some (dword (h.getK r) i.toNat)
  | .m t row i => some (dword (h.getM t row.toNat) i.toNat)
  | .sh r i => some (dword (h.getSh r) i.toNat)
  | .sc r i => some (dword (h.getSc r) i.toNat)
  | .ct c => some ((h.ct[c.toNat]'c.isLt).setWidth 64)
  | .w r i => some (dword (h.getW r) i.toNat)
  | .ta r i => some (dword (h.getTa r) i.toNat)
/-- What a debugger writes; bits a hart's registers do not have (02:R36) are not written, and a value a CSR does not take, or a CSR no level writes, changes nothing; a code-table entry
leaves P (log 74); a value of PC is kept with its bits [1:0], so an instruction may begin at an unaligned address (DESIGN CHOICE, log 69). -/
def writeDbg (s : State) (r : DbgReg) (v : Word) : State :=
  let h := s.hart
  let put (h : Hart) : State := { s with hart := h }
  match r with
  | .x r => put (h.setX r v)
  | .f r => put (h.setF r v)
  | .pc => put { h with pc := v }
  | .csr n =>
    match csrName n.toNat with
    | some c => if (csrWriteLevel c).isSome && s.csrValueOk c v.toNat then s.csrStore c v.toNat else s
    | none => s
  | .v r i => if 64 * i.toNat < h.vlen then put (h.setV r (setDword (h.getV r) i.toNat v)) else s
  | .k r i => if 64 * i.toNat < h.vlen / 4 then put (h.setK r (setDword (h.getK r) i.toNat v)) else s
  | .m t row i => if 64 * i.toNat < h.vlen then put (h.setM t row.toNat (setDword (h.getM t row.toNat) i.toNat v)) else s
  | .sh r i => if 64 * i.toNat < h.vlen then put (h.setSh r (setDword (h.getSh r) i.toNat v)) else s
  | .sc r i => put (h.setSc r (setDword (h.getSc r) i.toNat v))
  | .ct c => put { h with ct := h.ct.set c.toNat (v.setWidth 19) c.isLt }
  | .w r i => put (h.setW r (setDword (h.getW r) i.toNat v))
  | .ta r i => put (h.setTa r (setDword (h.getTa r) i.toNat v))
/-- DEBUG_REGISTER_ACCESS: of a halted hart (12:R345); a lost hart's registers cannot be read (01:R22). -/
def execDebugRegisterAccess (id : HartId) (r : DbgReg) (v : Option Word) (s : State) : Host.Outcome State Fault Refusal :=
  debugEvent "DEBUG_REGISTER_ACCESS" id (fun h => h.halted && !h.dead)
    (fun _ => s.asHart id (fun s =>
      match v with
      | some w => writeDbg s r w
      | none =>
        match readDbg s r with
        | some w => { s with out := s.out ++ [.debugValue w] }
        | none => s)) s

/-! ## Memory -/

/-- DEBUG_MEMORY_ACCESS: in the hart's address space, with level-K permissions; frames Rebeica protects stay unwritable, and
a refused access changes nothing. -/
def execDebugMemoryAccess (id : HartId) (va : Word) (n : Nat) (v : Option (List Byte)) (s : State) :
    Host.Outcome State Fault Refusal :=
  debugEvent "DEBUG_MEMORY_ACCESS" id (fun _ => true)
    (fun h =>
      let ctx : Ctx := { devCtx (s.asidOf h) with gang := h.id.gang, noWindow := h.cls == .c }
      let fail (c : Cause) (a : Word) : State := { s with out := s.out ++ [.debugFail c a] }
      match v with
      | some b =>
        (match runM (do
            let pas ← addresses ctx .write va b.length false
            modify (fun s => s.putAt pas b)) s with
          | (.ok _, s') => s'
          | (.error (.trap c a), _) => fail c a
          | _ => s)
      | none =>
        (match runM (readMem ctx va n) s with
          | (.ok b, s') => { s' with out := s'.out ++ [.debugBytes b] }
          | (.error (.trap c a), _) => fail c a
          | _ => s)) s

end Sys2Proof.Machine
end

