-- ==== Sys2Proof/Machine/Package.lean ====
section
/-! DEFINITION. Bring-up, resets, rails and heat (01:R24-R34). -/
namespace Sys2Proof.Machine
open Sys2Proof

/-- What stays when the package starts anew: the record of what was sent, and the model's own fields. -/
def State.fresh (s : State) (p : Phase) : State :=
  { State.reset with
    phase := p, out := s.out, agenda := s.agenda, hold := s.hold, turns := s.turns, pace := s.pace, stimuli := s.stimuli, tick := s.tick }
def State.say (s : State) (o : Out) : State := { s with out := s.out ++ [o] }

/-! ## Serial flash (01:R30) -/

def flashAt (off n : Nat) : List Byte := (Config.flash.drop off).take n
/-- Object i of the directory: its bytes, and the length that its entry gives. -/
def flashObject (i : Nat) : List Byte × Nat :=
  let off := leNat (flashAt (16 * i) 8)
  let len := leNat (flashAt (16 * i + 8) 8)
  (flashAt off len, len)
/-- Rebeica's verification of an object in flash against its key store (01:R29 step 2; 12:R354). -/
def flashVerifies (i : Nat) : Bool :=
  let b := (flashObject i).1
  let len := (flashObject i).2
  let o : ObjHead := ⟨leNat (b.take 256)⟩
  b.length == len && o.ok 0 len && Config.keySlot o.key &&
  Config.rsaOk o.key (Config.sha512 (b.take (len - 512))) (BitVec.ofNat 4096 (leNat (b.drop (len - 512))))
/-- Steps 2 to 5 (01:R29, R32, R33): Rebeica's verification, memory zero, and the request for the string rail. -/
def bringUp (s : State) : State :=
  if flashVerifies 0 && flashVerifies 1 then ({ s with phase := .step 5 } : State).say (.stringEnable true)
  else ({ s with phase := .failed 2 } : State).say (.bootFailure 2 (if flashVerifies 0 then 1 else 0))
def execPowerUp (s : State) : Host.Outcome State Fault Refusal :=
  given (s.phase == .off) "POWER_UP" (bringUp (s.fresh (.step 1)))
def execStringRailReady (s : State) : Host.Outcome State Fault Refusal :=
  given (s.phase == .step 5) "STRING_RAIL_READY" { s with phase := .step 6 }
def execConfigRequestRetry (s : State) : Host.Outcome State Fault Refusal :=
  given (s.phase == .step 6) "CONFIG_REQUEST_RETRY" (s.say .configRetry)

/-! ## The system firmware (01:R30) -/

/-- Tables under construction: memory, the next free byte, and whether everything has fitted. -/
structure Build where
  mem : List Host.Cell
  next : Nat
  deriving DecidableEq, Repr
/-- The table an entry points to, made where it is not there yet (09:R258). -/
def Build.table (b : Build) (entry n : Nat) : Nat × Build :=
  let e := leNat (memReadN b.mem entry 8)
  if pteV e then (bitsOf e 51 8 * 256, b)
  else
    let size := 2 ^ (n + 3)
    let at' := (b.next + size - 1) / size * size
    (at', ⟨memWriteN b.mem entry (leBytes 8 (at' + 1)), at' + size⟩)
/-- One 64 KiB leaf, with its tables on the way. -/
def Build.leaf (va pte : Nat) : List (Nat × Nat) → Nat → Build → Build
  | [], _, b => b
  | (lo, n) :: rest, table, b =>
    let entry := table + 8 * ((va / 2 ^ lo) % 2 ^ n)
    match rest with
    | [] => { b with mem := memWriteN b.mem entry (leBytes 8 pte) }
    | (_, n') :: _ =>
      let r := b.table entry n'
      Build.leaf va pte rest r.1 r.2
def Build.leaves : List (Nat × Nat) → Build → Build
  | [], b => b
  | (va, pte) :: t, b => Build.leaves t (b.leaf va pte walkLevels Config.bootTables)
/-- Page i at an address equal to its physical one: V and LEAF, and W or X. -/
def identity (x : Bool) (page : Nat) : Nat × Nat := (65536 * page, 65536 * page + (if x then 11 else 7))
/-- The pages of ASID 0 (01:R30 step 3). -/
def bootPages (o : ObjHead) (len : Nat) : List (Nat × Nat) :=
  let text := o.frames 0
  (List.range ((len + 65535) / 65536 + 1024)).map (fun p => identity (text.contains p) p) ++
  (List.range 32).map (fun i => identity false (Config.scb / 65536 + i)) ++
  (List.range 256).map (fun i => identity false (Config.device / 65536 + i)) ++
  (List.range 64).map (fun i => identity false (Config.bootTables / 65536 + i))
/-- The loaded firmware's header. -/
def firmwareHead (s : State) : ObjHead := ⟨s.peek 0 256⟩
/-- Step 6 with the system firmware's object, and step 7 (01:R29, R30): Rebeica maps it as it does every object, and hart 0 of control
core 0 leaves reset at TEXTOFF with x1 the object's length. -/
def loadFirmware (s : State) : State :=
  let len := (flashObject 2).2
  let s1 := s.pokeN 0 (flashObject 2).1
  let o := firmwareHead s1
  if (flashObject 2).1.length == len && o.ok 0 len && Config.keySlot o.key && framesFree s1 (o.frames 0) && objSigned s1 0 len o then
    let s2 := permit s1 (o.frames 0)
    let entry0 := memWriteN s2.mem (Config.scb + 0x100000) (leBytes 16 (Config.bootTables + 1))
    let b := Build.leaves (bootPages o len) ⟨entry0, Config.bootTables + 2 ^ 21⟩
    let h := { Hart.reset with lv := .m, pc := BitVec.ofNat 64 o.textOff, mcheck := s.hart.mcheck }
    { s2 with
      mem := b.mem, phase := .running, hart := h.setX 1 (BitVec.ofNat 64 len), icache := [],
      rebeica := { s2.rebeica with mapped := [⟨0, o.textOff, o.textLen, objDigest s1 0 len⟩] } }
  else ({ s with phase := .failed 6 } : State).say (.bootFailure 6 2)
def execSystemFirmwareLoad (s : State) : Host.Outcome State Fault Refusal :=
  given (s.phase == .step 6) "SYSTEM_FIRMWARE_LOAD" (loadFirmware s)

/-! ## Reset, power and rails (01:R27, R28, R34) -/

/-- Bytes of the trip map, which only removal of power clears (01:R22). -/
def tripBytes (m : List Host.Cell) : List Host.Cell := m.filter (fun c => decide (tripMap ≤ c.1) && decide (c.1 < tripMap + 96))
/-- Thermal events still pending on hart 0 of control core 0 (01:R26): MCHECKs of event 1. -/
def State.heatPending (s : State) : List Word :=
  match s.hartOf ⟨0, 0⟩ with
  | some h => h.mcheck.filter (fun v => bitsOf v.toNat 62 56 == 1)
  | none => []
/-- Bring-up again from step 2: all memory is lost but the trip map, and trips and thermal events stay (01:R34). -/
def resetAll (s : State) : State :=
  let f := (s.fresh (.step 2)).say (.stringEnable false)
  let r := { f.rebeica with grants := s.rebeica.grants, nonces := s.rebeica.nonces }
  let x := (s.strings.filter (·.tripped)).map (fun x => { Str.reset x.ix with tripped := true })
  bringUp { f with hart := { f.hart with mcheck := s.heatPending }, strings := x, mem := tripBytes s.mem, thermal := s.thermal,
                   heat := s.heat, rebeica := r }
/-- FUNDAMENTAL_RESET: with bring-up failed, a rail out of tolerance or the package overheated, only removal of power goes on. -/
def execFundamentalReset (s : State) : Host.Outcome State Fault Refusal :=
  match s.phase with
  | .running | .step _ => .next (resetAll s)
  | .failed _ | .overheated | .railFault _ => .next s
  | .off => .refused (.notEnabled "FUNDAMENTAL_RESET")
/-- POWER_REMOVAL: off, with nothing kept. -/
def execPowerRemoval (s : State) : Host.Outcome State Fault Refusal :=
  given (s.phase != .off) "POWER_REMOVAL" (s.fresh .off)
/-- RAIL_FAULT: clocks stop, links drop, and the rail is reported unless it feeds the management controller. Where bring-up has stopped
before that controller started nothing runs, and the failure stands (01:R33). -/
def execRailFault (r : Rail) (s : State) : Host.Outcome State Fault Refusal :=
  match s.phase with
  | .off | .railFault _ => .refused (.notEnabled "RAIL_FAULT")
  | .failed 2 => .next s
  | _ =>
    let f : State := { s with phase := .railFault r, poolUp := false, portsOn := [] }
    .next (if r == .c then f else f.say (.railReport r))

/-! ## The management interface (01:R28) -/

/-- The management controller answers: from bring-up step 3 on, while the rail that feeds it holds (01:R27, R29, R33). -/
def State.mctpUp (s : State) : Bool :=
  match s.phase with
  | .off => false
  | .step n => decide (3 ≤ n)
  | .failed n => decide (3 ≤ n)
  | .running | .overheated => true
  | .railFault r => r != .c
/-- The management interface's request to remove string power is passed to the board; it changes no architectural state (log 40). -/
def execMctpRemoveStringPower (s : State) : Host.Outcome State Fault Refusal :=
  given s.mctpUp "MCTP_REMOVE_STRING_POWER" (s.say (.stringEnable false))
/-- What is measured, no transfer of a ladder beyond its limit (01:R20): free values (log 75). -/
def State.readings (s : State) : Readings :=
  let f := Config.measured s.tick
  ⟨[Rail.string, .c, .base, .hbm, .io].zipIdx.map (fun p => (p.1, f (2 * p.2), f (2 * p.2 + 1))), f 10, (List.range 8).map (fun n => f (11 + n)),
    (List.range 768).map (fun n => min (f (19 + n)) (ladderLimit n))⟩
/-- MCTP_TELEMETRY_READ: what is measured, and what the state holds. -/
def execMctpTelemetryRead (s : State) : Host.Outcome State Fault Refusal :=
  given s.mctpUp "MCTP_TELEMETRY_READ"
    (s.say (.telemetry
      { measured := s.readings, power := (List.range 768).map (fun i => (i, (s.str i).power)), ports := s.bellows.ports.toList.map (·.point),
        grants := (List.range 768).map (fun i => (i, (s.str i).grant)), portGrants := s.bellows.ports.toList.map (·.grant), thermal := s.thermal,
        trips := (s.strings.filter (·.tripped)).map (·.ix), rail := match s.phase with | .railFault r => some r | _ => none,
        heat := s.heat }))

/-! ## Heat (01:R26) -/

/-- A reading, in tenths of a degree: MCHECK event 1 as it rises through 105 degrees, recorded for the management function. -/
def readSensor (s : State) (i t : Nat) : State :=
  let s1 := { s with thermal := (i, t) :: s.thermal.filter (fun p => p.1 != i) }
  if (s.thermal.lookup i).getD 0 < 1050 && 1050 ≤ t then
    raiseMcheck { s1 with heat := s1.heat ++ [i] } (fun h => h.id == ⟨0, 0⟩) (mcheckV 1 i)
  else s1
def readSensors : List (Nat × Nat) → State → State
  | [], s => s
  | (i, t) :: l, s => readSensors l (readSensor s i t)
/-- Bellows reads the sensors: the package runs, or is brought up (01:R26, R34). -/
def State.sensing (s : State) : Bool := match s.phase with | .running | .step _ => true | _ => false
/-- TEMPERATURE_SAMPLE; at 110 degrees or more all core clocks stop. -/
def execTemperatureSample (t : List (Nat × Nat)) (s : State) : Host.Outcome State Fault Refusal :=
  let s1 := readSensors t s
  given s.sensing "TEMPERATURE_SAMPLE"
    (if t.any (fun p => decide (1100 ≤ p.2)) then ({ s1 with phase := .overheated } : State).say .overtemp else s1)

end Sys2Proof.Machine
end

