-- ==== Sys2Proof/Machine/Bellows.lean ====
section
/-! DEFINITION. Bellows: budgets of strings and ports in tokens of 0.5 W (03:R94-R99), and the tenants' buckets at a network
port (09:R271, R272). -/
namespace Sys2Proof.Machine
open Sys2Proof

/-- Tokens of an operating point: 0 disabled, 1 to 4 P0 to P3 (03:R95). -/
def portTokens (p : Nat) : Nat := [0, 4, 9, 16, 30].getD p 0
/-- A division rounded up. -/
def ceilDiv (a b : Nat) : Nat := (a + b - 1) / b
/-- The cap on a consumer, where heat has set one (03:R96). -/
def Bellows.capped (b : Bellows) (consumer n : Nat) : Nat :=
  match b.caps.find? (fun c => c.consumer == consumer) with
  | some c => min n c.tokens
  | none => n
/-- Number of an Ultra Ethernet port among the consumers. -/
def portConsumer (l : Nat) : Nat := 1000 + l

/-! ## Ports (03:R95, R96) -/

/-- The demand point: none where system software has not enabled the port (01:R32), else from the bytes queued, whether a bound
collective record names the port, and whether it has carried nothing for 10 microseconds. Otherwise it is the current point, for which
the spec names none while a change is in progress: here the point the change heads for (DESIGN CHOICE, log 82). -/
def demandPoint (s : State) (queued : List (Nat × Nat)) (quiet : List Nat) (l : Nat) (p : Port) : Nat :=
  let n := (queued.lookup l).getD 0
  if !s.portsOn.contains l then 0
  else if 65536 ≤ n || s.harts.any (fun h => h.bindings.any (fun b => b.ports.contains l)) then 4
  else if 8192 ≤ n then 3
  else if 1 ≤ n then 2
  else if quiet.contains l then 1
  else p.target
/-- A port after an allocation: it heads for the demand point its budget allows, charged at the higher point. A change in progress is
redirected at once and charged at the higher of the point it leaves and the new demand, of which 03:R95 says nothing (DESIGN CHOICE,
log 82). -/
def allotPort (s : State) (queued : List (Nat × Nat)) (quiet : List Nat) (l : Nat) (p : Port) : Port :=
  let want := demandPoint s queued quiet l p
  let g := s.bellows.capped (portConsumer l) (max (portTokens want) (portTokens p.point))
  let fits := ([4, 3, 2, 1, 0].find? (fun q => decide (q ≤ want) && decide (portTokens q ≤ g))).getD 0
  ⟨p.point, fits, g⟩
def allotPorts (s : State) (queued : List (Nat × Nat)) (quiet : List Nat) : Vector Port 16 :=
  Vector.ofFn (fun i => allotPort s queued quiet i.val s.bellows.ports[i])

/-! ## Strings (03:R94, R97) -/

/-- D of a string. -/
def stringDemand (s : State) (power : List (Nat × Nat)) (i : Nat) : Nat :=
  let x := s.str i
  s.bellows.capped i (ceilDiv ((power.lookup i).getD 0 * (16 + x.spow)) (16 * 500) + fillerTokens i (tileSteps s x))
/-- S_pow. -/
def spowOf (d g : Nat) : Nat := if d ≤ g then (if g = 0 then 48 else 0) else if g = 0 then 48 else min 48 (ceilDiv (16 * (d - g)) g)
/-- The string is one of the n that receive a left-over token, from the one after `last` on. -/
def getsExtra (last n i : Nat) : Bool := decide ((i + 768 - (last + 1) % 768) % 768 < n)

/-! ## Heat (03:R96) -/

/-- Last grant of a consumer. -/
def lastGrant (b : Bellows) (strs : List Str) (i : Nat) : Nat :=
  if 1000 ≤ i then ((b.ports.toList[i - 1000]?).map (·.grant)).getD 0
  else ((strs.find? (fun x => x.ix == i)).map (·.grant)).getD 0
/-- Consumers a sensor watches: its own, and for a base die its four ports (log 42). -/
def watched (i : Nat) : List Nat :=
  i :: (if 770 ≤ i && i < 774 then (List.range 4).map (fun l => portConsumer (4 * (i - 770) + l)) else [])
/-- Tokens of a string or a port at its nominal current or highest point; the other sensors watch no consumer of 03:R94. -/
def fullTokens (i : Nat) : Nat := if i < 640 then 10 else if i < 768 then 13 else if 1000 ≤ i then 30 else 0
/-- A consumer's cap after a reading in tenths of a degree: 10 % of the last grant down above 95, up by the same below, until it is no
cap any more. The first is taken from the last grant, or the full tokens where they are more (log 68). -/
def stepCap (s : State) (t : Nat) (caps : List Cap) (i : Nat) : List Cap :=
  let g := lastGrant s.bellows s.strings i
  let amt := ceilDiv g 10
  let top := max g (fullTokens i)
  let c := (caps.find? (fun c => c.consumer == i)).getD ⟨i, top, 0, top⟩
  let rest := caps.filter (fun c => c.consumer != i)
  if 950 < t then { c with tokens := c.tokens - amt, amount := if amt = 0 then c.amount else amt } :: rest
  else if t < 950 then (if c.top ≤ c.tokens + c.amount then rest else { c with tokens := c.tokens + c.amount } :: rest)
  else caps
def stepCaps (s : State) : List (Nat × Nat) → List Cap → List Cap
  | [], caps => caps
  | (i, t) :: l, caps => stepCaps s l ((watched i).foldl (stepCap s t) caps)

/-! ## An allocation -/

/-- BELLOWS_ALLOCATION (03:R94): the power measured over the last microsecond, of the fixed consumers and of each string, in
milliwatts, and the state of the ports' queues. -/
def allocate (s : State) (fixedMw : Nat) (power queued : List (Nat × Nat)) (quiet : List Nat) : State :=
  let caps := stepCaps s s.thermal s.bellows.caps
  let s := { s with bellows := { s.bellows with caps := caps } }
  let ports := allotPorts s queued quiet
  let pool := 2 * s.bellows.limit - ceilDiv fixedMw 500 - (ports.toList.map (·.grant)).sum
  let d := (List.range 768).map (stringDemand s power)
  let total := d.sum
  let low := d.map (fun x => if total ≤ pool then x else x * pool / total)
  let left := if total ≤ pool then 0 else pool - low.sum
  let one (i : Nat) : Str :=
    let g := low.getD i 0 + (if getsExtra s.bellows.last left i then 1 else 0)
    { s.str i with grant := g, demand := d.getD i 0, power := (power.lookup i).getD 0, spow := spowOf (d.getD i 0) g,
                   fillTok := fillerTokens i (tileSteps s (s.str i)) }
  let b := s.bellows
  let b' := { b with epoch := b.epoch + 1, last := (b.last + left) % 768, ports := ports, fixedMw := fixedMw }
  { s with strings := (List.range 768).map one, bellows := b', sched := { s.sched with freePool := pool - total } }
def execBellowsAllocation (fixedMw : Nat) (strMw queued : List (Nat × Nat)) (quiet : List Nat) (s : State) :
    Host.Outcome State Fault Refusal :=
  given s.up "BELLOWS_ALLOCATION" (allocate s fixedMw strMw queued quiet)
/-- PORT_POINT_CHANGE_DONE (03:R95). -/
def execPortPointChangeDone (port : Nat) (s : State) : Host.Outcome State Fault Refusal :=
  if h : port < 16 then
    let p := s.bellows.ports[port]'h
    given (s.up && p.point != p.target) "PORT_POINT_CHANGE_DONE"
      { s with bellows := { s.bellows with ports := s.bellows.ports.set port { p with point := p.target } h } }
  else .refused (.notEnabled "PORT_POINT_CHANGE_DONE")
/-- MCTP_SET_POWER_LIMIT (01:R25): applied at the next allocation. -/
def execMctpSetPowerLimit (w : Nat) (s : State) : Host.Outcome State Fault Refusal :=
  given (s.mctpUp && decide (1200 ≤ w) && decide (w ≤ 4800)) "MCTP_SET_POWER_LIMIT" { s with bellows := { s.bellows with limit := w } }

/-! ## Bandwidth shares (09:R271, R272) -/

/-- A tenant's bucket. -/
def bucketOf (s : State) (port : Nat) (t : BitVec 8) : Nat :=
  match s.bellows.buckets.find? (fun p => p.1 == port && p.2.1 == t) with
  | some p => p.2.2
  | none => 0
/-- The port's refill; `spent` names the tenants that presented a request in the interval that has ended, with the tokens that their
requests took. -/
def refill' (s : State) (port : Nat) (spent : List (BitVec 8 × Nat)) : List (Nat × BitVec 8 × Nat) :=
  let p := s.tenantsAt port
  let e := s.shareOf port
  let sumE (l : List (BitVec 8)) : Nat := (l.map e).sum
  let base := s.baseOf port
  let active (t : BitVec 8) : Bool := (spent.lookup t).isSome
  let a := p.filter active
  let idle := p.filter (fun t => !active t)
  let pool := 1024 - (p.map base).sum + (idle.map base).sum
  let extra (t : BitVec 8) : Nat := pool * e t / sumE a
  let left := pool - (a.map extra).sum
  p.map (fun t =>
    let got := if active t then base t + extra t + (if a.idxOf t < left then 1 else 0) else 0
    (port, t, min 2048 (bucketOf s port t - (spent.lookup t).getD 0 + got)))
/-- Tokens that can have been spent in an interval: of tenants present, no more than each holds, a request a cycle. -/
def spendable (s : State) (port : Nat) (spent : List (BitVec 8 × Nat)) : Bool :=
  (spent.map (·.1)).Nodup && decide ((spent.map (·.2)).sum ≤ 1024) &&
  spent.all (fun p => (s.tenantsAt port).contains p.1 && decide (p.2 ≤ bucketOf s port p.1))
/-- REFILL_BOUNDARY. -/
def execRefillBoundary (port : Nat) (spent : List (BitVec 8 × Nat)) (s : State) : Host.Outcome State Fault Refusal :=
  let rest := s.bellows.buckets.filter (fun p => p.1 != port)
  given (s.up && decide (port < 3104) && spendable s port spent) "REFILL_BOUNDARY"
    { s with bellows := { s.bellows with buckets := refill' s port spent ++ rest } }

end Sys2Proof.Machine
end

