-- ==== Sys2Proof/Machine/Cluster.lean ====
section
/-! DEFINITION. Communication registers and semaphores, major 34 (13:R389; 15:R441-R443; 02:R37, R38). Each is one
operation of the file's total order (10:R297). -/
namespace Sys2Proof.Machine
open Sys2Proof

/-- Number of a hart's cluster file (12:R351): cluster 0 to 63, or 64 + C-chiplet. -/
def Hart.fileNo (h : Hart) : Nat := if h.cls == .v then h.core / 8 else 64 + h.core / 16
/-- A file as it is given to a gang (02:R37). -/
def ClusterFile.fresh (g : BitVec 32) : ClusterFile := ⟨g, Vector.replicate 64 0, 0, []⟩
def State.file (s : State) (h : Hart) : ClusterFile :=
  match s.files.lookup h.fileNo with
  | some f => f
  | none => .fresh h.id.gang
def State.setFile (s : State) (n : Nat) (f : ClusterFile) : State :=
  { s with files := (n, f) :: s.files.filter (fun p => p.1 != n) }

/-- Class and CRF checks (02:R38). -/
def needFile (i : Instr) (n : Nat) : M Unit := do
  needCV i
  let s ← get
  if s.hart.cls == .c then
    checkM (match s.gang s.hart.id.gang with | some g => g.crf | none => false) .access (BitVec.ofNat 64 n)
/-- The hart's file changes. -/
def modFile (f : ClusterFile → ClusterFile) : M Unit :=
  modify (fun s => s.setFile s.hart.fileNo (f (s.file s.hart)))

/-- 13:R389. -/
def execCrld (d : Reg) (n : BitVec 6) (s : State) : Host.Outcome State Fault Refusal :=
  runInstr (do
    needFile (.crld d n) n.toNat
    doneX d ((s.file s.hart).cr[n.toNat]'n.isLt)) s
/-- 13:R389. -/
def execCrst (a : Reg) (n : BitVec 6) (s : State) : Host.Outcome State Fault Refusal :=
  runInstr (do
    needFile (.crst a n) n.toNat
    modFile (fun f => { f with cr := f.cr.set n.toNat (s.getX a) n.isLt })
    done1) s
/-- 15:R442: waits while the bit is 1, in order of arrival. -/
def execSemts (n : BitVec 8) (s : State) : Host.Outcome State Fault Refusal :=
  runInstr (do
    needFile (.semts n) n.toNat
    let f := s.file s.hart
    if !f.sem.getLsbD n.toNat then
      modFile (fun f => { f with sem := f.sem ||| ((1 : BitVec 256) <<< n.toNat) })
      acquireM
      doneWait
    else
      if !f.waiters.any (fun w => w.2 == s.hart.id) then
        modFile (fun f => { f with waiters := f.waiters ++ [(n, s.hart.id)] })
      waitAt (.semts n)) s
/-- 15:R442. -/
def execSemtry (d : Reg) (n : BitVec 8) (s : State) : Host.Outcome State Fault Refusal :=
  runInstr (do
    needFile (.semtry d n) n.toNat
    let b := (s.file s.hart).sem.getLsbD n.toNat
    modFile (fun f => { f with sem := f.sem ||| ((1 : BitVec 256) <<< n.toNat) })
    if !b then acquireM
    doneX d (if b then 1 else 0)) s
/-- 15:R442: the bit is handed to the first waiter, whose SEMTS completes; with no waiter it becomes 0. -/
def execSemclr (n : BitVec 8) (s : State) : Host.Outcome State Fault Refusal :=
  runInstr (do
    needFile (.semclr n) n.toNat
    match (s.file s.hart).waiters.find? (fun w => w.1 == n) with
    | some w =>
      modFile (fun f => { f with waiters := f.waiters.filter (fun x => x.2 != w.2) })
      modify (fun s => (s.modHartOf w.2 Hart.passWait).acquire w.2)
    | none => modFile (fun f => { f with sem := f.sem &&& ~~~((1 : BitVec 256) <<< n.toNat) })
    done1) s

end Sys2Proof.Machine
end

