-- ==== Sys2Proof/Machine/Control.lean ====
section
/-! DEFINITION. Control transfer, majors 24 to 29 (13:R368-R375; 14:R409, R410; 07:R228). A fault at the target is the
next fetch's (13:R368). -/
namespace Sys2Proof.Machine
open Sys2Proof

/-- pc plus a displacement where the branch is taken, else the next instruction. -/
def State.branch (s : State) (taken : Bool) (d : Word) : State := if taken then s.setPc (s.hart.pc + d) else s.advance 1

/-- 13:R369. -/
def execB (a b : Reg) (c : Cond) (i : BitVec 13) (s : State) : Host.Outcome State Fault Refusal :=
  .next (s.branch (condHolds c (s.getX a) (s.getX b)) (disp13 i))
/-- 14:R409. -/
def execJ (i : BitVec 26) (s : State) : Host.Outcome State Fault Refusal := .next (s.branch true (disp26 i))
/-- 13:R375. -/
def execCall (i : BitVec 26) (s : State) : Host.Outcome State Fault Refusal :=
  .next ((s.setX 31 (s.hart.pc + 4)).branch true (disp26 i))
/-- 14:R410: xa is read first. -/
def execJr (d a : Reg) (s : State) : Host.Outcome State Fault Refusal :=
  .next ((s.setX d (s.hart.pc + 4)).setPc (s.getX a &&& ~~~3))
/-- 13:R372, R373. fn holds n - 1. -/
def execBtab (a b : Reg) (n : BitVec 11) (s : State) : Host.Outcome State Fault Refusal :=
  runInstr (do
    if (s.getX b).toNat < n.toNat + 1 then
      let ea := s.getX a + 4 * s.getX b
      checkM (ea.toNat % 4 == 0) .misalign ea
      let off ← loadScalar ea 4
      modify (fun s' => s'.setPc ((s.getX a + extendN true 4 off) &&& ~~~3))
    else done1) s

/-- The k registers' bits below VL, in force at the branch's place (07:R228). -/
def Hart.kBelow (h : Hart) (k : BitVec 3) (vl : Nat) : Nat := (h.getK k).toNat % 2 ^ vl

/-- 13:R374, 07:R228: the branch waits while a queued instruction will write its mask. -/
def maskBranch (i : Instr) (k : BitVec 3) (d : BitVec 13) (test : Nat → Nat → Bool) : M Unit := do
  needV i
  let h ← getHart
  checkM (k == 0 || !h.nres.getLsbD 8) .lazy 0x100
  if k != 0 && h.queued (writesK k) then waitM
  let vl := h.pcfg.vl.toNat
  modify (fun s => s.branch (k == 0 || test vl (h.kBelow k vl)) (disp13 d))
/-- 13:R374: some bit below VL is 1. -/
def execBvany (k : BitVec 3) (i : BitVec 13) (s : State) : Host.Outcome State Fault Refusal :=
  runInstr (maskBranch (.bvany k i) k i (fun _ v => v != 0)) s
/-- 13:R374: every bit below VL is 1. -/
def execBvall (k : BitVec 3) (i : BitVec 13) (s : State) : Host.Outcome State Fault Refusal :=
  runInstr (maskBranch (.bvall k i) k i (fun vl v => v == 2 ^ vl - 1)) s

end Sys2Proof.Machine
end

