-- ==== Sys2Proof/Machine/System.lean ====
section
/-! DEFINITION. Major 35: system calls, traps by name, TRET, breakpoints, IDLE (13:R371; 14:R407; 15:R451, R458, R459;
12:R329-R337), and which asynchronous traps are pending (12:R331). -/
namespace Sys2Proof.Machine
open Sys2Proof

/-- 15:R451. -/
def execSysc (n : BitVec 12) (s : State) : Host.Outcome State Fault Refusal :=
  runInstr (trapM .sysc (n.setWidth 64)) s

/-- Causes that level A may not take by name (15:R458). -/
def asyncCause : Cause → Bool
  | .preempt | .timer | .extint | .mcheck => true
  | _ => false
/-- 15:R458. -/
def execTrap (a : Reg) (c : BitVec 8) (s : State) : Host.Outcome State Fault Refusal :=
  runInstr (match causeOf c.toNat with
    | none => trapM .illegal (illegalV (.trap a c))
    | some cause =>
      if s.hart.lv == .a && asyncCause cause then trapM .priv (headWord (.trap a c))
      else trapM cause (s.getX a)) s

/-- Whether a debug grant with halt-on-BRK covers the acting hart (12:R345, R346). -/
def State.brkHalts (s : State) : Bool :=
  s.rebeica.grants.any (fun g => g.haltOnBrk &&
    (match g.tenant with
      | none => true
      | some t => (match s.gang s.hart.id.gang with | some x => x.tenant == t | none => false)))
/-- 13:R371. -/
def execBrk (n : BitVec 12) (s : State) : Host.Outcome State Fault Refusal :=
  if s.brkHalts then
    .next { (s.advance 1) with hart := { (s.advance 1).hart with halted := true } }
  else runInstr (trapM .brk (n.setWidth 64)) s

/-! ## Asynchronous traps (12:R331) -/

/-- What is pending, in order of priority, with its TRAPV (12:R329). -/
def State.pendingAsync (s : State) : List (Cause × Word) :=
  (match s.hart.mcheck with | v :: _ => [(Cause.mcheck, v)] | [] => []) ++
  (match s.hart.preempt with | some d => [(Cause.preempt, if d then 1 else 0)] | none => []) ++
  (if s.hart.timecmp.ule s.time then [(Cause.timer, s.time)] else []) ++
  (match s.hart.extint with | v :: _ => [(Cause.extint, v.setWidth 64)] | [] => [])
/-- Whether a pending cause may be taken now. -/
def Hart.mayTake (h : Hart) (c : Cause) : Bool :=
  c == .mcheck || decide (h.lv.code < (h.trapLevel c).code) || h.ie
/-- The asynchronous trap to take now. -/
def State.takeable (s : State) : Option (Cause × Word) := s.pendingAsync.find? (fun p => s.hart.mayTake p.1)

/-! ## IDLE (14:R407) -/

/-- The hart waits until an asynchronous trap is pending; one that can be taken is taken after it, as soon as no NAMO destination is
pending (15:R434), or once a single step is over (12:R347). -/
def idleWait (i : Instr) : M Unit := do
  let s ← get
  if s.pendingAsync.isEmpty || (s.takeable.isSome && !s.hart.stepping) then waitAt i else doneWait
/-- 14:R407, 12:R340: with a PREEMPT outstanding at K or M the hart yields once its queue is empty. -/
def execIdle (s : State) : Host.Outcome State Fault Refusal :=
  runInstr (do
    if s.hart.lv != .a && s.hart.preempt.isSome then
      if !s.hart.vq.isEmpty || !s.hart.namoPend.isEmpty then waitM
      modHart (fun h => { h with yielded := true, preempt := none })
      doneWait
    else idleWait .idle) s
/-- 14:R407: the hart ends; the hart released at bring-up idles. -/
def execIdleX (s : State) : Host.Outcome State Fault Refusal :=
  runInstr (do
    if s.hart.id.gang == 0 then idleWait .idleX
    else
      if !s.hart.vq.isEmpty then waitM
      modHart (fun h => { h with ended := true })
      doneWait
      modify (fun s => tsyncCheck (gbarCheck s s.hart.id.gang) s.hart.id.gang)) s

/-! ## TRET (12:R333, R337) -/

/-- The instructions of 07:R201 that are posted. -/
def isPosted (i : Instr) : Bool :=
  let m := (headOf i).toNat / 2 ^ 26
  (48 ≤ m && m ≤ 60) || m == 62 || m == 47 ||
  (match i with
    | .setvl .. | .setvt .. | .setmr .. | .vfence _ | .blind _ => true
    | _ => false)
/-- The instructions of two slots (07:R201). -/
def twoSlots : Instr → Bool
  | .vlds .. | .vsts .. | .scld .. | .scst .. | .cpy .. => true
  | _ => false

/-- One entry of a queue image (07:R208). -/
structure ImgEntry where
  head : Parcel
  tail : Parcel
  opnd : Word
  kind : Nat
  addr : BitVec 54
  rsv : Nat
  deriving DecidableEq, Repr

def imgEntry (v : Nat) : ImgEntry :=
  ⟨BitVec.ofNat 32 v, BitVec.ofNat 32 (bitsOf v 63 32), BitVec.ofNat 64 (bitsOf v 127 64), bitsOf v 129 128,
   BitVec.ofNat 54 (bitsOf v 183 130), bitsOf v 191 184⟩
def ImgEntry.op (e : ImgEntry) : QOp :=
  match decode e.head e.tail with
  | .ok i => if isPosted i then .ok i else .bad
  | .error _ => .bad

/-- Entries folded with their continuations, or none where the structure is wrong (12:R337 check 1). -/
def buildQueue (made : Nat) : List ImgEntry → Option (List QEntry)
  | [] => some []
  | e :: t =>
    if e.rsv != 0 || e.kind != 0 then none
    else if opIs twoSlots e.op then
      match t with
      | c :: t' =>
        if c.rsv != 0 || c.kind != 1 then none
        else (buildQueue made t').map (fun q => ⟨e.addr, e.head, e.tail, e.op, e.opnd, some c.opnd, true, made⟩ :: q)
      | [] => none
    else (buildQueue made t).map (fun q => ⟨e.addr, e.head, e.tail, e.op, e.opnd, none, true, made⟩ :: q)
/-- Every VLOOP's body lies within the image (12:R337). -/
def loopsWhole : List QEntry → Bool
  | [] => true
  | e :: t =>
    (match e.op with
      | .ok (.vloop _ n) => decide (n.toNat + 1 ≤ t.length)
      | _ => true) && loopsWhole t

/-- TRAPV of VIMAGE (05:R170). -/
def vimageV (missing reason vlen : Nat) : Word := BitVec.ofNat 64 (missing * 2 ^ 48 + reason * 2 ^ 32 + vlen)

/-- The configuration the last marker of a queue carries (07:R202). -/
def cfgAfter (vlmax : VType → Nat) : List QEntry → VCfg → VCfg
  | [], c => c
  | e :: t, c =>
    cfgAfter vlmax t
      (match e.op with
        | .ok (.setvl ..) => { c with vl := e.opnd.setWidth 32 }
        | .ok (.setvt _ ty) =>
          let ty := carriedType ty e.opnd
          { c with vt := ty, vl := BitVec.ofNat 32 (min c.vl.toNat (vlmax ty)) }
        | .ok (.setmr ..) => { c with mr := e.opnd.setWidth 5 }
        | _ => c)

/-- n 24-byte entries. -/
def imgEntries : Nat → List Byte → List ImgEntry
  | 0, _ => []
  | n + 1, b => imgEntry (leNat (b.take 24)) :: imgEntries n (b.drop 24)

/-- Reading the trap area: a fault takes MCHECK at M, quietly (12:R337). -/
def readArea (va : Word) (n : Nat) : M (List Byte) := do
  let s ← get
  match runM (readMem (s.ctxAt false) va n) s with
  | (.ok b, s') => do
    set s'
    return b
  | (.error (.trap _ a), _) => throw (.areaFault true a)
  | (.error e, _) => throw e
def writeArea (va : Word) (b : List Byte) : M Unit := do
  let s ← get
  match runM (writeMem (s.ctxAt false) va b) s with
  | (.ok _, s') => set s'
  | (.error (.trap _ a), _) => throw (.areaFault true a)
  | (.error e, _) => throw e

/-- The refill of 12:R337. -/
def refill (l : Level) : M Unit := do
  let s ← get
  let va := s.hart.areaVa l
  let hd := leNat (← readArea va 64)
  if hd % 2 == 0 then return ()
  let vlen := bitsOf hd 351 320
  let count := bitsOf hd 7 1
  checkM (bitsOf hd 31 8 == 0 && bitsOf hd 255 238 == 0 && bitsOf hd 319 261 == 0 && bitsOf hd 511 352 == 0 &&
    bitsOf hd 126 101 == 0 && bitsOf hd 189 160 == 0 && count ≤ 65) .vimage (vimageV 0 1 vlen)
  let b ← if count == 0 then pure [] else readArea (va + 64) (24 * count)
  match buildQueue s.hart.stores (imgEntries count b) with
  | none => trapM .vimage (vimageV 0 1 vlen)
  | some q =>
    checkM (loopsWhole q) .vimage (vimageV 0 1 vlen)
    checkM (vlen == s.hart.vlen) .vimage (vimageV 0 2 vlen)
    let vl := bitsOf hd 223 192
    let mr := bitsOf hd 260 256
    match vtypeOf (BitVec.ofNat 14 (bitsOf hd 237 224)) with
    | none => trapM .vimage (vimageV 0 1 vlen)
    | some t =>
      checkM (vl != 0 && vl ≤ vlmaxOf s.hart.vlen t && mr != 0 && mr ≤ 16) .vimage (vimageV 0 1 vlen)
      writeArea va (leBytes 1 (count * 2))
      let cfg : VCfg := ⟨BitVec.ofNat 32 vl, t, BitVec.ofNat 5 mr⟩
      modHart (fun h => { h with
        vc := cfg, pcfg := cfgAfter (vlmaxOf h.vlen) q cfg, ves := BitVec.ofNat 32 (bitsOf hd 63 32),
        lix := ⟨bitsOf hd 127 127 == 1, BitVec.ofNat 5 (bitsOf hd 100 96), BitVec.ofNat 32 (bitsOf hd 95 64)⟩,
        xpos := ⟨bitsOf hd 191 191 == 1, bitsOf hd 190 190 == 1, BitVec.ofNat 32 (bitsOf hd 159 128)⟩,
        vq := q, stopped := none })

/-- DEDUCED (log 22): where CTXB is 0 no area was written and none is read. -/
def refillHere (l : Level) : M Unit := do
  let h ← getHart
  if h.cls == .v && h.ctxb != 0 then refill l

/-- 12:R333; pc is TRAPPC as it stands, its bits [1:0] among it (log 69). At level A fetch has taken PRIV already (04:R134). -/
def execTret (s : State) : Host.Outcome State Fault Refusal :=
  runInstr (do
    let l := s.hart.lv
    let b := if l == .m then s.hart.mb else s.hart.kb
    checkM (l != .a && b.plv.code ≤ l.code) .priv (headWord .tret)
    if !s.hart.vq.isEmpty then waitM
    refillHere l
    modHart (fun h => { h with lv := b.plv, ie := b.pie, pc := b.trappc.setWidth 64 })) s

end Sys2Proof.Machine
end

