-- ==== Sys2Proof/Machine/Task.lean ====
section
/-! DEFINITION. Launch, signals and the gang barrier, major 37 (14:R405, R406, R413-R415; 15:R447, R448; 17:R512, R513;
02:R44-R47). -/
namespace Sys2Proof.Machine
open Sys2Proof

/-! ## Queue descriptors (03:R65) -/

/-- A descriptor as 512 bits. -/
def State.desc (s : State) (q : Nat) : Nat := s.peek (descPa q) 64
def descBase (d : Nat) : Word := BitVec.ofNat 64 (bitsOf d 55 0)
def descSlots (d : Nat) : Nat := 2 ^ (bitsOf d 155 152 + 4)
def descEn (d : Nat) : Bool := d.testBit 156
def descLa (d : Nat) : Bool := d.testBit 157
def descPre (d : Nat) : Bool := d.testBit 158
def descStat (d : Nat) : Nat := bitsOf d 162 160
def descAsid (d : Nat) : BitVec 16 := BitVec.ofNat 16 (bitsOf d 191 176)
def descHead (d : Nat) : Nat := bitsOf d 223 192
def descTail (d : Nat) : Nat := bitsOf d 255 224
/-- Records appended and not yet considered, modulo 2^32. -/
def descUsed (d : Nat) : Nat := (descTail d + 2 ^ 32 - descHead d) % 2 ^ 32
/-- Address of a slot (03:R65). -/
def slotVa (d i : Nat) : Word := descBase d + BitVec.ofNat 64 (64 * (i % descSlots d))

/-- A record image with STATE, ERR and GANGID zero (14:R413). -/
def cleanImage (v : Nat) : Nat := setBits (setBits v 239 224 0) 479 448 0

/-- A device's write at virtual addresses, or none where it cannot be translated (14:R413, 03:R67). -/
def devPut (s : State) (asid : BitVec 16) (va : Word) (b : List Byte) : Option State :=
  match runM (writeMem (devCtx asid) va b) s with
  | (.ok _, s') => some s'
  | _ => none

/-- What LAUNCH does once it has its image (14:R413): status and slot, and the state. -/
def launchInto (s : State) (q image : Nat) : Nat × Nat × State :=
  let d := s.desc q
  if 1024 ≤ q || (s.hart.lv == .a && !descLa d) then (3, 0, s)
  else if !descEn d || 2 ≤ descStat d then (2, 0, s)
  else if descUsed d = descSlots d then (1, 0, s)
  else
    let slot := descTail d
    match devPut s (descAsid d) (slotVa d slot) (leBytes 64 (cleanImage image)) with
    | none => (2, 0, s)
    | some s' => (0, slot, s'.putN (descPa q + 28) (leBytes 4 ((slot + 1) % 2 ^ 32)))

/-- 14:R413. -/
def execLaunch (d a b : Reg) (s : State) : Host.Outcome State Fault Refusal :=
  runInstr (do
    let va := s.getX b
    checkM (va.toNat % 8 == 0) .misalign va
    let pas ← addresses s.ctx .read va 64 false
    let image := leNat (← scalarBytes pas)
    let r := launchInto (← get) (s.getX a).toNat image
    set r.2.2
    doneX d (BitVec.ofNat 64 (r.1 * 2 ^ 62 + r.2.1))) s

/-! ## Signals -/

/-- Whether a vector store or copy of the hart has still to perform (15:R447). -/
def Hart.storesPending (h : Hart) : Bool := h.queued isVStore || h.copies.any (fun c => c.err.isNone)

/-- Every vector store and copy of the acting hart has performed (02:R44, 10:R292). -/
def State.seeStores (s : State) : State :=
  (s.order s.hart.id (fun u => { u with toS := u.toS || u.origin == .vector })).seeCopies (fun i _ => i == s.hart.id)
/-- 15:R447: the add, once every earlier vector store and copy has performed. -/
def execSignal (a b : Reg) (_sc : Scope) (s : State) : Host.Outcome State Fault Refusal :=
  runInstr (do
    let va := s.getX a
    checkM (va.toNat % 4 == 0) .misalign va
    let pas ← addresses s.ctx .write va 4 false
    liftX (physCheck (← get) .read va pas false)
    if s.hart.storesPending then waitM
    let old := BitVec.ofNat 32 (leNat (memReadAt (← get).mem pas))
    modify (fun s => (s.putAt pas (leBytes 4 (old + lo32 (s.getX b)).toNat)).seeStores)
    done1) s

/-- 17:R512. -/
def execWaitsig (a b : Reg) (c : Cond) (s : State) : Host.Outcome State Fault Refusal :=
  runInstr (do
    let va := s.getX a
    checkM (va.toNat % 4 == 0) .misalign va
    let pas ← addresses s.ctx .read va 4 false
    let w := BitVec.ofNat 32 (leNat (← scalarBytes pas))
    if condHolds32 c w (lo32 (s.getX b)) then
      acquireM
      doneWait
    else waitAt (.waitsig a b c)) s

/-! ## The gang barrier (14:R405) -/

/-- 14:R405: the arrival, and the barrier's completion where it is the last. -/
def execGbar (s : State) : Host.Outcome State Fault Refusal :=
  .next (gbarCheck { s with hart := { s.hart.waitHere .gbar with gbarHere := true } } s.hart.id.gang)

end Sys2Proof.Machine
end

