-- ==== Sys2Proof/Machine/Queues.lean ====
section
/-! DEFINITION. Hardware queues and their heads (03:R64-R73; 02:R39-R41). -/
namespace Sys2Proof.Machine
open Sys2Proof

/-! ## Descriptors (03:R65, R67) -/

/-- The scheduler writes n bytes of a descriptor. -/
def descPut (s : State) (q off n v : Nat) : State := s.putN (descPa q + off) (leBytes n v)
def setStat (s : State) (q stat : Nat) : State := descPut s q 20 1 (setBits (s.peek (descPa q + 20) 1) 2 0 stat)
def setDef (s : State) (q v : Nat) : State := descPut s q 32 4 (v % 2 ^ 32)
/-- REJ + 1, and SIGNAL +1 on RPT. -/
def reportQueue (s : State) (q : Nat) : State :=
  let d := s.desc q
  signalVa (descPut s q 36 4 ((bitsOf d 319 288 + 1) % 2 ^ 32)) (descAsid d) (BitVec.ofNat 64 (bitsOf d 383 320)) 1
/-- A queue fault: 2 overflow, 3 any other. -/
def queueFault (s : State) (q stat : Nat) : State := reportQueue (setStat s q stat) q
def descMalformed (d : Nat) : Bool :=
  bitsOf d 511 384 != 0 || bitsOf d 167 163 != 0 || d.testBit 159 || bitsOf d 151 56 != 0 || bitsOf d 11 0 != 0
/-- An uncorrectable granule lies in the descriptor (12:R349). -/
def descBad (s : State) (q : Nat) : Bool := (run (descPa q) 64).any (fun pa => s.bad.contains (granuleOf pa))
def served (d : Nat) : Bool := descEn d && decide (descStat d < 2)
/-- STAT of a served queue: active while records wait. -/
def setActive (s : State) (q : Nat) : State :=
  let st := if descUsed (s.desc q) = 0 then 0 else 1
  if descStat (s.desc q) = st then s else setStat s q st
/-- The watcher looks at a queue; malformed comes before overflow (log 64). -/
def serve (s : State) (q : Nat) : State :=
  let d := s.desc q
  if !served d then s
  else if descMalformed d || descBad s q then queueFault s q 3
  else if descSlots d < descUsed d then queueFault s q 2
  else setActive s q

/-- QUEUE_DOORBELL (03:R66). -/
def execQueueDoorbell (q : Nat) (s : State) : Host.Outcome State Fault Refusal :=
  given (s.up && q < 1024) "QUEUE_DOORBELL" (serve s q)
/-- QUEUE_ENABLE_OBSERVED (03:R67). -/
def execQueueEnableObserved (q : Nat) (s : State) : Host.Outcome State Fault Refusal :=
  given (s.up && q < 1024) "QUEUE_ENABLE_OBSERVED" (serve s q)
/-- QUEUE_DISABLE_OBSERVED (03:R67). -/
def execQueueDisableObserved (q : Nat) (s : State) : Host.Outcome State Fault Refusal :=
  given (s.up && q < 1024) "QUEUE_DISABLE_OBSERVED" (if descEn (s.desc q) then s else setStat s q 0)

/-! ## Records (02:R39) -/

def recClass (r : Nat) : Nat := bitsOf r 129 128
def classOf (n : Nat) : Class := if n = 0 then .c else if n = 1 then .v else .t
def recPrio (r : Nat) : Nat := bitsOf r 132 130
def recTenant (r : Nat) : BitVec 8 := BitVec.ofNat 8 (bitsOf r 143 136)
def recHarts (r : Nat) : Nat := bitsOf r 163 144
def recLg (r : Nat) : Nat := bitsOf r 165 164
def recSer (r : Nat) : Bool := r.testBit 166
def recMresv (r : Nat) : Nat := bitsOf r 175 168
def recMlg (r : Nat) : Nat := bitsOf r 177 176
def recCrf (r : Nat) : Bool := r.testBit 178
def recMresc (r : Nat) : Nat := bitsOf r 190 184
def recEntry (r : Nat) : Word := BitVec.ofNat 64 (bitsOf r 55 0)
def recArg (r : Nat) : Word := BitVec.ofNat 64 (bitsOf r 119 64)
def recSig0 (r : Nat) : Word := BitVec.ofNat 64 (bitsOf r 311 256)
def recSig1 (r : Nat) : Word := BitVec.ofNat 64 (bitsOf r 375 320)
def recPlan (r : Nat) : Word := BitVec.ofNat 64 (bitsOf r 439 384)
def recReserved (r : Nat) : Bool :=
  bitsOf r 511 480 != 0 || bitsOf r 447 440 != 0 || bitsOf r 383 376 != 0 || bitsOf r 319 312 != 0 ||
  bitsOf r 255 240 != 0 || r.testBit 191 || bitsOf r 183 179 != 0 || r.testBit 167 || bitsOf r 135 133 != 0 ||
  bitsOf r 127 120 != 0 || bitsOf r 63 56 != 0

/-- What the scheduler's read in an address space finds. -/
def schedRead (s : State) (asid : BitVec 16) (va : Word) (n : Nat) : Option Nat :=
  match devRead' s asid va n with
  | .error _ => none
  | .ok b => some (leNat b)
/-- Check 3: the count of harts (DEDUCED, log 43: an LG of 3 names no count, and fails check 4 alone). -/
def hartsBad (r : Nat) : Bool :=
  let n := recHarts r
  n = 0 || (match recClass r with
    | 0 => decide (63 < n)
    | 1 => decide (2048 / (if recLg r = 3 then 1 else laneCount (recLg r)) < n)
    | _ => decide (655360 < n) || n % 1024 != 0)
/-- Checks 7 and 8: the plan header of a T record. -/
def planErr (s : State) (asid : BitVec 16) (r : Nat) : Nat :=
  if recClass r != 2 then 0
  else
    match schedRead s asid (recPlan r) 64 with
    | none => 9
    | some h => if bitsOf h 51 32 != recHarts r || bitsOf h 511 52 != 0 then 6 else 0
/-- T strings that have not tripped. -/
def liveStrings (s : State) : Nat := (List.range 640).countP (fun i => !(s.str i).tripped)
/-- 03:R73. -/
def impossible (s : State) (r : Nat) : Bool :=
  match recClass r with
  | 0 => decide (63 < recHarts r + recMresc r)
  | 1 => decide (2048 < recHarts r * laneCount (recLg r) + recMresv r)
  | _ => decide (liveStrings s < recHarts r / 1024)
/-- ERR of a record, 0 where every check passes (02:R40, 03:R73). -/
def recordErr (s : State) (asid : BitVec 16) (r : Nat) : Nat :=
  let c := recClass r
  let plan := (recPlan r).toNat
  if recReserved r then 1
  else if c = 3 then 2
  else if hartsBad r then 3
  else if recLg r = 3 || (c != 1 && recLg r != 0) || (c != 0 && recCrf r) then 4
  else if (recEntry r).toNat % 4 != 0 then 5
  else if (if c = 2 then plan = 0 || plan % 64 != 0 else plan != 0) then 6
  else if planErr s asid r != 0 then planErr s asid r
  else if 63 < recMresc r || recMlg r = 3 || (c = 2 && (recMresc r != 0 || recMresv r != 0)) then 7
  else if impossible s r then 8
  else 0

/-! ## Heads (03:R68, R69, R72) -/

def Sched.head (x : Sched) (q : Nat) : Option Head := x.heads.find? (fun h => h.queue == q)
def Sched.dropHead (x : Sched) (q : Nat) : Sched := { x with heads := x.heads.filter (fun h => h.queue != q) }
def Sched.putHead (x : Sched) (h : Head) : Sched := { x with heads := h :: x.heads.filter (fun g => g.queue != h.queue) }
/-- The scheduler writes bytes of a slot; where it cannot be translated nothing is written. -/
def slotPut (s : State) (q index off : Nat) (b : List Byte) : State :=
  let d := s.desc q
  (devPut s (descAsid d) (slotVa d index + BitVec.ofNat 64 off) b).getD s
/-- HEAD + 1; a queue that has no head left has DEF := 0 (03:R71). -/
def advanceHead (s : State) (q : Nat) : State :=
  let d := s.desc q
  let s1 := descPut { s with sched := s.sched.dropHead q } q 24 4 ((descHead d + 1) % 2 ^ 32)
  setActive (if descUsed (s1.desc q) = 0 then setDef s1 q 0 else s1) q
/-- A rejection: STATE 4 and ERR, the next record, and the report. -/
def rejectHead (s : State) (q err : Nat) : State :=
  reportQueue (advanceHead (slotPut s q (descHead (s.desc q)) 28 (leBytes 2 (4 + 256 * err))) q) q
/-- DEPCNT is zero or less, and with SER every earlier record of the queue has retired (02:R41); none where DEPCNT cannot
be read. A record rejected earlier does not hold back one with SER (log 62). -/
def headReady (s : State) (h : Head) : Option Bool :=
  let d := s.desc h.queue
  (schedRead s (descAsid d) (slotVa d h.index + 24) 4).map (fun v =>
    (v = 0 || 2 ^ 31 ≤ v) &&
    !(recSer h.record.toNat && s.gangs.any (fun g => g.id != 0 && g.queue == h.queue)))
/-- A queue whose head can be checked. -/
def canCheck (s : State) (q : Nat) : Bool :=
  let d := s.desc q
  decide (q < 1024) && served d && descUsed d != 0 && (s.sched.head q).isNone
/-- RECORD_CHECK (02:R40). A head not ready at once has DEF := 0 (03:R71). -/
def checkHead (s : State) (q : Nat) : State :=
  let d := s.desc q
  if descMalformed d || descBad s q then queueFault s q 3
  else if descSlots d < descUsed d then queueFault s q 2
  else
    match schedRead s (descAsid d) (slotVa d (descHead d)) 64 with
    | none => queueFault s q 3
    | some r =>
      let seen := s.glance (descAsid d) (slotVa d (descHead d)) 64
      let e := recordErr s (descAsid d) r
      let s := if recClass r = 2 && (e = 0 || 6 < e) then seen.glance (descAsid d) (recPlan r) 64 else seen
      match e with
      | 0 =>
        let h : Head := ⟨q, descHead d, BitVec.ofNat 512 r, false, 0, 0, false⟩
        let s' := { s with sched := s.sched.putHead h }
        if headReady s h = some true then s' else setDef s' q 0
      | e => rejectHead s q e
def execRecordCheck (q : Nat) (s : State) : Host.Outcome State Fault Refusal :=
  given (s.up && canCheck s q) "RECORD_CHECK" (checkHead s q)

/-- RECORD_READY (02:R41): STATE := 1. -/
def execRecordReady (q : Nat) (s : State) : Host.Outcome State Fault Refusal :=
  match s.sched.head q with
  | none => .refused (.notEnabled "RECORD_READY")
  | some h =>
    if !s.up || h.ready || !served (s.desc q) then .refused (.notEnabled "RECORD_READY")
    else
      match headReady s h with
      | none => .next (queueFault s q 3)
      | some true =>
        let d := s.desc q
        let s1 := slotPut (s.glance (descAsid d) (slotVa d h.index + 24) 4) q h.index 28 (leBytes 1 1)
        .next { s1 with sched := s1.sched.putHead { h with ready := true, readyNs := s.time.toNat } }
      | some false => .refused (.notEnabled "RECORD_READY")

/-- Effective priority (03:R69). -/
def Head.eff (h : Head) : Nat := min 7 (recPrio h.record.toNat + h.prom)
def Gang.eff (g : Gang) : Nat := min 7 (g.prio + g.prom)
/-- An event of a ready head that has waited, at a time. -/
def headEvent (name : String) (q : Nat) (p : Head → Bool) (at' : Head → Nat) (f : Head → Head) (s : State) :
    Host.Outcome State Fault Refusal :=
  match s.sched.head q with
  | none => .refused (.notEnabled name)
  | some h =>
    if s.up && h.ready && p h then
      let s1 := s.until (at' h)
      .next { s1 with sched := s1.sched.putHead (f h) }
    else .refused (.notEnabled name)
/-- PRIORITY_PROMOTION: one for each full 64 microseconds without dispatch. -/
def execPriorityPromotion (q : Nat) (s : State) : Host.Outcome State Fault Refusal :=
  headEvent "PRIORITY_PROMOTION" q (fun h => decide (h.eff < 7)) (fun h => h.readyNs + 64000 * (h.prom + 1))
    (fun h => { h with prom := h.prom + 1 }) s
/-- HEAD_PIN: unplaced for 8 microseconds. -/
def execHeadPin (q : Nat) (s : State) : Host.Outcome State Fault Refusal :=
  headEvent "HEAD_PIN" q (fun h => !h.pinned) (fun h => h.readyNs + 8000) (fun h => { h with pinned := true }) s

end Sys2Proof.Machine
end

