-- ==== Sys2Proof/Machine/Gangs.lean ====
section
/-! DEFINITION. Placement and dispatch, pre-emption, saving and resumption, retirement of gangs (02:R42-R49; 03:R70-R80;
12:R339-R342). -/
namespace Sys2Proof.Machine
open Sys2Proof

/-! ## Free resources -/

def GangRun.isSaved : GangRun → Bool
  | .saved _ => true
  | _ => false
/-- Gangs that hold cores, lane groups and files. -/
def State.holders (s : State) : List Gang := s.gangs.filter (fun g => !g.run.isSaved)
/-- As if gangs had been saved. -/
def State.without (s : State) (ids : List (BitVec 32)) : State :=
  { s with gangs := s.gangs.map (fun g => if ids.contains g.id then { g with run := .saved false } else g) }
def freeStrings (s : State) : List Nat :=
  let used := (s.holders.filter (fun g => g.cls == .t)).flatMap (·.strings)
  (List.range 640).filter (fun i => !used.contains i && !(s.str i).tripped)
/-- Clusters no gang holds, with neither string tripped. -/
def freeClusters (s : State) : List Nat :=
  let used := s.holders.flatMap (·.clusters)
  (List.range 64).filter (fun c => !used.contains c && !(s.str (640 + 2 * c)).tripped && !(s.str (641 + 2 * c)).tripped)
def freeSlots (s : State) : List (Nat × Nat) :=
  let used := s.holders.flatMap (·.cslots)
  ((List.range 32).flatMap (fun c => [(c, 0), (c, 1)])).filter (fun p => !used.contains p)
/-- C-chiplets whose file a gang holds (02:R38). -/
def heldFiles (s : State) : List Nat := (s.holders.filter (·.crf)).flatMap (fun g => (g.cslots.take 1).map (fun p => p.1 / 16))

/-! ## The choice of strings, clusters and slots (03:R74-R76) -/

/-- Every choice of n items of a list. -/
def choose : Nat → List Nat → List (List Nat)
  | 0, _ => [[]]
  | _ + 1, [] => []
  | n + 1, a :: t => (choose n t).map (a :: ·) ++ choose (n + 1) t
/-- Lists of numbers in lexicographic order. -/
def lexLt : List Nat → List Nat → Bool
  | [], [] => false
  | [], _ => true
  | _, [] => false
  | a :: l, b :: m => a < b || (a == b && lexLt l m)
/-- n of the free numbers that lie on a set of chiplets: cold before hot, low before high; with how many are hot. -/
def takeFrom (chip : Nat → Nat) (hot : Nat → Bool) (free : List Nat) (n : Nat) (chips : List Nat) : Option (List Nat) :=
  let here := free.filter (fun i => chips.contains (chip i))
  if here.length < n then none
  else
    let l := ((here.filter (fun i => !hot i)) ++ here.filter hot).take n
    some (l.countP hot :: here.filter l.contains)
/-- The least of the choices. -/
def best : List (Option (List Nat)) → Option (List Nat)
  | [] => none
  | none :: t => best t
  | some a :: t =>
    match best t with
    | none => some a
    | some b => if lexLt b a then some b else some a
/-- n numbers on the fewest chiplets. -/
def spread (chip : Nat → Nat) (chips : Nat) (hot : Nat → Bool) (free : List Nat) (n : Nat) : Option (List Nat) :=
  if n = 0 then some []
  else
    ((List.range chips).findSome? (fun k => best ((choose (k + 1) (List.range chips)).map (takeFrom chip hot free n)))).map
      List.tail

/-- What a gang is given: strings, clusters, the place of each hart (core and first group), reserve groups, slots. -/
structure Placing where
  strings : List Nat
  clusters : List Nat
  spots : List (Nat × Nat)
  reserve : List (Nat × Nat)
  cslots : List (Nat × Nat)
  deriving DecidableEq, Repr

/-- Places for harts of n lane groups in a cluster: one hart a core in the order of 03:R75, then the next. -/
def clusterSpots (lanes c : Nat) : List (Nat × Nat) :=
  (List.range (4 / lanes)).flatMap (fun j => [0, 4, 1, 5, 2, 6, 3, 7].map (fun k => (8 * c + k, j * lanes)))
/-- Lane groups of clusters, without those that harts take. -/
def restGroups (lanes : Nat) (clusters : List Nat) (spots : List (Nat × Nat)) : List (Nat × Nat) :=
  let taken := spots.flatMap (fun p => (List.range lanes).map (fun i => (p.1, p.2 + i)))
  (clusters.flatMap (fun c => (List.range 8).flatMap (fun k => (List.range 4).map (fun i => (8 * c + k, i))))).filter
    (fun p => !taken.contains p)
/-- n reserve groups, first those in blocks an arrival can take whole. -/
def reserveOf (mlg n : Nat) (rest : List (Nat × Nat)) : List (Nat × Nat) :=
  let w := laneCount mlg
  let whole (p : Nat × Nat) : Bool := (List.range w).all (fun i => rest.contains (p.1, p.2 / w * w + i))
  (rest.filter whole ++ rest.filter (fun p => !whole p)).take n
/-- C slots: on one C-chiplet with CRF (03:R76). -/
def slotsFor (s : State) (crf : Bool) (n : Nat) : Option (List (Nat × Nat)) :=
  let free := freeSlots s
  if crf then
    [0, 1].findSome? (fun q =>
      let here := free.filter (fun p => p.1 / 16 == q)
      if !(heldFiles s).contains q && n ≤ here.length then some (here.take n) else none)
  else if n ≤ free.length then some (free.take n) else none
/-- A string whose thermal cap is below its nominal tokens (03:R74). -/
def hotString (s : State) (i : Nat) : Bool := decide (s.bellows.capped i 10 < 10)

/-- Lane groups a record's harts take. -/
def recLanes (r : Nat) : Nat := laneCount (recLg r)
/-- Whole clusters a record takes, reserves included. -/
def recClusters (r : Nat) : Nat := ceilDiv ((if recClass r = 1 then recHarts r * recLanes r else 0) + recMresv r) 32
/-- Resources for a record, where they are free. -/
def fit (s : State) (r : Nat) : Option Placing :=
  if recClass r = 2 then
    (spread (· / 40) 16 (hotString s) (freeStrings s) (recHarts r / 1024)).map (fun l => ⟨l, [], [], [], []⟩)
  else
    match spread (· / 8) 8 (fun _ => false) (freeClusters s) (recClusters r),
        slotsFor s (recCrf r) ((if recClass r = 0 then recHarts r else 0) + recMresc r) with
    | some cl, some cs =>
      let spots := if recClass r = 1 then (cl.flatMap (clusterSpots (recLanes r))).take (recHarts r) else []
      some ⟨cl.flatMap (fun c => [640 + 2 * c, 641 + 2 * c]), cl, spots,
        reserveOf (recMlg r) (recMresv r) (restGroups (recLanes r) cl spots), cs⟩
    | _, _ => none

/-! ## Budget (03:R77, R99) -/

def nominalTokens (i : Nat) : Nat := if i < 640 then 10 else 13
/-- The estimate of a T or V gang on strings. -/
def estimate (s : State) (strings : List Nat) : Int :=
  (strings.map (fun i => (nominalTokens i : Int) - ((s.str i).demand : Int))).sum
def funded (s : State) (cls : Class) (strings : List Nat) : Bool :=
  cls == .c ||
  (!(s.sched.freePool = 0 && s.strings.any (fun x => x.spow = 48)) && decide (estimate s strings ≤ (s.sched.freePool : Int)))
/-- The estimate is taken from the free pool. -/
def spend (s : State) (cls : Class) (strings : List Nat) : State :=
  if cls == .c then s
  else { s with sched := { s.sched with freePool := ((s.sched.freePool : Int) - estimate s strings).toNat } }
/-- Place(head). -/
def place (s : State) (r : Nat) : Option Placing :=
  match fit s r with
  | some p => if funded s (classOf (recClass r)) p.strings then some p else none
  | none => none

/-! ## Which head is next (03:R70-R72) -/

def cost (r : Nat) : Nat :=
  match recClass r with
  | 0 => recHarts r + recMresc r
  | 1 => 8 * recClusters r
  | _ => 4 * (recHarts r / 1024)
/-- Pinned heads come before others of their level, the earliest to become ready first. -/
def pinnedBefore (p h : Head) : Bool :=
  !h.pinned || p.readyNs < h.readyNs || (p.readyNs == h.readyNs && p.queue < h.queue)
/-- A pinned head holds back heads of its class at its level and below. -/
def pinBlocks (s : State) (h : Head) : Bool :=
  s.sched.heads.any (fun p => p.queue != h.queue && p.pinned && p.ready && served (s.desc p.queue) &&
    recClass p.record.toNat == recClass h.record.toNat &&
    (h.eff < p.eff || (h.eff == p.eff && pinnedBefore p h)))
/-- Records at and after a captured TAIL wait (12:R358). -/
def orderedBehind (s : State) (h : Head) : Bool :=
  s.sched.held.any (fun p => p.1 == h.queue && decide ((h.index + 2 ^ 32 - p.2) % 2 ^ 32 < 2 ^ 31))
/-- A head that may be dispatched at a level: its conditions still hold (02:R41). -/
def eligible (s : State) (level : Nat) (h : Head) : Bool :=
  h.ready && headReady s h == some true && h.eff == level && served (s.desc h.queue) && !orderedBehind s h
/-- Insertion by an order. -/
def insertBy {α : Type} (lt : α → α → Bool) (a : α) : List α → List α
  | [] => [a]
  | b :: t => if lt a b then a :: b :: t else b :: insertBy lt a t
def sortBy {α : Type} (lt : α → α → Bool) (l : List α) : List α := l.foldr (insertBy lt) []
/-- No pinned head holds it back, and Place finds resources (03:R71, R72). -/
def placeable (s : State) (h : Head) : Bool := !pinBlocks s h && (place s h.record.toNat).isSome
/-- Heads of a level in the order of their visits. -/
def visits (s : State) (level : Nat) : List Head :=
  let last := s.sched.last.toList.getD level 1023
  let turn (h : Head) : Nat := (h.queue + 1024 - (last + 1)) % 1024
  let l := s.sched.heads.filter (eligible s level)
  sortBy (fun a b => a.readyNs < b.readyNs) (l.filter (·.pinned)) ++ sortBy (fun a b => turn a < turn b) (l.filter (fun h => !h.pinned))
/-- DEF as a signed number. -/
def defOf (s : State) (q : Nat) : Int := (BitVec.ofNat 32 (bitsOf (s.desc q) 287 256)).toInt
def defBits (v : Int) : Nat := (BitVec.ofInt 32 v).toNat
/-- Visits in turn, until one places its head. -/
def visitAll : List Head → State → Option Head × State
  | [], s => (none, s)
  | h :: t, s =>
    let q := h.queue
    let d := min (defOf s q + 8 * (max (bitsOf (s.desc q) 175 168) 1 : Nat)) (2 ^ 20)
    let s1 := setDef s q (defBits d)
    if (cost h.record.toNat : Int) ≤ d && placeable s1 h then (some h, s1) else visitAll t s1
def visitRounds : Nat → List Head → State → Option Head × State
  | 0, _, s => (none, s)
  | n + 1, l, s =>
    match visitAll l s with
    | (some h, s') => (some h, s')
    | (none, s') => visitRounds n l s'
/-- Rounds after which the largest cost is covered. -/
def roundLimit : Nat := 330
/-- The head a level dispatches next: the visit that goes on, or the next visit that places its head. -/
def nextAt (s : State) (level : Nat) : Option (Head × State) :=
  let l := visits s level
  if !l.any (placeable s) then none
  else
    match l.find? (fun h => s.sched.visit == some (h.queue, level) && decide ((cost h.record.toNat : Int) ≤ defOf s h.queue) &&
        placeable s h) with
    | some h => some (h, s)
    | none =>
      match visitRounds roundLimit l s with
      | (some h, s') => some (h, s')
      | (none, _) => none
/-- The next head to dispatch, levels from 7 down. -/
def schedNext (s : State) : Option (Head × State) := [7, 6, 5, 4, 3, 2, 1, 0].findSome? (nextAt s)

/-! ## Dispatch (02:R42, R43, R49) -/

/-- An identity no live gang has. -/
def freshGang (used : List (BitVec 32)) : Nat → BitVec 32 → BitVec 32
  | 0, n => n
  | k + 1, n => if n = 0 || used.contains n then freshGang used k (n + 1) else n
/-- Core, slot and lane groups of hart ix. -/
def hartPlace (cls : Class) (lanes : Nat) (p : Placing) (ix : Nat) : Nat × Nat × Nat :=
  match cls with
  | .c => let c := p.cslots.getD ix (0, 0); (c.1, c.2, 0)
  | .v => let c := p.spots.getD ix (0, 0); (c.1, c.2 / lanes, lanes)
  | .t => (1024 * p.strings.getD (ix / 1024) 0 + ix % 1024, 0, 0)
/-- A hart as it is created. -/
def newHart (id : BitVec 32) (r : Nat) (p : Placing) (ix : Nat) : Hart :=
  let cls := classOf (recClass r)
  let c := hartPlace cls (recLanes r) p ix
  let h := { Hart.reset with id := ⟨id, ix⟩, cls := cls, core := c.1, slot := c.2.1, lg := c.2.2, pc := recEntry r }
  ((h.setX 1 (recArg r)).setX 2 (BitVec.ofNat 64 ix)).setX 3 (BitVec.ofNat 64 (recHarts r))
/-- Shares bound at creation (09:R255). -/
def newShares (r : Nat) (p : Placing) : List (Nat × Share) :=
  match classOf (recClass r) with
  | .c => []
  | .v => (List.range (recHarts r)).map (fun ix => (ix, let c := p.spots.getD ix (0, 0); ⟨c.1, c.2, 262144 * recLanes r⟩))
  | .t => (List.range (recHarts r)).map (fun ix => (ix, ⟨1024 * p.strings.getD (ix / 1024) 0 + ix % 1024, 0, 16384⟩))
def newGang (s : State) (h : Head) (id : BitVec 32) (p : Placing) : Gang :=
  let r := h.record.toNat
  { Gang.firmware with
    id := id, cls := classOf (recClass r), asid := descAsid (s.desc h.queue), tenant := recTenant r, harts := recHarts r,
    queue := h.queue, index := h.index, prio := recPrio r, prom := h.prom, seq := s.sched.nextSeq, mresv := recMresv r,
    mlg := recMlg r, mresc := recMresc r, crf := recCrf r, plan := recPlan r, sig0 := recSig0 r, sig1 := recSig1 r,
    clusters := p.clusters, strings := p.strings, cslots := p.cslots, reserve := p.reserve, shares := newShares r p }
/-- Files of a gang: zero (02:R37, R38). -/
def newFiles (id : BitVec 32) (crf : Bool) (p : Placing) : List (Nat × ClusterFile) :=
  p.clusters.map (fun c => (c, .fresh id)) ++
  (if crf then (p.cslots.take 1).map (fun c => (64 + c.1 / 16, .fresh id)) else [])
def giveFiles (s : State) (l : List (Nat × ClusterFile)) : State :=
  { s with files := l ++ s.files.filter (fun f => !l.any (fun g => g.1 == f.1)) }
/-- The head's gang comes to be, after an IFENCE of package scope (02:R43); DEF, STATE 2 and GANGID, HEAD (03:R68, R71). -/
def dispatch (s : State) (h : Head) (p : Placing) : State :=
  let r := h.record.toNat
  let id := freshGang (s.gangs.map (·.id)) (s.gangs.length + 2) s.sched.nextGang
  let g := newGang s h id p
  let s1 := spend s g.cls p.strings
  let s2 := giveFiles { s1 with gangs := s1.gangs ++ [g], others := s1.others ++ (List.range g.harts).map (fun ix => (newHart id r p ix).joinWindow s) } (newFiles id g.crf p)
  let s3 := setDef s2 h.queue (defBits (defOf s2 h.queue - cost r))
  let s4 := slotPut (slotPut s3 h.queue h.index 28 (leBytes 1 2)) h.queue h.index 56 (leBytes 4 id.toNat)
  let last := if q : h.eff < 8 then s4.sched.last.set h.eff h.queue q else s4.sched.last
  advanceHead { s4.syncBuckets with icache := [], sched := { s4.sched with nextGang := id + 1, nextSeq := g.seq + 1, last := last, visit := some (h.queue, h.eff) } } h.queue
/-- A queue whose head is not ready any more has DEF := 0 (03:R71). -/
def idleDefs (s : State) : State :=
  (s.sched.heads.filter (fun h => h.ready && headReady s h == some false && defOf s h.queue != 0)).foldl (fun s h => setDef s h.queue 0) s
/-- GANG_DISPATCH: of the head that is next. A plan header that cannot be read any more rejects the record (02:R57). -/
def execGangDispatch (q : Nat) (s : State) : Host.Outcome State Fault Refusal :=
  match schedNext (idleDefs s) with
  | some (h, s') =>
    if h.queue = q && s.up then
      match place s' h.record.toNat with
      | some p =>
        let e := planErr s' (descAsid (s'.desc q)) h.record.toNat
        .next (if e != 0 then rejectHead s' q e else dispatch s' h p)
      | none => .refused (.notEnabled "GANG_DISPATCH")
    else .refused (.notEnabled "GANG_DISPATCH")
  | none => .refused (.notEnabled "GANG_DISPATCH")

/-! ## Pre-emption and descheduling (03:R79, R80; 12:R340) -/

def GangRun.isResident : GangRun → Bool
  | .resident => true
  | _ => false
def State.hasHalted (s : State) (g : Gang) : Bool := (s.gangHarts g.id).any (·.halted)
/-- A gang that may be pre-empted for a head. -/
def victimOk (s : State) (h : Head) (g : Gang) : Bool :=
  g.id != 0 && g.run.isResident && g.cls == classOf (recClass h.record.toNat) && g.eff < h.eff && descPre (s.desc g.queue) &&
  !s.hasHalted g
/-- Victims in order, until the head can be placed. -/
def pickVictims (s : State) (r : Nat) : List Gang → List (BitVec 32) → Option (List (BitVec 32))
  | [], ids => if (place (s.without ids) r).isSome then some ids else none
  | g :: t, ids => if (place (s.without ids) r).isSome then some ids else pickVictims s r t (ids ++ [g.id])
/-- Pinned heads in the order they are tried. -/
def pinnedHeads (s : State) : List Head :=
  sortBy (fun a b => b.eff < a.eff || (a.eff == b.eff && (a.readyNs < b.readyNs || (a.readyNs == b.readyNs && a.queue < b.queue))))
    (s.sched.heads.filter (fun h => h.pinned && h.ready && served (s.desc h.queue)))
/-- The gangs to pre-empt for a pinned head: those on their way out count as gone. -/
def victimsFor (s : State) (h : Head) : Option (List (BitVec 32)) :=
  let leaving := (s.gangs.filter (fun g => !g.run.isResident)).map (·.id)
  let cands := sortBy (fun a b => a.eff < b.eff || (a.eff == b.eff && b.seq < a.seq)) (s.gangs.filter (victimOk s h))
  (pickVictims (s.without leaving) h.record.toNat cands []).filter (!·.isEmpty)
/-- The gangs to pre-empt now: for the first pinned head, in the order of 03:R72, that pre-emption helps. -/
def victims (s : State) : List (BitVec 32) := ((pinnedHeads s).findSome? (victimsFor s)).getD []
/-- PREEMPT on every hart of a gang. -/
def raisePreempt (s : State) (id : BitVec 32) (desched : Bool) : State :=
  (s.modGang id (fun g => { g with run := .preempting desched })).modHarts (fun h => h.id.gang == id && !h.ended)
    (fun h => { h with preempt := some desched })
/-- PREEMPT_DECISION. -/
def execPreemptDecision (s : State) : Host.Outcome State Fault Refusal :=
  let v := victims s
  given (s.up && !v.isEmpty) "PREEMPT_DECISION" (v.foldl (fun s id => raisePreempt s id false) s)

/-- The word a hart waits on in WAITSIG. -/
def waitWord (s : State) (g : Gang) (h : Hart) : Option Nat :=
  match h.waitOn with
  | some (.waitsig a _ _) =>
    (match xlatN s (devCtx g.asid) .read (h.getX a) 4 with
      | .ok (pa :: _) => some pa
      | _ => none)
  | _ => none
/-- A hart waits in WAITSIG for a condition that its word does not meet now: one that is met releases it (02:R47). -/
def waitsSignal (s : State) (g : Gang) (h : Hart) : Bool :=
  match h.waitOn, waitWord s g h with
  | some (.waitsig _ b c), some pa => !condHolds32 c (BitVec.ofNat 32 (s.peek pa 4)) (lo32 (h.getX b))
  | _, _ => false
/-- A hart waits in WAITSIG for a condition that its word meets now. -/
def released (s : State) (g : Gang) (h : Hart) : Bool := (waitWord s g h).isSome && !waitsSignal s g h
def waitsGbar (h : Hart) : Bool := h.waitOn == some .gbar
/-- Whether a gang may be descheduled (03:R80). -/
def canDeschedule (s : State) (g : Gang) : Bool :=
  let hs := (s.gangHarts g.id).filter (fun h => !h.ended)
  g.id != 0 && g.run.isResident && !s.hasHalted g && !hs.isEmpty && !hs.any (released s g) &&
  (hs.all (fun h => waitsSignal s g h || waitsGbar h) ||
   (hs.any (waitsSignal s g) && (pinnedHeads s).any (fun h => (place (s.without [g.id]) h.record.toNat).isSome)))
/-- The words its harts wait on, with their values. -/
def watchOf (s : State) (g : Gang) : List (Nat × BitVec 32) :=
  (s.gangHarts g.id).filterMap (fun h => (waitWord s g h).map (fun pa => (pa, BitVec.ofNat 32 (s.peek pa 4))))
/-- GANG_DESCHEDULE, 50 microseconds after the waits began. -/
def execGangDeschedule (id : BitVec 32) (s : State) : Host.Outcome State Fault Refusal :=
  match s.gang id with
  | none => .refused (.notEnabled "GANG_DESCHEDULE")
  | some g =>
    given (s.up && canDeschedule s g) "GANG_DESCHEDULE"
      (let s1 := (s.until (s.time.toNat + 50000)).modGang id (fun g => { g with watch := watchOf s g })
       raisePreempt s1 id true)
/-- A watched word has changed, or the barrier is complete. -/
def wakes (s : State) (g : Gang) : Bool :=
  g.watch.any (fun w => BitVec.ofNat 32 (s.peek w.1 4) != w.2) ||
  ((s.gangHarts g.id).any (·.gbarHere) && (s.gangHarts g.id).all (fun h => h.ended || h.gbarHere))
/-- GANG_RESTORE: the gang is ready again. -/
def execGangRestore (id : BitVec 32) (s : State) : Host.Outcome State Fault Refusal :=
  match s.gang id with
  | none => .refused (.notEnabled "GANG_RESTORE")
  | some g =>
    given (s.up && g.run == .saved true && wakes s g) "GANG_RESTORE"
      (s.modGang id (fun g => { g with run := .saved false, watch := [] }))

/-! ## Saving (12:R339, R341) -/

/-- The image size of a hart's context block. -/
def blockImage (g : Gang) (h : Hart) : Nat :=
  imageSize (match h.cls with
    | .v => h.lg
    | .c => laneCount g.mlg
    | .t => 0)
/-- Where a part of the block lies. -/
def blockVa (g : Gang) (h : Hart) (off : Nat) : Word := BitVec.ofNat 64 (h.ctxBase + blockImage g h + off)
/-- Physical base of a share. -/
def sharePa (cls : Class) (sh : Share) : Nat :=
  if cls == .t then 0x8100000000 + sh.core * 16384 else 0x8000000000 + sh.core * 1048576 + sh.group * 262144
def regBytes (v : Vector Word 32) : List Byte := (v.toList.map (fun w => leBytes 8 w.toNat)).flatten
/-- Common state: x, f, PC, what only the device reads, and the check value. -/
def commonBytes (s : State) (h : Hart) : List Byte :=
  let body := leBytes 8 0 ++ (regBytes h.x).drop 8 ++ regBytes h.f ++ leBytes 8 h.pc.toNat ++
    (List.range 496).map (fun i => Config.savedByte s.tick (1024 * h.id.ix + i))
  body ++ leBytes 8 (Config.checkValue body).toNat
def fileBytes (f : ClusterFile) : List Byte :=
  (f.cr.toList.map (fun w => leBytes 8 w.toNat)).flatten ++ leBytes 32 f.sem.toNat ++ leBytes 32 0
/-- The hart in whose block a cluster's file goes. -/
def fileOwner (hs : List Hart) (g : Gang) (c : Nat) : Option Nat :=
  match ((hs.filter (fun h => h.cls == .v && h.core / 8 == c)).map (·.id.ix)).min? with
  | some i => some i
  | none => ((g.shares.filter (fun p => p.2.core / 8 == c)).map (·.1)).min?
/-- Files that go into a hart's block. -/
def filesOf (s : State) (g : Gang) (ix : Nat) : List Nat :=
  let hs := s.gangHarts g.id
  g.clusters.filter (fun c => fileOwner hs g c == some ix) ++
  (if g.crf && ix == 0 then (g.cslots.take 1).map (fun c => 64 + c.1 / 16) else [])
/-- Every part of a hart's block: offset above the image, and bytes. A block that holds two files has the CRF one last (log 63). -/
def saveParts (s : State) (g : Gang) (h : Hart) : List (Nat × List Byte) :=
  let share := g.shares.lookup h.id.ix
  let size := if g.cls == .c && share.isNone then 0 else (share.map (·.size)).getD 0
  [(3328, commonBytes s h)] ++
  (filesOf s g h.id.ix).map (fun n => (4352, fileBytes ((s.files.lookup n).getD (.fresh g.id)))) ++
  (match share with | some sh => [(4928, memReadN s.mem (sharePa g.cls sh) sh.size)] | none => []) ++
  (if h.cls == .t then [(4928 + size, (h.w.toList.map (fun w => leBytes 1024 w.toNat)).flatten ++ (h.ta.toList.map (fun w => leBytes 1024 w.toNat)).flatten)] else [])
/-- An uncorrectable error among what the save reads of a hart (12:R349): its registers, at no address, and its share's bytes. -/
def saveError (s : State) (g : Gang) (h : Hart) : Option Word :=
  if !h.badRegs.isEmpty then some 0
  else if s.bad.isEmpty then none
  else (g.shares.lookup h.id.ix).bind (fun sh =>
    (firstBad s.bad (run (sharePa g.cls sh) sh.size) 0).map (fun i => BitVec.ofNat 64 (sharePa g.cls sh + i)))
/-- Harts in turn; a fault names its hart and address. -/
def saveHarts (g : Gang) : List Hart → State → Except (HartId × Word) State
  | [], s => .ok s
  | h :: t, s =>
    match saveError s g h with
    | some a => .error (h.id, a)
    | none =>
    match runM (writeParts (devCtx g.asid) (blockVa g h 0) (saveParts s g h)) s with
    | (.ok _, s') => saveHarts g t s'
    | (.error (.trap _ a), _) => .error (h.id, a)
    | (.error _, _) => .error (h.id, 0)
/-- Every hart has yielded or ended, and every copy has ended. -/
def canSave (s : State) (g : Gang) : Bool :=
  let hs := s.gangHarts g.id
  (match g.run with | .preempting _ => true | _ => false) && hs.all (fun h => h.ended || h.yielded) && hs.any (fun h => !h.ended) &&
  hs.all (fun h => !h.dead && h.flying.isNone && h.copies.all (fun c => c.err.isSome))
/-- The save goes to memory, and the gang's cores, lane groups and files are free; its slot's STATE stays 2 (log 65). -/
def savedGang (s : State) (g : Gang) (desched : Bool) : State :=
  let s1 := s.modGang g.id (fun g => { g with run := .saved desched })
  { s1.modHarts (fun h => h.id.gang == g.id) (fun h => { h with resident := false, blind := 0, blindSteps := none }) with
    files := s1.files.filter (fun f => f.2.gang != g.id) }.syncBuckets
/-- A fault in the save: MCHECK event 3 at M, TRAPPC the hart's IDLE, which yields again after it. -/
def saveFault (s : State) (id : HartId) (a : Word) (desched : Bool) : State :=
  s.asHart id (fun s =>
    let h := { s.hart with yielded := false, preempt := if s.hart.ended then none else some desched, ended := false }
    enterTrapAt { s with hart := h } .m .mcheck (mcheckV 3 a.toNat) (h.pc - 4))
/-- GANG_SAVE (12:R341). -/
def execGangSave (id : BitVec 32) (s : State) : Host.Outcome State Fault Refusal :=
  match s.gang id with
  | none => .refused (.notEnabled "GANG_SAVE")
  | some g =>
    let d := g.run == .preempting true
    given (s.up && canSave s g) "GANG_SAVE"
      (let s := s.modHarts (fun h => h.id.gang == id) (Hart.leaveWindow s)
       match saveHarts g (s.sorted.filter (fun h => h.id.gang == id)) s with
        | .ok s' => savedGang s' g d
        | .error (hid, a) => saveFault s hid a d)

/-! ## Resumption (12:R342) -/

/-- New numbers for old ones. -/
def renum (m : List (Nat × Nat)) (n : Nat) : Nat := (m.lookup n).getD n
def renumSlot (m : List ((Nat × Nat) × (Nat × Nat))) (p : Nat × Nat) : Nat × Nat := (m.lookup p).getD p
/-- Free resources of the same shape: clusters, strings, and slots, each onto one. -/
structure Remap where
  clusters : List (Nat × Nat)
  strings : List (Nat × Nat)
  slots : List ((Nat × Nat) × (Nat × Nat))
  deriving DecidableEq, Repr
/-- Slots of a C-chiplet held with CRF keep their core index on the chiplet they map to; others map in order. -/
def remapSlots (s : State) (g : Gang) : Option (List ((Nat × Nat) × (Nat × Nat))) :=
  let free := freeSlots s
  if g.crf then
    [0, 1].findSome? (fun q =>
      let l := g.cslots.map (fun p => (p, (16 * q + p.1 % 16, p.2)))
      if !(heldFiles s).contains q && l.all (fun p => free.contains p.2) then some l else none)
  else if g.cslots.length ≤ free.length then some (g.cslots.zip free) else none
def remap (s : State) (g : Gang) : Option Remap :=
  if g.cls == .t then
    (spread (· / 40) 16 (hotString s) (freeStrings s) g.strings.length).map (fun l => ⟨[], g.strings.zip l, []⟩)
  else
    match spread (· / 8) 8 (fun _ => false) (freeClusters s) g.clusters.length, remapSlots s g with
    | some cl, some cs => some ⟨g.clusters.zip cl, [], cs⟩
    | _, _ => none
def Remap.vCore (m : Remap) (c : Nat) : Nat := 8 * renum m.clusters (c / 8) + c % 8
def Remap.tCore (m : Remap) (c : Nat) : Nat := 1024 * renum m.strings (c / 1024) + c % 1024
def Remap.share (m : Remap) (cls : Class) (sh : Share) : Share :=
  { sh with core := if cls == .t then m.tCore sh.core else m.vCore sh.core }
def Remap.gang (m : Remap) (g : Gang) : Gang :=
  let cl := g.clusters.map (renum m.clusters)
  { g with run := .resident, clusters := cl, strings := if g.cls == .t then g.strings.map (renum m.strings) else cl.flatMap (fun c => [640 + 2 * c, 641 + 2 * c]),
           cslots := g.cslots.map (renumSlot m.slots), reserve := g.reserve.map (fun p => (m.vCore p.1, p.2)),
           shares := g.shares.map (fun p => (p.1, m.share g.cls p.2)) }
def Remap.hart (m : Remap) (h : Hart) : Hart :=
  match h.cls with
  | .v => { h with core := m.vCore h.core }
  | .t => { h with core := m.tCore h.core }
  | .c => let p := renumSlot m.slots (h.core, h.slot); { h with core := p.1, slot := p.2 }
/-- Doublewords of a list of bytes. -/
def wordsOf : Nat → List Byte → List Word
  | 0, _ => []
  | n + 1, b => BitVec.ofNat 64 (leNat (b.take 8)) :: wordsOf n (b.drop 8)
def regsOf (b : List Byte) : Vector Word 32 := let l := wordsOf 32 b; Vector.ofFn (fun i => l.getD i.val 0)
/-- The common state a hart takes up, or none where the check value differs. -/
def loadCommon (b : List Byte) (h : Hart) : Option Hart :=
  let body := b.take 1016
  if leBytes 8 (Config.checkValue body).toNat != b.drop 1016 then none
  else
    some { h with x := (regsOf (body.take 256)).set 0 0, f := regsOf ((body.drop 256).take 256), pc := BitVec.ofNat 64 (leNat ((body.drop 512).take 8)) }
def loadTiles (b : List Byte) (h : Hart) : Hart :=
  let tile (i : Nat) : TReg := BitVec.ofNat 8192 (leNat ((b.drop (1024 * i)).take 1024))
  { h with w := Vector.ofFn (fun i => tile i.val), ta := Vector.ofFn (fun i => tile (8 + i.val)) }
def loadFile (id : BitVec 32) (b : List Byte) : ClusterFile :=
  let l := wordsOf 64 b
  ⟨id, Vector.ofFn (fun i => l.getD i.val 0), BitVec.ofNat 256 (leNat ((b.drop 512).take 32)), []⟩
/-- A read of a block that fails answers its address. -/
def blockRead (s : State) (g : Gang) (h : Hart) (off n : Nat) : Except Word (List Byte) :=
  match gangRead s g (blockVa g h off) n with
  | .ok b => .ok b
  | .error (_, a) => .error a
/-- One hart's parts are reloaded into the resources the gang now has. -/
def reload (s : State) (old new : Gang) (m : Remap) (files : List Nat) (h : Hart) : Except Word (Hart × State) := do
  let c ← blockRead s old h 3328 1024
  let h1 ← match loadCommon c h with
    | some x => pure x
    | none => .error (BitVec.ofNat 64 h.ctxBase)
  let share := new.shares.lookup h.id.ix
  let s1 ← match share with
    | some sh => do
      let b ← blockRead s old h 4928 sh.size
      pure (s.putN (sharePa new.cls sh) b)
    | none => pure s
  let s2 ← if files.isEmpty then pure s1
    else do
      let b ← blockRead s old h 4352 576
      pure (giveFiles s1 (files.map (fun n => (if n < 64 then renum m.clusters n else 64 + (new.cslots.headD (0, 0)).1 / 16, loadFile new.id b))))
  let h2 ← if h.cls == .t then do
      let b ← blockRead s old h (4928 + (share.map (·.size)).getD 0) 10240
      pure (loadTiles b h1)
    else pure h1
  return (h2, s2.glance old.asid (blockVa old h 3328) (1600 + (share.map (·.size)).getD 0 + if h.cls == .t then 10240 else 0))
/-- A hart resumes with the files of its block (05:R165), or takes MCHECK event 3 first. -/
def resumeHart (old new : Gang) (m : Remap) (s : State) (p : Hart × List Nat) : State :=
  let h := p.1
  let files := p.2
  let back (h : Hart) : Hart :=
    let h := { m.hart h with resident := true, yielded := false }
    if h.cls == .c then h else h.arriveState
  match reload s old new m files h with
  | .ok (h', s') => s'.modHartOf h.id (fun _ => back h')
  | .error a => s.modHartOf h.id (fun _ => { back h with mcheck := h.mcheck ++ [mcheckV 3 a.toNat] })
/-- Whether a saved gang's turn has come: nothing above it can be placed, and no pinned head holds its class back. -/
def resumeTurn (s : State) (g : Gang) : Bool :=
  !s.sched.heads.any (fun p => p.pinned && p.ready && served (s.desc p.queue) && classOf (recClass p.record.toNat) == g.cls && g.eff ≤ p.eff) &&
  (match schedNext s with | some (h, _) => h.eff ≤ g.eff | none => true)
/-- The resources a saved gang can resume on. -/
def resumePlace (s : State) (g : Gang) : Option Remap :=
  match remap s g with
  | some m => if funded s g.cls (m.gang g).strings then some m else none
  | none => none
/-- GANG_RESUME. -/
def execGangResume (id : BitVec 32) (s : State) : Host.Outcome State Fault Refusal :=
  match s.gang id with
  | none => .refused (.notEnabled "GANG_RESUME")
  | some g =>
    if s.up && g.run == .saved false && resumeTurn s g then
      match resumePlace s g with
      | none => .refused (.notEnabled "GANG_RESUME")
      | some m =>
        let new := m.gang g
        let hs := s.sorted.filter (fun h => h.id.gang == id)
        let s1 := giveFiles (spend s g.cls new.strings) (new.clusters.map (fun c => (c, .fresh id)))
        let s2 := (hs.map (fun h => (h, filesOf s g h.id.ix))).foldl (resumeHart g new m) s1
        .next ((s2.modGang id (fun _ => new)).modHarts (fun h => h.id.gang == id) (Hart.joinWindow s)).syncBuckets
    else .refused (.notEnabled "GANG_RESUME")

/-! ## Retirement (02:R45) -/

/-- Harts leave the machine; another acts where the acting one does. -/
def State.dropHarts (s : State) (p : Hart → Bool) : State :=
  let rest := s.others.filter (fun h => !p h)
  if p s.hart then
    match rest with
    | h :: t => { s with hart := h, others := t }
    | [] => s
  else { s with others := rest }
/-- Every hart has ended, and every copy. -/
def canRetire (s : State) (g : Gang) : Bool :=
  let hs := s.gangHarts g.id
  g.id != 0 && !g.run.isSaved && hs.all (fun h => h.ended && !h.dead && h.flying.isNone) && hs.all (fun h => h.copies.all (fun c => c.err.isSome))
def retire (s : State) (g : Gang) : State :=
  let hs := s.gangHarts g.id
  let s1 := (hs.flatMap (fun h => h.bindings.map (fun b => (h.id, b)))).foldl (fun s p => freeBinding s p.1 p.2) s
  let s2 := slotPut s1 g.queue g.index 28 (leBytes 1 3)
  let s3 := signalVa (signalVa s2 g.asid g.sig0 (BitVec.allOnes 32)) g.asid g.sig1 (BitVec.allOnes 32)
  let left := (hs.flatMap (·.remote)).map (fun o => (g.asid, o))
  let s4 := s3.dropHarts (fun h => h.id.gang == g.id)
  { s4 with gangs := s4.gangs.filter (fun x => x.id != g.id), unseen := s4.unseen.filter (fun u => u.owner.gang != g.id), files := s4.files.filter (fun f => f.2.gang != g.id),
            adapter := { s4.adapter with orphans := s4.adapter.orphans ++ left } }.syncBuckets
/-- GANG_RETIRE. -/
def execGangRetire (id : BitVec 32) (s : State) : Host.Outcome State Fault Refusal :=
  match s.gang id with
  | none => .refused (.notEnabled "GANG_RETIRE")
  | some g => given (s.up && canRetire s g) "GANG_RETIRE" (retire s g)

end Sys2Proof.Machine
end

