-- ==== Sys2Proof/Machine/Integer.lean ====
section
/-! DEFINITION. Scalar integer instructions, majors 0 to 10 (13:R361-R363; 14:R395, R396, R418, R419, R426; 15:R436,
R437; 17:R516). None traps on a value or raises a flag. -/
namespace Sys2Proof.Machine
open Sys2Proof

/-- 13:R362. -/
def execAdd (d a b : Reg) (w : Bool) (s : State) : Host.Outcome State Fault Refusal :=
  .next (s.result d (binW w (· + ·) (· + ·) (s.getX a) (s.getX b)))
/-- 13:R362, signed immediate. -/
def execAddImm (d a : Reg) (i : BitVec 16) (s : State) : Host.Outcome State Fault Refusal :=
  .next (s.result d (s.getX a + imm16s i))
/-- 15:R436. -/
def execSub (d a b : Reg) (w : Bool) (s : State) : Host.Outcome State Fault Refusal :=
  .next (s.result d (binW w (· - ·) (· - ·) (s.getX a) (s.getX b)))
/-- 14:R426. -/
def execMul (d a b : Reg) (w : Bool) (s : State) : Host.Outcome State Fault Refusal :=
  .next (s.result d (binW w (· * ·) (· * ·) (s.getX a) (s.getX b)))
/-- 14:R426. -/
def execMulh (d a b : Reg) (w u : Bool) (s : State) : Host.Outcome State Fault Refusal :=
  .next (s.result d (binW w (mulhBits u) (mulhBits u) (s.getX a) (s.getX b)))
/-- 14:R395. -/
def execDiv (d a b : Reg) (w u : Bool) (s : State) : Host.Outcome State Fault Refusal :=
  .next (s.result d (binW w (divBits u) (divBits u) (s.getX a) (s.getX b)))
/-- 14:R395. -/
def execRem (d a b : Reg) (w u : Bool) (s : State) : Host.Outcome State Fault Refusal :=
  .next (s.result d (binW w (remBits u) (remBits u) (s.getX a) (s.getX b)))
/-- 13:R362. -/
def execAnd (d a b : Reg) (s : State) : Host.Outcome State Fault Refusal :=
  .next (s.result d (s.getX a &&& s.getX b))
/-- 13:R362, zero-extended immediate. -/
def execAndImm (d a : Reg) (i : BitVec 16) (s : State) : Host.Outcome State Fault Refusal :=
  .next (s.result d (s.getX a &&& imm16z i))
/-- 15:R436. -/
def execOr (d a b : Reg) (s : State) : Host.Outcome State Fault Refusal :=
  .next (s.result d (s.getX a ||| s.getX b))
/-- 15:R436, zero-extended immediate. -/
def execOrImm (d a : Reg) (i : BitVec 16) (s : State) : Host.Outcome State Fault Refusal :=
  .next (s.result d (s.getX a ||| imm16z i))
/-- 17:R516. -/
def execXor (d a b : Reg) (s : State) : Host.Outcome State Fault Refusal :=
  .next (s.result d (s.getX a ^^^ s.getX b))
/-- 17:R516, zero-extended immediate. -/
def execXorImm (d a : Reg) (i : BitVec 16) (s : State) : Host.Outcome State Fault Refusal :=
  .next (s.result d (s.getX a ^^^ imm16z i))
/-- 13:R362. -/
def execAndn (d a b : Reg) (s : State) : Host.Outcome State Fault Refusal :=
  .next (s.result d (s.getX a &&& ~~~(s.getX b)))

/-- The shifts and rotation by an amount (15:R436, R437). -/
def shlBy (w : Bool) (n : Nat) (a : Word) : Word := if w then sx32 (lo32 a <<< n) else a <<< n
def shrBy (w : Bool) (n : Nat) (a : Word) : Word := if w then sx32 (lo32 a >>> n) else a >>> n
def sarBy (w : Bool) (n : Nat) (a : Word) : Word :=
  if w then sx32 ((lo32 a).sshiftRight n) else a.sshiftRight n
def rorBy (w : Bool) (n : Nat) (a : Word) : Word :=
  if w then sx32 ((lo32 a).rotateRight n) else a.rotateRight n

/-- 15:R436. -/
def execShl (d a b : Reg) (w : Bool) (s : State) : Host.Outcome State Fault Refusal :=
  .next (s.result d (shlBy w (shAmount w (s.getX b)) (s.getX a)))
/-- 15:R436. -/
def execShr (d a b : Reg) (w : Bool) (s : State) : Host.Outcome State Fault Refusal :=
  .next (s.result d (shrBy w (shAmount w (s.getX b)) (s.getX a)))
/-- 15:R436. -/
def execSar (d a b : Reg) (w : Bool) (s : State) : Host.Outcome State Fault Refusal :=
  .next (s.result d (sarBy w (shAmount w (s.getX b)) (s.getX a)))
/-- 15:R436. -/
def execRor (d a b : Reg) (w : Bool) (s : State) : Host.Outcome State Fault Refusal :=
  .next (s.result d (rorBy w (shAmount w (s.getX b)) (s.getX a)))
/-- 15:R436, R437: an amount above 31 with W is ILLEGAL when decoded (04:R116). -/
def execShlImm (d a : Reg) (w : Bool) (n : BitVec 6) (s : State) : Host.Outcome State Fault Refusal :=
  .next (s.result d (shlBy w n.toNat (s.getX a)))
/-- 15:R436, R437. -/
def execShrImm (d a : Reg) (w : Bool) (n : BitVec 6) (s : State) : Host.Outcome State Fault Refusal :=
  .next (s.result d (shrBy w n.toNat (s.getX a)))
/-- 15:R436, R437. -/
def execSarImm (d a : Reg) (w : Bool) (n : BitVec 6) (s : State) : Host.Outcome State Fault Refusal :=
  .next (s.result d (sarBy w n.toNat (s.getX a)))
/-- 15:R436, R437. -/
def execRorImm (d a : Reg) (w : Bool) (n : BitVec 6) (s : State) : Host.Outcome State Fault Refusal :=
  .next (s.result d (rorBy w n.toNat (s.getX a)))

/-- 14:R419. -/
def execMin (d a b : Reg) (u : Bool) (s : State) : Host.Outcome State Fault Refusal :=
  let less := if u then (s.getX a).ult (s.getX b) else (s.getX a).slt (s.getX b)
  .next (s.result d (if less then s.getX a else s.getX b))
/-- 14:R419. -/
def execMax (d a b : Reg) (u : Bool) (s : State) : Host.Outcome State Fault Refusal :=
  let less := if u then (s.getX a).ult (s.getX b) else (s.getX a).slt (s.getX b)
  .next (s.result d (if less then s.getX b else s.getX a))
/-- 15:R436. -/
def execSet (d a b : Reg) (c : Cond) (s : State) : Host.Outcome State Fault Refusal :=
  .next (s.result d (if condHolds c (s.getX a) (s.getX b) then 1 else 0))
/-- 15:R436, R437. -/
def execSetImm (d a : Reg) (c : Cond) (i : BitVec 13) (s : State) : Host.Outcome State Fault Refusal :=
  .next (s.result d (if condHolds c (s.getX a) (imm13s i) then 1 else 0))
/-- 15:R436, R437: xd is read as the condition. -/
def execSel (d a b : Reg) (s : State) : Host.Outcome State Fault Refusal :=
  .next (s.result d (if s.getX d = 0 then s.getX b else s.getX a))
/-- 13:R362. -/
def execClz (d a : Reg) (w : Bool) (s : State) : Host.Outcome State Fault Refusal :=
  .next (s.result d (countW w clzBits (s.getX a)))
/-- 13:R362. -/
def execCtz (d a : Reg) (w : Bool) (s : State) : Host.Outcome State Fault Refusal :=
  .next (s.result d (countW w ctzBits (s.getX a)))
/-- 15:R436. -/
def execPopc (d a : Reg) (w : Bool) (s : State) : Host.Outcome State Fault Refusal :=
  .next (s.result d (countW w popCount (s.getX a)))
/-- 13:R362. -/
def execBswap (d a : Reg) (s : State) : Host.Outcome State Fault Refusal :=
  .next (s.result d (bswap64 (s.getX a)))
/-- 14:R396. -/
def execExt (d a b : Reg) (u : Bool) (s : State) : Host.Outcome State Fault Refusal :=
  .next (s.result d (extField u (s.getX a) (fieldPos (s.getX b)) (fieldLen (s.getX b))))
/-- 14:R396. -/
def execIns (d a b : Reg) (s : State) : Host.Outcome State Fault Refusal :=
  .next (s.result d (insField (s.getX d) (s.getX a) (fieldPos (s.getX b)) (fieldLen (s.getX b))))
/-- 14:R396: a field beyond bit 63 is ILLEGAL when decoded (04:R116). -/
def execExtImm (d a : Reg) (u : Bool) (p l : BitVec 6) (s : State) : Host.Outcome State Fault Refusal :=
  .next (s.result d (extField u (s.getX a) p.toNat (l.toNat + 1)))
/-- 14:R396. -/
def execInsImm (d a : Reg) (p l : BitVec 6) (s : State) : Host.Outcome State Fault Refusal :=
  .next (s.result d (insField (s.getX d) (s.getX a) p.toNat (l.toNat + 1)))
/-- 14:R418. -/
def execLim (d : Reg) (i : BitVec 21) (s : State) : Host.Outcome State Fault Refusal :=
  .next (s.result d (imm21s i))
/-- 13:R363. -/
def execAddpc (d : Reg) (i : BitVec 21) (s : State) : Host.Outcome State Fault Refusal :=
  .next (s.result d ((s.hart.pc &&& ~~~(0xFFF : Word)) + (imm21s i <<< 12)))
/-- 14:R418. -/
def execLea (d a b : Reg) (n : BitVec 2) (s : State) : Host.Outcome State Fault Refusal :=
  .next (s.result d (s.getX a + (s.getX b <<< n.toNat)))

end Sys2Proof.Machine
end

