-- ==== Sys2Proof/Machine/ScalarFp.lean ====
section
/-! DEFINITION. Scalar floating point, majors 32 and 33 (14:R397-R404 over 06). -/
namespace Sys2Proof.Machine
open Sys2Proof

/-- A T hart has FP32 and BF16 only (04:R114). -/
def tHasFmt : FFmt → Bool
  | .fp32 | .bf16 => true
  | _ => false
def Hart.fpClass (h : Hart) (f : FFmt) : Bool := h.cls != .t || tHasFmt f

/-- The value of an f register in a format (14:R397 ReadF). -/
def Hart.readF (h : Hart) (f : FFmt) (r : Reg) : FV :=
  decodeF (ffmtOf f) h.ftz ((h.getF r).toNat % 2 ^ ffmtW f)

/-- The frame of 14:R397 for a result v with the flags its operands raise: class check, one draw in stochastic mode,
FPTRAP with the flags kept, or fd and FFLAGS. On a V hart a stochastic rounding waits for the vector side (06:R178). -/
def fpWrite (i : Instr) (f : FFmt) (r : Rm) (d : Reg) (v : FV × Flags) : M Unit := do
  let h ← getHart
  checkM (h.fpClass f) .cls (headWord i)
  if r == .sr && !h.vq.isEmpty then waitM
  let dr := drawFor r h.srseed
  let res := roundTo (ffmtOf f) r h.ftz dr.1 v.1
  let fl := res.2 ||| v.2
  modHart (fun h => { h with fflags := h.fflags ||| fl })
  checkM (trapping h.fen fl == 0) .fptrap ((trapping h.fen fl).setWidth 64)
  modHart (fun h => { h.setF d (BitVec.ofNat 64 res.1) with srseed := dr.2 })
  done1

/-- The frame for an integer result in xd. -/
def fpWriteX (i : Instr) (f : FFmt) (d : Reg) (v : Word) (fl : Flags) (seed : Word) : M Unit := do
  let h ← getHart
  checkM (h.fpClass f) .cls (headWord i)
  modHart (fun h => { h with fflags := h.fflags ||| fl })
  checkM (trapping h.fen fl == 0) .fptrap ((trapping h.fen fl).setWidth 64)
  modHart (fun h => { h with srseed := seed })
  doneX d v

/-- 14:R397. -/
def execFadd (d a b : Reg) (f : FFmt) (r : Rm) (s : State) : Host.Outcome State Fault Refusal :=
  runInstr (fpWrite (.fadd d a b f r) f r d (addF r (s.hart.readF f a) (s.hart.readF f b))) s
/-- 14:R397. -/
def execFsub (d a b : Reg) (f : FFmt) (r : Rm) (s : State) : Host.Outcome State Fault Refusal :=
  runInstr (fpWrite (.fsub d a b f r) f r d (subF r (s.hart.readF f a) (s.hart.readF f b))) s
/-- 14:R397. -/
def execFmul (d a b : Reg) (f : FFmt) (r : Rm) (s : State) : Host.Outcome State Fault Refusal :=
  runInstr (fpWrite (.fmul d a b f r) f r d (mulF (s.hart.readF f a) (s.hart.readF f b))) s
/-- 14:R397. -/
def execFdiv (d a b : Reg) (f : FFmt) (r : Rm) (s : State) : Host.Outcome State Fault Refusal :=
  runInstr (fpWrite (.fdiv d a b f r) f r d (divF (s.hart.readF f a) (s.hart.readF f b))) s
/-- 14:R397. -/
def execFsqrt (d a : Reg) (f : FFmt) (r : Rm) (s : State) : Host.Outcome State Fault Refusal :=
  runInstr (fpWrite (.fsqrt d a f r) f r d (sqrtF (s.hart.readF f a))) s
/-- 14:R397, 06:R174: exact, so no rounding shows. -/
def execFmin (d a b : Reg) (f : FFmt) (s : State) : Host.Outcome State Fault Refusal :=
  runInstr (fpWrite (.fmin d a b f) f .rne d (maxMinF false (s.hart.readF f a) (s.hart.readF f b))) s
/-- 14:R397, 06:R174. -/
def execFmax (d a b : Reg) (f : FFmt) (s : State) : Host.Outcome State Fault Refusal :=
  runInstr (fpWrite (.fmax d a b f) f .rne d (maxMinF true (s.hart.readF f a) (s.hart.readF f b))) s
/-- 14:R400. -/
def execFcmp (d a b : Reg) (f : FFmt) (c : Cmp) (s : State) : Host.Outcome State Fault Refusal :=
  let r := cmpF c (s.hart.readF f a) (s.hart.readF f b)
  runInstr (fpWriteX (.fcmp d a b f c) f d (if r.1 then 1 else 0) r.2 s.hart.srseed) s
/-- 14:R403. -/
def execFma (d a b c : Reg) (f : FFmt) (r : Rm) (s : State) : Host.Outcome State Fault Refusal :=
  runInstr (fpWrite (.fma d a b c f r) f r d
    (fmaF r (s.hart.readF f a) (s.hart.readF f b) (s.hart.readF f c))) s

/-- Signedness and width of FCVT's integer types (04:R122). -/
def intTySigned : IntTy → Bool
  | .i64 | .i32 => true
  | _ => false
def intTyW : IntTy → Nat
  | .i64 | .ui64 => 64
  | .i32 | .ui32 => 32
/-- 14:R401. A conversion between floats reads fa as fmt and writes the destination format; both formats must exist on
the class. -/
def execFcvt (d a : Reg) (t : FcvtKind) (f : FFmt) (r : Rm) (s : State) : Host.Outcome State Fault Refusal :=
  let i : Instr := .fcvt d a t f r
  match t with
  | .toF dst =>
    runInstr (do
      checkM (s.hart.fpClass f) .cls (headWord i)
      fpWrite i dst r d (s.hart.readF f a, 0)) s
  | .toI ty =>
    runInstr (do
      checkM (s.hart.fpClass f) .cls (headWord i)
      if r == .sr && !s.hart.vq.isEmpty then waitM
      let dr := drawFor r s.hart.srseed
      let res := toInt (intTySigned ty) (intTyW ty) r dr.1 (s.hart.readF f a)
      fpWriteX i f d (extendN (intTySigned ty) (intTyW ty / 8) (wrapInt (intTyW ty) res.1)) res.2 dr.2) s
  | .ofI ty =>
    runInstr (fpWrite i f r d (ofInt (readInt (intTySigned ty) (intTyW ty) (s.getX a).toNat), 0)) s

/-- 14:R404: bits are copied. -/
def execFmov (d a : Reg) (t : FmovDir) (f : FFmt) (s : State) : Host.Outcome State Fault Refusal :=
  runInstr (do
    checkM (s.hart.fpClass f) .cls (headWord (.fmov d a t f))
    let low (v : Word) : Word := BitVec.ofNat 64 (v.toNat % 2 ^ ffmtW f)
    match t with
    | .ff => do
      modHart (fun h => h.setF d (low (h.getF a)))
      done1
    | .xf => do
      modHart (fun h => h.setF d (low (h.getX a)))
      done1
    | .fx => doneX d (low (s.hart.getF a))) s
/-- 14:R399: the bits as stored, no flag. -/
def execFclass (d a : Reg) (f : FFmt) (s : State) : Host.Outcome State Fault Refusal :=
  runInstr (do
    checkM (s.hart.fpClass f) .cls (headWord (.fclass d a f))
    doneX d (BitVec.ofNat 64 (classF (ffmtOf f) ((s.hart.getF a).toNat % 2 ^ ffmtW f)))) s

end Sys2Proof.Machine
end

