-- ==== Sys2Proof/Machine/VArms.lean ====
section
/-! DEFINITION. The vector instructions as the scalar side issues them: each is posted (07:R201), its meaning at VCP is the vop
of its name. -/
namespace Sys2Proof.Machine
open Sys2Proof

def execVld (d xs : Reg) (disp : BitVec 21) (acq : Bool) (m : Pred) (s : State) :
    Host.Outcome State Fault Refusal := postInstr (.vld d xs disp acq m) s
def execVlds (d xs t : Reg) (disp : BitVec 21) (acq : Bool) (m : Pred) (s : State) :
    Host.Outcome State Fault Refusal := postInstr (.vlds d xs t disp acq m) s
def execVldx (d xs i : Reg) (sh : BitVec 2) (acq : Bool) (m : Pred) (s : State) :
    Host.Outcome State Fault Refusal := postInstr (.vldx d xs i sh acq m) s
def execVst (d xs : Reg) (disp : BitVec 21) (k : BitVec 3) (s : State) :
    Host.Outcome State Fault Refusal := postInstr (.vst d xs disp k) s
def execVsts (d xs t : Reg) (disp : BitVec 21) (k : BitVec 3) (s : State) :
    Host.Outcome State Fault Refusal := postInstr (.vsts d xs t disp k) s
def execVstx (d xs i : Reg) (sh : BitVec 2) (k : BitVec 3) (s : State) :
    Host.Outcome State Fault Refusal := postInstr (.vstx d xs i sh k) s
def execVsave (xs : Reg) (m : BitVec 12) (s : State) : Host.Outcome State Fault Refusal := postInstr (.vsave xs m) s
def execVrstr (xs : Reg) (m : BitVec 12) (s : State) : Host.Outcome State Fault Refusal := postInstr (.vrstr xs m) s
def execVadd (d a : Reg) (b : VSrc) (m : Pred) (s : State) :
    Host.Outcome State Fault Refusal := postInstr (.vadd d a b m) s
def execVsub (d a : Reg) (b : VSrc) (m : Pred) (s : State) :
    Host.Outcome State Fault Refusal := postInstr (.vsub d a b m) s
def execVmul (d a : Reg) (b : VSrc) (m : Pred) (s : State) :
    Host.Outcome State Fault Refusal := postInstr (.vmul d a b m) s
def execVmulh (d a : Reg) (b : VSrc) (m : Pred) (s : State) :
    Host.Outcome State Fault Refusal := postInstr (.vmulh d a b m) s
def execVand (d a : Reg) (b : VSrc) (m : Pred) (s : State) :
    Host.Outcome State Fault Refusal := postInstr (.vand d a b m) s
def execVor (d a : Reg) (b : VSrc) (m : Pred) (s : State) :
    Host.Outcome State Fault Refusal := postInstr (.vor d a b m) s
def execVxor (d a : Reg) (b : VSrc) (m : Pred) (s : State) :
    Host.Outcome State Fault Refusal := postInstr (.vxor d a b m) s
def execVshl (d a : Reg) (b : VSrc) (m : Pred) (s : State) :
    Host.Outcome State Fault Refusal := postInstr (.vshl d a b m) s
def execVshr (d a : Reg) (b : VSrc) (m : Pred) (s : State) :
    Host.Outcome State Fault Refusal := postInstr (.vshr d a b m) s
def execVsar (d a : Reg) (b : VSrc) (m : Pred) (s : State) :
    Host.Outcome State Fault Refusal := postInstr (.vsar d a b m) s
def execVmin (d a : Reg) (b : VSrc) (m : Pred) (s : State) :
    Host.Outcome State Fault Refusal := postInstr (.vmin d a b m) s
def execVmax (d a : Reg) (b : VSrc) (m : Pred) (s : State) :
    Host.Outcome State Fault Refusal := postInstr (.vmax d a b m) s
def execVsadd (d a : Reg) (b : VSrc) (m : Pred) (s : State) :
    Host.Outcome State Fault Refusal := postInstr (.vsadd d a b m) s
def execVssub (d a : Reg) (b : VSrc) (m : Pred) (s : State) :
    Host.Outcome State Fault Refusal := postInstr (.vssub d a b m) s
def execVfadd (d a : Reg) (b : FSrc) (r : RmDyn) (m : Pred) (s : State) :
    Host.Outcome State Fault Refusal := postInstr (.vfadd d a b r m) s
def execVfsub (d a : Reg) (b : FSrc) (r : RmDyn) (m : Pred) (s : State) :
    Host.Outcome State Fault Refusal := postInstr (.vfsub d a b r m) s
def execVfmul (d a : Reg) (b : FSrc) (r : RmDyn) (m : Pred) (s : State) :
    Host.Outcome State Fault Refusal := postInstr (.vfmul d a b r m) s
def execVfdiv (d a : Reg) (b : FSrc) (r : RmDyn) (m : Pred) (s : State) :
    Host.Outcome State Fault Refusal := postInstr (.vfdiv d a b r m) s
def execVfma (d a : Reg) (b : FmaSrc) (r : RmDyn) (m : Pred) (s : State) :
    Host.Outcome State Fault Refusal := postInstr (.vfma d a b r m) s
def execVfsqrt (d a : Reg) (r : RmDyn) (m : Pred) (s : State) :
    Host.Outcome State Fault Refusal := postInstr (.vfsqrt d a r m) s
def execVfmin (d a : Reg) (b : FSrc) (m : Pred) (s : State) :
    Host.Outcome State Fault Refusal := postInstr (.vfmin d a b m) s
def execVfmax (d a : Reg) (b : FSrc) (m : Pred) (s : State) :
    Host.Outcome State Fault Refusal := postInstr (.vfmax d a b m) s
def execVfexp2 (d a : Reg) (r : RmDyn) (m : Pred) (s : State) :
    Host.Outcome State Fault Refusal := postInstr (.vfexp2 d a r m) s
def execVfrcp (d a : Reg) (r : RmDyn) (m : Pred) (s : State) :
    Host.Outcome State Fault Refusal := postInstr (.vfrcp d a r m) s
def execVcvt (d a : Reg) (e : ET) (r : RmDyn) (m : Pred) (s : State) :
    Host.Outcome State Fault Refusal := postInstr (.vcvt d a e r m) s
def execVqenc (d a : Reg) (m : Pred) (s : State) : Host.Outcome State Fault Refusal := postInstr (.vqenc d a m) s
def execVqdec (d a : Reg) (m : Pred) (s : State) : Host.Outcome State Fault Refusal := postInstr (.vqdec d a m) s
def execVhbfly (d a : Reg) (l : BitVec 5) (r : RmDyn) (m : Pred) (s : State) :
    Host.Outcome State Fault Refusal := postInstr (.vhbfly d a l r m) s
def execVscale (d a : Reg) (sc : BitVec 2) (r : RmDyn) (m : Pred) (s : State) :
    Host.Outcome State Fault Refusal := postInstr (.vscale d a sc r m) s
def execVperm (d a b : Reg) (m : Pred) (s : State) : Host.Outcome State Fault Refusal := postInstr (.vperm d a b m) s
def execVslide (d a t : Reg) (dn : Bool) (m : Pred) (s : State) :
    Host.Outcome State Fault Refusal := postInstr (.vslide d a t dn m) s
def execVsplat (d xs : Reg) (m : Pred) (s : State) : Host.Outcome State Fault Refusal := postInstr (.vsplat d xs m) s
def execVmerge (d a b : Reg) (k : BitVec 3) (s : State) :
    Host.Outcome State Fault Refusal := postInstr (.vmerge d a b k) s
def execVcompr (d a : Reg) (m : Pred) (s : State) : Host.Outcome State Fault Refusal := postInstr (.vcompr d a m) s
def execVidx (d : Reg) (m : Pred) (s : State) : Host.Outcome State Fault Refusal := postInstr (.vidx d m) s
def execVmvx (x a : Reg) (i : BitVec 16) (s : State) : Host.Outcome State Fault Refusal := postInstr (.vmvx x a i) s
def execVmxv (d xs : Reg) (i : BitVec 16) (s : State) : Host.Outcome State Fault Refusal := postInstr (.vmxv d xs i) s
def execVcmp (kd : BitVec 3) (a : Reg) (b : VSrc) (c : Cmp) (m : Pred) (s : State) :
    Host.Outcome State Fault Refusal := postInstr (.vcmp kd a b c m) s
def execKop (kd ka kb : BitVec 3) (tt : BitVec 4) (m : Pred) (s : State) :
    Host.Outcome State Fault Refusal := postInstr (.kop kd ka kb tt m) s
def execKpopc (x : Reg) (ka k : BitVec 3) (s : State) :
    Host.Outcome State Fault Refusal := postInstr (.kpopc x ka k) s
def execKfirst (x : Reg) (ka k : BitVec 3) (s : State) :
    Host.Outcome State Fault Refusal := postInstr (.kfirst x ka k) s
def execKmov (kd ka : BitVec 3) (m : Pred) (s : State) :
    Host.Outcome State Fault Refusal := postInstr (.kmov kd ka m) s
def execVred (d a : Reg) (o : RedOp) (lin : Bool) (sh : BitVec 1) (r : RmDyn) (k : BitVec 3) (s : State) :
    Host.Outcome State Fault Refusal := postInstr (.vred d a o lin sh r k) s
def execVscan (d a : Reg) (o : RedOp) (lin : Bool) (sh : BitVec 1) (r : RmDyn) (m : Pred) (s : State) :
    Host.Outcome State Fault Refusal := postInstr (.vscan d a o lin sh r m) s
def execVamo (d a i xs : Reg) (o : AmoOp) (sc : Scope) (ret : Bool) (sh : BitVec 2) (k : BitVec 3) (s : State) :
    Host.Outcome State Fault Refusal := postInstr (.vamo d a i xs o sc ret sh k) s
def execVamom (d a i xs : Reg) (o : AmoOp) (sc : Scope) (ret : Bool) (sh : BitVec 2) (k : BitVec 3) (s : State) :
    Host.Outcome State Fault Refusal := postInstr (.vamom d a i xs o sc ret sh k) s
def execMzero (md : BitVec 2) (s : State) : Host.Outcome State Fault Refusal := postInstr (.mzero md) s
def execMma (md : BitVec 2) (a b : Reg) (scA scB : BitVec 2) (s : State) :
    Host.Outcome State Fault Refusal := postInstr (.mma md a b scA scB) s
def execMrd (d : Reg) (ms : BitVec 2) (row : BitVec 4) (r : RmDyn) (k : BitVec 3) (s : State) :
    Host.Outcome State Fault Refusal := postInstr (.mrd d ms row r k) s
def execMwr (a : Reg) (md : BitVec 2) (row : BitVec 4) (s : State) :
    Host.Outcome State Fault Refusal := postInstr (.mwr a md row) s
def execXproj (md : BitVec 2) (a xs : Reg) (kk : BitVec 8) (s : State) :
    Host.Outcome State Fault Refusal := postInstr (.xproj md a xs kk) s
def execXprojb (md : BitVec 2) (a b xs : Reg) (kk : BitVec 8) (s : State) :
    Host.Outcome State Fault Refusal := postInstr (.xprojb md a b xs kk) s
def execXmerge (md ma : BitVec 2) (s : State) : Host.Outcome State Fault Refusal := postInstr (.xmerge md ma) s
def execXhload (md : BitVec 2) (xs : Reg) (disp : BitVec 21) (s : State) :
    Host.Outcome State Fault Refusal := postInstr (.xhload md xs disp) s
def execXhstore (md : BitVec 2) (xs : Reg) (disp : BitVec 21) (s : State) :
    Host.Outcome State Fault Refusal := postInstr (.xhstore md xs disp) s
def execColbind (d xs : Reg) (s : State) : Host.Outcome State Fault Refusal := postInstr (.colbind d xs) s
def execColfree (d : Reg) (s : State) : Host.Outcome State Fault Refusal := postInstr (.colfree d) s
def execColwait (d : Reg) (s : State) : Host.Outcome State Fault Refusal := postInstr (.colwait d) s

end Sys2Proof.Machine
end

