-- ==== Sys2Proof/Machine/Waits.lean ====
section
/-! DEFINITION. What ends a wait, and what comes between instructions (12:R331, R351, R352; 02:R58-R61; 07:R229, R232; 11:R305;
14:R405-R407; 15:R457, R463; 17:R513). -/
namespace Sys2Proof.Machine
open Sys2Proof

/-- The hart commits instructions: resident, with its clocks running, not ended, not yielded, not halted. -/
def Hart.live' (h : Hart) : Bool := h.resident && !h.dead && !h.ended && !h.yielded && !h.halted && h.flying.isNone

/-! ## Asynchronous traps (12:R331) -/

/-- TRAPPC of an asynchronous trap: past an IDLE the hart waits in (14:R407). -/
def State.asyncPc (s : State) : Word :=
  match s.hart.waitOn with
  | some .idle | some .idleX => s.hart.pc + 4
  | _ => s.hart.pc
/-- A cause taken is no longer pending; PREEMPT stays outstanding until the hart yields (12:R340). -/
def Hart.took (h : Hart) (c : Cause) : Hart :=
  match c with
  | .mcheck => { h with mcheck := h.mcheck.tail }
  | .extint => { h with extint := h.extint.tail }
  | _ => h
/-- The asynchronous trap the acting hart takes now: none in a single step (12:R346, R347); at an instruction boundary, which a TSYNC that has completed reaches as the
next step begins (02:R58). -/
def State.asyncNow (s : State) : Option (Cause × Word) :=
  if s.up && s.hart.live' && !s.hart.stepping && s.hart.convoyLeft = 0 && s.hart.namoPend.isEmpty && !s.syncPassed then s.takeable else none
/-- ASYNC_TRAP_TAKE. -/
def execAsyncTrapTake (s : State) : Host.Outcome State Fault Refusal :=
  match s.asyncNow with
  | some (c, v) => .next (enterTrap { s with hart := s.hart.took c } c v s.asyncPc)
  | none => .refused (.notEnabled "ASYNC_TRAP_TAKE")
/-- TIMER_MATCH: TIME has come to TIMECMP of the acting hart. -/
def execTimerMatch (s : State) : Host.Outcome State Fault Refusal :=
  given (s.up && s.time.ult s.hart.timecmp) "TIMER_MATCH" (s.until s.hart.timecmp.toNat)

/-! ## Deadlock (12:R351) -/

/-- Harts that share a file and have not ended. -/
def sharers (s : State) (n : Nat) : List Hart :=
  match s.files.lookup n with
  | none => []
  | some f => s.sorted.filter (fun h => h.resident && !h.ended && h.cls != .t && h.fileNo == n && h.id.gang == f.gang)
/-- The semaphore a hart waits on. -/
def waitsSem (h : Hart) : Option (BitVec 8) := match h.waitOn with | some (.semts n) => some n | _ => none
def deadlocked (s : State) (n : Nat) : Bool :=
  let hs := sharers s n
  hs.any (!·.dead) && hs.all (fun h => (waitsSem h).isSome && !h.halted && (h.dead || h.namoPend.isEmpty))
/-- The report, its count, and EXTINT with source 3. -/
def reportDeadlock (s : State) (n blocked : Nat) (g : BitVec 32) : State :=
  let c := s.peek (Config.scb + 0x21000) 4
  let e := g.toNat + n * 2 ^ 32 + blocked * 2 ^ 48 + s.time.toNat * 2 ^ 64
  let s1 := s.putN (Config.scb + 0x20000 + 16 * (c % 256)) (leBytes 16 e)
  raiseExtint (s1.putN (Config.scb + 0x21000) (leBytes 4 ((c + 1) % 2 ^ 32))) 3
def execDeadlockDetect (n : Nat) (s : State) : Host.Outcome State Fault Refusal :=
  let hs := sharers s n
  let g := match hs with | h :: _ => h.id.gang | [] => 0
  let trap (s : State) (h : Hart) : State :=
    s.asHart h.id (fun s => enterTrap s .deadlock (((waitsSem h).getD 0).setWidth 64) s.hart.pc)
  given (s.up && deadlocked s n) "DEADLOCK_DETECT" (reportDeadlock ((hs.filter (!·.dead)).foldl trap s) n hs.length g)

/-! ## WAITMAX (12:R352) -/

/-- The trap a scalar-side wait ends in: WAITTIMEOUT with the value the waiting instruction states; at a TSYNC whose plan
cannot be read, the fault of that read, at the lowest address (02:R57). -/
def scalarTimeout (s : State) : Option (Cause × Word) :=
  let h := s.hart
  let peers := (s.gangHarts h.id.gang).filter (fun p => !p.ended)
  match h.waitOn with
  | some (.waitsig a _ _) => some (.waittimeout, h.getX a)
  | some (.semts n) => some (.waittimeout, n.setWidth 64)
  | some .gbar => some (.waittimeout, BitVec.ofNat 64 (peers.countP (fun p => !p.gbarHere) + 1))
  | some .tsync =>
    match s.gang h.id.gang with
    | none => none
    | some g =>
      match g.stepKind with
      | .compute => some (.waittimeout, BitVec.ofNat 64 (2 ^ 62 + (peers.countP (fun p => !p.stepDone) + 1)))
      | .exchange =>
        (match planCounts s g with
          | .ok l => some (.waittimeout, BitVec.ofNat 64 (l.getD h.id.ix 0 - h.incoming))
          | .error e => some e)
      | _ => none
  | _ => none
/-- A count runs to its limit, and time with it. -/
def State.runOut (s : State) (ns : Nat) : State := s.lapse (1000 * s.hart.waitmax.toNat - ns)
/-- Which waits of the acting hart may run out. -/
def State.timeouts (s : State) : Option (Cause × Word) × Option Word :=
  if !s.up || s.hart.waitmax = 0 || !s.hart.live' || !s.hart.namoPend.isEmpty then (none, none)
  else (scalarTimeout s, vectorTimeout s.hart)
/-- The scalar side's count runs out; a plan that cannot be read fails at every hart of the gang (02:R57). -/
def scalarRunsOut (s : State) (p : Cause × Word) : State :=
  let s1 := s.runOut s.hart.waitS.ns
  let s2 : State := { s1 with hart := { s1.hart with waitS := { s1.hart.waitS with ns := 0 } } }
  if p.1 = .waittimeout then enterTrap s2 p.1 p.2 s.hart.pc else planFails s2 s.hart.id.gang p
/-- The vector side's count runs out; a load that has not started has VES 0. -/
def vectorRunsOut (s : State) (v : Word) : State :=
  let s1 := s.runOut s.hart.waitV.ns
  let ves := if s.hart.waitsAcq then 0 else s.hart.ves
  enterTrap { s1 with hart := { s1.hart with ves := ves, waitV := { s1.hart.waitV with ns := 0 } } } .waittimeout v s.hart.pc
/-- WAIT_TIMEOUT. -/
def execWaitTimeout (s : State) : Host.Outcome State Fault Refusal :=
  match s.timeouts with
  | (some p, some v) => .next (if Config.choice s.tick 0 then scalarRunsOut s p else vectorRunsOut s v)
  | (some p, none) => .next (scalarRunsOut s p)
  | (none, some v) => .next (vectorRunsOut s v)
  | (none, none) => .refused (.notEnabled "WAIT_TIMEOUT")

/-! ## Waits that end well -/

/-- WAITSIG_SATISFIED (17:R513). -/
def execWaitsigSatisfied (s : State) : Host.Outcome State Fault Refusal :=
  match s.hart.waitOn with
  | some (.waitsig a b c) =>
    match execWaitsig a b c s with
    | .next s' => given (s.up && s.hart.live' && s'.hart.pc == s.hart.pc + 4) "WAITSIG_SATISFIED" s'
    | r => r
  | _ => .refused (.notEnabled "WAITSIG_SATISFIED")
/-- The acting hart's vector side, and a trap of it. -/
def drainStep (s : State) : Host.Outcome State Fault Refusal := finish s.hart.pc (runM drainAll s)
/-- ACQ_LOAD_WAIT_END (11:R305): no expected bit is left below VL. -/
def execAcqLoadWaitEnd (s : State) : Host.Outcome State Fault Refusal :=
  match s.hart.atVcp with
  | some q =>
    match q.op with
    | .ok i =>
      match acqMask i with
      | some k => if s.up && s.hart.live' && s.hart.expectedBelow k = 0 then drainStep s else .refused (.notEnabled "ACQ_LOAD_WAIT_END")
      | none => .refused (.notEnabled "ACQ_LOAD_WAIT_END")
    | .bad => .refused (.notEnabled "ACQ_LOAD_WAIT_END")
  | none => .refused (.notEnabled "ACQ_LOAD_WAIT_END")
/-- TMMA_COMPLETE (15:R457). -/
def execTmmaComplete (s : State) : Host.Outcome State Fault Refusal :=
  given (s.up && s.hart.tmma.isSome) "TMMA_COMPLETE" { s with hart := s.hart.finishTmma }

/-! ## Steps of a T gang (02:R58-R61; 07:R232) -/

def stepEvent (name : String) (id : BitVec 32) (p : Gang → Bool) (f : Gang → State) (s : State) :
    Host.Outcome State Fault Refusal :=
  match s.gang id with
  | some g => given (s.up && g.cls == .t && p g) name (f g)
  | none => .refused (.notEnabled name)
/-- EXCHANGE_STEP_BEGIN: every TSYNC of the compute step completes, and incoming bytes are counted from zero. -/
def execExchangeStepBegin (id : BitVec 32) (s : State) : Host.Outcome State Fault Refusal :=
  stepEvent "EXCHANGE_STEP_BEGIN" id (fun g => g.stepKind == .toExchange)
    (fun _ => ((s.passSync id).modGang id (fun g => { g with stepKind := .exchange })).modHarts (fun h => h.id.gang == id)
      (fun h => { h with incoming := 0, planFault := none })) s
/-- Whether every hart's count is met, or the plan cannot be read. -/
def exchangeDue (s : State) (g : Gang) : Bool :=
  g.stepKind == .exchange && (s.gangHarts g.id).any (·.stepDone) && s.allSynced g.id &&
  (match planCounts s g with
    | .ok l => (s.gangHarts g.id).all (fun h => h.incoming == l.getD h.id.ix 0)
    | .error _ => true)
/-- Every word sent in a gang's step has performed (02:R60). -/
def State.seeSent (s : State) (id : BitVec 32) : State :=
  s.orderAll (fun u => if u.origin == .exchange && u.owner.gang == id then { u with toS := true, toV := true } else u)
/-- EXCHANGE_STEP_COMPLETE; where the plan cannot be read, every waiting hart takes the fault at its TSYNC (02:R57). -/
def execExchangeStepComplete (id : BitVec 32) (s : State) : Host.Outcome State Fault Refusal :=
  stepEvent "EXCHANGE_STEP_COMPLETE" id (exchangeDue s)
    (fun g => match planCounts s g with
      | .ok _ => (((s.seePlan g 0 g.harts).seeSent id).modGang id (fun g => { g with stepKind := .toCompute })).later (.computeStepBegin id)
      | .error p => planFails s id p) s
/-- COMPUTE_STEP_BEGIN. -/
def execComputeStepBegin (id : BitVec 32) (s : State) : Host.Outcome State Fault Refusal :=
  stepEvent "COMPUTE_STEP_BEGIN" id (fun g => g.stepKind == .toCompute)
    (fun _ => (s.passSync id).modGang id (fun g => { g with stepKind := .compute, stepNo := g.stepNo + 1 })) s

end Sys2Proof.Machine
end

