-- ==== Sys2Proof/Machine/Dispatch.lean ====
section
/-! DEFINITION. One arm per instruction: its meaning, or its refusal by name. -/
namespace Sys2Proof.Machine
def exec (i : Instr) (s : State) : Host.Outcome State Fault Refusal :=
  match i with
  | .add x0 x1 x2 x3 => Sys2Proof.Machine.execAdd x0 x1 x2 x3 s
  | .addImm x0 x1 x2 => Sys2Proof.Machine.execAddImm x0 x1 x2 s
  | .sub x0 x1 x2 x3 => Sys2Proof.Machine.execSub x0 x1 x2 x3 s
  | .mul x0 x1 x2 x3 => Sys2Proof.Machine.execMul x0 x1 x2 x3 s
  | .mulh x0 x1 x2 x3 x4 => Sys2Proof.Machine.execMulh x0 x1 x2 x3 x4 s
  | .div x0 x1 x2 x3 x4 => Sys2Proof.Machine.execDiv x0 x1 x2 x3 x4 s
  | .rem x0 x1 x2 x3 x4 => Sys2Proof.Machine.execRem x0 x1 x2 x3 x4 s
  | .and x0 x1 x2 => Sys2Proof.Machine.execAnd x0 x1 x2 s
  | .andImm x0 x1 x2 => Sys2Proof.Machine.execAndImm x0 x1 x2 s
  | .or x0 x1 x2 => Sys2Proof.Machine.execOr x0 x1 x2 s
  | .orImm x0 x1 x2 => Sys2Proof.Machine.execOrImm x0 x1 x2 s
  | .xor x0 x1 x2 => Sys2Proof.Machine.execXor x0 x1 x2 s
  | .xorImm x0 x1 x2 => Sys2Proof.Machine.execXorImm x0 x1 x2 s
  | .andn x0 x1 x2 => Sys2Proof.Machine.execAndn x0 x1 x2 s
  | .shl x0 x1 x2 x3 => Sys2Proof.Machine.execShl x0 x1 x2 x3 s
  | .shr x0 x1 x2 x3 => Sys2Proof.Machine.execShr x0 x1 x2 x3 s
  | .sar x0 x1 x2 x3 => Sys2Proof.Machine.execSar x0 x1 x2 x3 s
  | .ror x0 x1 x2 x3 => Sys2Proof.Machine.execRor x0 x1 x2 x3 s
  | .shlImm x0 x1 x2 x3 => Sys2Proof.Machine.execShlImm x0 x1 x2 x3 s
  | .shrImm x0 x1 x2 x3 => Sys2Proof.Machine.execShrImm x0 x1 x2 x3 s
  | .sarImm x0 x1 x2 x3 => Sys2Proof.Machine.execSarImm x0 x1 x2 x3 s
  | .rorImm x0 x1 x2 x3 => Sys2Proof.Machine.execRorImm x0 x1 x2 x3 s
  | .min x0 x1 x2 x3 => Sys2Proof.Machine.execMin x0 x1 x2 x3 s
  | .max x0 x1 x2 x3 => Sys2Proof.Machine.execMax x0 x1 x2 x3 s
  | .set x0 x1 x2 x3 => Sys2Proof.Machine.execSet x0 x1 x2 x3 s
  | .setImm x0 x1 x2 x3 => Sys2Proof.Machine.execSetImm x0 x1 x2 x3 s
  | .sel x0 x1 x2 => Sys2Proof.Machine.execSel x0 x1 x2 s
  | .clz x0 x1 x2 => Sys2Proof.Machine.execClz x0 x1 x2 s
  | .ctz x0 x1 x2 => Sys2Proof.Machine.execCtz x0 x1 x2 s
  | .popc x0 x1 x2 => Sys2Proof.Machine.execPopc x0 x1 x2 s
  | .bswap x0 x1 => Sys2Proof.Machine.execBswap x0 x1 s
  | .ext x0 x1 x2 x3 => Sys2Proof.Machine.execExt x0 x1 x2 x3 s
  | .ins x0 x1 x2 => Sys2Proof.Machine.execIns x0 x1 x2 s
  | .extImm x0 x1 x2 x3 x4 => Sys2Proof.Machine.execExtImm x0 x1 x2 x3 x4 s
  | .insImm x0 x1 x2 x3 => Sys2Proof.Machine.execInsImm x0 x1 x2 x3 s
  | .lim x0 x1 => Sys2Proof.Machine.execLim x0 x1 s
  | .addpc x0 x1 => Sys2Proof.Machine.execAddpc x0 x1 s
  | .lea x0 x1 x2 x3 => Sys2Proof.Machine.execLea x0 x1 x2 x3 s
  | .ld x0 x1 x2 x3 => Sys2Proof.Machine.execLd x0 x1 x2 x3 s
  | .st x0 x1 x2 x3 => Sys2Proof.Machine.execSt x0 x1 x2 x3 s
  | .ldaq x0 x1 x2 x3 => Sys2Proof.Machine.execLdaq x0 x1 x2 x3 s
  | .strl x0 x1 x2 x3 => Sys2Proof.Machine.execStrl x0 x1 x2 x3 s
  | .amo x0 x1 x2 x3 x4 x5 => Sys2Proof.Machine.execAmo x0 x1 x2 x3 x4 x5 s
  | .cas x0 x1 x2 x3 x4 => Sys2Proof.Machine.execCas x0 x1 x2 x3 x4 s
  | .fence x0 x1 x2 => Sys2Proof.Machine.execFence x0 x1 x2 s
  | .ifence x0 => Sys2Proof.Machine.execIfence x0 s
  | .vfence x0 => Sys2Proof.Machine.execVfence x0 s
  | .b x0 x1 x2 x3 => Sys2Proof.Machine.execB x0 x1 x2 x3 s
  | .j x0 => Sys2Proof.Machine.execJ x0 s
  | .call x0 => Sys2Proof.Machine.execCall x0 s
  | .jr x0 x1 => Sys2Proof.Machine.execJr x0 x1 s
  | .btab x0 x1 x2 => Sys2Proof.Machine.execBtab x0 x1 x2 s
  | .bvany x0 x1 => Sys2Proof.Machine.execBvany x0 x1 s
  | .bvall x0 x1 => Sys2Proof.Machine.execBvall x0 x1 s
  | .fadd x0 x1 x2 x3 x4 => Sys2Proof.Machine.execFadd x0 x1 x2 x3 x4 s
  | .fsub x0 x1 x2 x3 x4 => Sys2Proof.Machine.execFsub x0 x1 x2 x3 x4 s
  | .fmul x0 x1 x2 x3 x4 => Sys2Proof.Machine.execFmul x0 x1 x2 x3 x4 s
  | .fdiv x0 x1 x2 x3 x4 => Sys2Proof.Machine.execFdiv x0 x1 x2 x3 x4 s
  | .fsqrt x0 x1 x2 x3 => Sys2Proof.Machine.execFsqrt x0 x1 x2 x3 s
  | .fmin x0 x1 x2 x3 => Sys2Proof.Machine.execFmin x0 x1 x2 x3 s
  | .fmax x0 x1 x2 x3 => Sys2Proof.Machine.execFmax x0 x1 x2 x3 s
  | .fcmp x0 x1 x2 x3 x4 => Sys2Proof.Machine.execFcmp x0 x1 x2 x3 x4 s
  | .fcvt x0 x1 x2 x3 x4 => Sys2Proof.Machine.execFcvt x0 x1 x2 x3 x4 s
  | .fmov x0 x1 x2 x3 => Sys2Proof.Machine.execFmov x0 x1 x2 x3 s
  | .fclass x0 x1 x2 => Sys2Proof.Machine.execFclass x0 x1 x2 s
  | .fma x0 x1 x2 x3 x4 x5 => Sys2Proof.Machine.execFma x0 x1 x2 x3 x4 x5 s
  | .crld x0 x1 => Sys2Proof.Machine.execCrld x0 x1 s
  | .crst x0 x1 => Sys2Proof.Machine.execCrst x0 x1 s
  | .semts x0 => Sys2Proof.Machine.execSemts x0 s
  | .semtry x0 x1 => Sys2Proof.Machine.execSemtry x0 x1 s
  | .semclr x0 => Sys2Proof.Machine.execSemclr x0 s
  | .sysc x0 => Sys2Proof.Machine.execSysc x0 s
  | .trap x0 x1 => Sys2Proof.Machine.execTrap x0 x1 s
  | .tret => Sys2Proof.Machine.execTret s
  | .idle => Sys2Proof.Machine.execIdle s
  | .idleX => Sys2Proof.Machine.execIdleX s
  | .brk x0 => Sys2Proof.Machine.execBrk x0 s
  | .migrC => Sys2Proof.Machine.execMigrC s
  | .migrV => Sys2Proof.Machine.execMigrV s
  | .csrr x0 x1 => Sys2Proof.Machine.execCsrr x0 x1 s
  | .csrw x0 x1 => Sys2Proof.Machine.execCsrw x0 x1 s
  | .csrx x0 x1 x2 => Sys2Proof.Machine.execCsrx x0 x1 x2 s
  | .launch x0 x1 x2 => Sys2Proof.Machine.execLaunch x0 x1 x2 s
  | .signal x0 x1 x2 => Sys2Proof.Machine.execSignal x0 x1 x2 s
  | .waitsig x0 x1 x2 => Sys2Proof.Machine.execWaitsig x0 x1 x2 s
  | .gbar => Sys2Proof.Machine.execGbar s
  | .blind x0 => Sys2Proof.Machine.execBlind x0 s
  | .setvl x0 x1 => Sys2Proof.Machine.execSetvl x0 x1 s
  | .setvt x0 x1 => Sys2Proof.Machine.execSetvt x0 x1 s
  | .setmr x0 x1 => Sys2Proof.Machine.execSetmr x0 x1 s
  | .tld x0 x1 x2 => Sys2Proof.Machine.execTld x0 x1 x2 s
  | .tst x0 x1 x2 => Sys2Proof.Machine.execTst x0 x1 x2 s
  | .tcvt x0 x1 x2 x3 => Sys2Proof.Machine.execTcvt x0 x1 x2 x3 s
  | .tmma x0 x1 x2 x3 x4 => Sys2Proof.Machine.execTmma x0 x1 x2 x3 x4 s
  | .tmmaS x0 x1 x2 x3 x4 x5 x6 => Sys2Proof.Machine.execTmmaS x0 x1 x2 x3 x4 x5 x6 s
  | .tsend x0 x1 x2 => Sys2Proof.Machine.execTsend x0 x1 x2 s
  | .tsync => Sys2Proof.Machine.execTsync s
  | .convoy x0 => Sys2Proof.Machine.execConvoy x0 s
  | .vld x0 x1 x2 x3 x4 => Sys2Proof.Machine.execVld x0 x1 x2 x3 x4 s
  | .vlds x0 x1 x2 x3 x4 x5 => Sys2Proof.Machine.execVlds x0 x1 x2 x3 x4 x5 s
  | .vldx x0 x1 x2 x3 x4 x5 => Sys2Proof.Machine.execVldx x0 x1 x2 x3 x4 x5 s
  | .vst x0 x1 x2 x3 => Sys2Proof.Machine.execVst x0 x1 x2 x3 s
  | .vsts x0 x1 x2 x3 x4 => Sys2Proof.Machine.execVsts x0 x1 x2 x3 x4 s
  | .vstx x0 x1 x2 x3 x4 => Sys2Proof.Machine.execVstx x0 x1 x2 x3 x4 s
  | .vsave x0 x1 => Sys2Proof.Machine.execVsave x0 x1 s
  | .vrstr x0 x1 => Sys2Proof.Machine.execVrstr x0 x1 s
  | .vadd x0 x1 x2 x3 => Sys2Proof.Machine.execVadd x0 x1 x2 x3 s
  | .vsub x0 x1 x2 x3 => Sys2Proof.Machine.execVsub x0 x1 x2 x3 s
  | .vmul x0 x1 x2 x3 => Sys2Proof.Machine.execVmul x0 x1 x2 x3 s
  | .vmulh x0 x1 x2 x3 => Sys2Proof.Machine.execVmulh x0 x1 x2 x3 s
  | .vand x0 x1 x2 x3 => Sys2Proof.Machine.execVand x0 x1 x2 x3 s
  | .vor x0 x1 x2 x3 => Sys2Proof.Machine.execVor x0 x1 x2 x3 s
  | .vxor x0 x1 x2 x3 => Sys2Proof.Machine.execVxor x0 x1 x2 x3 s
  | .vshl x0 x1 x2 x3 => Sys2Proof.Machine.execVshl x0 x1 x2 x3 s
  | .vshr x0 x1 x2 x3 => Sys2Proof.Machine.execVshr x0 x1 x2 x3 s
  | .vsar x0 x1 x2 x3 => Sys2Proof.Machine.execVsar x0 x1 x2 x3 s
  | .vmin x0 x1 x2 x3 => Sys2Proof.Machine.execVmin x0 x1 x2 x3 s
  | .vmax x0 x1 x2 x3 => Sys2Proof.Machine.execVmax x0 x1 x2 x3 s
  | .vsadd x0 x1 x2 x3 => Sys2Proof.Machine.execVsadd x0 x1 x2 x3 s
  | .vssub x0 x1 x2 x3 => Sys2Proof.Machine.execVssub x0 x1 x2 x3 s
  | .vfadd x0 x1 x2 x3 x4 => Sys2Proof.Machine.execVfadd x0 x1 x2 x3 x4 s
  | .vfsub x0 x1 x2 x3 x4 => Sys2Proof.Machine.execVfsub x0 x1 x2 x3 x4 s
  | .vfmul x0 x1 x2 x3 x4 => Sys2Proof.Machine.execVfmul x0 x1 x2 x3 x4 s
  | .vfdiv x0 x1 x2 x3 x4 => Sys2Proof.Machine.execVfdiv x0 x1 x2 x3 x4 s
  | .vfma x0 x1 x2 x3 x4 => Sys2Proof.Machine.execVfma x0 x1 x2 x3 x4 s
  | .vfsqrt x0 x1 x2 x3 => Sys2Proof.Machine.execVfsqrt x0 x1 x2 x3 s
  | .vfmin x0 x1 x2 x3 => Sys2Proof.Machine.execVfmin x0 x1 x2 x3 s
  | .vfmax x0 x1 x2 x3 => Sys2Proof.Machine.execVfmax x0 x1 x2 x3 s
  | .vfexp2 x0 x1 x2 x3 => Sys2Proof.Machine.execVfexp2 x0 x1 x2 x3 s
  | .vfrcp x0 x1 x2 x3 => Sys2Proof.Machine.execVfrcp x0 x1 x2 x3 s
  | .vcvt x0 x1 x2 x3 x4 => Sys2Proof.Machine.execVcvt x0 x1 x2 x3 x4 s
  | .vqenc x0 x1 x2 => Sys2Proof.Machine.execVqenc x0 x1 x2 s
  | .vqdec x0 x1 x2 => Sys2Proof.Machine.execVqdec x0 x1 x2 s
  | .vhbfly x0 x1 x2 x3 x4 => Sys2Proof.Machine.execVhbfly x0 x1 x2 x3 x4 s
  | .vscale x0 x1 x2 x3 x4 => Sys2Proof.Machine.execVscale x0 x1 x2 x3 x4 s
  | .vperm x0 x1 x2 x3 => Sys2Proof.Machine.execVperm x0 x1 x2 x3 s
  | .vslide x0 x1 x2 x3 x4 => Sys2Proof.Machine.execVslide x0 x1 x2 x3 x4 s
  | .vsplat x0 x1 x2 => Sys2Proof.Machine.execVsplat x0 x1 x2 s
  | .vmerge x0 x1 x2 x3 => Sys2Proof.Machine.execVmerge x0 x1 x2 x3 s
  | .vcompr x0 x1 x2 => Sys2Proof.Machine.execVcompr x0 x1 x2 s
  | .vidx x0 x1 => Sys2Proof.Machine.execVidx x0 x1 s
  | .vmvx x0 x1 x2 => Sys2Proof.Machine.execVmvx x0 x1 x2 s
  | .vmxv x0 x1 x2 => Sys2Proof.Machine.execVmxv x0 x1 x2 s
  | .vcmp x0 x1 x2 x3 x4 => Sys2Proof.Machine.execVcmp x0 x1 x2 x3 x4 s
  | .kop x0 x1 x2 x3 x4 => Sys2Proof.Machine.execKop x0 x1 x2 x3 x4 s
  | .kpopc x0 x1 x2 => Sys2Proof.Machine.execKpopc x0 x1 x2 s
  | .kfirst x0 x1 x2 => Sys2Proof.Machine.execKfirst x0 x1 x2 s
  | .kmov x0 x1 x2 => Sys2Proof.Machine.execKmov x0 x1 x2 s
  | .vred x0 x1 x2 x3 x4 x5 x6 => Sys2Proof.Machine.execVred x0 x1 x2 x3 x4 x5 x6 s
  | .vscan x0 x1 x2 x3 x4 x5 x6 => Sys2Proof.Machine.execVscan x0 x1 x2 x3 x4 x5 x6 s
  | .vamo x0 x1 x2 x3 x4 x5 x6 x7 x8 => Sys2Proof.Machine.execVamo x0 x1 x2 x3 x4 x5 x6 x7 x8 s
  | .vamom x0 x1 x2 x3 x4 x5 x6 x7 x8 => Sys2Proof.Machine.execVamom x0 x1 x2 x3 x4 x5 x6 x7 x8 s
  | .mzero x0 => Sys2Proof.Machine.execMzero x0 s
  | .mma x0 x1 x2 x3 x4 => Sys2Proof.Machine.execMma x0 x1 x2 x3 x4 s
  | .mrd x0 x1 x2 x3 x4 => Sys2Proof.Machine.execMrd x0 x1 x2 x3 x4 s
  | .mwr x0 x1 x2 => Sys2Proof.Machine.execMwr x0 x1 x2 s
  | .xproj x0 x1 x2 x3 => Sys2Proof.Machine.execXproj x0 x1 x2 x3 s
  | .xprojb x0 x1 x2 x3 x4 => Sys2Proof.Machine.execXprojb x0 x1 x2 x3 x4 s
  | .xmerge x0 x1 => Sys2Proof.Machine.execXmerge x0 x1 s
  | .xhload x0 x1 x2 => Sys2Proof.Machine.execXhload x0 x1 x2 s
  | .xhstore x0 x1 x2 => Sys2Proof.Machine.execXhstore x0 x1 x2 s
  | .scld x0 x1 x2 x3 => Sys2Proof.Machine.execScld x0 x1 x2 x3 s
  | .scst x0 x1 x2 x3 => Sys2Proof.Machine.execScst x0 x1 x2 x3 s
  | .ctld x0 x1 => Sys2Proof.Machine.execCtld x0 x1 s
  | .ctst x0 x1 => Sys2Proof.Machine.execCtst x0 x1 s
  | .cpy x0 x1 x2 x3 => Sys2Proof.Machine.execCpy x0 x1 x2 x3 s
  | .cpywt x0 => Sys2Proof.Machine.execCpywt x0 s
  | .cpycan x0 => Sys2Proof.Machine.execCpycan x0 s
  | .colbind x0 x1 => Sys2Proof.Machine.execColbind x0 x1 s
  | .colfree x0 => Sys2Proof.Machine.execColfree x0 s
  | .colwait x0 => Sys2Proof.Machine.execColwait x0 s
  | .nput x0 x1 x2 x3 => Sys2Proof.Machine.execNput x0 x1 x2 x3 s
  | .nget x0 x1 x2 x3 => Sys2Proof.Machine.execNget x0 x1 x2 x3 s
  | .namo x0 x1 x2 x3 x4 x5 => Sys2Proof.Machine.execNamo x0 x1 x2 x3 x4 x5 s
  | .nflush x0 x1 => Sys2Proof.Machine.execNflush x0 x1 s
  | .vloop x0 x1 => Sys2Proof.Machine.execVloop x0 x1 s
  | .powerUp => Sys2Proof.Machine.execPowerUp s
  | .stringRailReady => Sys2Proof.Machine.execStringRailReady s
  | .systemFirmwareLoad => Sys2Proof.Machine.execSystemFirmwareLoad s
  | .configRequestRetry => Sys2Proof.Machine.execConfigRequestRetry s
  | .fundamentalReset => Sys2Proof.Machine.execFundamentalReset s
  | .powerRemoval => Sys2Proof.Machine.execPowerRemoval s
  | .railFault x0 => Sys2Proof.Machine.execRailFault x0 s
  | .stringMeasurement x0 x1 x2 x3 => Sys2Proof.Machine.execStringMeasurement x0 x1 x2 x3 s
  | .blindPeriodEnd x0 => Sys2Proof.Machine.execBlindPeriodEnd x0 s
  | .temperatureSample x0 => Sys2Proof.Machine.execTemperatureSample x0 s
  | .bellowsAllocation x0 x1 x2 x3 => Sys2Proof.Machine.execBellowsAllocation x0 x1 x2 x3 s
  | .portPointChangeDone x0 => Sys2Proof.Machine.execPortPointChangeDone x0 s
  | .mctpSetPowerLimit x0 => Sys2Proof.Machine.execMctpSetPowerLimit x0 s
  | .mctpRemoveStringPower => Sys2Proof.Machine.execMctpRemoveStringPower s
  | .mctpTelemetryRead => Sys2Proof.Machine.execMctpTelemetryRead s
  | .queueDoorbell x0 => Sys2Proof.Machine.execQueueDoorbell x0 s
  | .queueDisableObserved x0 => Sys2Proof.Machine.execQueueDisableObserved x0 s
  | .recordCheck x0 => Sys2Proof.Machine.execRecordCheck x0 s
  | .recordReady x0 => Sys2Proof.Machine.execRecordReady x0 s
  | .gangDispatch x0 => Sys2Proof.Machine.execGangDispatch x0 s
  | .priorityPromotion x0 => Sys2Proof.Machine.execPriorityPromotion x0 s
  | .headPin x0 => Sys2Proof.Machine.execHeadPin x0 s
  | .preemptDecision => Sys2Proof.Machine.execPreemptDecision s
  | .gangDeschedule x0 => Sys2Proof.Machine.execGangDeschedule x0 s
  | .gangRestore x0 => Sys2Proof.Machine.execGangRestore x0 s
  | .gangSave x0 => Sys2Proof.Machine.execGangSave x0 s
  | .gangResume x0 => Sys2Proof.Machine.execGangResume x0 s
  | .gangRetire x0 => Sys2Proof.Machine.execGangRetire x0 s
  | .mixWindowEnd x0 => Sys2Proof.Machine.execMixWindowEnd x0 s
  | .peelArrival x0 => Sys2Proof.Machine.execPeelArrival x0 s
  | .asyncTrapTake => Sys2Proof.Machine.execAsyncTrapTake s
  | .timerMatch => Sys2Proof.Machine.execTimerMatch s
  | .deadlockDetect x0 => Sys2Proof.Machine.execDeadlockDetect x0 s
  | .waitTimeout => Sys2Proof.Machine.execWaitTimeout s
  | .waitsigSatisfied => Sys2Proof.Machine.execWaitsigSatisfied s
  | .exchangeStepBegin x0 => Sys2Proof.Machine.execExchangeStepBegin x0 s
  | .exchangeStepComplete x0 => Sys2Proof.Machine.execExchangeStepComplete x0 s
  | .computeStepBegin x0 => Sys2Proof.Machine.execComputeStepBegin x0 s
  | .tmmaComplete => Sys2Proof.Machine.execTmmaComplete s
  | .copyChunkComplete x0 => Sys2Proof.Machine.execCopyChunkComplete x0 s
  | .acqLoadWaitEnd => Sys2Proof.Machine.execAcqLoadWaitEnd s
  | .collectiveChunkReduced x0 x1 x2 x3 => Sys2Proof.Machine.execCollectiveChunkReduced x0 x1 x2 x3 s
  | .remotePacketArrival x0 => Sys2Proof.Machine.execRemotePacketArrival x0 s
  | .adapterResume x0 => Sys2Proof.Machine.execAdapterResume x0 s
  | .remotePageFaultTimeout x0 => Sys2Proof.Machine.execRemotePageFaultTimeout x0 s
  | .remoteAckTimeout x0 => Sys2Proof.Machine.execRemoteAckTimeout x0 s
  | .remoteRefusalArrival x0 x1 => Sys2Proof.Machine.execRemoteRefusalArrival x0 x1 s
  | .namoResponseArrival x0 x1 => Sys2Proof.Machine.execNamoResponseArrival x0 x1 s
  | .regionRevokeAccept x0 => Sys2Proof.Machine.execRegionRevokeAccept x0 s
  | .regionRevokeComplete x0 => Sys2Proof.Machine.execRegionRevokeComplete x0 s
  | .invalidateRange x0 => Sys2Proof.Machine.execInvalidateRange x0 s
  | .invalidateAsid x0 => Sys2Proof.Machine.execInvalidateAsid x0 s
  | .invalidateAll x0 => Sys2Proof.Machine.execInvalidateAll x0 s
  | .invalidationComplete x0 => Sys2Proof.Machine.execInvalidationComplete x0 s
  | .rebeicaMapObject => Sys2Proof.Machine.execRebeicaMapObject s
  | .rebeicaMapPatch => Sys2Proof.Machine.execRebeicaMapPatch s
  | .rebeicaUnmap => Sys2Proof.Machine.execRebeicaUnmap s
  | .rebeicaRequestDone => Sys2Proof.Machine.execRebeicaRequestDone s
  | .hostDoorbell => Sys2Proof.Machine.execHostDoorbell s
  | .mailboxPendClear => Sys2Proof.Machine.execMailboxPendClear s
  | .deviceDoorbell => Sys2Proof.Machine.execDeviceDoorbell s
  | .hostDpendClear => Sys2Proof.Machine.execHostDpendClear s
  | .hostSnpData x0 => Sys2Proof.Machine.execHostSnpData x0 s
  | .hostSnpInv x0 => Sys2Proof.Machine.execHostSnpInv x0 s
  | .hostSnpCur x0 => Sys2Proof.Machine.execHostSnpCur x0 s
  | .hostHdmRequest x0 => Sys2Proof.Machine.execHostHdmRequest x0 s
  | .poolBackInvalidate x0 => Sys2Proof.Machine.execPoolBackInvalidate x0 s
  | .poolPortDown => Sys2Proof.Machine.execPoolPortDown s
  | .debugNonceRequest => Sys2Proof.Machine.execDebugNonceRequest s
  | .debugGrant x0 x1 x2 x3 => Sys2Proof.Machine.execDebugGrant x0 x1 x2 x3 s
  | .debugRevoke => Sys2Proof.Machine.execDebugRevoke s
  | .debugHalt x0 => Sys2Proof.Machine.execDebugHalt x0 s
  | .debugResume x0 => Sys2Proof.Machine.execDebugResume x0 s
  | .debugSingleStep x0 => Sys2Proof.Machine.execDebugSingleStep x0 s
  | .debugRegisterAccess x0 x1 x2 => Sys2Proof.Machine.execDebugRegisterAccess x0 x1 x2 s
  | .debugMemoryAccess x0 x1 x2 x3 => Sys2Proof.Machine.execDebugMemoryAccess x0 x1 x2 x3 s
  | .registerWrite x0 x1 x2 => Sys2Proof.Machine.execRegisterWrite x0 x1 x2 s
  | .queueEnableObserved x0 => Sys2Proof.Machine.execQueueEnableObserved x0 s
  | .poolPortUp => Sys2Proof.Machine.execPoolPortUp s
  | .managementControllerInterrupt => Sys2Proof.Machine.execManagementControllerInterrupt s
  | .refillBoundary x0 x1 => Sys2Proof.Machine.execRefillBoundary x0 x1 s
  | .collectivePeerFreed x0 x1 => Sys2Proof.Machine.execCollectivePeerFreed x0 x1 s
  | .collectivePeerUnreachable x0 x1 => Sys2Proof.Machine.execCollectivePeerUnreachable x0 x1 s
end Sys2Proof.Machine
end

