-- ==== Sys2Proof/Machine/Turn.lean ====
section
/-! DEFINITION. What the machine does next: an event, or the acting hart's next instruction (02:R63; 03:R81; 07:R204; 12:R331,
R346). Where several things may come next, the free choice decides (log 3, log 4). -/
namespace Sys2Proof.Machine
open Sys2Proof

/-! ## Registers an instruction waits for (07:R204) -/

/-- The instruction names a pending register. -/
def Hart.mustWait (h : Hart) (i : Instr) : Bool :=
  let p := h.pendingX
  !p.isEmpty && (xRegs i).any (fun r => r != 0 && p.contains r)

/-! ## Events the device may bring about -/

/-- Queues with a byte of their descriptor listed in memory. -/
def listedQueues (s : State) : List Nat :=
  ((s.mem.filter (fun c => decide (Config.scb ≤ c.1) && decide (c.1 < Config.scb + 0x10000))).map
    (fun c => (c.1 - Config.scb) / 64)).eraseDups
def schedEvents (s : State) : List Instr :=
  (listedQueues s).filterMap (fun q => if canCheck s q then some (Instr.recordCheck q) else none) ++
  s.sched.heads.filterMap (fun h =>
    if !h.ready && served (s.desc h.queue) && headReady s h != some false then some (Instr.recordReady h.queue) else none) ++
  s.sched.heads.filterMap (fun h => if h.ready && h.eff < 7 then some (Instr.priorityPromotion h.queue) else none) ++
  s.sched.heads.filterMap (fun h => if h.ready && !h.pinned then some (Instr.headPin h.queue) else none) ++
  (match schedNext s with | some (h, _) => [Instr.gangDispatch h.queue] | none => []) ++
  (if (victims s).isEmpty then [] else [Instr.preemptDecision]) ++
  s.gangs.flatMap (fun g =>
    (if canDeschedule s g then [Instr.gangDeschedule g.id] else []) ++
    (if g.run == .saved true && wakes s g then [Instr.gangRestore g.id] else []) ++
    (if canSave s g then [Instr.gangSave g.id] else []) ++
    (if g.run == .saved false && resumeTurn s g && (resumePlace s g).isSome then [Instr.gangResume g.id] else []) ++
    (if canRetire s g then [Instr.gangRetire g.id] else []) ++
    (if g.cls == .t && exchangeDue s g then [Instr.exchangeStepComplete g.id] else []))
def hartEvents (s : State) : List Instr :=
  (List.range s.running.length).map Instr.copyChunkComplete ++
  s.harts.flatMap (fun h =>
    (h.bindings.filter (fun b => (chunkReduced s h.id b.vd [] false).isSome)).map (fun b => Instr.collectiveChunkReduced h.id b.vd [] false) ++
    (h.bindings.filter (fun b => b.err != 1 && !(strangers s h b).isEmpty)).map (fun b => Instr.collectiveChunkReduced h.id b.vd [] true) ++
    (if h.blind != 0 then [Instr.blindPeriodEnd h.id] else []) ++
    (if h.mixReady then [Instr.mixWindowEnd h.id] else [])) ++
  (if s.hart.tmma.isSome then [Instr.tmmaComplete] else []) ++
  (match s.timeouts with | (none, none) => [] | _ => [Instr.waitTimeout]) ++
  (if s.hart.timecmp != BitVec.allOnes 64 && s.time.ult s.hart.timecmp then [Instr.timerMatch] else [])
def unitEvents (s : State) : List Instr :=
  (s.files.map (·.1)).filterMap (fun n => if deadlocked s n then some (Instr.deadlockDetect n) else none) ++
  (s.invRunning.filter (fun n => !getInRange s (s.inv n))).map Instr.invalidationComplete ++
  (if s.rebeica.pending.isSome then [Instr.rebeicaRequestDone] else []) ++
  (s.adapter.stalled.map (fun p => Instr.remotePageFaultTimeout p.1)) ++
  (((s.remoteOps.filter (·.begun)).map (·.conn)).eraseDups).map Instr.remoteAckTimeout ++
  (if s.adapter.rnum = 0 then []
   else
    let r := Config.pick s.tick % s.adapter.rnum.toNat
    if bitsOf (s.region r) 125 124 == 2 && !s.adapter.revoking.contains r then [Instr.regionRevokeAccept r] else []) ++
  (s.adapter.revoking.filter (revokeDone s)).map Instr.regionRevokeComplete ++
  (List.range 16).filterMap (fun p =>
    match s.bellows.ports.toList[p]? with
    | some x => if x.point != x.target then some (Instr.portPointChangeDone p) else none
    | none => none)
/-- Everything the device may do next of its own accord. -/
def deviceEvents (s : State) : List Instr := schedEvents s ++ hartEvents s ++ unitEvents s

/-! ## Whose turn it is -/

/-- The agenda's first event is due: as many instructions as `hold` says have come before it (log 3). -/
def State.due (s : State) : Option Instr :=
  match s.agenda with
  | [] => none
  | e :: _ => (match s.hold with | [] | 0 :: _ => some e | _ => none)
/-- The event leaves the agenda. -/
def State.popEvent (s : State) : State := { s with agenda := s.agenda.tail, hold := s.hold.tail }
/-- An instruction comes before the next event. -/
def State.countHold (s : State) : State :=
  match s.hold with
  | (n + 1) :: t => { s with hold := n :: t }
  | _ => s
/-- Another hart acts; the one that acted comes last. -/
def State.swap (s : State) (n : Nat) : State :=
  match s.others[n]? with
  | some h => { s with hart := h, others := s.others.drop (n + 1) ++ s.others.take n ++ [s.hart] }
  | none => s
/-- `turns` names the hart to act: 0 the same, n + 1 the n-th of the others. With none named, a hart that waits lets the
next act. -/
def State.takeTurn (s : State) : State :=
  match s.turns with
  | [] => if s.hart.waitOn.isSome then s.swap 0 else s
  | 0 :: t => { s with turns := t }
  | (n + 1) :: t => ({ s with turns := t } : State).swap n
/-- The hart has work on either side: a single step's vector work goes on while the scalar side is halted (12:R346). -/
def Hart.acts (h : Hart) : Bool := h.live' || (h.resident && !h.dead && h.halted && h.stepping)
/-- A hart that can act acts. -/
def State.rotate (s : State) : State :=
  if s.hart.acts then s
  else
    match s.others.findIdx? Hart.acts with
    | some n => s.swap n
    | none => s
def State.count (s : State) : State := { s with tick := s.tick + 1 }

/-! ## The next thing -/

/-- What comes next: an instruction at the acting hart's pc, an event, or an outcome that needs neither. -/
inductive Next
  | instr (i : Instr) (s : State)
  | event (e : Instr) (s : State)
  | out (r : Host.Outcome State Fault Refusal)

/-- The vector side goes on with its queue; an error names the state it leaves. -/
def vectorGoes (s : State) : Except Stop Unit × State :=
  if s.hart.vq.isEmpty then (.ok (), s) else runM drainAll s
/-- A convoy whose next member waits for what an earlier member writes starts before it is whole (04:R138, log 50). -/
def Hart.startConvoy (h : Hart) : Hart :=
  match h.vq with
  | q :: t => if h.holdsHeader q t then h.pop 1 else h
  | [] => h
/-- The acting hart's instruction at pc; where it names a pending register the hart waits, and where its window is full, for the
window's end (03:R100); one that reads a register in error takes DATAERR (12:R349). -/
def hartNext (s : State) : Next :=
  if s.hart.mixFull then .out (.next s.count)
  else
  match fetch s with
  | .trap c v s' => .out (takeTrap s' c v s.hart.pc)
  | .instr i s' =>
    if s'.hart.mustWait i then .out (.next { s'.count with hart := s'.hart.startConvoy })
    else
      match s'.hart.inError (issueReads i) with
      | some v => .out (takeTrap s' .dataerr v s.hart.pc)
      | none => .instr i s'
/-- A hart that has work (a halted one ends its step where its vector side stops, and takes no trap: 12:R346): asynchronous traps first, then the vector side, then the scalar side. -/
def hartTurn (s : State) : Next :=
  match s.asyncNow with
  | some _ => .event .asyncTrapTake s
  | none =>
    match vectorGoes s with
    | (.error e, s') =>
      .out (if (s.hart.halted || s.hart.stepping) && e != .wait then
          .next { s'.count with hart := { s'.hart with halted := true, stepping := false } }
        else finish s.hart.pc (.error e, s'.count))
    | (.ok _, s') =>
      if s'.hart.halted then .out (.next { s'.count with hart := { s'.hart with stepping := !s'.hart.vq.isEmpty } })
      else if s'.hart.live' then hartNext s'
      else .out (.next s'.count)
/-- The device's own events may come first. -/
def mayAct (s : State) (l : List Instr) : Next :=
  match l with
  | [] => if s.hart.acts then hartTurn s else .out (.next s.count)
  | e :: t =>
    if s.hart.acts && Config.choice s.tick 1 then hartTurn s
    else .event ((e :: t).getD (Config.pick s.tick % (t.length + 1)) e) s
/-- A host read of a mailbox register, where the host reads one (11:R328). -/
def hostReads (s : State) (off : Nat) : State :=
  if off = 0 || 0x1000 ≤ off || off % 8 != 0 then s
  else
    let v : Word := match off / 8 with
      | 1 => if s.mailbox.pend then 1 else 0
      | 2 => s.mailbox.ddata
      | 3 => if s.mailbox.dpend then 1 else 0
      | _ => 0
    { s with out := s.out ++ [.hostData off v] }
/-- L2 evicts a Host-class line, an M line with its data (11:R325). -/
def evictLine (s : State) (line : Nat) : State :=
  match s.hostLines.lookup line with
  | none => s
  | some m =>
    { dropLine s line with out := s.out ++ [.evict line (if m == .m then some (memReadN s.mem (64 * line) 64) else none)] }
/-- What reaches the package from outside (log 34). -/
def State.strike (s : State) (u : Stimulus) : Host.Outcome State Fault Refusal :=
  if !s.up then .next s
  else
    match u with
    | .granule pa =>
      .next (if (paClass pa).isSome && !s.bad.contains (granuleOf pa) then { s with bad := granuleOf pa :: s.bad } else s)
    | .peel id => .next (s.modHarts (fun h => h.id == id && h.flying.isSome) (fun h => { h with peelErr := true }))
    | .register file reg =>
      .next (if s.hart.live' && decide (file.toNat < 10) then
        { s with hart := { s.hart with badRegs := addNew s.hart.badRegs (file.toNat, reg.toNat) } } else s)
    | .device ids a => .next (raiseMcheck s (fun h => ids.contains h.id) (mcheckV 5 a))
    | .enable l => .next (s.enablePort l)
    | .hdmSize n => .next (if n ≤ 2048 then { s with hdm := 2 ^ 28 * n } else s)
    | .evict line => .next (evictLine s line)
    | .hostRead off => .next (hostReads s off)
    | .resend c m first => .next (sendAgain s c m first)
/-- A packet of a remote operation may be sent next (10:R293, 15:R431). -/
def maySend (s : State) : Option State :=
  match s.toSend with
  | [] => none
  | p :: t =>
    if Config.choice s.tick 2 then
      let q := (p :: t).getD (Config.pick s.tick % (t.length + 1)) p
      some (sendPacket s q.1 q.2)
    else none
/-- What comes next while the package runs. -/
def State.runsNext (s : State) : Next :=
  match maySend s with
  | some t => .out (.next t.count)
  | none => mayAct s.takeTurn.rotate (deviceEvents s.takeTurn.rotate)
/-- What comes next. -/
def State.whatNext (s : State) : Next :=
  match s.stimuli with
  | u :: t => .out (({ s.count with stimuli := t } : State).strike u)
  | [] =>
    match s.due with
    | some e => .event e s.popEvent
    | none => if s.up then s.runsNext else .out (.fault .packageStopped)

/-! ## After it -/

/-- A branch or jump, which may leave pc where it was. -/
def isJump : Instr → Bool
  | .b .. | .j _ | .jr .. | .call _ | .btab .. => true
  | _ => false
/-- The instruction at s's pc has taken a trap. -/
def trappedAt (i : Instr) (s t : State) : Bool :=
  let vec := if t.hart.lv == .m then t.hart.mtvec else t.hart.ktvec
  t.hart.lv != .a && !t.hart.ie && t.hart.pc == (vec.setWidth 64) <<< 2 && t.hart.bank.trappc == s.hart.pc.setWidth 56 &&
  (!isJump i || t.hart.kb != s.hart.kb || t.hart.mb != s.hart.mb)
/-- The instruction has been committed: the hart has left its pc, other than by a trap, or it was a branch (to itself). -/
def committed (i : Instr) (s t : State) : Bool :=
  t.hart.waitOn.isNone && (t.hart.pc != s.hart.pc || isJump i) && !trappedAt i s t
/-- Instructions for which a C hart is moved to V (02:R52, R53). -/
def callsV (i : Instr) : Bool :=
  match i with
  | .bvany .. | .bvall .. => true
  | _ => isPosted i
/-- A C hart's instruction has moved it to V, or would have done so where the move could be made (03:R100). -/
def mixMoved (i : Instr) (s t : State) : Bool :=
  s.hart.cls == .c && callsV i && (t.hart.flying == some .v || (trappedAt i s t && t.hart.bank.trapc == 7))
/-- The window's counts after an instruction: those committed, those posted on V, and those that call a C hart to V (03:R100). -/
def Hart.countMix (h : Hart) (i : Instr) (s t : State) : Hart :=
  if !h.migMix || 2 ^ 16 ≤ h.mixCount then h
  else
    let n := if committed i s t then 1 else 0
    { h with mixCount := h.mixCount + n, mixHits := h.mixHits + (if s.hart.cls == .v && isPosted i then n else 0),
             mixMoves := h.mixMoves + (if mixMoved i s t then 1 else 0) }
/-- A hart that steps halts again, outside any convoy, once its vector work has completed or stopped. -/
def Hart.endStep (h : Hart) : Hart :=
  if h.stepping && h.convoyLeft == 0 then { h with halted := true, stepping := !h.vq.isEmpty } else h
/-- A hart that steps halts again too where another hart or an event has ended its wait (12:R346). -/
def stepsEnd (s t : State) : State :=
  t.modHarts (fun h => h.stepping && !h.halted && (s.hartOf h.id).any (fun o => o.pc != h.pc)) Hart.endStep
/-- A convoy is over where something other than a member executes (04:R138). -/
def State.leaveConvoy (s : State) (i : Instr) : State :=
  if s.hart.convoyLeft != 0 && !isPosted i then { s with hart := { s.hart with convoyLeft := 0 } } else s
/-- In a single step the vector side stands while the instruction executes: what it posts is worked off by the halted hart, which takes
no trap (12:R346). -/
def State.heldBack (s : State) : State := if s.hart.stepping then { s with pace := (0, 0) :: s.pace } else s
def State.letGo (s t : State) : State := if s.hart.stepping then { t with pace := s.pace } else t
/-- After an instruction. -/
def afterInstr (i : Instr) (s : State) (r : Host.Outcome State Fault Refusal) : Host.Outcome State Fault Refusal :=
  match r with
  | .next t =>
    let t := stepsEnd s (s.letGo t).count.countHold
    if t.hart.id != s.hart.id then .next t
    else if committed i s t then .next { t with hart := ((t.hart.cleanse (issueWrites i)).countMix i s t).endStep }
    else if t.hart.pc != s.hart.pc then .next { t with hart := (t.hart.countMix i s t).endStep }
    else .next { t with hart := t.hart.countMix i s t }
  | r => r
/-- After an event: one that cannot happen in this state does not. -/
def afterEvent (s : State) (r : Host.Outcome State Fault Refusal) : Host.Outcome State Fault Refusal :=
  match r with
  | .next t => .next (stepsEnd s t.count)
  | .refused (.notEnabled _) => .next s.count
  | r => r

end Sys2Proof.Machine
end

