-- ==== Sys2Proof/Machine/Step.lean ====
section
/-! DEFINITION. One step of the machine, and the placing of an instruction where it fetches. -/
namespace Sys2Proof.Machine
open Sys2Proof

/-- One event, or one instruction of the acting hart (Turn says which). -/
def step (s : State) : Host.Outcome State Fault Refusal :=
  match s.whatNext with
  | .instr i t => afterInstr i t (exec i (t.leaveConvoy i).heldBack)
  | .event e t => afterEvent t (exec e t)
  | .out r => r

/-- s with an instruction of nbits bits stored at the acting hart's pc, the bits above zero. -/
def State.withFetchWord (s : State) (nbits w : Nat) : State :=
  placeCode s s.hart.pc.toNat (leBytes 8 (w % 2 ^ nbits))

end Sys2Proof.Machine
end

