-- ==== Sys2Proof/Safety.lean ====
section
/-! DEFINITION. What a safe run is, in the terms statements use. -/
namespace Sys2Proof.Machine
open Sys2Proof

/-- A step that ends neither in a fault nor in a refusal. -/
def Runs (o : Host.Outcome State Fault Refusal) : Prop := ∃ t, o = .next t

/-- The invariant of memory: its canonical form (no address twice, none out of order, no zero byte listed). -/
def State.memOk (s : State) : Prop := Memory.wf s.mem = true

/-! ## Words for statements: results of scalar instructions -/

/-- Width of a scalar operation, in bits: 64, or 32 in a W form (13:R361). -/
def opWidth (w : Bool) : Nat := if w then 32 else 64
/-- The n-bit operand a register holds, signed or with `u` unsigned (13:R361). -/
def operand (w u : Bool) (v : Word) : Int :=
  let x := v.toNat % 2 ^ opWidth w
  if u then x else Int.bmod x (2 ^ opWidth w)
/-- An exact result wrapped to n bits and sign-extended to 64 (13:R361). -/
def narrowed (w : Bool) (x : Int) : Word := BitVec.ofInt 64 (x.bmod (2 ^ opWidth w))

/-- The destination of an instruction that changes one x register and nothing else but pc. -/
def xDest : Instr → Option Reg
  | .add d _ _ _ | .sub d _ _ _ | .mul d _ _ _ | .mulh d _ _ _ _ | .div d _ _ _ _ | .rem d _ _ _ _ | .and d _ _ | .or d _ _
  | .xor d _ _ | .andn d _ _ | .shl d _ _ _ | .shr d _ _ _ | .sar d _ _ _ | .ror d _ _ _ | .min d _ _ _ | .max d _ _ _
  | .set d _ _ _ | .sel d _ _ | .ext d _ _ _ | .ins d _ _ | .lea d _ _ _ | .addImm d _ _ | .andImm d _ _ | .orImm d _ _
  | .xorImm d _ _ | .shlImm d _ _ _ | .shrImm d _ _ _ | .sarImm d _ _ _ | .rorImm d _ _ _ | .setImm d _ _ _ | .clz d _ _
  | .ctz d _ _ | .popc d _ _ | .bswap d _ | .extImm d _ _ _ _ | .insImm d _ _ _ | .lim d _ | .addpc d _ => some d
  | _ => none

/-- Two states that differ in nothing but x register d and pc: every byte of memory reads the same. -/
def State.onlyX (d : Reg) (s t : State) : Prop :=
  (∀ r, r ≠ d → t.getX r = s.getX r) ∧ t.getX 0 = 0 ∧ (∀ a, memRead t.mem a = memRead s.mem a) ∧
  t = { s with hart := { s.hart with x := t.hart.x, pc := t.hart.pc } }

/-! ## Words for statements: memory -/

/-- What a hart's scalar read of translated bytes returns: memory, with the bytes of stores of its own that its scalar side does not see
yet as they were before them (07:R218; 10:R290, R293). -/
def State.scalarSees (s : State) (pas : List Nat) : List Byte := s.sees false 0 pas
/-- A later store of the hart, none that a store follows by p, already stands at an address: that store leaves memory alone there. -/
def State.coveredBy (s : State) (p : Unseen → Bool) (pas : List Nat) (a : Nat) : Bool := (byteBefore (s.splitBy p pas).2 a).isSome
/-- The same for a plain store of a side: a store that this side does not see yet stands there. -/
def State.covered (s : State) (vec : Bool) (pas : List Nat) (a : Nat) : Bool := s.coveredBy (Unseen.precedes s vec) pas a
/-- Addresses whose bytes stores may change freely: not those of invalidation blocks (09:R262) and of the trip map (01:R22). -/
def plainPa (pa : Nat) : Bool := !inInv pa && !(decide (Config.scb + 0x21100 ≤ pa) && decide (pa < Config.scb + 0x21160))
/-- Nothing of what is unseen differs but that the acting hart's sides see more of its stores. -/
def State.seesMore (s t : State) : Prop :=
  (∀ u, u.owner ≠ s.hart.id → (u ∈ t.unseen ↔ u ∈ s.unseen)) ∧
  ∀ u, u ∈ t.ownUnseen s.hart.id → ∃ w, w ∈ s.ownUnseen s.hart.id ∧ u = { w with toS := u.toS, toV := u.toV } ∧
    (w.toS = true → u.toS = true) ∧ (w.toV = true → u.toV = true)
/-- n bytes from va translate to pas, no check stops the access, and none lies in the Device range (physCheck with false). -/
def State.reaches (s : State) (k : AccKind) (va : Word) (n : Nat) (pas : List Nat) : Prop :=
  xlatN s s.ctx k va n = .ok pas ∧ physCheck s k va pas false = .ok ()
/-- An access of n bytes from va faults at the lowest address at which one of them cannot be reached: below it every byte translates and
passes the checks; there a byte fails a check, or does not translate (14:R416; 15:R449, R454). `dev` where the Device range may be
reached. -/
def State.faults (s : State) (k : AccKind) (va : Word) (n : Nat) (dev : Bool) (c : Cause) (v : Word) : Prop :=
  let stops (low : List Nat) (pa : Nat) (all : List Nat) : Prop :=
    (∀ p, p ∈ low → byteFault s k dev all p = none) ∧ byteFault s k dev all pa = some c ∧ v = va + BitVec.ofNat 64 low.length
  (∃ low pa high, xlatN s s.ctx k va n = .ok (low ++ pa :: high) ∧ stops low pa (low ++ pa :: high)) ∨
  (∃ c0 v0 got, xlatN s s.ctx k va n = .error (c0, v0) ∧ xlatEach s s.ctx k va n va (v0 - va).toNat = .ok got ∧
    (((∀ p, p ∈ got → byteFault s k dev got p = none) ∧ c = c0 ∧ v = v0) ∨
      ∃ low pa high, got = low ++ pa :: high ∧ stops low pa got))
/-- A scalar store of bytes b at pas: each lands as the control block lets it (09:R262, 01:R22), or leaves memory alone where a later
store stands; every other byte reads as before. A store of several accesses to an invalidation block shows one byte at a time. -/
def State.wroteAs (s : State) (after : Unseen → Bool) (t : State) (pas : List Nat) (b : List Byte) : Prop :=
  (∀ a, a ∉ pas → memRead t.mem a = memRead s.mem a) ∧
  (pas.Nodup → ∀ (k p : Nat) (x : Byte), pas[k]? = some p → b[k]? = some x →
    inInv p = false ∨ pas.length ≤ 8 ∧ pas.headD 0 % pas.length = 0 →
    memRead t.mem p = if s.coveredBy after pas p then memRead s.mem p else landsAs s.mem p x)
def State.wrote (s t : State) (pas : List Nat) (b : List Byte) : Prop := s.wroteAs (Unseen.precedes s false) t pas b
/-- The same of an atomic's write, which follows the stores that its read sees (10:R287). -/
def State.wroteAtomic (s t : State) (pas : List Nat) (b : List Byte) : Prop := s.wroteAs (Unseen.fixed s false) t pas b
/-- Every byte of memory reads as before. -/
def State.sameMem (s t : State) : Prop := ∀ a, memRead t.mem a = memRead s.mem a
/-- Nothing differs but the acting hart, memory with the stores not seen yet, and what follows accesses: the translations an agent
holds, the lines L2 and the directory track, messages sent, and the events a write of the control block brings about. -/
def State.accessOnly (s t : State) : Prop :=
  t = { s with hart := t.hart, mem := t.mem, unseen := t.unseen, bad := t.bad, tlb := t.tlb, walks := t.walks, hostLines := t.hostLines,
               hostCopies := t.hostCopies, poolLines := t.poolLines, out := t.out, agenda := t.agenda }
/-- x register d holds v, or d is x0; no other register of the hart differs but pc, one parcel on, and the count of its stores. -/
def State.gotX (s t : State) (d : Reg) (v : Word) : Prop :=
  t.hart = { (s.hart.setX d v) with pc := s.hart.pc + 4, stores := t.hart.stores }
/-- No register of the hart differs but pc, one parcel on, and the count of its stores. -/
def State.wentOn (s t : State) : Prop := t.hart = { s.hart with pc := s.hart.pc + 4, stores := t.hart.stores }

/-! ## Words for statements: scalar floating point -/

/-- The exact value a scalar operation rounds (14:R397, R401, R403): destination, format, mode, and the value with the flags its
operands raise. FMIN and FMAX are exact, so their mode does not show. -/
def State.fpExact (s : State) : Instr → Option (Reg × FFmt × Rm × (FV × Flags))
  | .fadd d a b f r => some (d, f, r, addF r (s.hart.readF f a) (s.hart.readF f b))
  | .fsub d a b f r => some (d, f, r, subF r (s.hart.readF f a) (s.hart.readF f b))
  | .fmul d a b f r => some (d, f, r, mulF (s.hart.readF f a) (s.hart.readF f b))
  | .fdiv d a b f r => some (d, f, r, divF (s.hart.readF f a) (s.hart.readF f b))
  | .fsqrt d a f r => some (d, f, r, sqrtF (s.hart.readF f a))
  | .fmin d a b f => some (d, f, .rne, maxMinF false (s.hart.readF f a) (s.hart.readF f b))
  | .fmax d a b f => some (d, f, .rne, maxMinF true (s.hart.readF f a) (s.hart.readF f b))
  | .fma d a b c f r => some (d, f, r, fmaF r (s.hart.readF f a) (s.hart.readF f b) (s.hart.readF f c))
  | .fcvt d a (.toF g) f r => some (d, g, r, (s.hart.readF f a, 0))
  | .fcvt d a (.ofI t) f r =>
    some (d, f, r, (ofInt (if intTySigned t then Int.bmod (s.getX a).toNat (2 ^ intTyW t)
      else ((s.getX a).toNat % 2 ^ intTyW t : Nat)), 0))
  | _ => none
/-- The format a scalar operation reads, which must exist on the hart's class as well (04:R114, 14:R401). -/
def fpSource : Instr → Option FFmt
  | .fcvt _ _ (.toF _) f _ | .fcvt _ _ (.toI _) f _ => some f
  | _ => none
/-- The value of a finite number. -/
def fvRat : FV → Rat
  | .fin n m e => (if n then -1 else 1) * (m : Rat) * (2 : Rat) ^ e
  | _ => 0

/-- The rounded result r of a non-zero value v in a format, n its sign (06:R175-R177): one of the two multiples of one ulp that bracket v,
as the mode chooses, or what the mode makes of an overflow. NX tells whether it differs from v. -/
def roundsTo (f : Fmt) (mode : Rm) (d : Nat) (n : Bool) (v : ℝ) (r : Nat × Flags) : Prop :=
  ∀ g : Int, (2 : ℝ) ^ g ≤ |v| → |v| < (2 : ℝ) ^ (g + 1) →
    let ulp : ℝ := (2 : ℝ) ^ (max g (emin f) - (f.mw : Int))
    let most : ℝ := (fvRat (decodeF f false (maxBits f)) : ℚ)
    let toInf : Bool := match mode with | .rtz => false | .rup => !n | .rdn => n | _ => true
    ∃ k : Int,
      let y : ℝ := (k : ℝ) * ulp
      |y - v| < ulp ∧
      (match mode with
        | .rne => |y - v| ≤ ulp / 2 ∧ (|y - v| = ulp / 2 → k % 2 = 0)
        | .rtz => |y| ≤ |v|
        | .rup => v ≤ y
        | .rdn => y ≤ v
        | .rna => |y - v| ≤ ulp / 2 ∧ (|y - v| = ulp / 2 → |v| ≤ |y|)
        | .sr => |v| < |y| ↔ 2 ^ 16 ≤ ⌊(|v| / ulp - ⌊|v| / ulp⌋) * 2 ^ 16⌋ + (d : Int)) ∧
      (|y| ≤ most → r.2 &&& flagOF = 0 ∧ (r.2 &&& flagNX = 0 ↔ y = v) ∧
        ∃ m e, decodeF f false r.1 = .fin n m e ∧ ((fvRat (.fin n m e) : ℚ) : ℝ) = y) ∧
      (most < |y| → r.2 = flagOF ||| flagNX ∧ r.1 = signBits f n + (if toInf then infBits f else maxBits f))

/-! ## Words for statements: the vector side -/

/-- A V hart with nothing on its vector side: an empty queue, no register bound to a stream, and nothing that makes the side rest. -/
def State.vIdle (s : State) : Prop :=
  s.hart.cls = .v ∧ s.hart.vq = [] ∧ s.hart.bindings = [] ∧ s.hart.rest = none ∧ s.hart.badRegs = [] ∧ s.pace = []
/-- Every section that an instruction would use is resident (05:R164): posted, it takes no LAZY. -/
def State.usable (s : State) (i : Instr) : Prop := s.hart.lazyMask s.hart.pcfg.vt i = 0
/-- The state in which an instruction of n parcels posted on an idle V hart starts at VCP (07:R201, R205). -/
def State.vPosted (s : State) (n : Nat) (i : Instr) : State :=
  { s with hart := { s.hart with pc := s.hart.pc + BitVec.ofNat 64 (4 * n), vq := [entryAt s.hart i s.hart.pc], ves := 0,
                                 lix := ⟨false, 0, 0⟩, stopped := none, desc := none, convoyLeft := s.hart.convoyLeft - 1 } }
/-- The state after it, but for its own effect: the queue is empty, and VCP names it (05:R155). -/
def State.vDone (s : State) (n : Nat) : State :=
  { s with hart := { s.hart with pc := s.hart.pc + BitVec.ofNat 64 (4 * n), vcp := BitVec.ofNat 54 (s.hart.pc.toNat / 4), ves := 0,
                                 lix := ⟨false, 0, 0⟩, stopped := none, desc := none, convoyLeft := s.hart.convoyLeft - 1,
                                 waitV := s.hart.waitV.over ((BitVec.ofNat 54 (s.hart.pc.toNat / 4)).setWidth 64 <<< 2) } }
/-- Below n elements of width w, v holds f at every active one and zero at the others where the predicate zeroes; elsewhere it is
old (16:R464). -/
def Hart.eltsAre (h : Hart) (n w : Nat) (m : Pred) (f : Nat → Nat) (old v : VReg) : Prop :=
  ∀ j, w * (j + 1) ≤ 16384 → getE w v.toNat j =
    if j < n then (if h.active m.k j then f j % 2 ^ w else if m.kz then 0 else getE w old.toNat j) else getE w old.toNat j
/-- The instruction has completed: f in the active elements of v register d, and nothing else but what its completion changes. -/
def State.wroteV (s t : State) (i : Instr) (d : Reg) (w : Nat) (m : Pred) (f : Nat → Nat) : Prop :=
  ∃ v, t = { s.vDone 2 with hart := ((s.vDone 2).hart.setV d v).mark (marks i) } ∧
    s.hart.eltsAre s.hart.vlN w m f (s.hart.getV d) v
/-- The generator after n draws (06:R178). -/
def seedAfter (mode : Rm) (seed : Word) : Nat → Word
  | 0 => seed
  | n + 1 => (drawFor mode (seedAfter mode seed n)).2
/-- Active elements below j. -/
def Hart.activeBelow (h : Hart) (k : BitVec 3) (j : Nat) : Nat := ((List.range j).filter (h.active k)).length
/-- The draw of element j: one for each active element below it came before (06:R178). -/
def Hart.drawAt (h : Hart) (mode : Rm) (k : BitVec 3) (j : Nat) : Nat :=
  (drawFor mode (seedAfter mode h.srseed (h.activeBelow k j))).1
/-- Flags of every active element below n. -/
def Hart.flagsBelow (h : Hart) (k : BitVec 3) (n : Nat) (fl : Nat → Flags) : Flags :=
  ((List.range n).filter (h.active k)).foldl (fun a j => a ||| fl j) 0
/-- The result and flags of element j with its draw. -/
def Hart.eltResult (h : Hart) (mode : Rm) (k : BitVec 3) (f : Nat → Nat → Nat × Flags) (j : Nat) : Nat × Flags :=
  f j (h.drawAt mode k j)
/-- No active element below n raises an enabled flag. -/
def Hart.quietBelow (h : Hart) (mode : Rm) (k : BitVec 3) (f : Nat → Nat → Nat × Flags) (n : Nat) : Prop :=
  ∀ j, j < n → h.active k j = true → trapping h.fen (h.eltResult mode k f j).2 = 0
/-- What n elements of rounded results make of the hart (06:R178, R181). -/
def Hart.afterElts (h : Hart) (i : Instr) (d : Reg) (v : VReg) (mode : Rm) (k : BitVec 3) (f : Nat → Nat → Nat × Flags) (n : Nat)
    (extra : Flags) : Hart :=
  { (h.setV d v).mark (marks i) with
    fflags := h.fflags ||| (h.flagsBelow k n (fun j => (h.eltResult mode k f j).2) ||| extra)
    srseed := seedAfter mode h.srseed (h.activeBelow k n) }
/-- The instruction has completed with rounded results f in the active elements of v register d, which holds v. -/
def State.roundedTo (s t : State) (i : Instr) (d : Reg) (w : Nat) (m : Pred) (mode : Rm) (f : Nat → Nat → Nat × Flags) (v : VReg) :
    Prop :=
  t = { s.vDone 2 with hart := (s.vDone 2).hart.afterElts i d v mode m.k f s.hart.vlN 0 } ∧
    s.hart.eltsAre s.hart.vlN w m (fun j => (s.hart.eltResult mode m.k f j).1) (s.hart.getV d) v
def State.rounded (s t : State) (i : Instr) (d : Reg) (w : Nat) (m : Pred) (mode : Rm) (f : Nat → Nat → Nat × Flags) : Prop :=
  ∃ v, s.roundedTo t i d w m mode f v
/-- The instruction takes FPTRAP at element e: the elements below it are done, VES names it (06:R181; 07:R205; 12:R332). -/
def State.fpStopsAt (s : State) (o : Host.Outcome State Fault Refusal) (i : Instr) (d : Reg) (w : Nat) (m : Pred) (mode : Rm)
    (f : Nat → Nat → Nat × Flags) (e : Nat) : Prop :=
  let own := (s.hart.eltResult mode m.k f e).2
  ∃ v, o = takeTrap { s.vPosted 2 i with
      hart := { (s.vPosted 2 i).hart.afterElts i d v mode m.k f e own with ves := BitVec.ofNat 32 e } }
    .fptrap (BitVec.ofNat 64 (e * 2 ^ 32 + (trapping s.hart.fen own).toNat)) (s.hart.pc + 8) ∧
    s.hart.eltsAre e w m (fun j => (s.hart.eltResult mode m.k f j).1) (s.hart.getV d) v
/-- An exact value rounded into format f (06:R175, R181). -/
def roundedInto (f : Fmt) (mode : Rm) (ftz : Bool) (x : FV × Flags) (dr : Nat) : Nat × Flags :=
  let y := roundTo f mode ftz dr x.1
  (y.1, y.2 ||| x.2)
/-- The instruction has completed having written mask d: bits at VL and above are zero (05:R149). -/
def State.wroteK (s t : State) (i : Instr) (d : BitVec 3) (m : Pred) (f : Nat → Bool) (fl : Flags) : Prop :=
  ∃ v : KReg, t = { s.vDone 2 with
      hart := { ((s.vDone 2).hart.setK d v).mark (marks i) with fflags := s.hart.fflags ||| fl } } ∧
    ∀ j, j < 4096 → v.getLsbD j =
      (decide (j < s.hart.vlN) && (if s.hart.active m.k j then f j else !m.kz && (s.hart.getK d).getLsbD j))
/-- The active elements of a v register, each with its number: what a reduction combines. -/
def Hart.redLeaf (h : Hart) (a : Reg) (k : BitVec 3) (j : Nat) : Option Nat :=
  if decide (j < h.vlN) && h.active k j then some (getE h.sew (h.getV a).toNat j) else none
/-- Op on values that may be absent, each with the flags raised in forming it (06:R193). -/
def redJoin (op : Nat → Nat → Nat × Flags) (x y : Option Nat × Flags) : Option Nat × Flags :=
  match x.1, y.1 with
  | none, _ => (y.1, x.2 ||| y.2)
  | _, none => (x.1, x.2 ||| y.2)
  | some a, some b => (some (op a b).1, x.2 ||| y.2 ||| (op a b).2)
/-- Node(b, 2^n) of 06:R193. -/
def redNode (op : Nat → Nat → Nat × Flags) (leaf : Nat → Option Nat) : Nat → Nat → Option Nat × Flags
  | 0, b => (leaf b, 0)
  | n + 1, b => redJoin op (redNode op leaf n b) (redNode op leaf n (b + 2 ^ n))
/-- The nodes that make up the first c elements of the block of 2^n at b, the largest first. -/
def prefixNodes (op : Nat → Nat → Nat × Flags) (leaf : Nat → Option Nat) : Nat → Nat → Nat → List (Option Nat × Flags)
  | 0, b, c => if c = 0 then [] else [(leaf b, 0)]
  | n + 1, b, c =>
    if c = 2 ^ (n + 1) then [redNode op leaf (n + 1) b]
    else if c < 2 ^ n then prefixNodes op leaf n b c
    else redNode op leaf n b :: prefixNodes op leaf n (b + 2 ^ n) (c - 2 ^ n)
/-- The combination of the first c elements in tree order (17:R505). -/
def redPrefix (op : Nat → Nat → Nat × Flags) (leaf : Nat → Option Nat) (c : Nat) : Option Nat × Flags :=
  (prefixNodes op leaf 15 0 c).foldl (redJoin op) (none, 0)
/-- A combination of two floating elements: the exact sum rounded, or the maximum or minimum (06:R174, R193). -/
def Hart.redFloat (h : Hart) (o : RedOp) (mode : Rm) (dr x y : Nat) : Nat × Flags :=
  let f := etFmt h.et
  let a := decodeF f h.ftz x
  let b := decodeF f h.ftz y
  roundedInto f mode h.ftz (match o with | .max => maxMinF true a b | .min => maxMinF false a b | _ => addF mode a b) dr
/-- Left to right over values, with a draw for each combination: value, flags and generator (17:R500). -/
def redLinear (op : Nat → Nat → Nat → Nat × Flags) (mode : Rm) :
    List Nat → Option Nat × Flags × Word → Option Nat × Flags × Word
  | [], a => a
  | x :: t, (none, fl, seed) => redLinear op mode t (some x, fl, seed)
  | x :: t, (some y, fl, seed) =>
    let r := op (drawFor mode seed).1 y x
    redLinear op mode t (some r.1, fl ||| r.2, (drawFor mode seed).2)
/-- The operation of an integer reduction (06:R174, R193). -/
def redInt (o : RedOp) (sg : Bool) (w x y : Nat) : Nat :=
  match o with
  | .sum => (x + y) % 2 ^ w
  | .max => if readInt sg w x < readInt sg w y then y else x
  | .min => if readInt sg w y < readInt sg w x then y else x
  | .and => x &&& y
  | .or => x ||| y
  | .xor => x ^^^ y
/-- A combination of two elements with a draw, and the mode its draws follow: an integer one makes none. -/
def Hart.redStep (h : Hart) (o : RedOp) (mode : Rm) (dr x y : Nat) : Nat × Flags :=
  if etIsInt h.et then (redInt o (etSigned h.et) h.sew x y, 0) else h.redFloat o mode dr x y
def Hart.redMode (h : Hart) (r : RmDyn) : Rm := if etIsInt h.et then .rne else h.rmOf r
/-- The element types and operations of a reduction (17:R499). -/
def Hart.redAllowed (h : Hart) (o : RedOp) (r : RmDyn) : Prop :=
  (etIsInt h.et = true ∧ r = .st .rne) ∨
  (etIsIeee h.et = true ∧ (o = .sum ∨ o = .max ∨ o = .min))
/-- The active elements of a v register below n. -/
def Hart.redElts (h : Hart) (a : Reg) (k : BitVec 3) (n : Nat) : List Nat := (List.range n).filterMap (h.redLeaf a k)
/-- A reduction or scan on its way: the nodes formed, by level and first element (06:R193), the flags raised, the generator, and the
flags of the combination that traps, after which nothing more is formed. -/
structure RedRun where
  op : Nat → Nat → Nat → Nat × Flags
  mode : Rm
  en : Flags
  node : Nat → Nat → Option Nat
  fl : Flags
  seed : Word
  stop : Option Flags
/-- Op of two values that may be absent, with one draw where both are present. -/
def RedRun.join (r : RedRun) (x y : Option Nat) : Option Nat × RedRun :=
  match r.stop, x, y with
  | some _, _, _ => (none, r)
  | none, none, y => (y, r)
  | none, x, none => (x, r)
  | none, some a, some b =>
    let z := r.op (drawFor r.mode r.seed).1 a b
    if trapping r.en z.2 ≠ 0 then (none, { r with stop := some z.2 })
    else (some z.1, { r with fl := r.fl ||| z.2, seed := (drawFor r.mode r.seed).2 })
/-- Element j joins: every block that ends after it is formed, the smallest first. -/
def RedRun.form (leaf : Nat → Option Nat) (r : RedRun) (j : Nat) : RedRun :=
  (List.range 15).foldl (fun r n =>
    if (j + 1) % 2 ^ (n + 1) = 0 then
      let b := j + 1 - 2 ^ (n + 1)
      let z := r.join (r.node n b) (r.node n (b + 2 ^ n))
      { z.2 with node := fun l c => if l = n + 1 ∧ c = b then z.1 else r.node l c }
    else r) { r with node := fun l c => if l = 0 ∧ c = j then leaf j else r.node l c }
def RedRun.formed (leaf : Nat → Option Nat) (r : RedRun) (n : Nat) : RedRun := (List.range n).foldl (RedRun.form leaf) r
/-- The blocks that make up the first c elements, the largest first: level and first element. -/
def blocksOf (c : Nat) : List (Nat × Nat) :=
  ((List.range 16).reverse.filter fun n => c.testBit n).map fun n => (n, c / 2 ^ (n + 1) * 2 ^ (n + 1))
/-- Their combination from the left: a scan's result. -/
def RedRun.over (r : RedRun) (c : Nat) : Option Nat × RedRun :=
  (blocksOf c).foldl (fun a p => a.2.join a.1 (a.2.node p.1 p.2)) (none, r)
/-- Node(0, W): their combination from the smallest on. -/
def RedRun.whole (r : RedRun) (c : Nat) : Option Nat × RedRun :=
  (blocksOf c).reverse.foldl (fun a p => a.2.join (a.2.node p.1 p.2) a.1) (none, r)
/-- The first n elements combined in order from x. -/
def RedRun.linear (leaf : Nat → Option Nat) (r : RedRun) (x : Option Nat) (n : Nat) : Option Nat × RedRun :=
  (List.range n).foldl (fun a j => a.2.join a.1 (leaf j)) (x, r)
/-- A scan of n elements in tree order: the results of the active ones, and the run. -/
def RedRun.scan (leaf : Nat → Option Nat) (r : RedRun) (n : Nat) : (Nat → Option Nat) × RedRun :=
  (List.range n).foldl (fun a j =>
    let r := a.2.form leaf j
    if (leaf j).isSome then
      let z := r.over (j + 1)
      (fun k => if k = j then z.1 else a.1 k, z.2)
    else (a.1, r)) (fun _ => none, r)
/-- The shadow register as a stop at element e leaves it (07:R211): slots of 64 bits, of which slot 0 tells the element, the order and
which values are present. -/
def redShadow (vlen e : Nat) (lin : Bool) (value : Nat → Option Nat) (old new : VReg) : Prop :=
  let held (b : Nat) : Bool := decide (64 * (b + 2) ≤ vlen) && (value b).isSome
  let pres := ((List.range 15).map fun b => if held b then 2 ^ b else 0).sum
  ∀ j, 64 * (j + 1) ≤ 16384 → getE 64 new.toNat j =
    if j = 0 then e * 2 ^ 32 + (if lin then 2 ^ 16 else 0) + pres
    else if j < 16 ∧ 64 * (j + 1) ≤ vlen then (value (j - 1)).getD 0 % 2 ^ 64 else getE 64 old.toNat j
/-- A reduction or scan takes FPTRAP at element t (17:R501, R505): flags and generator as the run below t leaves them, with the flags f of
the combination that traps; a scan's results below t are written; a stop past element 0 leaves its values in the shadow. Posted, nothing
has stopped it. -/
def State.redStops (s : State) (i : Instr) (d : Reg) (sh : BitVec 1) (lin scan : Bool) (m : Pred) (t : Nat) (f : Flags) (fl : Flags)
    (seed : Word) (value : Nat → Option Nat) (results : Nat → Option Nat) : Prop :=
  let h := s.hart
  s.usable i → ∃ v x : VReg,
    (if scan = true then h.eltsAre t h.sew m (fun j => (results j).getD 0) (h.getV d) v else v = h.getV d) ∧
    (t ≠ 0 → redShadow h.vlen t lin value (h.getSh sh) x) ∧
    let g : Hart := { ((s.vPosted 2 i).hart.setV d v).mark (marks i) with
      fflags := h.fflags ||| fl ||| f, srseed := seed, ves := BitVec.ofNat 32 t }
    exec i s = takeTrap { s.vPosted 2 i with hart := if t = 0 then g else (g.setSh sh x).mark (secBit 11) } .fptrap
      (BitVec.ofNat 64 (t * 2 ^ 32 + (trapping h.fen f).toNat)) (h.pc + 8)
/-- The instruction has completed: v in v register d, flags added, the generator at seed. -/
def State.vGot (s : State) (i : Instr) (d : Reg) (v : VReg) (fl : Flags) (seed : Word) : State :=
  { s.vDone 2 with hart := { ((s.vDone 2).hart.setV d v).mark (marks i) with fflags := s.hart.fflags ||| fl, srseed := seed } }
/-- The instruction stops at element e of a mask it writes: the bits below e are done (06:R181). -/
def State.kStopsAt (s : State) (o : Host.Outcome State Fault Refusal) (i : Instr) (d : BitVec 3) (m : Pred) (f : Nat → Bool)
    (fl : Nat → Flags) (e : Nat) : Prop :=
  ∃ v : KReg, o = takeTrap { s.vPosted 2 i with
      hart := { ((s.vPosted 2 i).hart.setK d v).mark (marks i) with
        fflags := s.hart.fflags ||| (s.hart.flagsBelow m.k e fl ||| fl e), ves := BitVec.ofNat 32 e } }
    .fptrap (BitVec.ofNat 64 (e * 2 ^ 32 + (trapping s.hart.fen (fl e)).toNat)) (s.hart.pc + 8) ∧
    ∀ j, j < 4096 → v.getLsbD j =
      if j < e then (if s.hart.active m.k j then f j else !m.kz && (s.hart.getK d).getLsbD j) else (s.hart.getK d).getLsbD j
/-- A trap that an instruction at VCP raises is a stop, which sets the bits of what it writes (05:R163). -/
def Hart.stoppedBy (h : Hart) (i : Instr) : Hart := { h.mark (marks i) with desc := none }
/-- It has come to VCP on an idle V hart, and stops there with nothing else done (07:R206). -/
def State.vStopped (s : State) (n : Nat) (i : Instr) : State := { s.vPosted n i with hart := (s.vPosted n i).hart.stoppedBy i }
/-- ILLEGAL at VCP where nothing stops it at post: the instruction is not one under the type that stands there (16:R465). -/
def State.vIllegal (s : State) (i : Instr) : Prop := s.usable i → exec i s = takeTrap (s.vStopped 2 i) .illegal (illegalV i) (s.hart.pc + 8)
/-- A conversion's operands, its types and its mode (16:R476, R477; 17:R497, R498). -/
def State.convForm (s : State) : Instr → Option (Reg × Reg × Pred × ET × ET × Rm)
  | .vcvt d a e r m => some (d, a, m, s.hart.et, e, s.hart.rmOf r)
  | .vqenc d a m => if etIsIeee s.hart.et then some (d, a, m, s.hart.et, .code8, .rne) else none
  | .vqdec d a m => if etIsIeee s.hart.et then some (d, a, m, .code8, s.hart.et, .rne) else none
  | _ => none
/-- The exact value and flags a floating element-wise instruction rounds at element j, its destination, mode and predicate
(16:R478, R479; 17:R504). -/
def State.vfExact (s : State) : Instr → Option (Reg × Pred × Rm × (Nat → FV × Flags))
  | i =>
    let h := s.hart
    let el (r : Reg) (j : Nat) : FV := decodeF (etFmt h.et) h.ftz (getE h.sew (h.getV r).toNat j)
    let fs (r : Reg) : FV := decodeF (etFmt h.et) h.ftz ((s.hart.getF r).toNat % 2 ^ h.sew)
    let src (b : FSrc) (j : Nat) : FV := match b with | .vv r => el r j | .vf r => fs r
    match i with
    | .vfadd d a b r m => some (d, m, h.rmOf r, fun j => addF (h.rmOf r) (el a j) (src b j))
    | .vfsub d a b r m => some (d, m, h.rmOf r, fun j => subF (h.rmOf r) (el a j) (src b j))
    | .vfmul d a b r m => some (d, m, h.rmOf r, fun j => mulF (el a j) (src b j))
    | .vfdiv d a b r m => some (d, m, h.rmOf r, fun j => divF (el a j) (src b j))
    | .vfma d a (.vv b c) r m => some (d, m, h.rmOf r, fun j => fmaF (h.rmOf r) (el a j) (el b j) (el c j))
    | .vfma d a (.vf b c) r m => some (d, m, h.rmOf r, fun j => fmaF (h.rmOf r) (el a j) (fs b) (el c j))
    | .vfsqrt d a r m => some (d, m, h.rmOf r, fun j => sqrtF (el a j))
    | .vfmin d a b m => some (d, m, .rne, fun j => maxMinF false (el a j) (src b j))
    | .vfmax d a b m => some (d, m, .rne, fun j => maxMinF true (el a j) (src b j))
    | .vfexp2 d a r m => some (d, m, h.rmOf r, fun j => exp2F (el a j))
    | .vscale d a sc r m => some (d, m, h.rmOf r, fun j => (scaled (scaleByte (h.getSc sc) h.vc.vt.bl j) (el a j), 0))
    | .vfrcp d a r m => some (d, m, h.rmOf r, fun j => divF (.fin false 1 0) (el a j))
    | _ => none
/-- The element types such an instruction takes (16:R478; 06:R196). -/
def vfTypeOk (e : ET) : Instr → Bool
  | .vfexp2 .. => e == .fp32 || e == .fp16 || e == .bf16
  | _ => e == .fp64 || e == .fp32 || e == .fp16 || e == .bf16

/-! ## Words for statements: traps -/

/-- The banks and registers an entry leaves on a C or T hart (12:R330, R332): bank l receives cause, value, pc, level and IE; IE is
cleared, the level is l, the pc the handler's; what the hart waited for is abandoned, and a TMMA in flight has completed. -/
def State.tookTrap (s t : State) (l : Level) (c : Cause) (v pc : Word) : Prop :=
  let h := s.hart
  let old := if l = .m then h.mb else h.kb
  let b : TrapBank := { old with trapc := BitVec.ofNat 8 c.code, trapv := v, trappc := pc.setWidth 56, plv := h.lv, pie := h.ie }
  t.hart = { h.finishTmma with kb := if l = .m then h.kb else b, mb := if l = .m then b else h.mb, ie := false, lv := l,
                               pc := ((if l = .m then h.mtvec else h.ktvec).setWidth 64) <<< 2, convoyLeft := 0, waitOn := none,
                               gbarHere := false, stepDone := false } ∧
  t = { s with hart := t.hart, files := t.files } ∧
  t.files = s.files.map (fun f => (f.1, { f.2 with waiters := f.2.waiters.filter (fun w => w.2 != h.id) }))
/-- A trap taken at the level 12:R330 gives: on a V hart the vector side stops and its state is written to the level's trap area first
(12:R335), and without a context block the hart takes MCHECK at M instead. -/
def State.traps (s : State) (o : Host.Outcome State Fault Refusal) (c : Cause) (v pc : Word) : Prop :=
  let h := s.hart
  let l := if h.lv = .m ∨ h.mkeep.getLsbD (c.code - 1) = true then Level.m else .k
  let s0 : State := { s.abandonWait with hart := s.abandonWait.hart.finishTmma }
  (h.cls ≠ .v → ∃ t, o = .next t ∧ s.tookTrap t l c v pc) ∧
  (h.cls = .v → h.ctxb ≠ 0 → ∀ s1, runM (writeParts (s.ctxAt false) (h.areaVa l) (areaParts s0.hart)) s0 = (.ok (), s1) →
    o = .next { s1 with hart := (s1.hart.stopVector l).enter l c v pc }) ∧
  (h.cls = .v → h.ctxb = 0 → o = .next { s0 with hart := (s0.hart.stopVector .m).enter .m .mcheck (mcheckV 4 0) pc })
/-- The leaves and the pointers that agents hold agree with the tables as they stand (09:R260, R261). -/
def State.tlbFresh (s : State) : Prop :=
  (∀ e, e ∈ s.tlb → ∀ va, va / 2 ^ e.leaf.lo = e.page → (walk s e.asid va).1 = .ok e.leaf) ∧
  ∀ p, p ∈ s.walks → ∀ va, va / 2 ^ p.2.lo = p.2.page → p.2 ∈ (walk s p.2.asid va).2
/-- No table entry lies among these bytes: whatever they hold, every walk goes as it goes now. -/
def State.apart (s : State) (pas : List Nat) : Prop :=
  ∀ m, (∀ a, a ∉ pas → memRead m a = memRead s.mem a) → ∀ asid va, walk { s with mem := m } asid va = walk s asid va
/-- A hart that has left for another class: it flies to a place taken there, its cycles on the string are counted, its mix starts again,
and what BLIND announced is over (02:R53; 03:R89, R92, R100); a register in error makes the transfer one in error (12:R344). -/
def State.flew (s t : State) (dst : Class) : Prop :=
  t.hart = { (s.hart.leaveWindow s).restartMix 16 with
    pc := s.hart.pc + 4, flying := some dst, resident := false, goal := t.hart.goal, blind := 0, blindSteps := none,
    peelErr := !s.hart.badRegs.isEmpty, badRegs := [] } ∧
  t.hart.goal.isSome ∧ t.agenda = s.agenda ++ [.peelArrival s.hart.id] ∧ t.others = s.others

/-! ## Words for statements: harts of several kinds -/

/-- A T hart's element j of a row of an operand tile pair, scaled where `sc` says so (15:R456; 06:R186). -/
def Hart.tileVal (h : Hart) (e : ET) (sc : Bool) (j : BitVec 2) (r : BitVec 3) (n scN : Nat) : FV :=
  let bits := (h.getW r).toNat + (if e.is16Float then (h.getW (r + 1)).toNat * 2 ^ 8192 else 0)
  let v := readElt e h.ct h.ftz (getE (etSew e) bits n)
  if sc then scaled (scaleByte (h.getSc j) h.vc.vt.bl scN) v else v
/-- Element 16 r + c of a tensor product: the accumulator's element and the products, summed exactly and rounded once (15:R456; 07:R230).
A sparse row holds its terms' values and depths; the elements absent from it count as +0 (06:R192) and form no product (log 25). -/
def Hart.tmmaCell (h : Hart) (d : BitVec 1) (a b : BitVec 3) (sp : Option (Sparse × BitVec 3)) (sc : Bool) (e : ET) (n : Nat) :
    Nat × Flags :=
  let r := n / 16
  let c := n % 16
  let acc := decodeF fmt32 h.ftz (getE 32 (h.getTa d).toNat n)
  let col (k : Nat) := h.tileVal e sc 1 b (64 * c + k) (64 * c + k)
  let prods := match sp with
    | none => (List.range 64).map fun k => mulF (h.tileVal e sc 0 a (64 * r + k) (64 * r + k)) (col k)
    | some (z, m) =>
      let cnt := match z with | .n16 => 16 | .n32 => 32
      ((List.range cnt).map fun t =>
        let k := getE 6 (h.getW m).toNat (cnt * r + t)
        mulF (h.tileVal e sc 0 a (cnt * r + t) (64 * r + k)) (col k)) ++ [(FV.fin false 0 0, 0)]
  let sum := sumExact .rne (acc :: prods.map (·.1))
  let out := roundTo fmt32 .rne h.ftz 0 sum.1
  (out.1, out.2 ||| prods.foldl (fun x p => x ||| p.2) sum.2)
/-- Flags of numbers 0 to n - 1. -/
def orFlags (n : Nat) (fl : Nat → Flags) : Flags := (List.range n).foldl (fun x j => x ||| fl j) 0
/-- An instruction that V harts alone execute: the scalar side posts it (02:R52; 07:R201). -/
def vOnly : Instr → Bool
  | .cpy .. | .cpywt .. | .cpycan .. | .scld .. | .scst .. | .ctld .. | .ctst .. | .blind _ => false
  | .bvany .. | .bvall .. => true
  | i => isPosted i

/-- An integer operation of a captured loop: destination, sources and predicate. -/
def loopInt : Instr → Option (Reg × Reg × VSrc × Pred)
  | .vadd d a b m | .vsub d a b m | .vmul d a b m | .vand d a b m | .vor d a b m | .vxor d a b m => some (d, a, b, m)
  | _ => none
/-- x registers such a body captures. -/
def loopRegs (body : List Instr) : List Reg :=
  body.filterMap fun i => match loopInt i with | some (_, _, .vx r, _) => some r | _ => none
/-- The v registers after one operation of the body: element j of vd below VL, where active, receives its result. -/
def Hart.loopStep (h : Hart) (i : Instr) (v : Vector VReg 32) : Vector VReg 32 :=
  match loopInt i with
  | none => v
  | some (d, a, b, m) =>
    let w := h.sew
    let x (j : Nat) : Nat := getE w (v[a.toNat]'a.isLt).toNat j
    let y (j : Nat) : Nat := match b with
      | .vv r => getE w (v[r.toNat]'r.isLt).toNat j
      | .vx r => (h.getX r).toNat % 2 ^ w
      | .vi i => (i.toInt % 2 ^ w).toNat
    let f (j : Nat) : Nat := match i with
      | .vadd .. => (x j + y j) % 2 ^ w
      | .vsub .. => (x j + 2 ^ w - y j) % 2 ^ w
      | .vmul .. => x j * y j % 2 ^ w
      | .vand .. => x j &&& y j
      | .vor .. => x j ||| y j
      | _ => x j ^^^ y j
    let put (c : Nat) (j : Nat) : Nat := if h.active m.k j then putE w c j (f j) else if m.kz then putE w c j 0 else c
    v.set d.toNat (BitVec.ofNat 16384 ((List.range h.vlN).foldl put (v[d.toNat]'d.isLt).toNat)) d.isLt
/-- A function applied n times. -/
def iterate {α : Type} : Nat → (α → α) → α → α
  | 0, _, x => x
  | n + 1, f, x => iterate n f (f x)

/-! ## Words for statements: vector memory -/

/-- What a hart's vector read of one element's bytes returns: memory, with the bytes of stores of its own that its vector side does not
see yet as they were before them (07:R216-R218; 10:R290). `site` tells one read of an instruction from another. -/
def State.vectorSees (s : State) (site : Nat) (pas : List Nat) : List Byte := s.sees true site pas
/-- Memory after one side of the hart has stored bytes in order: the last one stored at an address remains, where no later store of the
hart stands already; every other byte is as before. -/
def State.storedAs (s : State) (after : Unseen → Bool) (t : State) (cells : List (Nat × Byte)) : Prop :=
  (∀ a, a ∉ cells.map (·.1) → memRead t.mem a = memRead s.mem a) ∧
  ∀ a x, cells.reverse.lookup a = some x → plainPa a = true →
    memRead t.mem a = if s.coveredBy after (cells.map (·.1)) a then memRead s.mem a else x
def State.storedBy (s : State) (vec : Bool) (t : State) (cells : List (Nat × Byte)) : Prop := s.storedAs (Unseen.precedes s vec) t cells
/-- The same of its vector side. -/
def State.stored (s t : State) (cells : List (Nat × Byte)) : Prop := s.storedBy true t cells
/-- Bytes of one element in memory. -/
def Hart.cellBytes (h : Hart) : Nat := max 1 (h.sew / 8)
/-- Where element j of a vector access lies (16:R486); four-bit elements lie two to a byte. -/
def State.vAddr (s : State) (i : Instr) (j : Nat) : Word :=
  let h := s.hart
  let near (x : Reg) (disp : BitVec 21) : Word :=
    s.getX x + disp.signExtend 64 + BitVec.ofNat 64 (if h.sew = 4 then j / 2 else j * (h.sew / 8))
  let far (x t : Reg) (disp : BitVec 21) : Word := s.getX x + disp.signExtend 64 + BitVec.ofNat 64 j * s.getX t
  let by_ (x v : Reg) (sh : BitVec 2) : Word := s.getX x + BitVec.ofNat 64 (getE h.sew (h.getV v).toNat j * 2 ^ sh.toNat)
  match i with
  | .vld _ x disp _ _ | .vst _ x disp _ => near x disp
  | .vlds _ x t disp _ _ | .vsts _ x t disp _ => far x t disp
  | .vldx _ x v sh _ _ | .vstx _ x v sh _ => by_ x v sh
  | .vamo _ _ v x _ _ _ sh _ | .vamom _ _ v x _ _ _ sh _ => by_ x v sh
  | _ => 0
/-- A vector load: destination, .acq, predicate. -/
def loadForm : Instr → Option (Reg × Bool × Pred)
  | .vld d _ _ acq m | .vlds d _ _ _ acq m | .vldx d _ _ _ acq m => some (d, acq, m)
  | _ => none
/-- A vector store: source and mask. -/
def storeForm : Instr → Option (Reg × BitVec 3)
  | .vst d _ _ k | .vsts d _ _ _ k | .vstx d _ _ _ k => some (d, k)
  | _ => none
/-- Four-bit elements move in pairs and by VLD and VST alone (16:R486). -/
def State.nibblesOk (s : State) (i : Instr) : Prop :=
  s.hart.sew ≠ 4 ∨ s.hart.vlN % 2 = 0 ∧ (match i with | .vld .. | .vst .. => True | _ => False)
/-- Element j's access goes through: it is aligned, its bytes translate to pas, and no check stops it (16:R487; 17:R509). -/
def State.eltOk (s : State) (i : Instr) (k : AccKind) (j : Nat) (pas : List Nat) : Prop :=
  (s.hart.sew = 4 ∨ (s.vAddr i j).toNat % s.hart.cellBytes = 0) ∧ s.reaches k (s.vAddr i j) s.hart.cellBytes pas
/-- Why element j's access does not: its lowest byte that fails (16:R487). -/
def State.eltFails (s : State) (i : Instr) (k : AccKind) (j : Nat) (c : Cause) (v : Word) : Prop :=
  let ea := s.vAddr i j
  let misaligned : Prop := s.hart.sew ≠ 4 ∧ ea.toNat % s.hart.cellBytes ≠ 0
  (misaligned ∧ c = .misalign ∧ v = ea) ∨
  (¬ misaligned ∧ s.faults k ea s.hart.cellBytes false c v)
/-- The bytes that the active elements below n of a store write, in their order (17:R508, R510). -/
def State.storeCells (s : State) (src : Nat) (k : BitVec 3) (pas : Nat → List Nat) (n : Nat) : List (Nat × Byte) :=
  let h := s.hart
  let act (j : Nat) : Bool := decide (j < n) && h.active k j
  if h.sew = 4 then
    (List.range ((n + 1) / 2)).flatMap fun b =>
      if act (2 * b) || act (2 * b + 1) then
        let p := if act (2 * b) then pas (2 * b) else pas (2 * b + 1)
        let old := leNat (s.vectorSees 0 p)
        let nib (j c : Nat) := if act j then getE 4 src j else getE 4 old c
        p.map fun a => (a, BitVec.ofNat 8 (nib (2 * b) 0 + 16 * nib (2 * b + 1) 1))
      else []
  else ((List.range n).filter (h.active k)).flatMap fun j =>
    (pas j).zip (leBytes h.cellBytes (trimElt h.et (getE h.sew src j)))
/-- The value element j of a vector atomic of n elements finds: the one in memory after what the atomic follows (10:R287), changed by the
active elements below j at the same location (16:R470). -/
def State.amoOld (s : State) (o : AmoOp) (src : Nat) (k : BitVec 3) (pas : Nat → List Nat) (n j : Nat) : Nat :=
  let h := s.hart
  let late := (s.splitBy (Unseen.fixed s true) (((List.range n).filter (h.active k)).flatMap pas)).2
  ((List.range j).filter (fun p => h.active k p && pas p == pas j)).foldl
    (fun x p => amoOp o h.cellBytes x (getE h.sew src p)) (leNat (s.bytesBefore late (pas j)))
/-- The bytes the active elements below n of a vector atomic write, in their order. -/
def State.amoCells (s : State) (o : AmoOp) (src : Nat) (k : BitVec 3) (pas : Nat → List Nat) (n : Nat) : List (Nat × Byte) :=
  let h := s.hart
  ((List.range n).filter (h.active k)).flatMap fun j =>
    (pas j).zip (leBytes h.cellBytes (amoOp o h.cellBytes (s.amoOld o src k pas n j) (getE h.sew src j)))
/-- A context block's image at base: pas are the bytes' addresses, all different, every 64-byte block of it translates, and neither a
table entry nor an invalidation block lies among them. -/
def State.imageAt (s : State) (base : Word) (pas : List Nat) : Prop :=
  pas.length = imageSize s.hart.lg ∧ pas.Nodup ∧ 1 ≤ s.hart.lg ∧ s.hart.lg ≤ 4 ∧ base.toNat % 64 = 0 ∧ s.bad = [] ∧ s.memOk ∧
  s.ownUnseen s.hart.id = [] ∧ s.tlbFresh ∧ s.apart pas ∧ (∀ p, p ∈ pas → plainPa p = true) ∧
  ∀ o, o % 64 = 0 → o + 64 ≤ imageSize s.hart.lg →
    s.reaches .read (base + BitVec.ofNat 64 o) 64 ((pas.drop o).take 64) ∧
    s.reaches .write (base + BitVec.ofNat 64 o) 64 ((pas.drop o).take 64)

/-! ## Words for statements: tiles, records, engines -/

/-- A V hart with an empty queue that may hold collective bindings. -/
def State.vEmpty (s : State) : Prop :=
  s.hart.cls = .v ∧ s.hart.vq = [] ∧ s.hart.rest = none ∧ s.hart.badRegs = [] ∧ s.pace = []
/-- Element j of row r of a product of tiles with its draw (06:R186, R192; 14:R424): eight products and the accumulator's element. -/
def Hart.mmaVal (h : Hart) (md : BitVec 2) (a b : Reg) (scA scB : BitVec 2) (r j dr : Nat) : Nat × Flags :=
  let w := h.sew
  let old := (h.getM md r).toNat
  let x (k : Nat) : Nat := getE w (h.getV a).toNat (8 * r + k)
  let y (k : Nat) : Nat := getE w (h.getV (b + BitVec.ofNat 5 k)).toNat j
  let val (on : Bool) (sc : BitVec 2) (n v : Nat) : FV :=
    let z := readElt h.et h.ct h.ftz v
    if on && etScaled h.et then scaled (scaleByte (h.getSc sc) h.vc.vt.bl n) z else z
  if h.vc.vt.acc = .int32 then
    let sum : Int := ((List.range 8).map fun k => readInt (etSigned h.et) w (x k) * readInt (etSigned h.et) w (y k)).sum
    ((readInt true 32 (getE 32 old j) + sum) % 2 ^ 32 |>.toNat, 0)
  else
    let f := accFmt h.vc.vt.acc
    let prods := (List.range 8).map fun k => mulF (val h.vc.vt.sa scA (8 * r + k) (x k)) (val h.vc.vt.sb scB j (y k))
    let sum := sumExact h.vc.vt.rm (decodeF f h.ftz (getE (accW h.vc.vt.acc) old j) :: prods.map (·.1))
    let out := roundTo f h.vc.vt.rm h.ftz dr sum.1
    (out.1, out.2 ||| prods.foldl (fun x p => x ||| p.2) sum.2)
/-- Such a product takes the element type, VL and MR (14:R423). -/
def Hart.mmaLegal (h : Hart) : Prop :=
  mmaTypes h.et h.vc.vt.acc = true ∧ 8 * h.vc.mr.toNat * h.sew ≤ h.vlen ∧ h.vlN * accW h.vc.vt.acc ≤ h.vlen
/-- Row r of tile q, changed in a tile alone: nothing else of the hart but the marks, the flags and the generator. -/
def Hart.tilesOnly (h g : Hart) (i : Instr) : Prop :=
  g = { h.mark (marks i) with m := g.m, fflags := g.fflags, srseed := g.srseed }
/-- n elements of a type at va read as the values l. -/
def State.holdsVec (s : State) (ty : ET) (va : Word) (n : Nat) (l : List FV) : Prop :=
  ∃ pas, s.reaches .read va (n * (etSew ty / 8)) pas ∧
    l = (elems (etSew ty) (leNat (memReadAt s.mem pas)) n).map (decodeF (etFmt ty) false)
/-- What a projection reads: its descriptor, the hidden vectors of MR tokens, and the rows of the vocabulary from lo to hi
(08:R235-R237). -/
def State.projects (s : State) (a : Reg) (desc : Word) (bwd : Bool) (x : XDesc) (hid row : Nat → List FV) : Prop :=
  s.ownUnseen s.hart.id = [] ∧ s.tlbFresh ∧ desc.toNat % 64 = 0 ∧ s.hart.vc.mr.toNat ≤ 16 ∧
  (∃ pas, s.reaches .read desc 64 pas ∧ XDesc.parse (leNat (memReadAt s.mem pas)) bwd = some x) ∧
  (∀ t, t < s.hart.vc.mr.toNat → (s.hart.xslot a t).toNat % x.es = 0 ∧ s.holdsVec x.ty (s.hart.xslot a t) x.d (hid t)) ∧
  ∀ v, x.lo ≤ v → v ≤ x.hi → s.holdsVec x.ty (x.wAddr v) x.d (row v)
/-- Memory after bytes have been stored as they are given, the last one at an address remaining. -/
def State.memAfter (s t : State) (cells : List (Nat × Byte)) : Prop :=
  (∀ a, a ∉ cells.map (·.1) → memRead t.mem a = memRead s.mem a) ∧
  ∀ a x, cells.reverse.lookup a = some x → plainPa a = true → memRead t.mem a = x

end Sys2Proof.Machine
end

