-- ==== Sys2Proof/Certificates/Slice0/Obligations.lean ====
section
/-! DEFINITION. The obligations of the model, statement by statement (OBLIGATIONS.json lists them in this order). -/
open Sys2Proof Sys2Proof.Machine

/-- 13:R361, R362; 15:R436; 14:R426: ADD, SUB, MUL and MULH form the exact result of their n-bit operands, wrap it to n bits
(MULH: its upper half) and sign-extend it. -/
def Obligations.AddSubMulResults : Prop :=
  ∀ (s : State) (d a b : Reg) (w u : Bool) (i : BitVec 16),
    exec (.add d a b w) s = .next (s.result d (narrowed w (operand w false (s.getX a) + operand w false (s.getX b)))) ∧
    exec (.sub d a b w) s = .next (s.result d (narrowed w (operand w false (s.getX a) - operand w false (s.getX b)))) ∧
    exec (.addImm d a i) s = .next (s.result d (narrowed false ((s.getX a).toInt + i.toInt))) ∧
    exec (.mul d a b w) s = .next (s.result d (narrowed w (operand w false (s.getX a) * operand w false (s.getX b)))) ∧
    exec (.mulh d a b w u) s =
      .next (s.result d (narrowed w (operand w u (s.getX a) * operand w u (s.getX b) / 2 ^ opWidth w)))

/-- 14:R395, its table row by row: DIV and REM never trap. -/
def Obligations.DivRemResults : Prop :=
  ∀ (s : State) (d a b : Reg) (w u : Bool),
    let x := operand w u (s.getX a)
    let y := operand w u (s.getX b)
    (y = 0 → exec (.div d a b w u) s = .next (s.result d (narrowed w (-1))) ∧
      exec (.rem d a b w u) s = .next (s.result d (narrowed w x))) ∧
    (u = false → x = -2 ^ (opWidth w - 1) → y = -1 →
      exec (.div d a b w u) s = .next (s.result d (narrowed w (-2 ^ (opWidth w - 1)))) ∧
      exec (.rem d a b w u) s = .next (s.result d 0)) ∧
    (y ≠ 0 → ¬ (u = false ∧ x = -2 ^ (opWidth w - 1) ∧ y = -1) →
      exec (.div d a b w u) s = .next (s.result d (narrowed w (x.tdiv y))) ∧
      exec (.rem d a b w u) s = .next (s.result d (narrowed w (x - y * x.tdiv y))))

/-- 13:R362; 15:R436; 17:R516: the logical operations, bit by bit; an immediate is zero-extended. 15:R436, R437: shifts multiply
or divide the n-bit operand by a power of two; ROR turns its bits. The amount is the low five or six bits of xb, or the immediate.
-/
def Obligations.LogicAndShiftResults : Prop :=
  (∀ (s : State) (d a b : Reg) (i : BitVec 16) (j : Nat), j < 64 →
    let x := (s.getX a).getLsbD j
    let y := (s.getX b).getLsbD j
    let z := i.getLsbD j
    ∃ v1 v2 v3 v4 v5 v6 v7 : Word,
      (exec (.and d a b) s = .next (s.result d v1) ∧ v1.getLsbD j = (x && y)) ∧
      (exec (.or d a b) s = .next (s.result d v2) ∧ v2.getLsbD j = (x || y)) ∧
      (exec (.xor d a b) s = .next (s.result d v3) ∧ v3.getLsbD j = (x != y)) ∧
      (exec (.andn d a b) s = .next (s.result d v4) ∧ v4.getLsbD j = (x && !y)) ∧
      (exec (.andImm d a i) s = .next (s.result d v5) ∧ v5.getLsbD j = (x && z)) ∧
      (exec (.orImm d a i) s = .next (s.result d v6) ∧ v6.getLsbD j = (x || z)) ∧
      (exec (.xorImm d a i) s = .next (s.result d v7) ∧ v7.getLsbD j = (x != z))) ∧
  (∀ (s : State) (d a b : Reg) (w : Bool) (n : BitVec 6), (w = true → n.toNat < 32) →
    let sh := (s.getX b).toNat % opWidth w
    let x (u : Bool) := operand w u (s.getX a)
    exec (.shl d a b w) s = .next (s.result d (narrowed w (x true * 2 ^ sh))) ∧
    exec (.shlImm d a w n) s = .next (s.result d (narrowed w (x true * 2 ^ n.toNat))) ∧
    exec (.shr d a b w) s = .next (s.result d (narrowed w (x true / 2 ^ sh))) ∧
    exec (.shrImm d a w n) s = .next (s.result d (narrowed w (x true / 2 ^ n.toNat))) ∧
    exec (.sar d a b w) s = .next (s.result d (narrowed w (x false / 2 ^ sh))) ∧
    exec (.sarImm d a w n) s = .next (s.result d (narrowed w (x false / 2 ^ n.toNat))) ∧
    exec (.ror d a b w) s = .next (s.result d (narrowed w (x true / 2 ^ sh + x true * 2 ^ (opWidth w - sh)))) ∧
    exec (.rorImm d a w n) s = .next (s.result d (narrowed w (x true / 2 ^ n.toNat + x true * 2 ^ (opWidth w - n.toNat)))))

/-- 14:R419; 15:R436, R437: MIN and MAX by value, SET by the condition codes of 04:R109, SEL by its destination. 13:R362; 15:R436:
the counts of the n-bit operand's bits, and BSWAP. 14:R396: EXT reads the field of len bits at p and extends it; INS puts the low
len bits of xa there. In a register form p is xb[5:0] and len is xb[13:8] + 1, cut at bit 63. 14:R418; 13:R363: LIM, LEA and
ADDPC. -/
def Obligations.CompareCountFieldResults : Prop :=
  (∀ (s : State) (d a b : Reg) (u : Bool) (c : Cond) (i : BitVec 13),
    let x := operand false u (s.getX a)
    let y := operand false u (s.getX b)
    let holds (v : Word) : Prop :=
      match c with
      | .eq => s.getX a = v
      | .ne => s.getX a ≠ v
      | .lt => (s.getX a).toInt < v.toInt
      | .ge => (s.getX a).toInt ≥ v.toInt
      | .ltu => (s.getX a).toNat < v.toNat
      | .geu => (s.getX a).toNat ≥ v.toNat
    exec (.min d a b u) s = .next (s.result d (narrowed false (min x y))) ∧
    exec (.max d a b u) s = .next (s.result d (narrowed false (max x y))) ∧
    (holds (s.getX b) → exec (.set d a b c) s = .next (s.result d 1)) ∧
    (¬ holds (s.getX b) → exec (.set d a b c) s = .next (s.result d 0)) ∧
    (holds (BitVec.ofInt 64 i.toInt) → exec (.setImm d a c i) s = .next (s.result d 1)) ∧
    (¬ holds (BitVec.ofInt 64 i.toInt) → exec (.setImm d a c i) s = .next (s.result d 0)) ∧
    (s.getX d ≠ 0 → exec (.sel d a b) s = .next (s.result d (s.getX a))) ∧
    (s.getX d = 0 → exec (.sel d a b) s = .next (s.result d (s.getX b)))) ∧
  (∀ (s : State) (d a : Reg) (w : Bool),
    let n := opWidth w
    let x := s.getX a
    (∃ v : Nat, exec (.clz d a w) s = .next (s.result d (BitVec.ofNat 64 v)) ∧ v ≤ n ∧
      (∀ j, n - v ≤ j → j < n → x.getLsbD j = false) ∧ (v < n → x.getLsbD (n - 1 - v) = true)) ∧
    (∃ v : Nat, exec (.ctz d a w) s = .next (s.result d (BitVec.ofNat 64 v)) ∧ v ≤ n ∧
      (∀ j, j < v → x.getLsbD j = false) ∧ (v < n → x.getLsbD v = true)) ∧
    exec (.popc d a w) s =
      .next (s.result d (BitVec.ofNat 64 ((List.range n).filter (fun j => x.getLsbD j)).length)) ∧
    (∃ v : Word, exec (.bswap d a) s = .next (s.result d v) ∧
      ∀ j, j < 8 → v.extractLsb' (8 * j) 8 = x.extractLsb' (8 * (7 - j)) 8)) ∧
  (∀ (s : State) (d a b : Reg) (u : Bool) (pi li : BitVec 6), pi.toNat + li.toNat + 1 ≤ 64 →
    let pr := (s.getX b).toNat % 64
    let lr := min ((s.getX b).toNat / 256 % 64 + 1) (64 - pr)
    let got (p len : Nat) (v : Word) : Prop :=
      ∀ j, j < 64 → v.getLsbD j = if j < len then (s.getX a).getLsbD (p + j) else (!u && (s.getX a).getLsbD (p + len - 1))
    let put (p len : Nat) (v : Word) : Prop :=
      ∀ j, j < 64 → v.getLsbD j = if p ≤ j ∧ j < p + len then (s.getX a).getLsbD (j - p) else (s.getX d).getLsbD j
    (∃ v, exec (.ext d a b u) s = .next (s.result d v) ∧ got pr lr v) ∧
    (∃ v, exec (.extImm d a u pi li) s = .next (s.result d v) ∧ got pi.toNat (li.toNat + 1) v) ∧
    (∃ v, exec (.ins d a b) s = .next (s.result d v) ∧ put pr lr v) ∧
    (∃ v, exec (.insImm d a pi li) s = .next (s.result d v) ∧ put pi.toNat (li.toNat + 1) v)) ∧
  (∀ (s : State) (d a b : Reg) (i : BitVec 21) (n : BitVec 2),
    exec (.lim d i) s = .next (s.result d (narrowed false i.toInt)) ∧
    exec (.lea d a b n) s = .next (s.result d (narrowed false ((s.getX a).toNat + (s.getX b).toNat * 2 ^ n.toNat))) ∧
    exec (.addpc d i) s =
      .next (s.result d (narrowed false ((s.hart.pc.toNat : Int) / 4096 * 4096 + i.toInt * 4096))))

/-- 14:R419; 17:R516: MAX and MIN write the greater and the lesser of xa and xb, signed or with .u unsigned; XOR writes xa XOR xb,
or xa XOR the zero-extended immediate. C, V and T harts execute them and nothing traps or raises a flag. Their words, with W (and
on XOR W or U) taking ILLEGAL. -/
def Obligations.MinMaxAndXor : Prop :=
  ∀ (s : State) (d a b : Reg) (u w : BitVec 1) (imm : BitVec 16),
    let x := s.getX a
    let y := s.getX b
    let word (op : BitVec 5) (w u : BitVec 1) : Parcel := 0#6 ++ d ++ a ++ b ++ op ++ w ++ 0#3 ++ u ++ 0#1
    exec (.max d a b false) s = .next (s.result d (if x.toInt < y.toInt then y else x)) ∧
    exec (.max d a b true) s = .next (s.result d (if x.toNat < y.toNat then y else x)) ∧
    exec (.min d a b false) s = .next (s.result d (if y.toInt < x.toInt then y else x)) ∧
    exec (.min d a b true) s = .next (s.result d (if y.toNat < x.toNat then y else x)) ∧
    exec (.xor d a b) s = .next (s.result d (x ^^^ y)) ∧ exec (.xorImm d a imm) s = .next (s.result d (x ^^^ imm.setWidth 64)) ∧
    decode (word 15 0 u) 0 = .ok (.max d a b (u == 1)) ∧ decode (word 14 0 u) 0 = .ok (.min d a b (u == 1)) ∧
    decode (word 8 0 0) 0 = .ok (.xor d a b) ∧ decode (4#6 ++ d ++ a ++ imm) 0 = .ok (.xorImm d a imm) ∧
    (∃ r, decode (word 15 1 u) 0 = .error r) ∧ (∃ r, decode (word 14 1 u) 0 = .error r) ∧
    (w = 1 ∨ u = 1 → ∃ r, decode (word 8 w u) 0 = .error r) ∧
    decode 0x00A63BC0 0 = .ok (.max 5 6 7 false) ∧ decode 0x00A63BC2 0 = .ok (.max 5 6 7 true) ∧
    decode 0x00A63B80 0 = .ok (.min 5 6 7 false) ∧ decode 0x00A63A00 0 = .ok (.xor 5 6 7) ∧
    decode 0x10A6FFFF 0 = .ok (.xorImm 5 6 0xFFFF)

/-- 05:R147; 13:R361: such an instruction completes in every state, goes on at the next parcel, and changes nothing but its
destination; x0 discards the write and reads zero. -/
def Obligations.ScalarIntegerFrame : Prop :=
  ∀ (i : Instr) (d : Reg) (s : State), xDest i = some d →
    ∃ t, exec i s = .next t ∧ State.onlyX d s t ∧ t.hart.pc = s.hart.pc + 4 ∧ (d = 0 → t.hart.x = s.hart.x)

/-- 14:R416, R417: LD at xa + disp, and LDAQ at an aligned xa, read n bytes where they translate and no check stops them, and
extend them into xd. Memory reads as before. -/
def Obligations.LoadsReadMemory : Prop :=
  (∀ (s : State) (d a : Reg) (z : LdSize) (i : BitVec 13) (pas : List Nat),
    s.reaches .read (s.getX a + BitVec.signExtend 64 i) (ldBytes z) pas →
    ∃ t, exec (.ld d a z i) s = .next t ∧
      s.gotX t d (extendN (ldSigned z) (ldBytes z) (leNat (s.scalarSees pas))) ∧ s.sameMem t ∧ s.accessOnly t) ∧
  (∀ (s : State) (d a : Reg) (sc : Scope) (z : Size) (pas : List Nat),
    (s.getX a).toNat % sizeBytes z = 0 → s.reaches .read (s.getX a) (sizeBytes z) pas →
    ∃ t, exec (.ldaq d a sc z) s = .next t ∧
      s.gotX t d (extendN true (sizeBytes z) (leNat (s.scalarSees pas))) ∧ s.sameMem t ∧ s.accessOnly t)

/-- 15:R449, R450; 10:R278: ST at xa + disp, and STRL at an aligned xa, write the low n bytes of their source where they translate
and no check stops them. Every other byte, and every register, is as before. The hart's scalar side sees the bytes at once: a
store is never missed by a later scalar load of the hart, even where its vector side has stores there that it does not see yet. -/
def Obligations.StoresWriteMemory : Prop :=
  ∀ (s : State) (r a : Reg) (sc : Scope) (z : Size) (i : BitVec 13) (pas : List Nat), s.memOk →
    let b := leBytes (sizeBytes z) (s.getX r).toNat
    let done (x : Instr) : Prop := ∃ t, exec x s = .next t ∧ s.wrote t pas b ∧ s.wentOn t ∧ s.accessOnly t ∧
      (pas.Nodup → (∀ p, p ∈ pas → plainPa p = true) → t.scalarSees pas = b)
    (s.reaches .write (s.getX a + BitVec.signExtend 64 i) (sizeBytes z) pas → done (.st r a z i)) ∧
    ((s.getX a).toNat % sizeBytes z = 0 → s.reaches .write (s.getX a) (sizeBytes z) pas → done (.strl a r sc z))

/-- 13:R365, R366, R376; 10:R287: AMO and CAS read the old value and write the new one as one action, after the stores that the
read sees, and put the old value, sign-extended, in xd; a CAS whose comparison fails writes nothing. 13:R365's table: the
operations of AMO, NAMO and VAMO on n-byte values. -/
def Obligations.AtomicsReadModifyWrite : Prop :=
  (∀ (s : State) (d a b : Reg) (sc : Scope) (z : ASize) (pas : List Nat),
    let n := asizeBytes z
    let old := leNat (s.atomicSees false pas)
    let y := (s.getX b).toNat % 2 ^ (8 * n)
    s.memOk → (s.getX a).toNat % n = 0 → s.reaches .write (s.getX a) n pas → physCheck s .read (s.getX a) pas false = .ok () →
    (∀ o, ∃ t, exec (.amo d a b sc z o) s = .next t ∧ s.gotX t d (extendN true n old) ∧
      s.wroteAtomic t pas (leBytes n (amoOp o n old y)) ∧ s.accessOnly t) ∧
    (old = (s.getX d).toNat % 2 ^ (8 * n) →
      ∃ t, exec (.cas d a b sc z) s = .next t ∧ s.gotX t d (extendN true n old) ∧
        s.wroteAtomic t pas (leBytes n y) ∧ s.accessOnly t) ∧
    (old ≠ (s.getX d).toNat % 2 ^ (8 * n) →
      ∃ t, exec (.cas d a b sc z) s = .next t ∧ s.gotX t d (extendN true n old) ∧ s.sameMem t ∧ s.accessOnly t)) ∧
  (∀ (n : Nat) (x y : BitVec (8 * n)), 0 < n →
    let op (o : AmoOp) := amoOp o n x.toNat y.toNat
    op .add = (x + y).toNat ∧ op .and = (x &&& y).toNat ∧ op .or = (x ||| y).toNat ∧ op .xor = (x ^^^ y).toNat ∧
    op .min = (if x.toInt ≤ y.toInt then x else y).toNat ∧ op .max = (if y.toInt ≤ x.toInt then x else y).toNat ∧
    op .minu = min x.toNat y.toNat ∧ op .maxu = max x.toNat y.toNat ∧ op .swap = y.toNat)

/-- 14:R416, R417; 15:R449, R450; 13:R365, R366: an access reaches every byte or faults at the lowest address at which it cannot.
A scalar access that faults takes that trap with nothing changed but what the agent has read of the tables; the accesses that need
alignment check it first, and one that meets the Device range needs it as well and has translated by then. An error in an atomic's
old value takes DATAERR with TRAPV = ea. -/
def Obligations.ScalarAccessTraps : Prop :=
  ∀ (s : State) (d a b : Reg) (z : LdSize) (y : Size) (w : ASize) (sc : Scope) (o : AmoOp) (i : BitVec 13) (c : Cause) (v : Word),
    let xa := s.getX a
    let ea := xa + BitVec.signExtend 64 i
    let traps (x : Instr) (t : State) (c : Cause) (v : Word) : Prop := exec x s = takeTrap t c v s.hart.pc
    let noted (va : Word) (n : Nat) : State := noteXlat s s.ctx va n
    (∀ k va n, xlatN s s.ctx k va n = .error (c, v) → n ≤ 2 ^ 63 → ∃ j got, j < n ∧ v = va + BitVec.ofNat 64 j ∧
      xlatEach s s.ctx k va n va j = .ok got ∧ xlat s s.ctx k (xlatSite va n v) v = .error c) ∧
    (∀ k va n dev, n ≤ 2 ^ 63 → (∃ pas, xlatN s s.ctx k va n = .ok pas ∧ physCheck s k va pas dev = .ok ()) ∨
      ∃ c v, s.faults k va n dev c v) ∧
    (s.faults .read ea (ldBytes z) true c v → traps (.ld d a z i) (noted ea (ldBytes z)) c v) ∧
    (s.faults .write ea (sizeBytes y) true c v → traps (.st d a y i) (noted ea (sizeBytes y)) c v) ∧
    (xa.toNat % sizeBytes y ≠ 0 → traps (.ldaq d a sc y) s .misalign xa ∧ traps (.strl a b sc y) s .misalign xa) ∧
    (xa.toNat % sizeBytes y = 0 →
      (s.faults .read xa (sizeBytes y) true c v → traps (.ldaq d a sc y) (noted xa (sizeBytes y)) c v) ∧
      (s.faults .write xa (sizeBytes y) true c v → traps (.strl a b sc y) (noted xa (sizeBytes y)) c v)) ∧
    (xa.toNat % asizeBytes w ≠ 0 → traps (.amo d a b sc w o) s .misalign xa ∧ traps (.cas d a b sc w) s .misalign xa) ∧
    (xa.toNat % asizeBytes w = 0 → s.faults .write xa (asizeBytes w) false c v →
      traps (.amo d a b sc w o) (noted xa (asizeBytes w)) c v ∧ traps (.cas d a b sc w) (noted xa (asizeBytes w)) c v) ∧
    (xa.toNat % asizeBytes w = 0 → ∀ p pas, xlatN s s.ctx .write xa (asizeBytes w) = .ok (p :: pas) →
      (∀ q, q ∈ p :: pas → paClass q ≠ some .device ∧ (s.poolUp = true ∨ paClass q ≠ some .pool) ∧ granuleOf q = granuleOf p ∧
        granuleSize q = granuleSize p) → granuleOf p ∈ s.bad →
      traps (.amo d a b sc w o) (noted xa (asizeBytes w)) .dataerr xa ∧ traps (.cas d a b sc w) (noted xa (asizeBytes w)) .dataerr xa) ∧
    (∀ pas, xlatN s s.ctx .read ea (ldBytes z) = .ok pas → physCheck s .read ea pas true = .ok () →
      (∃ p, p ∈ pas ∧ paClass p = some .device) → ea.toNat % ldBytes z ≠ 0 → traps (.ld d a z i) (noted ea (ldBytes z)) .misalign ea) ∧
    (∀ pas, xlatN s s.ctx .write ea (sizeBytes y) = .ok pas → physCheck s .write ea pas true = .ok () →
      (∃ p, p ∈ pas ∧ paClass p = some .device) → ea.toNat % sizeBytes y ≠ 0 → traps (.st d a y i) (noted ea (sizeBytes y)) .misalign ea)

/-- 13:R369, R375; 14:R409, R410: a branch adds its displacement, in parcels, to its own address where its condition holds; CALL
and JR link; JR reads xa first. Nothing else changes. 13:R372, R373: BTAB with an index below n reads the 32-bit offset at its
entry and goes there; with any other it goes on and reads nothing; a misaligned or unreadable entry traps at the BTAB. 13:R374;
07:R228: BVANY and BVALL on a V hart test the mask's bits below VL, once no queued instruction will write the mask; a mask section
not resident takes LAZY; a T hart takes CLASS. k0 has every bit. -/
def Obligations.BranchesAndTables : Prop :=
  (∀ (s : State) (d a b : Reg) (c : Cond) (i : BitVec 13) (j : BitVec 26),
    let pc := s.hart.pc
    let holds : Prop :=
      match c with
      | .eq => s.getX a = s.getX b
      | .ne => s.getX a ≠ s.getX b
      | .lt => (s.getX a).toInt < (s.getX b).toInt
      | .ge => (s.getX a).toInt ≥ (s.getX b).toInt
      | .ltu => (s.getX a).toNat < (s.getX b).toNat
      | .geu => (s.getX a).toNat ≥ (s.getX b).toNat
    (holds → exec (.b a b c i) s = .next (s.setPc (pc + BitVec.ofInt 64 (i.toInt * 4)))) ∧
    (¬ holds → exec (.b a b c i) s = .next (s.setPc (pc + 4))) ∧
    exec (.j j) s = .next (s.setPc (pc + BitVec.ofInt 64 (j.toInt * 4))) ∧
    exec (.call j) s = .next ((s.setX 31 (pc + 4)).setPc (pc + BitVec.ofInt 64 (j.toInt * 4))) ∧
    exec (.jr d a) s = .next ((s.setX d (pc + 4)).setPc (BitVec.ofNat 64 ((s.getX a).toNat / 4 * 4)))) ∧
  (∀ (s : State) (a b : Reg) (n : BitVec 11),
    let ea := s.getX a + 4 * s.getX b
    (n.toNat < (s.getX b).toNat → exec (.btab a b n) s = .next (s.setPc (s.hart.pc + 4))) ∧
    ((s.getX b).toNat ≤ n.toNat → ea.toNat % 4 ≠ 0 → exec (.btab a b n) s = takeTrap s .misalign ea s.hart.pc) ∧
    ((s.getX b).toNat ≤ n.toNat → ea.toNat % 4 = 0 →
      (∀ c v, s.faults .read ea 4 true c v → exec (.btab a b n) s = takeTrap (noteXlat s s.ctx ea 4) c v s.hart.pc) ∧
      (∀ pas, s.reaches .read ea 4 pas →
        ∃ t, exec (.btab a b n) s = .next t ∧ s.sameMem t ∧ s.accessOnly t ∧
          t.hart = { s.hart with pc := (s.getX a + (BitVec.ofNat 32 (leNat (s.scalarSees pas))).signExtend 64) &&& ~~~3 }))) ∧
  (∀ (s : State) (k : BitVec 3) (i : BitVec 13),
    let there := BitVec.ofInt 64 (i.toInt * 4)
    let any : Prop := k = 0 ∨ ∃ n, n < s.hart.pcfg.vl.toNat ∧ (s.hart.getK k).getLsbD n = true
    let every : Prop := k = 0 ∨ ∀ n, n < s.hart.pcfg.vl.toNat → (s.hart.getK k).getLsbD n = true
    (s.hart.cls = .v → (k = 0 ∨ s.hart.nres.getLsbD 8 = false) → (k = 0 ∨ s.hart.queued (writesK k) = false) →
      (any → exec (.bvany k i) s = .next (s.setPc (s.hart.pc + there))) ∧
      (¬ any → exec (.bvany k i) s = .next (s.setPc (s.hart.pc + 4))) ∧
      (every → exec (.bvall k i) s = .next (s.setPc (s.hart.pc + there))) ∧
      (¬ every → exec (.bvall k i) s = .next (s.setPc (s.hart.pc + 4)))) ∧
    (s.hart.cls = .v → k ≠ 0 → s.hart.nres.getLsbD 8 = true →
      exec (.bvany k i) s = takeTrap s .lazy 0x100 s.hart.pc ∧ exec (.bvall k i) s = takeTrap s .lazy 0x100 s.hart.pc) ∧
    (s.hart.cls = .v → k ≠ 0 → s.hart.nres.getLsbD 8 = false → s.hart.queued (writesK k) = true →
      exec (.bvany k i) s = .next s ∧ exec (.bvall k i) s = .next s) ∧
    (s.hart.cls = .t → exec (.bvany k i) s = takeTrap s .cls (headWord (.bvany k i)) s.hart.pc ∧
      exec (.bvall k i) s = takeTrap s .cls (headWord (.bvall k i)) s.hart.pc))

/-- 14:R397, R401, R403; 06:R178, R181: the exact value is rounded once. With no enabled flag raised, fd holds the rounded bits
above zeros, FFLAGS gains the flags and the generator its draw; otherwise FPTRAP is taken and only FFLAGS has changed. A format
the class has not takes CLASS. 14:R399-R401, R404: the comparison, the conversion to an integer, the class and the copies; each
completes where its format exists on the class, and with an enabled flag raised a comparison or conversion takes FPTRAP with xd
unchanged. 14:R397, R403: of finite operands, the value formed before the one rounding is the exact sum, difference, product or
product-sum, and no flag is raised. 06:R175: an exact value is returned unchanged in every mode: every pattern of a scalar format
that is no NaN rounds to itself and raises no flag. 06:R175-R177: a finite value other than zero is rounded to the multiple of one
ulp that the mode chooses, in each scalar format. 14:R397: FDIV and FSQRT round the exact quotient and root once, and raise no
other flag on finite operands but zero. -/
def Obligations.ScalarFpResults : Prop :=
  (∀ (s : State) (i : Instr) (d : Reg) (f : FFmt) (r : Rm) (v : FV × Flags), s.fpExact i = some (d, f, r, v) →
    let ok := s.hart.cls ≠ .t ∨ (tHasFmt f = true ∧ ∀ g, fpSource i = some g → tHasFmt g = true)
    let draw := drawFor r s.hart.srseed
    let res := roundTo (ffmtOf f) r s.hart.ftz draw.1 v.1
    let fl := res.2 ||| v.2
    (ok → (r = .sr → s.hart.vq = []) → fl &&& s.hart.fen = 0 →
      exec i s = .next ({ s with hart := { (s.hart.setF d (BitVec.ofNat 64 res.1)) with
        fflags := s.hart.fflags ||| fl, srseed := draw.2, pc := s.hart.pc + 4 } })) ∧
    (ok → (r = .sr → s.hart.vq = []) → fl &&& s.hart.fen ≠ 0 →
      exec i s = takeTrap { s with hart := { s.hart with fflags := s.hart.fflags ||| fl } } .fptrap ((fl &&& s.hart.fen).setWidth 64)
        s.hart.pc) ∧
    (ok → r = .sr → s.hart.vq ≠ [] → exec i s = .next s) ∧
    (¬ ok → exec i s = takeTrap s .cls (headWord i) s.hart.pc)) ∧
  (∀ (s : State) (d a b : Reg) (f : FFmt) (c : Cmp) (t : IntTy) (r : Rm), (s.hart.cls ≠ .t ∨ tHasFmt f = true) →
    let x := s.hart.readF f a
    let low (v : Word) : Word := BitVec.ofNat 64 (v.toNat % 2 ^ ffmtW f)
    let cm := cmpF c x (s.hart.readF f b)
    let ti := toInt (intTySigned t) (intTyW t) r (drawFor r s.hart.srseed).1 x
    let flagged (fl : Flags) : State := { s with hart := { s.hart with fflags := s.hart.fflags ||| fl } }
    (cm.2 &&& s.hart.fen = 0 → exec (.fcmp d a b f c) s = .next ((flagged cm.2).result d (if cm.1 then 1 else 0))) ∧
    (cm.2 &&& s.hart.fen ≠ 0 →
      exec (.fcmp d a b f c) s = takeTrap (flagged cm.2) .fptrap ((cm.2 &&& s.hart.fen).setWidth 64) s.hart.pc) ∧
    ((r = .sr → s.hart.vq = []) → ti.2 &&& s.hart.fen = 0 →
      exec (.fcvt d a (.toI t) f r) s =
        .next (({ (flagged ti.2) with hart := { (flagged ti.2).hart with srseed := (drawFor r s.hart.srseed).2 } } : State).result d
          (BitVec.ofInt 64 ti.1))) ∧
    ((r = .sr → s.hart.vq = []) → ti.2 &&& s.hart.fen ≠ 0 →
      exec (.fcvt d a (.toI t) f r) s = takeTrap (flagged ti.2) .fptrap ((ti.2 &&& s.hart.fen).setWidth 64) s.hart.pc) ∧
    exec (.fclass d a f) s = .next (s.result d (BitVec.ofNat 64 (classF (ffmtOf f) (low (s.hart.getF a)).toNat))) ∧
    exec (.fmov d a .fx f) s = .next (s.result d (low (s.hart.getF a))) ∧
    exec (.fmov d a .ff f) s = .next { s with hart := { (s.hart.setF d (low (s.hart.getF a))) with pc := s.hart.pc + 4 } } ∧
    exec (.fmov d a .xf f) s = .next { s with hart := { (s.hart.setF d (low (s.getX a))) with pc := s.hart.pc + 4 } }) ∧
  (∀ (mode : Rm) (n1 n2 n3 : Bool) (m1 m2 m3 : Nat) (e1 e2 e3 : Int),
    let x : FV := .fin n1 m1 e1
    let y : FV := .fin n2 m2 e2
    let z : FV := .fin n3 m3 e3
    let exact (r : FV × Flags) (q : Rat) : Prop := r.2 = 0 ∧ (∃ n m e, r.1 = .fin n m e) ∧ fvRat r.1 = q
    exact (addF mode x y) (fvRat x + fvRat y) ∧ exact (subF mode x y) (fvRat x - fvRat y) ∧
    exact (mulF x y) (fvRat x * fvRat y) ∧ exact (fmaF mode x y z) (fvRat x * fvRat y + fvRat z)) ∧
  (∀ (f : FFmt) (mode : Rm) (d b : Nat), b < 2 ^ ffmtW f → fvIsNan (decodeF (ffmtOf f) false b) = false →
    roundTo (ffmtOf f) mode false d (decodeF (ffmtOf f) false b) = (b, 0)) ∧
  (∀ (f : FFmt) (mode : Rm) (d : Nat) (n : Bool) (m : Nat) (e : Int), d < 2 ^ 16 → m ≠ 0 →
    roundsTo (ffmtOf f) mode d n ((fvRat (.fin n m e) : ℚ) : ℝ) (roundTo (ffmtOf f) mode false d (.fin n m e))) ∧
  (∀ (f : FFmt) (mode : Rm) (d : Nat) (n1 n2 : Bool) (m1 m2 : Nat) (e1 e2 : Int), d < 2 ^ 16 → m1 ≠ 0 → m2 ≠ 0 →
    let x : ℝ := (fvRat (.fin n1 m1 e1) : ℚ)
    let y : ℝ := (fvRat (.fin n2 m2 e2) : ℚ)
    let q := divF (.fin n1 m1 e1) (.fin n2 m2 e2)
    let z := sqrtF (.fin false m1 e1)
    (q.2 = 0 ∧ roundsTo (ffmtOf f) mode d (n1 != n2) (x / y) (roundTo (ffmtOf f) mode false d q.1)) ∧
    (z.2 = 0 ∧ roundsTo (ffmtOf f) mode d false (Real.sqrt |x|) (roundTo (ffmtOf f) mode false d z.1)))

/-- 16:R464, R466, R467: the integer operations on an idle V hart. vv takes element j of vb, vx the low bits of xs, vi the
immediate; every active element below VL receives its operation's result, wrapped or clamped to the type. -/
def Obligations.VectorIntegerResults : Prop :=
  ∀ (s : State) (d a : Reg) (b : VSrc) (m : Pred), s.vIdle → etIsInt s.hart.et = true →
    let w := s.hart.sew
    let sg := etSigned s.hart.et
    let x (j : Nat) := getE w (s.hart.getV a).toNat j
    let y (j : Nat) := match b with
      | .vv r => getE w (s.hart.getV r).toNat j
      | .vx r => (s.getX r).toNat % 2 ^ w
      | .vi i => (i.toInt % 2 ^ w).toNat
    let X (j : Nat) := readInt sg w (x j)
    let Y (j : Nat) := readInt sg w (y j)
    let wrap (z : Int) := (z % 2 ^ w).toNat
    let clamp (z : Int) := wrap (max (if sg then -2 ^ (w - 1) else 0) (min (if sg then 2 ^ (w - 1) - 1 else 2 ^ w - 1) z))
    let gives (i : Instr) (f : Nat → Nat) := s.usable i → ∃ t, exec i s = .next t ∧ s.wroteV t i d w m f
    gives (.vadd d a b m) (fun j => wrap (X j + Y j)) ∧ gives (.vsub d a b m) (fun j => wrap (X j - Y j)) ∧
    gives (.vmul d a b m) (fun j => wrap (X j * Y j)) ∧ gives (.vmulh d a b m) (fun j => wrap (X j * Y j / 2 ^ w)) ∧
    gives (.vand d a b m) (fun j => x j &&& y j) ∧ gives (.vor d a b m) (fun j => x j ||| y j) ∧
    gives (.vxor d a b m) (fun j => x j ^^^ y j) ∧
    gives (.vshl d a b m) (fun j => wrap (x j * 2 ^ (y j % w))) ∧ gives (.vshr d a b m) (fun j => x j / 2 ^ (y j % w)) ∧
    gives (.vsar d a b m) (fun j => wrap (readInt true w (x j) / 2 ^ (y j % w))) ∧
    gives (.vmin d a b m) (fun j => wrap (min (X j) (Y j))) ∧ gives (.vmax d a b m) (fun j => wrap (max (X j) (Y j))) ∧
    gives (.vsadd d a b m) (fun j => clamp (X j + Y j)) ∧ gives (.vssub d a b m) (fun j => clamp (X j - Y j))

/-- 16:R464, R478, R479; 17:R504; 06:R178, R181: the floating operations on an idle V hart. With no enabled flag raised each
active element is rounded once with its own draw; at the first that raises one, FPTRAP is taken with the elements below it done. A
type the operation has not takes ILLEGAL. -/
def Obligations.VectorFpResults : Prop :=
  ∀ (s : State) (i : Instr) (d : Reg) (m : Pred) (r : Rm) (v : Nat → FV × Flags), s.vIdle → s.usable i → s.vfExact i = some (d, m, r, v) →
    let w := s.hart.sew
    let g (j : Nat) := roundedInto (etFmt s.hart.et) r s.hart.ftz (v j)
    (vfTypeOk s.hart.et i = true →
      (s.hart.quietBelow r m.k g s.hart.vlN → ∃ t, exec i s = .next t ∧ s.rounded t i d w m r g) ∧
      (∀ e, e < s.hart.vlN → s.hart.active m.k e = true → s.hart.quietBelow r m.k g e →
        trapping s.hart.fen (s.hart.eltResult r m.k g e).2 ≠ 0 → s.fpStopsAt (exec i s) i d w m r g e)) ∧
    (vfTypeOk s.hart.et i = false → s.vIllegal i)

/-- 16:R476, R477; 17:R497, R498; 06:R187: VCVT, VQENC and VQDEC read each element as the source type, apply the scales VTYPE
selects, and write it as the destination type. Where a wider destination is the source register, element j reads it as elements
below j left it (log 26). 16:R483; 06:R191: VHBFLY pairs element j with element j xor 2^l of the whole source as it stood; an
element without a partner is copied. A trap leaves vd and the generator. A stage as wide as the register, or a type without sums,
takes ILLEGAL. -/
def Obligations.ConverterResults : Prop :=
  (∀ (s : State) (i : Instr) (d a : Reg) (m : Pred) (src dst : ET) (r : Rm), s.vIdle → s.usable i → s.convForm i = some (d, a, m, src, dst, r) →
    let h := s.hart
    let ws := etSew src
    let wd := etSew dst
    let old := (h.getV a).toNat
    let conv (whole : Nat → Nat) (j dr : Nat) : Nat × Flags :=
      let x := readElt src h.ct (h.ftz && (etIsIeee dst || etIsInt dst)) (getE ws (whole j) j)
      let x := if h.vc.vt.sa && etScaled src then scaled (scaleByte (h.getSc 0) h.vc.vt.bl j) x else x
      let x := if h.vc.vt.sb && etScaled dst then unscaled (scaleByte (h.getSc 1) h.vc.vt.bl j) x else x
      let y := writeElt dst h.ct r h.ftz dr x
      if etIsInt src && etIsInt dst then (y.1, if y.2 = 0 then 0 else flagNX) else y
    let g := conv (fun _ => old)
    (h.vlN * ws ≤ h.vlen → h.vlN * wd ≤ h.vlen → (d ≠ a ∨ wd ≤ ws) →
      (h.quietBelow r m.k g h.vlN → ∃ t, exec i s = .next t ∧ s.rounded t i d wd m r g) ∧
      (∀ e, e < h.vlN → h.active m.k e = true → h.quietBelow r m.k g e →
        trapping h.fen (h.eltResult r m.k g e).2 ≠ 0 → s.fpStopsAt (exec i s) i d wd m r g e)) ∧
    (h.vlN * wd ≤ h.vlen → h.vlen ≤ 16384 → d = a → ws < wd → h.fen = 0 →
      ∃ t v, exec i s = .next t ∧
        s.roundedTo t i d wd m r (conv fun j => v.toNat % 2 ^ (wd * j) + old / 2 ^ (wd * j) * 2 ^ (wd * j)) v) ∧
    (h.vlen < h.vlN * ws ∨ h.vlen < h.vlN * wd → s.vIllegal i)) ∧
  (∀ (s : State) (d a : Reg) (l : BitVec 5) (r : RmDyn) (m : Pred), s.vIdle → s.usable (.vhbfly d a l r m) →
    let i : Instr := .vhbfly d a l r m
    let h := s.hart
    let w := h.sew
    let isInt := etIsInt h.et
    let mode := if isInt then Rm.rne else h.rmOf r
    let x (j : Nat) := getE w (h.getV a).toNat j
    let v (j : Nat) := decodeF (etFmt h.et) h.ftz (x j)
    let g (j dr : Nat) : Nat × Flags :=
      let p := j ^^^ 2 ^ l.toNat
      if h.vlN ≤ p then (x j, 0)
      else if isInt then ((if j < p then x j + x p else x p + 2 ^ w - x j) % 2 ^ w, 0)
      else roundedInto (etFmt h.et) mode h.ftz (if j < p then addF mode (v j) (v p) else subF mode (v p) (v j)) dr
    let legal : Prop := (etIsIeee h.et = true ∨ isInt = true) ∧ 2 ^ l.toNat * w < h.vlen
    (legal → h.quietBelow mode m.k g h.vlN → ∃ t, exec i s = .next t ∧ s.rounded t i d w m mode g) ∧
    (legal → ∀ e, e < h.vlN → h.active m.k e = true → h.quietBelow mode m.k g e →
      let own := (h.eltResult mode m.k g e).2
      trapping h.fen own ≠ 0 →
      exec i s = takeTrap { s.vPosted 2 i with hart := { (s.vPosted 2 i).hart.mark (marks i) with fflags := h.fflags ||| own } }
        .fptrap (BitVec.ofNat 64 (e * 2 ^ 32 + (trapping h.fen own).toNat)) (h.pc + 8)) ∧
    (¬ legal → s.vIllegal i))

/-- 16:R475, R484; 17:R493-R496, R506, R507; 06:R172: permutations on an idle V hart move whole containers; of a container of six
bits, its bits [7:6] are read and written as zero. -/
def Obligations.VectorPermutations : Prop :=
  ∀ (s : State) (d a b x : Reg) (m : Pred) (k : BitVec 3) (n : BitVec 16), s.vIdle →
    let h := s.hart
    let w := h.sew
    let ea (j : Nat) := trimElt h.et (getE w (h.getV a).toNat j)
    let eb (j : Nat) := getE w (h.getV b).toNat j
    let od (j : Nat) := getE w (h.getV d).toNat j
    let by_ := (s.getX x).toNat
    let scalar := trimElt h.et (by_ % 2 ^ w)
    let sel := (List.range h.vlN).filter (h.active m.k)
    let gives (i : Instr) (p : Pred) (f : Nat → Nat) := s.usable i → ∃ t, exec i s = .next t ∧ s.wroteV t i d w p f
    gives (.vperm d a b m) m (fun j => if eb j < h.vlN then ea (eb j) else 0) ∧
    gives (.vslide d a x true m) m (fun j => if j + by_ < h.vlN then ea (j + by_) else 0) ∧
    gives (.vslide d a x false m) m (fun j => if by_ ≤ j then ea (j - by_) else od j) ∧
    gives (.vsplat d x m) m (fun _ => scalar) ∧
    gives (.vmerge d a b k) ⟨0, false⟩ (fun j => if h.active k j then ea j else trimElt h.et (eb j)) ∧
    gives (.vcompr d a m) ⟨0, false⟩ (fun j => match sel[j]? with | some q => ea q | none => if m.kz then 0 else od j) ∧
    (etIsInt h.et = true → gives (.vidx d m) m id) ∧ (etIsInt h.et = false → s.vIllegal (.vidx d m)) ∧
    (n.toNat < h.vlN →
      (s.usable (.vmvx x a n) → exec (.vmvx x a n) s = .next { s.vDone 2 with
        hart := (s.vDone 2).hart.setX x (BitVec.ofInt 64 (readInt (etSigned h.et) w (ea n.toNat))) }) ∧
      (s.usable (.vmxv d x n) → ∃ v, exec (.vmxv d x n) s = .next { s.vDone 2 with hart := ((s.vDone 2).hart.setV d v).mark (marks (.vmxv d x n)) } ∧
        ∀ j, w * (j + 1) ≤ 16384 → getE w v.toNat j = if j = n.toNat then scalar % 2 ^ w else od j)) ∧
    (h.vlN ≤ n.toNat → s.vIllegal (.vmvx x a n) ∧ s.vIllegal (.vmxv d x n))

/-- 14:R411; 16:R474; 05:R149: compares and mask operations on an idle V hart. A compare of floating elements takes FPTRAP at the
first that raises an enabled flag; one of the other kind of relation or operand takes ILLEGAL. -/
def Obligations.CompareAndMaskResults : Prop :=
  ∀ (s : State) (kd ka kb : BitVec 3) (a x : Reg) (b : VSrc) (c : Cmp) (tt : BitVec 4) (m : Pred), s.vIdle →
    let h := s.hart
    let w := h.sew
    let xe (j : Nat) := getE w (h.getV a).toNat j
    let ye (j : Nat) := match b with
      | .vv r => getE w (h.getV r).toNat j
      | .vx r => (s.getX r).toNat % 2 ^ w
      | .vi i => (i.toInt % 2 ^ w).toNat
    let bit (k : BitVec 3) (j : Nat) := (h.getK k).getLsbD j
    let X (j : Nat) := readInt (etSigned h.et) w (xe j)
    let Y (j : Nat) := readInt (etSigned h.et) w (ye j)
    let rel (j : Nat) : Bool :=
      match c with
      | .eq => X j = Y j | .ne => X j ≠ Y j | .lt => X j < Y j | .le => X j ≤ Y j | .gt => X j > Y j | .ge => X j ≥ Y j
      | .un => false
    let cf (j : Nat) := cmpF c (decodeF (etFmt h.et) h.ftz (xe j)) (decodeF (etFmt h.et) h.ftz (ye j))
    let cmp : Instr := .vcmp kd a b c m
    let imm : Prop := ∃ i, b = .vi i
    let hits := (List.range h.vlN).filter fun j => h.active m.k j && bit ka j
    (s.usable cmp → etIsInt h.et = true → c ≠ .un → ∃ t, exec cmp s = .next t ∧ s.wroteK t cmp kd m rel 0) ∧
    (s.usable cmp → etIsIeee h.et = true → ¬ imm →
      ((∀ j, j < h.vlN → h.active m.k j = true → trapping h.fen (cf j).2 = 0) →
        ∃ t, exec cmp s = .next t ∧ s.wroteK t cmp kd m (fun j => (cf j).1) (h.flagsBelow m.k h.vlN fun j => (cf j).2)) ∧
      (∀ e, e < h.vlN → h.active m.k e = true → (∀ j, j < e → h.active m.k j = true → trapping h.fen (cf j).2 = 0) →
        trapping h.fen (cf e).2 ≠ 0 → s.kStopsAt (exec cmp s) cmp kd m (fun j => (cf j).1) (fun j => (cf j).2) e)) ∧
    (etIsInt h.et = true ∧ c = .un ∨ etIsInt h.et = false ∧ (etIsIeee h.et = false ∨ imm) → s.vIllegal cmp) ∧
    (s.usable (.kop kd ka kb tt m) → ∃ t, exec (.kop kd ka kb tt m) s = .next t ∧
      s.wroteK t (.kop kd ka kb tt m) kd m (fun j => tt.getLsbD (2 * (bit ka j).toNat + (bit kb j).toNat)) 0) ∧
    (s.usable (.kmov kd ka m) → ∃ t, exec (.kmov kd ka m) s = .next t ∧ s.wroteK t (.kmov kd ka m) kd m (bit ka) 0) ∧
    (s.usable (.kpopc x ka m.k) →
      exec (.kpopc x ka m.k) s = .next { s.vDone 2 with hart := (s.vDone 2).hart.setX x (BitVec.ofNat 64 hits.length) }) ∧
    (s.usable (.kfirst x ka m.k) → exec (.kfirst x ka m.k) s =
      .next { s.vDone 2 with hart := (s.vDone 2).hart.setX x (match hits.head? with | some j => BitVec.ofNat 64 j | none => -1) })

/-- 17:R499, R500, R505; 06:R193: reductions and scans on an idle V hart, where no combination raises an enabled flag. LIN
combines the active elements in order, drawing for each combination; otherwise they combine in the order of the tree. VRED starts
from element 0 of vd and writes it alone. A type the operation has not takes ILLEGAL. 17:R501, R505; 07:R211: where a combination
raises an enabled flag, the reduction or scan takes FPTRAP at the highest active element that the combination covers, or at the
first whose result it goes into (log 81); flags, generator and shadow stand as the combinations below left them, and results below
are written. -/
def Obligations.ReductionsAndScans : Prop :=
  (∀ (s : State) (d a : Reg) (o : RedOp) (lin : Bool) (sh : BitVec 1) (r : RmDyn) (m : Pred), s.vIdle →
    let h := s.hart
    let w := h.sew
    let red : Instr := .vred d a o lin sh r m.k
    let scan : Instr := .vscan d a o lin sh r m
    let mode := h.redMode r
    let op := h.redStep o mode
    let init := getE w (h.getV d).toNat 0
    let leaf := h.redLeaf a m.k
    let reduced (x : Option Nat) (fl : Flags) (seed : Word) : Prop :=
      s.usable red → ∃ v, exec red s = .next (s.vGot red d v fl seed) ∧
        ∀ j, w * (j + 1) ≤ 16384 → getE w v.toNat j = if j = 0 then x.getD 0 % 2 ^ w else getE w (h.getV d).toNat j
    let scanned (x : Nat → Option Nat) (fl : Flags) (seed : Word) : Prop :=
      s.usable scan → ∃ v, exec scan s = .next (s.vGot scan d v fl seed) ∧ h.eltsAre h.vlN w m (fun j => (x j).getD 0) (h.getV d) v
    (h.redAllowed o r → h.vlN ≤ 4096 → lin = true →
      (let x := redLinear op mode (h.redElts a m.k h.vlN) (some init, 0, h.srseed)
       x.2.1 &&& h.fen = 0 → reduced x.1 x.2.1 x.2.2) ∧
      (let x (n : Nat) := redLinear op mode (h.redElts a m.k n) (none, 0, h.srseed)
       (x h.vlN).2.1 &&& h.fen = 0 → scanned (fun j => (x (j + 1)).1) (x h.vlN).2.1 (x h.vlN).2.2)) ∧
    (h.redAllowed o r → h.vlN ≤ 4096 → lin = false → mode ≠ .sr →
      (let x := redJoin (op 0) (some init, 0) (redNode (op 0) leaf 15 0)
       x.2 &&& h.fen = 0 → reduced x.1 x.2 h.srseed) ∧
      (let x (j : Nat) := redPrefix (op 0) leaf (j + 1)
       let fl := h.flagsBelow m.k h.vlN fun j => (x j).2
       fl &&& h.fen = 0 → scanned (fun j => (x j).1) fl h.srseed)) ∧
    (h.redAllowed o r → h.vlN ≤ 4096 → lin = false →
      let r0 : RedRun := ⟨op, mode, h.fen, fun _ _ => none, 0, h.srseed, none⟩
      let top := ((List.range h.vlN).filter (h.active m.k)).getLast?.elim 0 (· + 1)
      (let w := (r0.formed leaf h.vlN).whole h.vlN
       let z := w.2.join (some init) w.1
       z.2.stop = none → reduced z.1 z.2.fl z.2.seed) ∧
      ((r0.scan leaf top).2.stop = none → scanned (r0.scan leaf top).1 (r0.scan leaf top).2.fl (r0.scan leaf top).2.seed)) ∧
    (¬ h.redAllowed o r → s.vIllegal red ∧ s.vIllegal scan)) ∧
  (∀ (s : State) (d a : Reg) (o : RedOp) (sh : BitVec 1) (r : RmDyn) (m : Pred) (f : Flags), s.vIdle → s.hart.redAllowed o r →
    512 ≤ s.hart.vlen → s.hart.vlen ≤ 16384 → s.hart.vlN ≤ 4096 →
    let h := s.hart
    let mode := h.redMode r
    let init := getE h.sew (h.getV d).toNat 0
    let leaf := h.redLeaf a m.k
    let r0 : RedRun := ⟨h.redStep o mode, mode, h.fen, fun _ _ => none, 0, h.srseed, none⟩
    let act := (List.range h.vlN).filter (h.active m.k)
    let top := act.getLast?.elim 0 (· + 1)
    let first (stops : Nat → Bool) : Nat := ((List.range h.vlN).find? stops).getD (h.vlN - 1)
    let nodes (r : RedRun) (t b : Nat) : Option Nat := if t.testBit b then r.node b (t / 2 ^ (b + 1) * 2 ^ (b + 1)) else none
    let only (x : Option Nat) (b : Nat) : Option Nat := if b = 0 then x else none
    ((r0.linear leaf (some init) h.vlN).2.stop = some f →
      let t := first fun j => (r0.linear leaf (some init) (j + 1)).2.stop.isSome
      let z := r0.linear leaf (some init) t
      s.redStops (.vred d a o true sh r m.k) d sh true false m t f z.2.fl z.2.seed (only z.1) (fun _ => none)) ∧
    ((r0.linear leaf none h.vlN).2.stop = some f →
      let t := first fun j => (r0.linear leaf none (j + 1)).2.stop.isSome
      let z := r0.linear leaf none t
      s.redStops (.vscan d a o true sh r m) d sh true true m t f z.2.fl z.2.seed (only z.1) fun j => (r0.linear leaf none (j + 1)).1) ∧
    (let w := (r0.formed leaf h.vlN).whole h.vlN
     (w.2.join (some init) w.1).2.stop = some f →
      let j := first fun j => (r0.formed leaf (j + 1)).stop.isSome
      let t := (act.filter (· ≤ j)).getLast?.getD 0
      let z := r0.formed leaf t
      s.redStops (.vred d a o false sh r m.k) d sh false false m t f z.fl z.seed (nodes z t) (fun _ => none)) ∧
    ((r0.scan leaf top).2.stop = some f →
      let j := first fun j => (r0.scan leaf (j + 1)).2.stop.isSome
      let t := (act.filter (j ≤ ·)).head?.getD 0
      let z := ({ r0 with en := 0 } : RedRun).scan leaf t
      s.redStops (.vscan d a o false sh r m) d sh false true m t f z.2.fl z.2.seed (nodes z.2 t) z.1))

/-- 12:R329, R330, R332, R335; 13:R371; 15:R451, R458: SYSC, BRK and TRAP take their exception: the bank of the level the cause is
taken at receives it, and the pc is that level's handler. A BRK under a grant that halts on it halts the hart past it; TRAP of a
code without a cause takes ILLEGAL, and of an asynchronous cause at level A PRIV. While a NAMO's register is awaited, none does.
12:R336: the header of a trap area, field by field. -/
def Obligations.TrapsByInstruction : Prop :=
  (∀ (s : State) (n : BitVec 12) (a : Reg) (c : BitVec 8),
    let h := s.hart
    let grant : Prop := ∃ g, g ∈ s.rebeica.grants ∧ g.haltOnBrk = true ∧
      (g.tenant = none ∨ ∃ t x, g.tenant = some t ∧ s.gang h.id.gang = some x ∧ x.tenant = t)
    let async (k : Cause) : Prop := k = .preempt ∨ k = .timer ∨ k = .extint ∨ k = .mcheck
    (h.namoPend = [] →
      s.traps (exec (.sysc n) s) .sysc (n.setWidth 64) h.pc ∧
      (¬ grant → s.traps (exec (.brk n) s) .brk (n.setWidth 64) h.pc) ∧
      (∀ k, causeOf c.toNat = some k → ¬ (h.lv = .a ∧ async k) → s.traps (exec (.trap a c) s) k (s.getX a) h.pc) ∧
      (∀ k, causeOf c.toNat = some k → h.lv = .a → async k → s.traps (exec (.trap a c) s) .priv (headWord (.trap a c)) h.pc) ∧
      (causeOf c.toNat = none → s.traps (exec (.trap a c) s) .illegal (illegalV (.trap a c)) h.pc)) ∧
    (grant → exec (.brk n) s = .next { s with hart := { h with pc := h.pc + 4, halted := true } }) ∧
    (h.namoPend ≠ [] → exec (.sysc n) s = .next s ∧ exec (.trap a c) s = .next s)) ∧
  (∀ (h : Hart) (n : Nat), n < 128 → h.lg ≤ 4 →
    let hd := areaHeader h n
    hd < 2 ^ 352 ∧ bitsOf hd 0 0 = 1 ∧ bitsOf hd 7 1 = n ∧ bitsOf hd 31 8 = 0 ∧ bitsOf hd 63 32 = h.ves.toNat ∧
    bitsOf hd 95 64 = h.lix.iter.toNat ∧ bitsOf hd 100 96 = h.lix.member.toNat ∧ bitsOf hd 126 101 = 0 ∧
    bitsOf hd 127 127 = h.lix.act.toNat ∧ bitsOf hd 159 128 = h.xpos.group.toNat ∧ bitsOf hd 189 160 = 0 ∧
    bitsOf hd 190 190 = h.xpos.bwd.toNat ∧ bitsOf hd 191 191 = h.xpos.act.toNat ∧ bitsOf hd 223 192 = h.vc.vl.toNat ∧
    bitsOf hd 237 224 = (vtypeBits h.vc.vt).toNat ∧ bitsOf hd 255 238 = 0 ∧ bitsOf hd 260 256 = h.vc.mr.toNat ∧
    bitsOf hd 319 261 = 0 ∧ bitsOf hd 351 320 = h.vlen)

/-- 12:R333, R337: TRET returns to the level, IE and pc of its bank, where that level is not above its own; elsewhere it takes
PRIV, and it waits for the queue. On a V hart with a context block it reads the level's trap area first: with V = 0 nothing is
refilled; a whole image fills the queue, VL, VTYPE, MR, VES, LIX and XPOS, and clears V. -/
def Obligations.TrapReturn : Prop :=
  ∀ (s : State),
    let h := s.hart
    let b := if h.lv = .m then h.mb else h.kb
    let may : Prop := h.lv ≠ .a ∧ b.plv.code ≤ h.lv.code
    let back (g : Hart) : Hart := { g with lv := b.plv, ie := b.pie, pc := b.trappc.setWidth 64 }
    let va := h.areaVa h.lv
    (may → h.vq = [] → h.cls ≠ .v ∨ h.ctxb = 0 → exec .tret s = .next { s with hart := back h }) ∧
    (¬ may → exec .tret s = takeTrap s .priv (headWord .tret) h.pc) ∧
    (may → h.vq ≠ [] → exec .tret s = .next s) ∧
    (∀ pas, may → h.vq = [] → h.cls = .v → h.ctxb ≠ 0 → s.reaches .read va 64 pas →
      let hd := leNat (memReadAt s.mem pas)
      let n := bitsOf hd 7 1
      (hd % 2 = 0 → ∃ t, exec .tret s = .next t ∧ t.hart = back h ∧ s.sameMem t ∧ s.accessOnly t) ∧
      (∀ q ty p, hd % 2 = 1 → bitsOf hd 31 8 = 0 → bitsOf hd 126 101 = 0 → bitsOf hd 189 160 = 0 → bitsOf hd 255 238 = 0 → bitsOf hd 319 261 = 0 → bitsOf hd 511 352 = 0 →
        n ≤ 65 → bitsOf hd 351 320 = h.vlen → vtypeOf (BitVec.ofNat 14 (bitsOf hd 237 224)) = some ty →
        1 ≤ bitsOf hd 223 192 → bitsOf hd 223 192 ≤ h.vlen / etSew ty.et → 1 ≤ bitsOf hd 260 256 → bitsOf hd 260 256 ≤ 16 →
        (n = 0 ∧ q = [] ∨ n ≠ 0 ∧ ∃ pas', s.reaches .read (va + 64) (24 * n) pas' ∧
          buildQueue h.stores (imgEntries n (memReadAt s.mem pas')) = some q ∧ loopsWhole q = true) →
        s.tlbFresh → s.memOk → s.reaches .write va 1 [p] →
        let vc : VCfg := ⟨BitVec.ofNat 32 (bitsOf hd 223 192), ty, BitVec.ofNat 5 (bitsOf hd 260 256)⟩
        ∃ t, exec .tret s = .next t ∧ s.accessOnly t ∧ s.wrote t [p] [BitVec.ofNat 8 (2 * n)] ∧
          t.hart = back { h with vc := vc, pcfg := cfgAfter (vlmaxOf h.vlen) q vc, ves := BitVec.ofNat 32 (bitsOf hd 63 32), vq := q,
                                 lix := ⟨hd.testBit 127, BitVec.ofNat 5 (bitsOf hd 100 96), BitVec.ofNat 32 (bitsOf hd 95 64)⟩,
                                 xpos := ⟨hd.testBit 191, hd.testBit 190, BitVec.ofNat 32 (bitsOf hd 159 128)⟩, stopped := none }))

/-- 12:R340; 14:R407, R420, R421; 02:R52-R54: IDLE waits until an asynchronous trap is pending; then it goes on where none can be
taken, and else stays until the trap is; at K or M with a PREEMPT outstanding it yields. IDLE.X ends a hart. MIGR to the hart's
own class goes on; to the other class the hart leaves where it may, once no NAMO destination is awaited (15:R434), a V hart with
its queue empty and its dirty sections saved; elsewhere, and on a T hart, it takes CLASS. -/
def Obligations.IdleAndMigrate : Prop :=
  ∀ (s : State),
    let h := s.hart
    let pending : Prop := h.mcheck ≠ [] ∨ h.preempt ≠ none ∨ h.timecmp.toNat ≤ s.time.toNat ∨ h.extint ≠ []
    let yields : Prop := h.lv ≠ .a ∧ h.preempt ≠ none
    let goesOn : Prop := pending ∧ (s.takeable = none ∨ h.stepping = true)
    let past (g : Hart) : State := { s with hart := { g.endWait with pc := h.pc + 4 } }
    (¬ yields → goesOn → exec .idle s = .next (past h)) ∧
    (¬ yields → ¬ goesOn → exec .idle s = .next { s with hart := h.waitHere .idle }) ∧
    (yields → h.vq = [] → h.namoPend = [] → exec .idle s = .next (past { h with yielded := true, preempt := none })) ∧
    (yields → h.vq ≠ [] ∨ h.namoPend ≠ [] → exec .idle s = .next s) ∧
    (h.id.gang = 0 → goesOn → exec .idleX s = .next (past h)) ∧
    (h.id.gang = 0 → ¬ goesOn → exec .idleX s = .next { s with hart := h.waitHere .idleX }) ∧
    (h.id.gang ≠ 0 → h.vq ≠ [] → exec .idleX s = .next s) ∧
    (h.id.gang ≠ 0 → h.vq = [] → ∃ t, exec .idleX s = .next t ∧ t.hart.ended = true ∧ t.hart.waitOn = none ∧ s.sameMem t ∧
      t = tsyncCheck (gbarCheck (past { h with ended := true }) h.id.gang) h.id.gang) ∧
    (h.cls = .v → exec .migrV s = .next (s.setPc (h.pc + 4))) ∧ (h.cls = .c → exec .migrC s = .next (s.setPc (h.pc + 4))) ∧
    (h.cls = .c → h.migTrap = true → s.canArrive .v = true →
      (h.namoPend = [] → ∃ t, exec .migrV s = .next t ∧ s.flew t .v) ∧ (h.namoPend ≠ [] → exec .migrV s = .next s)) ∧
    (h.cls = .v → h.vq = [] → h.migTrap = true → s.mayLeaveV = true → h.vdirty &&& ~~~h.nres = 0 →
      (h.namoPend = [] → ∃ t, exec .migrC s = .next t ∧ s.flew t .c) ∧ (h.namoPend ≠ [] → exec .migrC s = .next s)) ∧
    (h.cls = .v → h.vq = [] → h.namoPend = [] → h.migTrap = true → s.mayLeaveV = true → ∀ s1, runM peelImage s = (.ok (), s1) →
      s1.gangs = s.gangs ∧ s1.others = s.others ∧ s1.hart.id = h.id ∧ ∃ t, exec .migrC s = .next t ∧ s1.flew t .c) ∧
    (h.cls = .v → h.vq ≠ [] → exec .migrC s = .next s) ∧
    (h.cls = .c → ¬ (h.migTrap = true ∧ s.canArrive .v = true) → exec .migrV s = takeTrap s .cls (headWord .migrV) h.pc) ∧
    (h.cls = .v → h.vq = [] → ¬ (h.migTrap = true ∧ s.mayLeaveV = true) →
      exec .migrC s = takeTrap s .cls (headWord .migrC) h.pc) ∧
    (h.cls = .t → exec .migrV s = takeTrap s .cls (headWord .migrV) h.pc ∧ exec .migrC s = takeTrap s .cls (headWord .migrC) h.pc)

/-- 05:R151, R153; 13:R390, R391: a CSR read or written by a level that may, with no wait due, is read and written as one action.
A access to CYCLE or TIME sees time pass, one to FILL or THR the running window counted so far; one of the floating CSRs sees a
TMMA in flight complete. 05:R151, R153: the stops of a CSR instruction in their order: a number without a CSR takes ILLEGAL; a
level too low takes PRIV with the number; a write where none may write takes ILLEGAL; a queue still running holds it; a value with
a reserved part takes ILLEGAL. 05:R154-R164; 06:R177: a CSR whose bits are all held reads back what a write of a legal value left.
03:R90; 05:R157, R161, R163, R164; 06:R177: what a write leaves where it is not read back whole. HSTAT keeps LV; on a T hart
VDIRTY holds only its bits 9 and 10; an NRES bit that falls gives its section the reset values; SIMB sets PEAK alone, on C
nothing; QOSSH keeps TENANT and sets the weight of the tenant at the port. Values with a reserved part: FFLAGS above 31, FENABLE
above bit 8 or in bits 7 to 5, SRSEED zero. -/
def Obligations.CsrInstructions : Prop :=
  (∀ (s : State) (d a : Reg) (n : BitVec 12) (c : CsrName), csrName n.toNat = some c →
    let s1 : State := if csrTmma c then { s with hart := s.hart.finishTmma } else s
    let s2 : State :=
      if c = .cycle ∨ c = .time then s1.passTime
      else if c = .fill ∨ c = .thr then { s1 with hart := s1.hart.passWindow s1 } else s1
    let old := BitVec.ofNat 64 (s2.csrValue c)
    let v := (s.getX a).toNat
    let mayRead : Prop := (csrReadLevel c).code ≤ s.hart.lv.code
    let mayWrite : Prop := ∃ l, csrWriteLevel c = some l ∧ l.code ≤ s.hart.lv.code
    (csrWaits c = true → s.hart.vq = []) →
    (mayRead → exec (.csrr d n) s = .next (s2.result d old)) ∧
    (mayWrite → s.hart.stopped = none → s2.csrValueOk c v = true → exec (.csrw a n) s = .next ((s2.csrStore c v).setPc (s.hart.pc + 4))) ∧
    (mayRead → mayWrite → s.hart.stopped = none → s2.csrValueOk c v = true →
      exec (.csrx d a n) s = .next ((s2.csrStore c v).result d old))) ∧
  (∀ (s : State) (d a : Reg) (n : BitVec 12),
    let lv := s.hart.lv.code
    let r : Instr := .csrr d n
    let w : Instr := .csrw a n
    let x : Instr := .csrx d a n
    let ill (i : Instr) : Prop := exec i s = takeTrap s .illegal (illegalV i) s.hart.pc
    let priv (i : Instr) : Prop := exec i s = takeTrap s .priv (n.setWidth 64) s.hart.pc
    let level (c : CsrName) : Nat := match csrWriteLevel c with | some l => l.code | none => (csrReadLevel c).code
    (csrName n.toNat = none → ill r ∧ ill w ∧ ill x) ∧
    (∀ c, csrName n.toNat = some c →
      (lv < (csrReadLevel c).code → priv r ∧ priv x) ∧ (lv < level c → priv w ∧ priv x) ∧
      (level c ≤ lv → csrWriteLevel c = none → ill w ∧ ((csrReadLevel c).code ≤ lv → ill x)) ∧
      (csrWaits c = true → s.hart.vq ≠ [] → ((csrReadLevel c).code ≤ lv → exec r s = .next s) ∧
        (∀ l, csrWriteLevel c = some l → l.code ≤ lv → exec w s = .next s)) ∧
      (∀ l, csrWriteLevel c = some l → l.code ≤ lv → csrTmma c = false → c ≠ .cycle → (csrWaits c = true → s.hart.vq = []) →
        s.csrValueOk c (s.getX a).toNat = false → ill w ∧ ((csrReadLevel c).code ≤ lv → ill x)))) ∧
  (∀ (s : State) (v : Nat) (c : CsrName), v < 2 ^ 64 → s.hart.lg ≤ 4 →
    c ∈ [CsrName.vl, .vtype, .mr, .ves, .lix, .xpos, .fflags, .fenable, .srseed, .fill, .thr, .balmode, .cycle, .waitmax, .ktvec,
      .kscr, .trapc, .trapv, .trappc, .timecmp, .migctl, .ctxb, .mtvec, .mscr, .mkeep] →
    s.csrValueOk c v = true → (s.csrStore c v).csrValue c = v) ∧
  (∀ (s : State) (v : Nat), v < 2 ^ 64 →
    let h := s.hart
    let after (c : CsrName) : State := s.csrStore c v
    (s.csrValueOk .hstat v = true →
      (after .hstat).csrValue .hstat = h.lv.code * 16 + v % 16 ∧ (after .hstat).hart.lv = h.lv ∧
      (after .hstat).hart.ie = v.testBit 0 ∧ (after .hstat).hart.bank.pie = v.testBit 1 ∧
      (after .hstat).hart.bank.plv.code = bitsOf v 3 2) ∧
    (s.csrValueOk .vdirty v = true →
      (after .vdirty).csrValue .vdirty = if h.cls = .t then v &&& 0x600 else v) ∧
    (s.csrValueOk .vlazy v = true → h.pendSet = Vector.replicate 8 0 → h.pendClr = Vector.replicate 8 0 →
      let t := after .vlazy
      let falls (n : Nat) : Bool := h.nres.getLsbD n && !v.testBit n
      t.csrValue .vlazy = v ∧
      t.hart.v = Vector.ofFn (fun i => if falls (i.val / 8) then 0 else h.v[i]) ∧
      t.hart.m = Vector.ofFn (fun i => if falls (4 + i.val) then Vector.replicate 16 0 else h.m[i]) ∧
      t.hart.k = (if falls 8 then Vector.replicate 8 0 else Vector.ofFn (fun i => h.k[i])) ∧
      t.hart.sc = (if falls 9 then Vector.replicate 4 scReset else h.sc) ∧
      t.hart.ct = (if falls 10 then ctReset else h.ct) ∧ t.hart.sh = (if falls 11 then Vector.replicate 2 0 else h.sh)) ∧
    (h.cls ≠ .c → (after .simb).str h.stringIx = { s.str h.stringIx with peak := bitsOf v 47 40 }) ∧
    (h.cls = .c → after .simb = s) ∧
    (s.csrValueOk .qossh v = true →
      (after .qossh).csrValue .qossh = bitsOf v 18 8 * 256 + s.csrValue .qossh % 256 ∧
      (after .qossh).shareOf h.netPort (s.tenantOf h) = max (bitsOf v 18 8) 1) ∧
    (∀ (c : CsrName) (a d : Reg) (n : BitVec 12), csrName n.toNat = some c → v = (s.getX a).toNat → h.vq = [] →
      (c = .fflags ∧ 32 ≤ v ∨ c = .fenable ∧ (2 ^ 9 ≤ v ∨ bitsOf v 7 5 ≠ 0) ∨ c = .srseed ∧ v = 0) →
      exec (.csrw a n) s = takeTrap { s with hart := h.finishTmma } .illegal (illegalV (.csrw a n)) h.pc ∧
      exec (.csrx d a n) s = takeTrap { s with hart := h.finishTmma } .illegal (illegalV (.csrx d a n)) h.pc))

/-- 02:R38; 13:R389; 15:R442, R443: on a V hart, or a C hart of a gang with CRF, the registers and semaphores of the hart's
cluster file. A SEMTS of a bit that is 1 waits in line; SEMCLR hands the bit to the first in line. A C hart without CRF takes
ACCESS with the number, and a T hart CLASS. -/
def Obligations.ClusterFileOperations : Prop :=
  ∀ (s : State) (d a : Reg) (n : BitVec 6) (m : BitVec 8),
    let h := s.hart
    let f := s.file h
    let crf : Prop := ∃ g, s.gang h.id.gang = some g ∧ g.crf = true
    let may : Prop := h.cls = .v ∨ h.cls = .c ∧ crf
    let put (g : ClusterFile) : State := s.setFile h.fileNo g
    let bit := (1 : BitVec 256) <<< m.toNat
    let line := f.waiters.find? (fun w => w.1 == m)
    (may →
      exec (.crld d n) s = .next (s.result d (f.cr[n.toNat]'n.isLt)) ∧
      exec (.crst a n) s = .next ((put { f with cr := f.cr.set n.toNat (s.getX a) n.isLt }).setPc (h.pc + 4)) ∧
      (f.sem.getLsbD m.toNat = true → exec (.semtry d m) s = .next ((put { f with sem := f.sem ||| bit }).result d 1)) ∧
      (f.sem.getLsbD m.toNat = false →
        exec (.semtry d m) s = .next (((put { f with sem := f.sem ||| bit }).acquire h.id).result d 0) ∧
        exec (.semts m) s = .next { (put { f with sem := f.sem ||| bit }).acquire h.id with hart := { h.endWait with pc := h.pc + 4 } }) ∧
      (f.sem.getLsbD m.toNat = true → ∃ t, exec (.semts m) s = .next t ∧ t.hart = h.waitHere (.semts m) ∧
        (t.file h).waiters = (if f.waiters.any (fun w => w.2 == h.id) then f.waiters else f.waiters ++ [(m, h.id)]) ∧
        (t.file h).cr = f.cr ∧ (t.file h).sem = f.sem ∧ t = { s with hart := t.hart, files := t.files }) ∧
      (line = none → exec (.semclr m) s = .next ((put { f with sem := f.sem &&& ~~~bit }).setPc (h.pc + 4))) ∧
      (∀ w, line = some w → w.2 ≠ h.id →
        exec (.semclr m) s = .next ((((put { f with waiters := f.waiters.filter (fun x => x.2 != w.2) }).modHartOf w.2
          (fun g => { g.endWait with pc := g.pc + 4, gbarHere := false, stepDone := false })).acquire w.2).setPc (h.pc + 4)))) ∧
    (h.cls = .c → ¬ crf →
      let no (i : Instr) (k : Nat) : Prop := exec i s = takeTrap s .access (BitVec.ofNat 64 k) h.pc
      no (.crld d n) n.toNat ∧ no (.crst a n) n.toNat ∧ no (.semts m) m.toNat ∧ no (.semtry d m) m.toNat ∧ no (.semclr m) m.toNat) ∧
    (h.cls = .t →
      let no (i : Instr) : Prop := exec i s = takeTrap s .cls (headWord i) h.pc
      no (.crld d n) ∧ no (.crst a n) ∧ no (.semts m) ∧ no (.semtry d m) ∧ no (.semclr m))

/-- 02:R52-R54: an instruction of a class the hart is not of takes CLASS with its first parcel; a C hart that may move to V leaves
for it instead, once no NAMO destination is awaited (15:R434). 05:R164; 07:R224: a posted instruction that uses a section whose
NRES bit is 1 takes LAZY as it is posted, with the mask of those it uses, and has no effect; NRES bits of other sections change
nothing (the statements of results ask no more). VSAVE and VRSTR use none. Which sections: the groups of its v registers, K for a
mask register but k0, the scales that VTYPE makes it read, the code table for code8, the tiles, the shadow registers. -/
def Obligations.ClassAndSectionChecks : Prop :=
  (∀ (s : State) (i : Instr),
    let no : Prop := exec i s = takeTrap s .cls (headWord i) s.hart.pc
    let posted : Prop := isPosted i = true ∨ vOnly i = true
    let tOnly : Prop := match i with
      | .tld .. | .tst .. | .tcvt .. | .tmma .. | .tmmaS .. | .tsend .. | .tsync => True
      | _ => False
    let cvOnly : Prop := match i with
      | .nput .. | .nget .. | .namo .. | .nflush .. => True
      | _ => False
    (s.hart.cls = .t → vOnly i = true ∨ cvOnly → no) ∧ (s.hart.cls ≠ .t → tOnly → no) ∧
    (s.hart.cls = .c → posted → (s.hart.migTrap = false ∨ s.canArrive .v = false) → no) ∧
    (s.hart.cls = .c → posted → s.hart.migTrap = true → s.canArrive .v = true →
      (s.hart.namoPend = [] → exec i s = .next (startMove s .v)) ∧ (s.hart.namoPend ≠ [] → exec i s = .next s))) ∧
  (∀ (s : State) (i : Instr) (d a b : Reg) (m : Pred) (e : ET) (r : RmDyn) (t : BitVec 2) (o : RedOp) (sc : BitVec 2) (xs : Reg) (mask : BitVec 12),
    let h := s.hart
    let ty := h.pcfg.vt
    let uses (i : Instr) : BitVec 12 := h.lazyMask ty i
    let group (r : Reg) : BitVec 12 := 1 <<< (r.toNat / 8)
    let masks : BitVec 12 := if m.k = 0 then 0 else 0x100
    (h.cls = .v → isPosted i = true → (∀ xs n, i ≠ .vloop xs n) → uses i ≠ 0 →
      exec i s = takeTrap s .lazy ((uses i).setWidth 64) h.pc) ∧
    uses i &&& ~~~h.nres = 0 ∧ uses (.vsave xs mask) = 0 ∧ uses (.vrstr xs mask) = 0 ∧
    uses (.vadd d a (.vv b) m) = h.nres &&& (group d ||| group a ||| group b ||| masks) ∧
    uses (.vsplat d xs m) = h.nres &&& (group d ||| masks) ∧
    uses (.vcvt d a e r m) = h.nres &&& (group d ||| group a ||| masks |||
      (if ty.sa && etScaled ty.et || ty.sb && etScaled e then 0x200 else 0) ||| (if ty.et = .code8 ∨ e = .code8 then 0x400 else 0)) ∧
    uses (.vred d a o true 0 r m.k) = h.nres &&& (group d ||| group a ||| masks ||| 0x800) ∧
    uses (.mzero t) = h.nres &&& (0x10 <<< t.toNat) ∧ uses (.vscale d a sc r m) = h.nres &&& (group d ||| group a ||| masks ||| 0x200))

/-- 14:R402, R408; 15:R445; 16:R482; 10:R280, R281, R295: on an idle V hart a marker sets its register, and VL, VTYPE or MR at
once; SETVL closes the strip: later vector accesses see every earlier vector store. A VFENCE lets a side see what the other has
stored (.vs also what it has read of others' stores), or the vector side its own. FENCE moves nothing, since every access has
performed when it executes (log 5). IFENCE discards the code lines of its scope's instance: a fetch reads memory again. A VFENCE
that the scalar side waits at waits while a vector access is queued. 03:R89; 13:R370: BLIND announces that the datapath will be
idle for a count of cycles, or with 0 ends the announcement, at commit on a T hart and at VCP on a V hart. Where fill is
permitted, with the tokens of every step then in force, the datapath's steps are those that its idle tile calls for; elsewhere
nothing changes. The balancer's own steps stay. -/
def Obligations.MarkersAndFences : Prop :=
  (∀ (s : State) (d a : Reg) (ty : VType) (sc : Scope) (x y : AccSet) (k : VfKind),
    let h := s.hart
    let g := (s.vDone 1).hart
    let done (h : Hart) : Host.Outcome State Fault Refusal := .next { s.vDone 1 with hart := h }
    exec (.fence sc x y) s = .next { s with hart := { h with pc := h.pc + 4 } } ∧
    (∃ t, exec (.ifence sc) s = .next t ∧ t = { s with hart := { h with pc := h.pc + 4 }, icache := t.icache } ∧
      (∀ l, l ∈ t.icache ↔ l ∈ s.icache ∧ ¬ (match sc with
        | .p | .s => True
        | .h | .c => l.cls = h.cls ∧ l.core = h.agent
        | .cl => l.cls = h.cls ∧ match h.cls with
          | .c => l.core / 16 = h.agent / 16
          | .v => l.core / 8 = h.agent / 8
          | .t => l.core = h.agent)) ∧
      ∀ n, t.codeLine n = memReadN s.mem (64 * n) 64) ∧
    (s.vIdle →
      (let n := min (s.getX a).toNat (h.vlen / etSew h.pcfg.vt.et)
       let vl := BitVec.ofNat 32 (max n 1)
       ∃ t, exec (.setvl d a) s = .next t ∧ s.seesMore t ∧
        t = { s.vDone 1 with unseen := t.unseen, hart := { (g.setX d (BitVec.ofNat 64 n)) with
          vc := { h.vc with vl := vl }, pcfg := { h.pcfg with vl := vl }, strip := h.strip + 1 } } ∧
        ∀ u, u ∈ t.ownUnseen h.id → u.origin = .vector → u.toV = true) ∧
      (let m := h.vlen / etSew ty.et
       let cut (c : VCfg) : VCfg := { c with vt := ty, vl := BitVec.ofNat 32 (min c.vl.toNat m) }
       exec (.setvt d ty) s = done { (g.setX d (BitVec.ofNat 64 m)) with vc := cut h.vc, pcfg := cut h.pcfg }) ∧
      (let n := min (s.getX a).toNat 16
       let mr := BitVec.ofNat 5 (max n 1)
       exec (.setmr d a) s = done { (g.setX d (BitVec.ofNat 64 n)) with vc := { h.vc with mr := mr }, pcfg := { h.pcfg with mr := mr } }) ∧
      ∃ t, exec (.vfence k) s = .next t ∧ s.seesMore t ∧
        t = { s.vDone 1 with unseen := t.unseen, hart := { g with strip := if k = .vv ∨ k = .all then h.strip + 1 else h.strip } } ∧
        ∀ u, u ∈ t.ownUnseen h.id →
          (k = .sv ∨ k = .all → u.origin = .scalar → u.id < h.stores → u.toV = true) ∧
          (k = .vv ∨ k = .all → u.origin = .vector → u.toV = true) ∧ (k = .vs ∨ k = .all → u.origin = .vector → u.toS = true) ∧
          (k = .vs → u.origin ≠ .scalar → u.toV = true ∨ u.saw = true → u.toS = true)) ∧
    (h.cls = .v → k = .vs ∨ k = .all → h.queued isVAccess = true → exec (.vfence k) s = .next s)) ∧
  (∀ (s : State) (c : BitVec 21),
    let h := s.hart
    let e := blindEffect s h c.toNat
    let x := s.str h.stringIx
    let idle := setNth x.cur h.stringPos (x.cur.getD h.stringPos 0 - Config.datapathDraw s.tick)
    let asks : State := (foresee s x.ix idle).modHartOf h.id (fun g => { g with
      blind := c.toNat, blindSteps := some (min 16 (unlimitedSteps x.ix idle (idle.getD h.stringPos 0))) })
    (h.cls = .t → exec (.blind c) s = .next (e.setPc (h.pc + 4))) ∧
    (s.vIdle → ∃ t, exec (.blind c) s = .next t ∧
      t = { s with hart := { (s.vDone 1).hart with blind := e.hart.blind, blindSteps := e.hart.blindSteps }, others := e.others,
                   strings := e.strings, sched := e.sched }) ∧
    (∀ ix, (e.str ix).steps = (s.str ix).steps) ∧
    e = { s with hart := e.hart, others := e.others, strings := e.strings, sched := e.sched } ∧
    (c = 0 → e.hart = { h with blind := 0, blindSteps := none }) ∧
    (c ≠ 0 → s.fillPermitted x idle (tileSteps asks x) = true → e = drawFill asks x.ix ∧
      e.hart = { h with blind := c.toNat, blindSteps := some (min 16 (unlimitedSteps x.ix idle (idle.getD h.stringPos 0))) }) ∧
    (c ≠ 0 → s.fillPermitted x idle (tileSteps asks x) = false → e = s))

/-- 04:R136-R138; 03:R83: CONVOY on an idle V hart fetches as many instructions as it has slots. Each that decodes and may run on
its slot's unit passes; then the header is queued, and waits for its members, and the balancer is told its slots. The first that
does not decode takes ILLEGAL, the first on a wrong unit CONVOY with its slot. -/
def Obligations.ConvoyChecksMembers : Prop :=
  ∀ (s s1 : State) (us : List VUnit) (l : List Ahead), s.vIdle → us ≠ [] →
    runM (fetchAhead us.length (s.hart.pc + 4)) s = (.ok l, s1) →
    let fits (k : Nat) : Prop := ∃ u a i, us[k]? = some u ∧ l[k]? = some a ∧ decode a.head a.tail = .ok i ∧ u ∈ memberUnits i
    (l.length = us.length ∧ s1 = { s with tlb := s1.tlb, walks := s1.walks, icache := s1.icache, hostCopies := s1.hostCopies, out := s1.out }) ∧
    ((∀ k, k < us.length → fits k) →
      let u := convoyFill (s1.vPosted 1 (.convoy us)) us
      exec (.convoy us) s = .next { u with hart := { u.hart with convoyLeft := us.length } } ∧
      u = { s1.vPosted 1 (.convoy us) with strings := u.strings, sched := u.sched }) ∧
    (∀ k a, k < us.length → (∀ j, j < k → fits j) → l[k]? = some a →
      (∀ e, decode a.head a.tail = .error e → exec (.convoy us) s = takeTrap s1 .illegal a.illegalV s.hart.pc) ∧
      (∀ i u, decode a.head a.tail = .ok i → us[k]? = some u → u ∉ memberUnits i →
        exec (.convoy us) s = takeTrap s1 .convoy (BitVec.ofNat 64 k) s.hart.pc))

/-- 07:R224-R227; 16:R490, R491: VLOOP with a body of integer operations, under an integer type, on an idle V hart runs the body
as many times as its count says: the v registers are those that the body's operations leave, one after another. It goes on past
the body. A section the body uses that is not resident makes the VLOOP take LAZY as it is posted, with all of the body's
(05:R164). -/
def Obligations.CapturedLoopRepeatsBody : Prop :=
  ∀ (s s1 : State) (xs : Reg) (n : BitVec 5) (l : List Ahead) (body : List Instr), s.vIdle → etIsInt s.hart.et = true →
    runM (fetchAhead (n.toNat + 1) (s.hart.pc + 8)) s = (.ok l, s1) → l.map (fun a => decode a.head a.tail) = body.map .ok →
    (∀ i, i ∈ body → ∃ d a b m, loopInt i = some (d, a, b, m)) → (∀ r, r ∈ loopRegs body → r ∉ s.hart.pendingX) →
    let trip := (s.getX xs).toNat % 2 ^ 32
    let missing := orAll (body.map (s.hart.lazyMask s.hart.pcfg.vt))
    (missing ≠ 0 → exec (.vloop xs n) s = takeTrap s1 .lazy (missing.setWidth 64) s.hart.pc) ∧
    (missing = 0 → ∃ t, exec (.vloop xs n) s = .next t ∧
      t.hart.v = (iterate trip (fun v => body.foldl (fun v i => s.hart.loopStep i v) v) s.hart.v) ∧
      t.hart.pc = ((l.getLast?.map Ahead.next).getD 0) ∧ t.hart.vq = [] ∧ t.hart.lix = ⟨false, 0, 0⟩ ∧
      t.hart.x = s.hart.x ∧ t.hart.k = s.hart.k ∧ t.hart.fflags = s.hart.fflags ∧ s.sameMem t ∧ s.seesMore t ∧
      t = { s with hart := t.hart, unseen := t.unseen, tlb := t.tlb, walks := t.walks, icache := t.icache,
                   hostCopies := t.hostCopies, out := t.out })

/-- 15:R452-R454; 07:R229: on a T hart a tile is loaded or stored whole; a TMMA in flight that uses it completes first. A
misaligned address takes MISALIGN; where a byte cannot be reached, the lowest such address is reported and no byte moves. 15:R452;
06:R178, R181: TCVT on a T hart converts the 256 FP32 elements of an accumulator in ascending order, each with its own draw, and
writes them packed. The first that raises an enabled flag takes FPTRAP with the tile unwritten. -/
def Obligations.TileInstructions : Prop :=
  (∀ (s : State) (t : Tile) (a : Reg) (i : BitVec 13) (pas : List Nat) (c : Cause) (v : Word), s.hart.cls = .t →
    let ea := s.getX a + i.signExtend 64
    let uses (f : TmmaFly) (reads : Bool) : Prop := match t with | .w n => reads = true ∧ n ∈ f.reads | .ta n => f.ta = n
    let after (reads : Bool) (g : Hart) : Prop :=
      (∀ f, s.hart.tmma = some f → uses f reads → g = s.hart.finishTmma) ∧
      ((∀ f, s.hart.tmma = some f → ¬ uses f reads) → g = s.hart)
    (ea.toNat % 64 ≠ 0 → (∃ g, after true g ∧ exec (.tld t a i) s = takeTrap { s with hart := g } .misalign ea s.hart.pc) ∧
      ∃ g, after false g ∧ exec (.tst t a i) s = takeTrap { s with hart := g } .misalign ea s.hart.pc) ∧
    (ea.toNat % 64 = 0 → s.faults .read ea 1024 false c v → ∃ g, after true g ∧
      exec (.tld t a i) s = takeTrap (noteXlat { s with hart := g } s.ctx ea 1024) c v s.hart.pc) ∧
    (ea.toNat % 64 = 0 → s.faults .write ea 1024 false c v → ∃ g, after false g ∧
      exec (.tst t a i) s = takeTrap (noteXlat { s with hart := g } s.ctx ea 1024) c v s.hart.pc) ∧
    (ea.toNat % 64 = 0 → s.reaches .read ea 1024 pas → ∃ u g, exec (.tld t a i) s = .next u ∧ after true g ∧
      u.hart = { g.setTile t (BitVec.ofNat 8192 (leNat (s.scalarSees pas))) with pc := s.hart.pc + 4 } ∧ s.sameMem u ∧ s.accessOnly u) ∧
    (ea.toNat % 64 = 0 → s.memOk → s.reaches .write ea 1024 pas → ∃ u g, exec (.tst t a i) s = .next u ∧ after false g ∧
      u.hart = { g with pc := s.hart.pc + 4, stores := u.hart.stores } ∧ s.wrote u pas (leBytes 1024 (g.getTile t).toNat) ∧ s.accessOnly u)) ∧
  (∀ (s : State) (t : BitVec 3) (a : BitVec 1) (e : ET) (r : Rm), s.hart.cls = .t → s.hart.tmma = none →
    let h := s.hart
    let w := etSew e
    let i : Instr := .tcvt t a e r
    let res (j : Nat) : Nat × Flags :=
      writeElt e h.ct r h.ftz (drawFor r (seedAfter r h.srseed j)).1
        (decodeF fmt32 (h.ftz && (etIsIeee e || etIsInt e)) (getE 32 (h.getTa a).toNat j))
    (e = .code8 → h.nres.getLsbD 10 = true → exec i s = takeTrap s .lazy 0x400 h.pc) ∧
    ((e = .code8 → h.nres.getLsbD 10 = false) →
      ((∀ j, j < 256 → trapping h.fen (res j).2 = 0) → ∃ v : TReg,
        exec i s = .next { s with hart := { h.setW t v with
          fflags := h.fflags ||| orFlags 256 (fun j => (res j).2), srseed := seedAfter r h.srseed 256, pc := h.pc + 4 } } ∧
        ∀ j, w * (j + 1) ≤ 8192 → getE w v.toNat j = if j < 256 then (res j).1 % 2 ^ w else 0) ∧
      (∀ n, n < 256 → (∀ j, j < n → trapping h.fen (res j).2 = 0) → trapping h.fen (res n).2 ≠ 0 →
        exec i s = takeTrap { s with hart := { h with
          fflags := h.fflags ||| orFlags (n + 1) (fun j => (res j).2), srseed := seedAfter r h.srseed n } }
          .fptrap (BitVec.ofNat 64 (n * 2 ^ 32 + (trapping h.fen (res n).2).toNat)) h.pc)))

/-- 15:R455-R457; 07:R229, R230; 06:R186: TMMA on a T hart forms 256 product sums, each rounded once. With no enable set it stays
in flight and the hart goes on; otherwise it is written at once, or takes FPTRAP at the first element that raises an enabled flag.
-/
def Obligations.TensorProducts : Prop :=
  ∀ (s : State) (d : BitVec 1) (a b m : BitVec 3) (z : Sparse) (sc : Bool) (e : ET), s.hart.cls = .t →
    let h := s.hart.finishTmma
    let pair (r : BitVec 3) : List (BitVec 3) := if e.is16Float then [r, r + 1] else [r]
    let lazySet := h.nres &&& ((if sc then 0x200 else 0) ||| (if e = .code8 then 0x400 else 0))
    let runs (i : Instr) (sp : Option (Sparse × BitVec 3)) (more : List (BitVec 3)) : Prop :=
      let cell := h.tmmaCell d a b sp sc e
      (lazySet ≠ 0 → exec i s = takeTrap s .lazy (lazySet.setWidth 64) h.pc) ∧
      (lazySet = 0 → h.fen = 0 → ∃ v : TReg,
        exec i s = .next { s with hart := { h with
          pc := h.pc + 4, tmma := some ⟨d, pair a ++ pair b ++ more, v, orFlags 256 (fun n => (cell n).2)⟩ } } ∧
        ∀ n, n < 256 → getE 32 v.toNat n = (cell n).1 % 2 ^ 32) ∧
      (lazySet = 0 → h.fen ≠ 0 → (∀ n, n < 256 → trapping h.fen (cell n).2 = 0) → ∃ v : TReg,
        exec i s = .next { s with hart := { h.setTa d v with pc := h.pc + 4, fflags := h.fflags ||| orFlags 256 (fun n => (cell n).2) } } ∧
        ∀ n, n < 256 → getE 32 v.toNat n = (cell n).1 % 2 ^ 32) ∧
      (lazySet = 0 → ∀ n, n < 256 → (∀ j, j < n → trapping h.fen (cell j).2 = 0) → trapping h.fen (cell n).2 ≠ 0 →
        exec i s = takeTrap { s with hart := { h with fflags := h.fflags ||| orFlags (n + 1) (fun n => (cell n).2) } }
          .fptrap (BitVec.ofNat 64 (n * 2 ^ 32 + (trapping h.fen (cell n).2).toNat)) h.pc)
    runs (.tmma d a b sc e) none [] ∧ runs (.tmmaS d a b z m sc e) (some (z, m)) [m]

/-- 02:R57-R61; 15:R460-R463: in an exchange step TSEND moves words from the hart's scratchpad to another's, and counts them
there; in any other it takes STEP. A word that the receiver or a TSEND has written in the same step may keep that value (15:R461).
TSYNC arrives at the step barrier; in an exchange step a plan that cannot be read stops it, and every other hart of the gang at
its own TSYNC of the step. -/
def Obligations.ExchangeInstructions : Prop :=
  ∀ (s : State) (a b : Reg) (l : BitVec 9) (g : Gang), s.hart.cls = .t → s.gang s.hart.id.gang = some g →
    let h := s.hart
    let xa := s.getX a
    let xb := s.getX b
    let len := 8 * (l.toNat + 1)
    let place (va : Word) (slot off : Nat) : Prop :=
      va.toNat = Config.window + 16384 * slot + off ∧ off + len ≤ 16384 ∧ slot < g.harts ∧ va.toNat < Config.window + Config.windowSize
    (g.stepKind ≠ .exchange → exec (.tsend a b l) s = takeTrap s .step 0 h.pc) ∧
    (∀ rx ro own cnt src dst, g.stepKind = .exchange → xa.toNat % 8 = 0 → xb.toNat % 8 = 0 → place xa rx ro → place xb h.id.ix own →
      planCount s g rx = .ok cnt →
      let had := match s.hartOf ⟨g.id, rx⟩ with | some r => r.incoming | none => 0
      let to_ : HartId := ⟨g.id, rx⟩
      let seen := s.seePlan g rx 1
      (cnt < had + len → exec (.tsend a b l) s = takeTrap seen .step (BitVec.ofNat 64 (2 ^ 63 + rx)) h.pc) ∧
      (∀ c v, had + len ≤ cnt → s.faults .read xb len false c v →
        exec (.tsend a b l) s = takeTrap (noteXlat seen s.ctx xb len) c v h.pc) ∧
      (had + len ≤ cnt → s.memOk → s.reaches .read xb len src → s.reaches .write xa len dst →
        ∃ t n, exec (.tsend a b l) s = .next t ∧ n ≤ l.toNat + 1 ∧ (∀ p, p ∉ dst → memRead t.mem p = memRead s.mem p) ∧
          (dst.Nodup → (∀ p, p ∈ dst → plainPa p = true) → ∀ w, w ∈ pieces 8 (dst.zip (s.scalarSees src)) →
            (∀ p, p ∈ w → memRead t.mem p.1 = p.2) ∨
            (∀ p, p ∈ w → memRead t.mem p.1 = memRead s.mem p.1) ∧
              ∃ u, u ∈ s.ownUnseen to_ ∧ u.origin = .exchange ∧ u.hits (w.map (·.1)) = true) ∧
          let gets (r : Hart) : Hart := { r with incoming := r.incoming + len, stores := r.stores + n }
          (s.modHartOf to_ gets).accessOnly t ∧ t.hart = { (if h.id = to_ then gets h else h) with pc := h.pc + 4 })) ∧
    (∀ rx ro own p, g.stepKind = .exchange → xa.toNat % 8 = 0 → xb.toNat % 8 = 0 → place xa rx ro → place xb h.id.ix own →
      planCount s g rx = .error p → exec (.tsend a b l) s = takeTrap (s.seePlan g rx 1) p.1 p.2 h.pc) ∧
    let seen := if g.stepKind = .exchange then s.seePlan g 0 g.harts else s
    ((g.stepKind = .exchange → h.planFault = none ∧ ∃ c, planCounts s g = .ok c) →
      exec .tsync s = .next (tsyncCheck { seen with hart := { h.waitHere .tsync with stepDone := true } } g.id)) ∧
    (∀ p, g.stepKind = .exchange → h.planFault = some p →
      exec .tsync s = takeTrap { s with hart := { h with planFault := none } } p.1 p.2 h.pc) ∧
    (∀ p, g.stepKind = .exchange → h.planFault = none → planCounts s g = .error p →
      let u := planFails seen g.id p
      exec .tsync s = takeTrap { u with hart := { u.hart with planFault := none } } p.1 p.2 h.pc ∧
      ((∀ o, o ∈ s.harts → o.waitOn ≠ some .tsync) →
        u = seen.modHarts (fun o => o.id.gang == g.id && !o.ended) (fun o => { o with planFault := some p })))

/-- 14:R413-R415: LAUNCH of a 64-byte record at an aligned address answers in [63:62] whether it was appended, the queue was full,
closed, or not the hart's to launch into, and in [31:0] the slot; an appended record has STATE, ERR and GANGID (02:R39) zero and
every other byte of the caller's, and TAIL advances. 14:R405; 15:R447; 17:R512, R513: SIGNAL adds to a word once every earlier
vector store and copy has performed; WAITSIG goes on when the word compares so and waits otherwise; GBAR arrives, and goes on
where it is the last. Each needs an aligned word. -/
def Obligations.LaunchSignalsBarrier : Prop :=
  (∀ (s : State) (d a b : Reg) (pas : List Nat), (s.getX b).toNat % 8 = 0 → s.reaches .read (s.getX b) 64 pas →
    let q := (s.getX a).toNat
    let at_ := Config.scb + 64 * q
    let ds := leNat (memReadN s.mem at_ 64)
    let foreign : Prop := 1024 ≤ q ∨ s.hart.lv = .a ∧ ds.testBit 157 = false
    let closed : Prop := ds.testBit 156 = false ∨ 2 ≤ bitsOf ds 162 160
    let slots := 2 ^ (bitsOf ds 155 152 + 4)
    let head := bitsOf ds 223 192
    let tail := bitsOf ds 255 224
    let full : Prop := (tail + 2 ^ 32 - head) % 2 ^ 32 = slots
    let va := BitVec.ofNat 64 (bitsOf ds 55 0) + BitVec.ofNat 64 (64 * (tail % slots))
    let c := devCtx (BitVec.ofNat 16 (bitsOf ds 191 176))
    let refused (st : Nat) : Prop := ∃ t, exec (.launch d a b) s = .next t ∧ s.gotX t d (BitVec.ofNat 64 (st * 2 ^ 62)) ∧ s.sameMem t ∧ s.accessOnly t
    (foreign → refused 3) ∧ (¬ foreign → closed → refused 2) ∧ (¬ foreign → ¬ closed → full → refused 1) ∧
    (¬ foreign → ¬ closed → ¬ full → s.tlbFresh → s.memOk →
      (∀ e, xlatN s c .write va 64 = .error e → refused 2) ∧
      (∀ pas', xlatN s c .write va 64 = .ok pas' → physCheck s .write va pas' false = .ok () → pas'.Nodup →
        s.bad.contains (granuleOf (at_ + 28)) = false →
        (∀ p, p ∈ pas' → plainPa p = true ∧ ¬ (at_ + 28 ≤ p ∧ p < at_ + 32)) →
        ∃ t, exec (.launch d a b) s = .next t ∧ s.gotX t d (BitVec.ofNat 64 tail) ∧ s.accessOnly t ∧
          (∀ p, p ∉ pas' → ¬ (at_ + 28 ≤ p ∧ p < at_ + 32) → memRead t.mem p = memRead s.mem p) ∧
          memReadN t.mem (at_ + 28) 4 = leBytes 4 ((tail + 1) % 2 ^ 32) ∧
          ∀ (k p : Nat) (x : Byte), pas'[k]? = some p → (s.scalarSees pas)[k]? = some x →
            memRead t.mem p = if k = 28 ∨ k = 29 ∨ 56 ≤ k ∧ k < 60 then 0 else x))) ∧
  (∀ (s : State) (a b : Reg) (sc : Scope) (c : Cond) (pas : List Nat),
    let h := s.hart
    let va := s.getX a
    let y : BitVec 32 := (s.getX b).setWidth 32
    let w : BitVec 32 := BitVec.ofNat 32 (leNat (s.scalarSees pas))
    let holds : Prop :=
      match c with
      | .eq => w = y | .ne => w ≠ y | .lt => w.toInt < y.toInt | .ge => w.toInt ≥ y.toInt | .ltu => w.toNat < y.toNat
      | .geu => w.toNat ≥ y.toNat
    (va.toNat % 4 ≠ 0 → exec (.signal a b sc) s = takeTrap s .misalign va h.pc ∧ exec (.waitsig a b c) s = takeTrap s .misalign va h.pc) ∧
    (va.toNat % 4 = 0 → s.reaches .write va 4 pas → physCheck s .read va pas false = .ok () →
      (h.storesPending = false → s.memOk → ∃ t, exec (.signal a b sc) s = .next t ∧ t.hart = { h with pc := h.pc + 4 } ∧ s.accessOnly t ∧
        s.memAfter t (pas.zip (leBytes 4 (BitVec.ofNat 32 (leNat (memReadAt s.mem pas)) + y).toNat))) ∧
      (h.storesPending = true → ∃ t, exec (.signal a b sc) s = .next t ∧ t.hart = h ∧ s.sameMem t ∧ s.accessOnly t)) ∧
    (va.toNat % 4 = 0 → s.reaches .read va 4 pas →
      (holds → ∃ t, exec (.waitsig a b c) s = .next t ∧ t.hart = { h.endWait with pc := h.pc + 4 } ∧ s.sameMem t ∧ s.accessOnly t) ∧
      (¬ holds → ∃ t, exec (.waitsig a b c) s = .next t ∧ t.hart = h.waitHere (.waitsig a b c) ∧ s.sameMem t ∧ s.accessOnly t)) ∧
    ((∀ o, o ∈ s.others → o.id.gang = h.id.gang → o.ended = true ∨ o.gbarHere = true) →
      ∃ t, exec .gbar s = .next t ∧ s.sameMem t ∧ t = { s with hart := t.hart, others := t.others, unseen := t.unseen } ∧
        t.hart = { h with pc := h.pc + 4, waitOn := none, waitS := ⟨some h.pc, 0⟩, gbarHere := false, stepDone := false,
                          gbarDone := h.gbarDone + 1 } ∧
        t.others = s.others.map (fun o => if o.id.gang = h.id.gang then
          { (if o.gbarHere then { o.endWait with pc := o.pc + 4, gbarHere := false, stepDone := false } else o) with
            gbarDone := o.gbarDone + 1 } else o)) ∧
    ((∃ o, o ∈ s.others ∧ o.id.gang = h.id.gang ∧ o.ended = false ∧ o.gbarHere = false) →
      exec .gbar s = .next { s with hart := { h.waitHere .gbar with gbarHere := true } }))

/-- 16:R485-R489; 11:R305: a vector load on an idle V hart reads its active elements in order where each is aligned, translates
and passes its checks, and traps at the first that does not with the elements below it done. An .acq load waits while a bit of its
mask is expected, and sees every chunk whose bit its mask then has set (10:R290). Memory reads as before. -/
def Obligations.VectorLoads : Prop :=
  ∀ (s : State) (i : Instr) (d : Reg) (acq : Bool) (m : Pred) (pas : Nat → List Nat), s.vIdle → s.usable i → loadForm i = some (d, acq, m) →
    let h := s.hart
    let expected : Prop := ∃ j, j < h.vlN ∧ (h.expected[m.k.toNat]'m.k.isLt).getLsbD j = true
    let now : State := if acq then s.order h.id (acquired h m.k) else s
    let val (j : Nat) :=
      if h.sew = 4 then getE 4 (leNat (now.vectorSees j (pas j))) (j % 2) else trimElt h.et (leNat (now.vectorSees j (pas j)))
    let okBelow (n : Nat) : Prop := ∀ j, j < n → h.active m.k j = true → s.eltOk i .read j (pas j)
    (¬ s.nibblesOk i → s.vIllegal i) ∧
    (s.nibblesOk i → acq = true ∧ expected → ∃ w, exec i s = .next { s.vPosted 2 i with hart := { (s.vPosted 2 i).hart with waitV := w } }) ∧
    (s.nibblesOk i → ¬ (acq = true ∧ expected) → s.tlbFresh →
      (okBelow h.vlN → ∃ t v, exec i s = .next t ∧ s.accessOnly t ∧ s.sameMem t ∧
        t.hart = ((s.vDone 2).hart.setV d v).mark (marks i) ∧ h.eltsAre h.vlN h.sew m val (h.getV d) v) ∧
      (∀ e c f, e < h.vlN → h.active m.k e = true → okBelow e → s.eltFails i .read e c f →
        ∃ t v, exec i s = takeTrap t c f (h.pc + 8) ∧ s.accessOnly t ∧ s.sameMem t ∧
          t.hart = { (((s.vPosted 2 i).hart.setV d v).mark (marks i)) with ves := BitVec.ofNat 32 e } ∧
          h.eltsAre e h.sew m val (h.getV d) v))

/-- 17:R508-R510: a vector store on an idle V hart writes its active elements, the highest remaining where two share an address;
every other byte is as before. It traps at the first element whose checks fail, with the elements below it stored. -/
def Obligations.VectorStores : Prop :=
  ∀ (s : State) (i : Instr) (d : Reg) (k : BitVec 3) (pas : Nat → List Nat), s.vIdle → s.usable i → storeForm i = some (d, k) →
    let h := s.hart
    let cells (n : Nat) := s.storeCells (h.getV d).toNat k pas n
    let okBelow (n : Nat) : Prop := ∀ j, j < n → h.active k j = true → s.eltOk i .write j (pas j)
    (¬ s.nibblesOk i → s.vIllegal i) ∧
    (s.nibblesOk i → s.tlbFresh → s.memOk →
      (okBelow h.vlN → ∃ t, exec i s = .next t ∧ s.accessOnly t ∧ s.stored t (cells h.vlN) ∧
        t.hart = { (s.vDone 2).hart with stores := t.hart.stores }) ∧
      (∀ e c f, e < h.vlN → h.active k e = true → okBelow e → s.eltFails i .write e c f →
        ∃ t, exec i s = takeTrap t c f (h.pc + 8) ∧ s.accessOnly t ∧ s.stored t (cells e) ∧
          t.hart = { (s.vPosted 2 i).hart with stores := t.hart.stores, ves := BitVec.ofNat 32 e }))

/-- 16:R469-R473: the vector atomics on an idle V hart, under a 32- or 64-bit integer type, read and write their active elements
in order, each read and its write seeing the same stores, and the return forms put the old values in vd. VAMO refuses two elements
of one address with DUPIDX and the higher element, and traps at the first element whose checks fail with those below it done;
VAMO.m checks every element before the first takes effect. -/
def Obligations.VectorAtomics : Prop :=
  ∀ (s : State) (d a x y : Reg) (o : AmoOp) (sc : Scope) (ret : Bool) (sh : BitVec 2) (k : BitVec 3) (pas : Nat → List Nat), s.vIdle →
    s.usable (.vamo d a x y o sc ret sh k) → s.usable (.vamom d a x y o sc ret sh k) →
    let h := s.hart
    let one : Instr := .vamo d a x y o sc ret sh k
    let many : Instr := .vamom d a x y o sc ret sh k
    let src := (h.getV a).toNat
    let typeOk : Prop := etIsInt h.et = true ∧ (h.sew = 32 ∨ h.sew = 64)
    let act (j : Nat) : Prop := j < h.vlN ∧ h.active k j = true
    let okBelow (i : Instr) (n : Nat) : Prop :=
      ∀ j, j < n → act j → s.eltOk i .write j (pas j) ∧ physCheck s .read (s.vAddr i j) (pas j) false = .ok ()
    let fails (i : Instr) (e : Nat) (c : Cause) (f : Word) : Prop := s.eltFails i .write e c f ∨
      s.eltOk i .write e (pas e) ∧ physCheck s .read (s.vAddr i e) (pas e) false = .error (c, f)
    let apart : Prop := ∀ p q, act p → act q → pas p = pas q ∨ ∀ b, b ∈ pas p → b ∉ pas q
    let twice (j : Nat) : Prop := act j ∧ ∃ p, p < j ∧ act p ∧ s.vAddr one p = s.vAddr one j
    let did (i : Instr) (n : Nat) (g : Hart) (t : State) (f : Hart → Hart) : Prop :=
      s.accessOnly t ∧ s.storedAs (Unseen.fixed s true) t (s.amoCells o src k pas n) ∧ ∃ v : VReg,
        t.hart = f { (if ret then g.setV d v else g).mark (marks i) with stores := t.hart.stores } ∧
        h.eltsAre n h.sew ⟨k, false⟩ (s.amoOld o src k pas n) (h.getV d) v
    (¬ typeOk → s.vIllegal one ∧ s.vIllegal many) ∧
    (typeOk → ∀ j, twice j → (∀ p, p < j → ¬ twice p) → 
      exec one s = takeTrap { s.vPosted 2 one with hart := (s.vPosted 2 one).hart.mark (marks one) } .dupidx (BitVec.ofNat 64 j) (h.pc + 8)) ∧
    (typeOk → s.tlbFresh → s.memOk → apart →
      ((∀ j, ¬ twice j) → okBelow one h.vlN → ∃ t, exec one s = .next t ∧ did one h.vlN (s.vDone 2).hart t id) ∧
      (okBelow many h.vlN → ∃ t, exec many s = .next t ∧ did many h.vlN (s.vDone 2).hart t id) ∧
      (∀ e c f, act e → okBelow one e → fails one e c f → (∀ j, ¬ twice j) →
        ∃ t, exec one s = takeTrap t c f (h.pc + 8) ∧ did one e (s.vPosted 2 one).hart t (fun g => { g with ves := BitVec.ofNat 32 e })) ∧
      (∀ e c f, act e → okBelow many e → fails many e c f →
        ∃ t, exec many s = takeTrap t c f (h.pc + 8) ∧ s.accessOnly t ∧ s.sameMem t ∧
          t.hart = (s.vPosted 2 many).hart.mark (marks many)))

/-- 05:R167-R170; 17:R502, R503: VSAVE on an idle V hart writes the resident sections its mask names to the image at xs and marks
them present; VRSTR reads them back from a fitting image that holds them, and they are resident. A misaligned base takes MISALIGN,
an image that does not fit VIMAGE. -/
def Obligations.VectorImages : Prop :=
  ∀ (s : State) (xs : Reg) (mask : BitVec 12) (pas : List Nat), s.vIdle →
    let h := s.hart
    let base := s.getX xs
    let save : Instr := .vsave xs mask
    let rstr : Instr := .vrstr xs mask
    let bytes := 512 * h.lg
    let part (off n : Nat) : List Nat := (pas.drop off).take n
    let hd := leNat (memReadAt s.mem (part 0 64))
    let present := bitsOf hd 107 96
    let missing := mask.toNat &&& (2 ^ 12 - 1 - present)
    let sec (n : Nat) : Nat := match (imageSpans bytes).find? (fun p => p.1 == n) with
      | some (_, off, size) => leNat (memReadAt s.mem (part off size))
      | none => 0
    (base.toNat % 64 ≠ 0 → exec save s = takeTrap (s.vPosted 2 save) .misalign base (h.pc + 8) ∧
      exec rstr s = takeTrap (s.vPosted 2 rstr) .misalign base (h.pc + 8)) ∧
    (s.imageAt base pas →
      (∃ t, exec save s = .next t ∧ s.accessOnly t ∧
        t.hart = { (s.vDone 2).hart with stores := t.hart.stores } ∧
        (∀ n off size, (n, off, size) ∈ imageSpans bytes →
          memReadAt t.mem (part off size) =
            if (mask &&& ~~~h.nres).getLsbD n then leBytes size (h.sectionBits bytes n) else memReadAt s.mem (part off size)) ∧
        memReadAt t.mem (part 0 64) =
          leBytes 64 (imageHeader h.vlen ((if headerFits hd ∧ bitsOf hd 95 64 = h.vlen then present else 0) ||| (mask &&& ~~~h.nres).toNat)) ∧
        ∀ a, a ∉ pas → memRead t.mem a = memRead s.mem a) ∧
      (headerFits hd = true → bitsOf hd 95 64 = h.vlen → missing = 0 →
        (mask.getLsbD 8 = true → h.pendClr = Vector.replicate 8 0 ∧ h.pendSet = Vector.replicate 8 0) →
        ∃ t, exec rstr s = .next t ∧ s.accessOnly t ∧ s.sameMem t ∧
          t.hart = { (s.vDone 2).hart with
            v := t.hart.v, m := t.hart.m, k := t.hart.k, sc := t.hart.sc, ct := t.hart.ct, sh := t.hart.sh, perm := t.hart.perm,
            nres := h.nres &&& ~~~mask, vdirty := h.vdirty &&& ~~~mask, live := h.live ||| mask } ∧
          (∀ r : Reg, t.hart.getV r = if mask.getLsbD (r.toNat / 8) then
            BitVec.ofNat 16384 (getE h.vlen (sec (r.toNat / 8)) (r.toNat % 8)) else h.getV r) ∧
          (∀ (q : BitVec 2) (row : Nat), row < 16 → t.hart.getM q row = if mask.getLsbD (4 + q.toNat) then
            BitVec.ofNat 16384 (getE h.vlen (sec (4 + q.toNat)) row) else h.getM q row) ∧
          (∀ q : BitVec 3, q ≠ 0 → t.hart.getK q = if mask.getLsbD 8 then
            BitVec.ofNat 4096 (getE (h.vlen / 2) (sec 8) q.toNat % 2 ^ (h.vlen / 4)) else h.getK q) ∧
          (∀ q : BitVec 2, t.hart.getSc q = if mask.getLsbD 9 then BitVec.ofNat 2048 (getE 2048 (sec 9) q.toNat) else h.getSc q) ∧
          (∀ c (hc : c < 256), t.hart.ct[c] = if mask.getLsbD 10 then BitVec.ofNat 19 (getE 32 (sec 10) c) else h.ct[c]) ∧
          t.hart.perm = (if mask.getLsbD 10 then codeOrder t.hart.ct else h.perm) ∧
          (∀ q : BitVec 1, t.hart.getSh q = if mask.getLsbD 11 then
            BitVec.ofNat 16384 (getE h.vlen (sec 11) q.toNat) else h.getSh q)) ∧
      (let stops (v : Nat) : Prop := ∃ t, exec rstr s = takeTrap t .vimage (BitVec.ofNat 64 (v + bitsOf hd 95 64)) (h.pc + 8) ∧
         s.accessOnly t ∧ s.sameMem t ∧ t.hart = (s.vPosted 2 rstr).hart
       (headerFits hd = false → stops (2 ^ 32)) ∧
       (headerFits hd = true → bitsOf hd 95 64 ≠ h.vlen → stops (2 * 2 ^ 32)) ∧
       (headerFits hd = true → bitsOf hd 95 64 = h.vlen → missing ≠ 0 → stops (missing * 2 ^ 48 + 3 * 2 ^ 32))))

/-- 14:R422-R425, R427, R428; 06:R186, R192: on an idle V hart MZERO clears rows below MR, MWR writes the first VL elements of a
row, MRD converts a row into vd, and MMA adds eight products to each of the first VL elements of each row below MR, each rounded
once with its own draw. MMA stops at the first row that raises an enabled flag, with that row and the generator as they stood; MRD
leaves vd and the generator. A type, VL or MR that does not fit takes ILLEGAL. -/
def Obligations.AccumulatorTiles : Prop :=
  ∀ (s : State) (md : BitVec 2) (d a b : Reg) (scA scB : BitVec 2) (row : BitVec 4) (r : RmDyn) (k : BitVec 3), s.vIdle →
    s.hart.vc.mr.toNat ≤ 16 →
    let h := s.hart
    let g := (s.vDone 2).hart
    let mr := h.vc.mr.toNat
    let vl := h.vlN
    let aw := accW h.vc.vt.acc
    let n := vl * aw
    let rd : Instr := .mrd d md row r k
    let wr : Instr := .mwr a md row
    let mm : Instr := .mma md a b scA scB
    let mode : Rm := if h.vc.vt.acc = .int32 then .rne else h.vc.vt.rm
    let cell (q j : Nat) := h.mmaVal md a b scA scB q j (drawFor mode (seedAfter mode h.srseed (q * vl + j))).1
    let traps (q j : Nat) : Prop := trapping h.fen (cell q j).2 ≠ 0
    let rowFlags (q : Nat) : Flags := orFlags vl fun j => (cell q j).2
    let rowsDone (t : Hart) (e : Nat) : Prop := ∀ p q, q < 16 → ∀ j, aw * (j + 1) ≤ 16384 →
      getE aw (t.getM p q).toNat j = if p = md ∧ q < e ∧ j < vl then (cell q j).1 % 2 ^ aw else getE aw (h.getM p q).toNat j
    let conv (j dr : Nat) : Nat × Flags :=
      let bits := getE aw (h.getM md row.toNat).toNat j
      if h.vc.vt.acc = .int32 then
        let y := writeElt h.et h.ct (h.rmOf r) h.ftz dr (ofInt (readInt true 32 bits))
        if etIsInt h.et then (y.1, if y.2 = 0 then 0 else flagNX) else y
      else writeElt h.et h.ct (h.rmOf r) h.ftz dr (decodeF (accFmt h.vc.vt.acc) (h.ftz && (etIsIeee h.et || etIsInt h.et)) bits)
    (s.usable (.mzero md) → ∃ t, exec (.mzero md) s = .next { s.vDone 2 with hart := t } ∧ g.tilesOnly t (.mzero md) ∧ t.fflags = h.fflags ∧ t.srseed = h.srseed ∧
      ∀ p q, q < 16 → t.getM p q = if p = md ∧ q < mr then 0 else h.getM p q) ∧
    (s.usable wr → n ≤ h.vlen → ∃ t, exec wr s = .next { s.vDone 2 with hart := t } ∧ g.tilesOnly t wr ∧ t.fflags = h.fflags ∧ t.srseed = h.srseed ∧
      ∀ p q, q < 16 → t.getM p q = if p = md ∧ q = row.toNat then
        BitVec.ofNat 16384 ((h.getM md q).toNat / 2 ^ n * 2 ^ n + (h.getV a).toNat % 2 ^ n) else h.getM p q) ∧
    (s.usable rd → n ≤ h.vlen → h.quietBelow (h.rmOf r) k conv vl → ∃ t, exec rd s = .next t ∧ s.rounded t rd d h.sew ⟨k, false⟩ (h.rmOf r) conv) ∧
    (s.usable rd → n ≤ h.vlen → ∀ e, e < vl → h.active k e = true → h.quietBelow (h.rmOf r) k conv e →
      let own := (h.eltResult (h.rmOf r) k conv e).2
      trapping h.fen own ≠ 0 →
      exec rd s = takeTrap { s.vPosted 2 rd with hart := { (s.vPosted 2 rd).hart.mark (marks rd) with fflags := h.fflags ||| own } }
        .fptrap (BitVec.ofNat 64 (e * 2 ^ 32 + (trapping h.fen own).toNat)) (h.pc + 8)) ∧
    (h.vlen < n → s.vIllegal rd ∧ s.vIllegal wr) ∧
    (s.usable mm → h.mmaLegal → (∀ q j, q < mr → j < vl → ¬ traps q j) → ∃ t, exec mm s = .next { s.vDone 2 with hart := t } ∧ g.tilesOnly t mm ∧
      rowsDone t mr ∧ t.fflags = h.fflags ||| orFlags mr rowFlags ∧ t.srseed = seedAfter mode h.srseed (mr * vl)) ∧
    (s.usable mm → h.mmaLegal → ∀ q e, q < mr → e < vl → (∀ p j, j < vl → p < q ∨ p = q ∧ j < e → ¬ traps p j) → traps q e →
      ∃ t, exec mm s = takeTrap { s.vPosted 2 mm with hart := { t with ves := BitVec.ofNat 32 q } } .fptrap
          (BitVec.ofNat 64 (q * 2 ^ 32 + (trapping h.fen (cell q e).2).toNat)) (h.pc + 8) ∧
        (s.vPosted 2 mm).hart.tilesOnly t mm ∧ rowsDone t q ∧ t.fflags = h.fflags ||| (orFlags q rowFlags ||| (cell q e).2) ∧
        t.srseed = seedAfter mode h.srseed (q * vl)) ∧
    (¬ h.mmaLegal → s.vIllegal mm)

/-- 08:R238-R241, R244; 17:R517, R519: XPROJ on an idle V hart, where nothing it reads is refused, feeds each token's record with
the logit of each row of the vocabulary in ascending order, group by group, and is then complete. More entries than a row holds
take HEAPSPILL; a record that does not continue where the descriptor begins takes MERGEORDER. -/
def Obligations.ProjectionFeedsRecords : Prop :=
  ∀ (s : State) (md : BitVec 2) (a xs : Reg) (kk : BitVec 8) (x : XDesc) (hid row : Nat → List FV), s.vIdle → s.usable (.xproj md a xs kk) →
    let h := s.hart
    let i : Instr := .xproj md a xs kk
    let mr := h.vc.mr.toNat
    let rec0 (t : Nat) := XRec.ofRow (h.getM md t).toNat
    let reason (t : Nat) : Option Nat :=
      if (rec0 t).hi + 1 ≠ x.lo then some 1 else if (rec0 t).k ≠ kk.toNat then some 2
      else if (rec0 t).label ≠ h.xlabel a t then some 3 else none
    let first (t : Nat) : VReg := (xprojSetUp md a x kk.toNat h t).getM md t
    let fed (t : Nat) : VReg := (List.range x.groups).foldl (fun v g =>
      BitVec.ofNat 16384 (((x.group g).foldl (fun r w => r.feed w (logit (hid t) (row w))) (XRec.ofRow v.toNat)).into v.toNat)) (first t)
    h.continues false = false →
    (h.kMax < kk.toNat → ∃ t, exec i s = takeTrap t .heapspill (BitVec.ofNat 64 h.kMax) (h.pc + 8) ∧
      s.seesMore t ∧ t = { s.vPosted 2 i with unseen := t.unseen, hart := { ((s.vPosted 2 i).hart.mark (marks i)) with
        strip := h.strip + 1, xpos := ⟨false, false, 0⟩ } }) ∧
    (kk.toNat ≤ h.kMax → s.projects a (s.getX xs) false x hid row →
      ((x.init = true ∨ ∀ t, t < mr → reason t = none) →
        ∃ t, exec i s = .next t ∧ s.accessOnly t ∧ s.sameMem t ∧
          t.hart = { ((s.vDone 2).hart.mark (marks i)) with m := t.hart.m, strip := t.hart.strip, xpos := ⟨false, false, 0⟩ } ∧
          ∀ p q, q < 16 → t.hart.getM p q = if p = md ∧ q < mr then fed q else h.getM p q) ∧
      (∀ t n, x.init = false → t < mr → (∀ j, j < t → reason j = none) → reason t = some n →
        ∃ u, exec i s = takeTrap u .mergeorder (BitVec.ofNat 64 (n * 2 ^ 32 + t)) (h.pc + 8) ∧ s.accessOnly u ∧ s.sameMem u ∧
          u.hart = { ((s.vPosted 2 i).hart.mark (marks i)) with strip := u.hart.strip, xpos := ⟨false, false, 0⟩ }))

/-- 08:R248-R250; 17:R518, R519: XPROJB on an idle V hart, where nothing it reads or writes is refused and its vectors lie apart,
adds to each dW row and each dh vector the gradients of each group in turn, marks the records whose stored logits were not found
again, and is then complete. Every other byte of memory is as before. -/
def Obligations.ProjectionGradients : Prop :=
  ∀ (s : State) (md : BitVec 2) (a b xs : Reg) (kk : BitVec 8) (x : XDesc) (hid row dw dh : Nat → List FV) (pw ph : Nat → List Nat),
    s.vIdle → s.usable (.xprojb md a b xs kk) →
    let h := s.hart
    let i : Instr := .xprojb md a b xs kk
    let mr := h.vc.mr.toNat
    let rec0 (t : Nat) := XRec.ofRow (h.getM md t).toNat
    let inside (v : Nat) : Prop := x.lo ≤ v ∧ v ≤ x.hi
    let rows (g : Nat) := (x.group g).map fun v => (v, row v)
    let grad (g t : Nat) := xGrad (rec0 t) kk.toNat (h.xlabel b t) (rows g) (hid t)
    let grads (g : Nat) := (List.range mr).map fun t => (grad g t).1
    let all : List Nat := ((List.range (x.hi + 1)).filter (x.lo ≤ ·)).flatMap pw ++ (List.range mr).flatMap ph
    let dhAfter (t n : Nat) : List FV := (List.range n).foldl (fun v g => (xDh (rows g) (grad g t).1 v).map (decodeF fmt32 false)) (dh t)
    h.continues true = false → s.projects a (s.getX xs) true x hid row →
    (∀ t, t < mr → kk.toNat ≤ (rec0 t).k ∧ (rec0 t).label = h.xlabel a t) →
    s.bad = [] → s.memOk → s.apart all → all.Nodup → (∀ p, p ∈ all → plainPa p = true) →
    (∀ m, (∀ p, p ∉ all → memRead m p = memRead s.mem p) → ({ s with mem := m } : State).projects a (s.getX xs) true x hid row) →
    (∀ v, inside v → s.reaches .read (x.gAddr v) (4 * x.d) (pw v) ∧ s.reaches .write (x.gAddr v) (4 * x.d) (pw v) ∧
      s.holdsVec .fp32 (x.gAddr v) x.d (dw v)) →
    (∀ t, t < mr → (h.xslot b t).toNat % 4 = 0 ∧ s.reaches .read (h.xslot b t) (4 * x.d) (ph t) ∧
      s.reaches .write (h.xslot b t) (4 * x.d) (ph t) ∧ s.holdsVec .fp32 (h.xslot b t) x.d (dh t)) →
    ∃ t, exec i s = .next t ∧ s.accessOnly t ∧
      t.hart = { ((s.vDone 2).hart.mark (marks i)) with m := t.hart.m, stores := t.hart.stores, strip := t.hart.strip, xpos := ⟨false, false, 0⟩ } ∧
      (∀ p, p ∉ all → memRead t.mem p = memRead s.mem p) ∧
      (∀ g n v, g < x.groups → (x.group g)[n]? = some v →
        memReadAt t.mem (pw v) = leBytes (4 * x.d) (packE 32 (xDw ((List.range mr).map hid) (grads g) n (dw v)))) ∧
      (∀ q, q < mr → memReadAt t.mem (ph q) =
        leBytes (4 * x.d) (packE 32 (xDh (rows (x.groups - 1)) (grad (x.groups - 1) q).1 (dhAfter q (x.groups - 1))))) ∧
      (∀ p q, q < 16 → t.hart.getM p q = if p = md ∧ q < mr ∧ (∃ g, g < x.groups ∧ (grad g q).2 = true) then
        BitVec.ofNat 16384 (setBits (h.getM md q).toNat 188 188 1) else h.getM p q)

/-- 08:R245-R247; 17:R514, R515: on an idle V hart XMERGE merges the records of two tiles row by row where each pair follows on;
otherwise it takes HEAPSPILL or MERGEORDER at the first row that does not, and no row changes. XHSTORE and XHLOAD move the records
of MR rows to and from consecutive bytes, each 8-byte word of them one access. -/
def Obligations.RecordsMergeAndMove : Prop :=
  ∀ (s : State) (md ma : BitVec 2) (xs : Reg) (disp : BitVec 21) (first pas : List Nat), s.vIdle → s.hart.vc.mr.toNat ≤ 16 → 1 ≤ s.hart.vc.mr.toNat →
    let h := s.hart
    let g := (s.vDone 2).hart
    let mr := h.vc.mr.toNat
    let mg : Instr := .xmerge md ma
    let ld : Instr := .xhload md xs disp
    let st : Instr := .xhstore md xs disp
    let x (t : Nat) := XRec.ofRow (h.getM md t).toNat
    let y (t : Nat) := XRec.ofRow (h.getM ma t).toNat
    let spill (t : Nat) : Prop := h.kMax < (x t).k ∨ h.kMax < (y t).k
    let reason (t : Nat) : Option Nat :=
      if md = ma ∨ (x t).hi + 1 ≠ (y t).lo then some 1 else if (x t).k ≠ (y t).k then some 2
      else if (x t).label ≠ (y t).label then some 3 else none
    let fits (t : Nat) : Prop := ¬ spill t ∧ reason t = none
    let ea := s.getX xs + disp.signExtend 64
    let bytes := 32 + 8 * (x 0).k
    let now := s.closeStrip
    let k := bitsOf (leNat (now.seesElts 0 8 first)) 183 176
    let rec_ (t : Nat) : Nat := getE (8 * (32 + 8 * k)) (leNat (now.seesElts 0 8 pas)) t
    let fault (i : Instr) (c : Cause) (v : Word) : Prop :=
      s.usable i → ∃ t, exec i s = takeTrap t c v (h.pc + 8) ∧ s.accessOnly t ∧ s.sameMem t ∧
        t.hart = { ((s.vPosted 2 i).hart.mark (marks i)) with strip := t.hart.strip }
    (s.usable mg → (∀ t, t < mr → fits t) → ∃ t, exec mg s = .next t ∧ s.seesMore t ∧
      t = { s.vDone 2 with unseen := t.unseen, hart := { g.mark (marks mg) with m := t.hart.m, strip := h.strip + 1 } } ∧
      ∀ p q, q < 16 → t.hart.getM p q = if p = md ∧ q < mr then BitVec.ofNat 16384 ((x q).merge (y q)).bits else h.getM p q) ∧
    (∀ t, t < mr → (∀ j, j < t → fits j) → (spill t → fault mg .heapspill (BitVec.ofNat 64 h.kMax)) ∧
      (¬ spill t → ∀ n, reason t = some n → fault mg .mergeorder (BitVec.ofNat 64 (n * 2 ^ 32 + t)))) ∧
    (ea.toNat % 8 ≠ 0 → fault st .misalign ea ∧ fault ld .misalign ea) ∧
    (ea.toNat % 8 = 0 →
      (h.kMax < (x 0).k → fault st .heapspill (BitVec.ofNat 64 h.kMax)) ∧
      ((x 0).k ≤ h.kMax → (∀ t, t < mr → (x t).k = (x 0).k) → s.usable st → s.memOk → s.reaches .write ea (bytes * mr) pas →
        ∃ t, exec st s = .next t ∧ s.accessOnly t ∧ t.hart = { g with stores := t.hart.stores, strip := t.hart.strip } ∧
          now.stored t (pas.zip ((List.range mr).map (fun t => leBytes bytes (h.getM md t).toNat)).flatten)) ∧
      (s.usable ld → s.tlbFresh → s.reaches .read ea 32 first → k ≤ h.kMax → s.reaches .read ea ((32 + 8 * k) * mr) pas →
        (∀ t, t < mr → bitsOf (rec_ t) 255 189 = 0 ∧ bitsOf (rec_ t) 151 128 ≤ bitsOf (rec_ t) 175 152 ∧ bitsOf (rec_ t) 183 176 = k) →
        ∃ t, exec ld s = .next t ∧ s.accessOnly t ∧ s.sameMem t ∧ t.hart = { g.mark (marks ld) with m := t.hart.m, strip := t.hart.strip } ∧
          ∀ p q, q < 16 → t.hart.getM p q = if p = md ∧ q < mr then BitVec.ofNat 16384 (rec_ q) else h.getM p q))

/-- 13:R392-R394; 15:R438-R440: the scale registers and the code table are moved to and from memory: on an idle V hart at VCP, on
a T hart at once, where a load waits for a TMMA in flight. SCLD and SCST step by xt; the higher byte remains where two share an
address. CTLD and CTST need a word-aligned address; each entry of CTST is an access of its own. Where an access cannot be made
nothing moves, and the first such is reported with its lowest address. A section not resident takes LAZY on a T hart as well. -/
def Obligations.ScalesAndTable : Prop :=
  ∀ (s : State) (n : BitVec 2) (xs xt : Reg) (disp : BitVec 21) (pa : Nat → Nat) (pas : List Nat) (word : Nat → List Nat), s.tlbFresh → s.memOk →
    let h := s.hart
    let ea := s.getX xs + disp.signExtend 64
    let ld : Instr := .scld n xs xt disp
    let st : Instr := .scst n xs xt disp
    let tl : Instr := .ctld xs disp
    let ts : Instr := .ctst xs disp
    let list := (List.range 256).map pa
    let bytes (k : AccKind) : Prop := ∀ j, j < 256 → s.reaches k (ea + BitVec.ofNat 64 j * s.getX xt) 1 [pa j]
    let sees (w : Nat) (p : List Nat) : List Byte := if h.cls = .v then s.seesElts 0 w p else s.scalarSees p
    let stores (t : State) (p : List Nat) (b : List Byte) : Prop := s.storedBy (decide (h.cls = .v)) t (p.zip b)
    let on (i : Instr) : Prop := (s.vIdle ∨ h.cls = .t) ∧ s.usable i
    let words : List Nat := (List.range 256).flatMap word
    let entry (e : Nat) : Word := ea + BitVec.ofNat 64 (4 * e)
    let base (loads : Bool) : Hart :=
      if h.cls = .v then (s.vDone 2).hart else { (if loads then h.finishTmma else h) with pc := h.pc + 8 }
    let table (v : Nat) : Vector CtEntry 256 := Vector.ofFn (fun (c : Fin 256) => BitVec.ofNat 19 (getE 32 v c.val))
    let fault (i : Instr) (t : State) : Prop := if h.cls = .v then exec i s = takeTrap t .misalign ea (h.pc + 8) ∧
        t = { s.vPosted 2 i with hart := (s.vPosted 2 i).hart.mark (marks i) }
      else exec i s = takeTrap t .misalign ea h.pc ∧ (t = s ∨ t = { s with hart := h.finishTmma })
    let stops (i : Instr) (loads : Bool) (c : Cause) (v : Word) : Prop :=
      ∃ t, exec i s = takeTrap t c v (if h.cls = .v then h.pc + 8 else h.pc) ∧ s.accessOnly t ∧ s.sameMem t ∧
        t.hart = if h.cls = .v then (s.vPosted 2 i).hart.mark (marks i) else if loads then h.finishTmma else h
    (∀ i, i ∈ [ld, st, tl, ts] → h.cls = .t → ¬ s.usable i →
      exec i s = takeTrap s .lazy ((h.lazyMask h.pcfg.vt i).setWidth 64) h.pc) ∧
    (on ld → ∀ k c v, k < 256 → (∀ j, j < k → s.reaches .read (ea + BitVec.ofNat 64 j * s.getX xt) 1 [pa j]) →
      s.faults .read (ea + BitVec.ofNat 64 k * s.getX xt) 1 false c v → stops ld true c v) ∧
    (on st → ∀ k c v, k < 256 → (∀ j, j < k → s.reaches .write (ea + BitVec.ofNat 64 j * s.getX xt) 1 [pa j]) →
      s.faults .write (ea + BitVec.ofNat 64 k * s.getX xt) 1 false c v → stops st false c v) ∧
    (on tl → ∀ c v, ea.toNat % 4 = 0 → s.faults .read ea 1024 false c v → stops tl true c v) ∧
    (on ts → ∀ e c v, e < 256 → ea.toNat % 4 = 0 → (∀ j, j < e → s.reaches .write (entry j) 4 (word j)) →
      s.faults .write (entry e) 4 false c v → stops ts false c v) ∧
    (on ld → bytes .read → ∃ t, exec ld s = .next t ∧ s.accessOnly t ∧ s.sameMem t ∧
      t.hart = (((base true).setSc n (BitVec.ofNat 2048 (leNat (sees 1 list)))).mark (marks ld))) ∧
    (on st → bytes .write → ∃ t, exec st s = .next t ∧ s.accessOnly t ∧
      t.hart = { base false with stores := t.hart.stores } ∧
      stores t list (leBytes 256 (h.getSc n).toNat)) ∧
    (on tl → ea.toNat % 4 = 0 → s.reaches .read ea 1024 pas → ∃ t, exec tl s = .next t ∧ s.accessOnly t ∧ s.sameMem t ∧
      t.hart = ({ base true with ct := table (leNat (sees 4 pas)), perm := codeOrder (table (leNat (sees 4 pas))) } : Hart).mark (marks tl)) ∧
    (on ts → ea.toNat % 4 = 0 → (∀ e, e < 256 → s.reaches .write (entry e) 4 (word e)) → ∃ t, exec ts s = .next t ∧ s.accessOnly t ∧
      t.hart = { base false with stores := t.hart.stores } ∧
      stores t words (leBytes 1024 (packE 32 (h.ct.toList.map BitVec.toNat)))) ∧
    (ea.toNat % 4 ≠ 0 → (on tl → ∃ t, fault tl t) ∧ (on ts → ∃ t, fault ts t))

/-- 11:R300-R302, R306, R307; 13:R384-R388: CPY with a legal descriptor takes the next tag, writes it to xt and leaves the copy to
the engine; with a mask the bits of its chunks are cleared and expected at the consumer. CPYWT goes on when the engine holds no
copy of the tag, whose bytes the hart then sees (10:R292), takes an ended copy's fault, and waits for one in progress. CPYCAN
drops a copy that has failed, has one in progress stop after its chunk and waits for that, and goes on when none is held. -/
def Obligations.CopyInstructions : Prop :=
  ∀ (s : State) (t xs : Reg) (k : BitVec 3) (rel : Option Scope) (pas : List Nat),
    let h := s.hart
    let on : Prop := s.vIdle ∨ h.cls = .t
    let base : Hart := if h.cls = .v then (s.vDone 2).hart else { h with pc := h.pc + 8 }
    let tag : BitVec 32 := if h.tagCtr + 1 = 0 then 1 else h.tagCtr + 1
    let most := if h.cls = .t then 2 else 16
    let sees := if h.cls = .v then s.seesElts 0 1 pas else s.scalarSees pas
    let c : Copy := copyOf (leNat sees) k rel (h.lv == .a)
    let cp : Instr := .cpy t xs k rel
    let wt : Instr := .cpywt t
    let cn : Instr := .cpycan t
    let held := h.copies.find? (fun d => d.tag.setWidth 64 == s.getX t)
    let others := h.copies.filter (fun d => d.tag.setWidth 64 != s.getX t)
    let expecting (g : Hart) (from_ n : Nat) (w : State) : Prop :=
      w.others = s.others.map (fun o => if o.id = ⟨h.id.gang, c.cons⟩ then
        (o.engineBits k false (bitRun from_ n)).expect k true (bitRun from_ n) else o) ∧
      w.hart = (if h.id = ⟨h.id.gang, c.cons⟩ then (g.engineBits k false (bitRun from_ n)).expect k true (bitRun from_ n) else g)
    (on → h.copies.length < most → (s.getX xs).toNat % 64 = 0 → s.reaches .read (s.getX xs) 64 pas → copyLegal s (leNat sees) c = true →
      let g := { (base.setX t (tag.setWidth 64)) with tagCtr := tag, copies := h.copies ++ [{ c with tag := tag }] }
      ∃ u, exec cp s = .next u ∧ s.sameMem u ∧ ({ s with others := u.others } : State).accessOnly u ∧
        (k = 0 → u.hart = g ∧ u.others = s.others) ∧ (k ≠ 0 → expecting g c.first c.chunks u)) ∧
    (h.cls = .t → most ≤ h.copies.length → exec cp s = .next s) ∧
    (on → held = none → exec wt s = .next { (if h.cls = .v then s.vDone 2 else s) with
      hart := if h.cls = .v then base else { base with waitOn := none, waitV := h.waitV.over h.pc },
      unseen := (s.seeCopies (fun i u => i == h.id && u.setWidth 64 == s.getX t)).unseen }) ∧
    (on → ∀ d cause va, held = some d → d.err = some (cause, va) →
      exec wt s = takeTrap { (if h.cls = .v then s.vPosted 2 wt else s) with
        hart := { (if h.cls = .v then (s.vPosted 2 wt).hart else h) with copies := others } } cause va
        (if h.cls = .v then h.pc + 8 else h.pc)) ∧
    (on → ∀ d, held = some d → d.err = none → ∃ g, exec wt s = .next { s with hart := g } ∧ g.copies = h.copies ∧ g.x = h.x ∧
      (h.cls = .v → g.vq = [entryAt h wt h.pc]) ∧ (h.cls = .t → g.pc = h.pc ∧ g.waitOn = some wt)) ∧
    (on → held = none → exec cn s = .next { (if h.cls = .v then s.vDone 2 else s) with hart := base }) ∧
    (on → ∀ d, held = some d → d.err ≠ none →
      exec cn s = .next { (if h.cls = .v then s.vDone 2 else s) with hart := { base with copies := others } }) ∧
    (on → ∀ d, held = some d → d.err = none → ∃ w, exec cn s = .next { s with hart := {
      (if h.cls = .v then (s.vPosted 2 cn).hart else h) with
        copies := h.copies.map (fun d => if d.tag.setWidth 64 == s.getX t then { d with stop := true } else d), waitV := w } })

/-- 11:R310-R312, R315, R317; 13:R378, R381, R382: COLBIND of a legal record binds a register to a stream and zeroes the record's
counts; COLWAIT goes on once every chunk is reduced and written, and waits until then; COLFREE ends a binding, which peers that
still expect contributions learn of (on another package once an Ultra Ethernet port is enabled, 01:R32), and leaves memory where
DEST holds every reduced chunk. A register without a binding takes COLLECTIVE with reason 7, a stream in error reason 6. -/
def Obligations.CollectiveStreams : Prop :=
  ∀ (s : State) (d xs : Reg) (pas grp rec_ : List Nat) (c : Binding), s.vEmpty →
    let h := s.hart
    let a := s.getX xs
    let bd : Instr := .colbind d xs
    let fr : Instr := .colfree d
    let wt : Instr := .colwait d
    let found := h.bindings.find? (fun b => b.vd == d)
    let record := leNat (s.seesElts 0 1 pas)
    let group := BitVec.ofNat 64 (bitsOf record 55 0)
    let table := leNat (s.seesElts 0 8 grp)
    let refused (i : Instr) (reason : Nat) : Prop :=
      ∃ t, exec i s = takeTrap t .collective (BitVec.ofNat 64 (d.toNat * 256 + reason)) (h.pc + 8) ∧ s.accessOnly t ∧ s.sameMem t ∧
        t.hart = (s.vPosted 2 i).hart
    (a.toNat % 64 = 0 → s.tlbFresh → s.memOk → s.reaches .read a 64 pas → group.toNat % 8 = 0 →
      (found ≠ none ∨ 8 ≤ h.bindings.length → refused bd 1) ∧
      (found = none → h.bindings.length < 8 → bindingOf h.vlen d a (h.lv == .a) record = none → refused bd 2) ∧
      (found = none → h.bindings.length < 8 → bindingOf h.vlen d a (h.lv == .a) record = some c →
        s.reaches .read group (8 * c.nranks) grp → s.reaches .write (a + 32) 10 rec_ →
        let names := (List.range c.nranks).map (fun r => BitVec.ofNat 64 (getE 64 table r))
        ∃ t, exec bd s = .next t ∧ ({ s with contributions := t.contributions } : State).accessOnly t ∧
          s.stored t (rec_.zip (List.replicate 10 0)) ∧
          t.contributions = s.contributions.filter (fun x => !(x.cid == c.cid && x.rank == c.rank)) ∧
          t.hart = { (s.vDone 2).hart with stores := t.hart.stores, bindings := h.bindings ++ [{ c with
            group := names, ports := portsUsed s names }] })) ∧
    (found = none → refused fr 7 ∧ refused wt 7) ∧
    (∀ b, found = some b → b.recFault = none → b.recDirty = false →
      let tells : Prop := b.sent < b.count ∧ b.nranks ≠ 1 ∧ s.abroad b.group = true
      (s.unsent b = true → ∃ w, exec fr s = .next { s.vPosted 2 fr with hart := { (s.vPosted 2 fr).hart with waitV := w } }) ∧
      (s.unsent b = false → (∀ o, o ∈ s.others → o.id ≠ h.id) → ∃ t, exec fr s = .next t ∧ t.others = s.others ∧
        t.hart = { (s.vDone 2).hart with bindings := h.bindings.filter (fun e => e.vd != d) } ∧
        (b.dest = 0 ∨ b.reduced.length ≤ b.written → s.sameMem t ∧
          t.out = s.out ++ (if tells ∧ s.etherUp = true then [.peerFreed b.cid] else []) ∧
          t.adapter.kept = s.adapter.kept ++ (if tells ∧ s.etherUp = false then [.peerFreed b.cid] else []))) ∧
      (b.err = 1 ∨ b.err = 2 ∨ b.err = 3 → refused wt 6) ∧
      (¬ (b.err = 1 ∨ b.err = 2 ∨ b.err = 3) →
        (∀ j v l, b.mergeBad = (j, v) :: l → exec wt s = takeTrap (s.vPosted 2 wt) .mergeorder v (h.pc + 8)) ∧
        (b.mergeBad = [] → b.reduced.length < b.count → ∃ w, exec wt s = .next { s.vPosted 2 wt with
          hart := { (s.vPosted 2 wt).hart with waitV := w } }) ∧
        (b.mergeBad = [] → b.count ≤ b.reduced.length → b.destFault = none → b.dest = 0 ∨ b.reduced.length ≤ b.written →
          (∀ e, e ∈ h.bindings → e.vd = d → e = b) → (∀ o, o ∈ s.others → o.id ≠ h.id) → exec wt s = .next (s.vDone 2))))

/-- 11:R318-R320, R323; 15:R430-R435: the remote instructions on a C or V hart, over a connection of the hart's address space.
NPUT has its bytes to send in packets of at most 4,096, NGET and NAMO a request; each takes the connection's next message number
and stays outstanding, and NAMO's register is awaited. NFLUSH goes on when no operation it covers is outstanding, and the hart
sees the bytes that came; it waits for one that is not a put, or is still to be sent, and reports a refusal once no NAMO register
is awaited. A handle that does not fit, or whose descriptor cannot be read (log 79), takes REMOTE with reason 1, more than 2^30
bytes ILLEGAL. -/
def Obligations.RemoteMemory : Prop :=
  ∀ (s s1 : State) (xn xl xo xc d xb : Reg) (o : AmoOp) (z : ASize) (sc : Scope) (pas : List Nat), s.hart.cls ≠ .t →
    let h := s.hart
    let c := (s.getX xc).toNat
    let n := (s.getX xn).toNat
    let off := (s.getX xo).toNat
    let put : Instr := .nput xn xl xo xc
    let get : Instr := .nget xn xl xo xc
    let amo : Instr := .namo d xb xo xc o z
    let fl : Instr := .nflush xc sc
    let conn := leNat (memReadN s.mem (s.adapter.ctab.toNat + 64 * c) 64)
    let fits (opened : Bool) : Prop := c < 2 ^ 24 ∧ c < s.adapter.cnum.toNat ∧ s.badAt (s.adapter.ctab.toNat + 64 * c) 64 = false ∧ bitsOf conn 79 64 = (s.asidOf h).toNat ∧
      (opened = true → bitsOf conn 89 88 = 1)
    let msg := numOf s.adapter.sent c
    let region := bitsOf conn 55 32
    let past (g : Hart) : Hart := { g with pc := h.pc + 8 }
    let seen : State := s.lookAt (s.adapter.ctab.toNat + 64 * c) 64
    let look : State := if xc = 0 then s else seen
    let refused (i : Instr) : Prop := exec i s = takeTrap seen .remote (BitVec.ofNat 64 (c % 2 ^ 24 * 256 + 1)) h.pc
    let issues (t : State) (g : Hart) (op : RemoteOp) : Prop :=
      t.hart = past { g with remote := h.remote ++ [op] } ∧ s.sameMem t ∧
      ({ s with adapter := { s.adapter with sent := t.adapter.sent } } : State).accessOnly t ∧ numOf t.adapter.sent c = msg + 1 ∧ (∀ e, e ≠ c → numOf t.adapter.sent e = numOf s.adapter.sent e)
    let covers (e : Nat) : Bool := xc == 0 || e == c
    let busy := h.remote.filter (fun p => covers p.conn)
    let packets := (List.range ((n + 4095) / 4096)).map (4096 * ·)
    let came := (s.order h.id (fun u => match u.origin with
      | .remote e => if covers e then { u with toS := true, toV := true } else u
      | _ => u)).unseen
    (¬ fits true → refused put ∧ refused get ∧ refused amo) ∧ (xc ≠ 0 → ¬ fits false → refused fl) ∧
    (fits true → 2 ^ 30 < n → exec put s = takeTrap seen .illegal (illegalV put) h.pc ∧ exec get s = takeTrap seen .illegal (illegalV get) h.pc) ∧
    (fits true → n = 0 → exec put s = .next { seen with hart := past h } ∧ exec get s = .next { seen with hart := past h }) ∧
    (fits true → 0 < n → n ≤ 2 ^ 30 → runM (rangeAddrs .read (n / 16384 + 2) (s.getX xl) n) seen = (.ok pas, s1) →
      ∃ t, exec put s = .next t ∧ issues t h ⟨c, msg, .put, region, off, s.getX xl, pas, [], 0, s.scalarSees pas, packets, packets⟩) ∧
    (fits true → 0 < n → n ≤ 2 ^ 30 → runM (rangeAddrs .write (n / 16384 + 2) (s.getX xl) n) seen = (.ok pas, s1) →
      ∃ t, exec get s = .next t ∧ issues t h ⟨c, msg, .getReq n, region, off, s.getX xl, pas, [], 0, [], [0], [0]⟩) ∧
    (fits true → off % asizeBytes z ≠ 0 → exec amo s = takeTrap seen .misalign (s.getX xo) h.pc) ∧
    (fits true → off % asizeBytes z = 0 →
      ∃ t, exec amo s = .next t ∧ issues t { h with namoPend := if d = 0 then h.namoPend else h.namoPend ++ [d] }
        ⟨c, msg, .amo o z (s.getX xb), region, off, 0, [], [], d, [], [0], [0]⟩) ∧
    (xc = 0 ∨ fits false →
      (busy = [] → (∀ r, r ∈ h.reports → covers r.1 = false) → exec fl s = .next { look with hart := past h, unseen := came }) ∧
      (∀ p, p ∈ busy → p.kind ≠ .put ∨ p.unsent ≠ [] → exec fl s = .next look) ∧
      (busy = [] → ∀ e r, (e, r) ∈ h.reports → covers e = true → (∀ p, p ∈ h.reports → covers p.1 = true → p = (e, r) ∨ e < p.1) →
        (h.namoPend = [] → exec fl s = takeTrap { look with hart := { h with reports := h.reports.filter (fun p => p.1 != e) }, unseen := came }
          .remote (BitVec.ofNat 64 (e % 2 ^ 24 * 256 + r.toNat)) h.pc) ∧
        (h.namoPend ≠ [] → exec fl s = .next { look with unseen := came })))

/-- 01:R27-R30, R32-R34: bring-up from power-up to the firmware's first instruction, a fundamental reset, removal of power, a rail
fault. A verification that fails is reported with its step and object, and one before the management controller starts stands
whatever rail fails. Memory is zero after each start; a fundamental reset keeps the trip map, and thermal events still pending. -/
def Obligations.BringUpAndResets : Prop :=
  ∀ (s : State) (r : Rail),
    let own (u : State) : State := { u with agenda := s.agenda, hold := s.hold, turns := s.turns, pace := s.pace, stimuli := s.stimuli, tick := s.tick }
    let verified : Bool := flashVerifies 0 && flashVerifies 1
    let goes : Phase := if verified then .step 5 else .failed 2
    let tells : List Out := [if verified then .stringEnable true else .bootFailure 2 (if flashVerifies 0 then 1 else 0)]
    let object := (flashObject 2).1
    let len := (flashObject 2).2
    let loaded := s.pokeN 0 object
    let o : ObjHead := ⟨leNat (memReadN loaded.mem 0 256)⟩
    let good : Bool := object.length == len && o.ok 0 len && Config.keySlot o.key && framesFree loaded (o.frames 0) && objSigned loaded 0 len o
    let trips (a : Nat) : Prop := Config.scb + 0x21100 ≤ a ∧ a < Config.scb + 0x21100 + 96
    (s.phase = .off → exec .powerUp s = .next (own { State.reset with phase := goes, out := s.out ++ tells })) ∧
    (s.phase = .step 5 → exec .stringRailReady s = .next { s with phase := .step 6 }) ∧
    (s.phase = .step 6 → exec .configRequestRetry s = .next { s with out := s.out ++ [.configRetry] }) ∧
    (s.phase = .step 6 → good = true → ∃ t, exec .systemFirmwareLoad s = .next t ∧ t.phase = .running ∧
      t.hart = ({ Hart.reset with lv := .m, pc := BitVec.ofNat 64 o.textOff, mcheck := s.hart.mcheck } : Hart).setX 1 (BitVec.ofNat 64 len) ∧
      t.rebeica = { s.rebeica with
        permits := o.frames 0 ++ s.rebeica.permits, mapped := [⟨0, o.textOff, o.textLen, objDigest loaded 0 len⟩] } ∧ t.others = s.others ∧ t.gangs = s.gangs) ∧
    (s.phase = .step 6 → good = false →
      exec .systemFirmwareLoad s = .next { s with phase := .failed 6, out := s.out ++ [.bootFailure 6 2] }) ∧
    (s.memOk → s.phase = .running ∨ (∃ n, s.phase = .step n) → ∃ t, exec .fundamentalReset s = .next t ∧
      (∀ a, (trips a → memRead t.mem a = memRead s.mem a) ∧ (¬ trips a → memRead t.mem a = 0)) ∧
      t = own { State.reset with phase := goes, out := s.out ++ [.stringEnable false] ++ tells, mem := t.mem, thermal := s.thermal,
                                 heat := s.heat, hart := { State.reset.hart with mcheck := s.heatPending },
                                 rebeica := { State.reset.rebeica with grants := s.rebeica.grants, nonces := s.rebeica.nonces },
                                 strings := (s.strings.filter (·.tripped)).map fun x => { Str.reset x.ix with tripped := true } }) ∧
    ((∃ n, s.phase = .failed n) ∨ s.phase = .overheated ∨ (∃ q, s.phase = .railFault q) → exec .fundamentalReset s = .next s) ∧
    (s.phase ≠ .off → exec .powerRemoval s = .next (own { State.reset with phase := .off, out := s.out })) ∧
    (s.phase = .failed 2 → exec (.railFault r) s = .next s) ∧
    (s.phase ≠ .off → s.phase ≠ .failed 2 → (∀ q, s.phase ≠ .railFault q) → exec (.railFault r) s = .next
      { s with phase := .railFault r, poolUp := false, portsOn := [], out := s.out ++ (if r = .c then [] else [.railReport r]) })

/-- 01:R22, R25, R26, R28; 03:R84, R85, R89, R94-R97; 09:R272: heat, power budgets, strings. A reading that rises through 105
degrees raises MCHECK on hart 0, one of 110 stops the clocks; an allocation grants every string its demand, or the pool in
proportion; a measurement sets the string's state and counts the harts' filler and stretched cycles of the window, and one with a
tile outside the protection window trips it, which is recorded and reported, and loses its harts. -/
def Obligations.HeatBudgetsAndStrings : Prop :=
  ∀ (s : State) (i v w mw port ix : Nat) (l power queued : List (Nat × Nat)) (quiet mv cur : List Nat)
    (win : Window) (spent : List (BitVec 8 × Nat)) (id : HartId),
    let warn (h : Hart) : Hart := if h.id = ⟨0, 0⟩ then { h with mcheck := h.mcheck ++ [BitVec.ofNat 64 (2 ^ 56 + i)] } else h
    let rises : Prop := (s.thermal.lookup i).getD 0 < 1050 ∧ 1050 ≤ v
    (s.sensing = true → i < 782 → ∃ t, exec (.temperatureSample [(i, v)]) s = .next t ∧ t.thermal.lookup i = some v ∧
      (rises → t.hart = warn s.hart ∧ t.others = s.others.map warn) ∧ (¬ rises → t.hart = s.hart ∧ t.others = s.others) ∧
      t.heat = s.heat ++ (if (s.thermal.lookup i).getD 0 < 1050 ∧ 1050 ≤ v then [i] else []) ∧
      t = { s with thermal := t.thermal, heat := t.heat, hart := t.hart, others := t.others, phase := if 1100 ≤ v then .overheated else s.phase,
                   out := s.out ++ (if 1100 ≤ v then [.overtemp] else []) }) ∧
    (s.sensing = true → ∃ t, exec (.temperatureSample l) s = .next t ∧ t.mem = s.mem ∧ ((∃ p, p ∈ l ∧ 1100 ≤ p.2) → t.phase = .overheated)) ∧
    (s.up = true →
    (1200 ≤ w → w ≤ 4800 → exec (.mctpSetPowerLimit w) s = .next { s with bellows := { s.bellows with limit := w } }) ∧
    exec .mctpRemoveStringPower s = .next { s with out := s.out ++ [.stringEnable false] } ∧
    (∃ x : Telemetry, exec .mctpTelemetryRead s = .next { s with out := s.out ++ [.telemetry x] } ∧
        (∀ n, x.measured.ladder.getD n 0 ≤ ladderLimit n) ∧ x.thermal = s.thermal ∧ x.heat = s.heat ∧
        x.power = ((List.range 768).map fun n => (n, (s.str n).power)) ∧ x.grants = ((List.range 768).map fun n => (n, (s.str n).grant)) ∧
        x.ports = s.bellows.ports.toList.map (·.point) ∧ x.portGrants = s.bellows.ports.toList.map (·.grant) ∧ x.trips = (s.strings.filter (·.tripped)).map (·.ix)) ∧
    (∃ t, exec (.bellowsAllocation mw power queued quiet) s = .next t ∧
      let d (n : Nat) := (t.str n).demand
      let g (n : Nat) := (t.str n).grant
      let total := ((List.range 768).map d).sum
      let pool := 2 * s.bellows.limit - (mw + 499) / 500 - (t.bellows.ports.toList.map (·.grant)).sum
      t = { s with strings := t.strings, bellows := t.bellows, sched := { s.sched with freePool := pool - total } } ∧
      (∀ n, n < 768 → (t.str n).fillTok = fillerTokens n (tileSteps s (s.str n))) ∧ t.bellows.epoch = s.bellows.epoch + 1 ∧ t.bellows.limit = s.bellows.limit ∧
      (total ≤ pool → ∀ n, n < 768 → g n = d n) ∧
      (pool < total → ((List.range 768).map g).sum = pool ∧ ∀ n, n < 768 → d n * pool / total ≤ g n ∧ g n ≤ d n * pool / total + 1) ∧
      ∀ p, p ∈ t.bellows.ports.toList → portTokens p.target ≤ p.grant) ∧
    (∀ q : port < 16, let p := s.bellows.ports[port]'q
      p.point ≠ p.target → exec (.portPointChangeDone port) s = .next
        { s with bellows := { s.bellows with ports := s.bellows.ports.set port { p with point := p.target } q } }) ∧
    (port < 3104 → spendable s port spent = true → ∃ b, exec (.refillBoundary port spent) s = .next { s with bellows := { s.bellows with buckets := b } } ∧
      (∀ p, p.1 ≠ port → (p ∈ b ↔ p ∈ s.bellows.buckets)) ∧
      ∀ p, p ∈ b → p.1 = port → p.2.2 ≤ 2048 ∧ (p.2.1 ∉ spent.map (·.1) → p.2.2 = min 2048 (bucketOf s port p.2.1))) ∧
    (ix < 768 → (s.str ix).tripped = false → measurable s ix mv cur win = true →
      (mv.all inProtection = true → ∃ t, exec (.stringMeasurement ix mv cur win) s = .next t ∧ t.mem = s.mem ∧ t.out = s.out ∧
        (∀ n, n ≠ ix → t.str n = s.str n) ∧ (t.str ix).winBal = (s.str ix).sbal ∧ (t.str ix).winPow = (s.str ix).spow ∧
        (∀ h, h ∈ s.harts → (∀ o, o ∈ s.onString ix → o.id ≠ h.id) → h ∈ t.harts) ∧
        (∀ h n own, h ∈ s.onString ix → (h.id, n, own) ∈ win.harts → (∀ o, o ∈ s.harts → o.id = h.id → o = h) →
          let x := s.str ix
          { h with blind := 0, blindSteps := none, seen := (0, 0), fill := h.fill + BitVec.ofNat 64 own,
                   thrBal := h.thrBal + (if 0 < x.winBal ∧ x.winPow ≤ x.winBal then BitVec.ofNat 32 n else 0),
                   thrPow := h.thrPow + (if x.winBal < x.winPow then BitVec.ofNat 32 n else 0) } ∈ t.harts) ∧
        (t.str ix).imb = imbalance ix (cur.map (64 * ·)) ∧ (t.str ix).peak = max (s.str ix).peak (t.str ix).imb ∧ (t.str ix).sbal ≤ 48 ∧
        ((s.str ix).state = .bal → (t.str ix).under ≤ 23 →
          (t.str ix).state = .bal ∧ (t.str ix).sbal = 0 ∧ (t.str ix).steps = [0, 0, 0, 0])) ∧
      (mv.all inProtection = false → s.memOk → s.bad = [] → ∃ t, exec (.stringMeasurement ix mv cur win) s = .next t ∧ (t.str ix).tripped = true ∧
        (∀ n, n ≠ ix → t.str n = s.str n) ∧ (∃ l, t.out = s.out ++ l ++ [.tripReport ix]) ∧
        (∀ a, memRead t.mem a = if a = Config.scb + 0x21100 + ix / 8 then memRead s.mem a ||| BitVec.ofNat 8 (2 ^ (ix % 8))
          else memRead s.mem a) ∧
        ∀ h, h ∈ s.harts → h.resident = true → h.cls ≠ .c → h.stringIx = ix → ∃ g, g ∈ t.harts ∧ g.id = h.id ∧ g.dead = true)) ∧
    (∀ h, s.hartOf id = some h → h.blind ≠ 0 →
      let off (o : Hart) : Hart := if o.id = id then { o with blind := 0, blindSteps := none } else o
      ∃ t, exec (.blindPeriodEnd id) s = .next t ∧
        t = { s with hart := off s.hart, others := s.others.map off, strings := t.strings, sched := { s.sched with freePool := t.sched.freePool } }))

/-- 02:R40, R41; 03:R66-R69, R71, R72: the watcher serves a queue at its doorbell and its enable, a record is checked and becomes
the head, a head becomes ready, is promoted and pinned. A fault of the descriptor is reported in STAT and REJ. -/
def Obligations.QueueEvents : Prop :=
  ∀ (s : State) (q : Nat), s.up = true → q < 1024 → s.memOk → s.bad = [] →
    let d := s.desc q
    let stat (n : Nat) : List (Nat × Byte) := [(descPa q + 20, BitVec.ofNat 8 (setBits (s.peek (descPa q + 20) 1) 2 0 n))]
    let count (off v : Nat) : List (Nat × Byte) := (run (descPa q + off) 4).zip (leBytes 4 (v % 2 ^ 32))
    let serves : Bool := descEn d && decide (descStat d < 2)
    let rpt := bitsOf d 383 320
    let faults (e : Instr) (n : Nat) : Prop := ∃ t, exec e s = .next t ∧ t.hart = s.hart ∧
      (rpt = 0 → s.accessOnly t ∧ s.memAfter t (stat n ++ count 36 (bitsOf d 319 288 + 1)))
    let looks (e : Instr) : Prop :=
      (serves = false → exec e s = .next s) ∧
      (serves = true → descMalformed d = true → faults e 3) ∧
      (serves = true → descMalformed d = false → descSlots d < descUsed d → faults e 2) ∧
      (serves = true → descMalformed d = false → descUsed d ≤ descSlots d → ∃ t, exec e s = .next t ∧ s.accessOnly t ∧ t.hart = s.hart ∧
        s.memAfter t (stat (if descUsed d = 0 then 0 else 1)))
    let late (h : Head) (f : Head → Head) (ns : Nat) (e : Instr) : Prop :=
      ∃ t, exec e s = .next t ∧ t.sched.head q = some (f h) ∧ (∀ p, p ≠ q → t.sched.head p = s.sched.head p) ∧
        t = { s.until ns with sched := { s.sched with heads := t.sched.heads } }
    looks (.queueDoorbell q) ∧ looks (.queueEnableObserved q) ∧
    (descEn d = true → exec (.queueDisableObserved q) s = .next s) ∧
    (descEn d = false → ∃ t, exec (.queueDisableObserved q) s = .next t ∧ s.accessOnly t ∧ t.hart = s.hart ∧ s.memAfter t (stat 0)) ∧
    (canCheck s q = true →
      (descMalformed d = true → faults (.recordCheck q) 3) ∧
      (descMalformed d = false → descSlots d < descUsed d → faults (.recordCheck q) 2) ∧
      (descMalformed d = false → descUsed d ≤ descSlots d →
        (schedRead s (descAsid d) (slotVa d (descHead d)) 64 = none → faults (.recordCheck q) 3) ∧
        ∀ r, schedRead s (descAsid d) (slotVa d (descHead d)) 64 = some r →
          let h : Head := ⟨q, descHead d, BitVec.ofNat 512 r, false, 0, 0, false⟩
          (recordErr s (descAsid d) r = 0 → ∃ t, exec (.recordCheck q) s = .next t ∧ t.sched.head q = some h ∧
            ({ s with sched := t.sched } : State).accessOnly t ∧ t.hart = s.hart ∧
            s.memAfter t (if headReady s h = some true then [] else count 32 0)) ∧
          (recordErr s (descAsid d) r ≠ 0 → ∃ t, exec (.recordCheck q) s = .next t ∧ t.sched.head q = none ∧
            (∀ p, p + 1 < Config.scb ∨ Config.scb + 0x200000 ≤ p → rpt = 0 → s.poolUp = true →
              xlatN s (devCtx (descAsid d)) .write (slotVa d (descHead d) + 28) 2 = .ok [p, p + 1] →
              paClass p ≠ some .device → paClass (p + 1) ≠ some .device →
              memRead t.mem p = 4 ∧ memRead t.mem (p + 1) = BitVec.ofNat 8 (recordErr s (descAsid d) r) ∧
              descHead (t.desc q) = (descHead d + 1) % 2 ^ 32 ∧ bitsOf (t.desc q) 319 288 = (bitsOf d 319 288 + 1) % 2 ^ 32)))) ∧
    (∀ h, s.sched.head q = some h → h.ready = false → serves = true → headReady s h = some true →
      ∃ t, exec (.recordReady q) s = .next t ∧ t.sched.head q = some { h with ready := true, readyNs := s.time.toNat } ∧
        ({ s with sched := t.sched } : State).accessOnly t ∧ t.hart = s.hart ∧
        ∀ p, xlatN s (devCtx (descAsid d)) .write (slotVa d h.index + 28) 1 = .ok [p] →
          physCheck s .write (slotVa d h.index + 28) [p] false = .ok () → s.memAfter t [(p, 1)]) ∧
    (∀ h, s.sched.head q = some h → h.ready = true → h.eff < 7 →
      late h (fun h => { h with prom := h.prom + 1 }) (h.readyNs + 64000 * (h.prom + 1)) (.priorityPromotion q)) ∧
    (∀ h, s.sched.head q = some h → h.ready = true → h.pinned = false →
      late h (fun h => { h with pinned := true }) (h.readyNs + 8000) (.headPin q))

/-- 02:R42, R43, R45, R49, R53-R55; 03:R79, R80, R100; 05:R165; 12:R340-R342: a gang is dispatched with its harts at the record's
entry, pre-empted, descheduled, saved, restored, resumed and retired; a hart's mix window ends, and it arrives from a move.
02:R45, R47; 03:R72, R74-R77, R79, R80; 12:R341: what the scheduler chooses. When a gang can be saved, retired or descheduled; the
order in which pinned heads are tried, the first that pre-emption helps deciding; victims by effective priority, the latest
dispatched first, no more than the head needs; what a placing takes: free, untripped and within the budget. -/
def Obligations.GangEvents : Prop :=
  (∀ (s : State) (g : Gang) (id : BitVec 32) (hid : HartId), s.up = true →
    let asks (ids : List (BitVec 32)) (d : Bool) (h : Hart) : Hart :=
      if ids.contains h.id.gang && !h.ended then { h with preempt := some d } else h
    let counted (h : Hart) : Hart := if h.id.gang = id then h.leaveWindow s else h
    let away (h : Hart) : Hart :=
      if h.id.gang = id then { (h.leaveWindow s) with resident := false, blind := 0, blindSteps := none } else h
    let left : State := { s with hart := counted s.hart, others := s.others.map counted }
    let gang (f : Gang → Gang) : List Gang := s.gangs.map fun x => if x.id = id then f x else x
    let mine (h : Hart) : Bool := h.id.gang == id
    (∀ h s1 p, schedNext (idleDefs s) = some (h, s1) → place s1 h.record.toNat = some p →
      planErr s1 (descAsid (s1.desc h.queue)) h.record.toNat = 0 →
      let r := h.record.toNat
      ∃ t k, exec (.gangDispatch h.queue) s = .next t ∧ t.hart = s.hart ∧ t.sched.head h.queue = none ∧ t.icache = [] ∧
        t.others.take s.others.length = s.others ∧ t.others.length = s.others.length + recHarts r ∧
        (∀ n o, n < recHarts r → t.others[s.others.length + n]? = some o →
          o.id = ⟨k, n⟩ ∧ o.cls = classOf (recClass r) ∧ o.pc = recEntry r ∧ o.lv = .a ∧ o.getX 1 = recArg r ∧
          o.getX 2 = BitVec.ofNat 64 n ∧ o.getX 3 = BitVec.ofNat 64 (recHarts r) ∧ ∀ x, 3 < x.toNat → o.getX x = 0) ∧
        ∃ x, t.gangs = s.gangs ++ [x] ∧ x.id = k ∧ x.cls = classOf (recClass r) ∧ x.tenant = recTenant r ∧ x.harts = recHarts r ∧
          x.prio = recPrio r ∧ x.prom = h.prom ∧ x.queue = h.queue ∧ x.index = h.index ∧ x.strings = p.strings ∧ x.clusters = p.clusters) ∧
    (victims s ≠ [] → ∃ t, exec .preemptDecision s = .next t ∧ t.hart = asks (victims s) false s.hart ∧
      t.others = s.others.map (asks (victims s) false) ∧ t = { s with hart := t.hart, others := t.others, gangs := t.gangs }) ∧
    (s.gang id = some g →
      (canDeschedule s g = true →
        let u := s.until (s.time.toNat + 50000)
        exec (.gangDeschedule id) s = .next { u with
          hart := asks [id] true u.hart, others := u.others.map (asks [id] true),
          gangs := gang fun x => { x with watch := watchOf s x, run := .preempting true } }) ∧
      (g.run = .saved true → wakes s g = true →
        exec (.gangRestore id) s = .next { s with gangs := gang fun x => { x with run := .saved false, watch := [] } }) ∧
      (∀ w, canSave s g = true → saveHarts g (left.sorted.filter mine) left = .ok w → ∃ t, exec (.gangSave id) s = .next t ∧
        t.mem = w.mem ∧ t.hart = away s.hart ∧ t.others = s.others.map away ∧
        t.gangs = (gang fun x => { x with run := .saved (g.run == .preempting true) }) ∧
        t.files = s.files.filter fun f => f.2.gang != id) ∧
      (canSave s g = true → ∃ t, exec (.gangSave id) s = .next t) ∧
      (g.run = .saved false → resumeTurn s g = true → (resumePlace s g).isSome = true → ∃ t, exec (.gangResume id) s = .next t ∧
        (∃ x, x ∈ t.gangs ∧ x.id = id ∧ x.run = .resident) ∧
        ∀ h, h ∈ t.harts → h.id.gang = id → h.resident = true ∧ h.yielded = false) ∧
      (canRetire s g = true → ∃ t, exec (.gangRetire id) s = .next t ∧ (∀ x, x ∈ t.gangs → x.id ≠ id) ∧
        (∀ f, f ∈ t.files → f.2.gang ≠ id) ∧
        ((∃ h, h ∈ s.harts ∧ h.id.gang ≠ id) → ∀ h, h ∈ t.harts → h.id.gang ≠ id) ∧
        ∀ p, (∀ h, h ∈ s.harts → h.id.gang = id → h.bindings = []) → g.sig0 = 0 → g.sig1 = 0 → s.memOk →
          xlatN s (devCtx (descAsid (s.desc g.queue))) .write (slotVa (s.desc g.queue) g.index + 28) 1 = .ok [p] →
          physCheck s .write (slotVa (s.desc g.queue) g.index + 28) [p] false = .ok () → s.memAfter t [(p, 3)])) ∧
    (let h := s.hart
     let n := if h.mixCalls then h.mixRun + 1 else 0
     let u : State := { s with hart := { h with mixCount := 0, mixHits := 0, mixMoves := 0, mixRun := n, mixHold := h.mixHold - 1 } }
     h.mixReady = true →
       (n < 4 ∨ h.mixHold ≠ 0 → exec (.mixWindowEnd h.id) s = .next u) ∧
       (4 ≤ n → h.mixHold = 0 → h.cls = .c → s.canArrive .v = false →
         exec (.mixWindowEnd h.id) s = .next { u with hart := u.hart.restartMix 0 }) ∧
       (4 ≤ n → h.mixHold = 0 → h.cls = .v → h.vq = [] → s.canArrive .c = false →
         exec (.mixWindowEnd h.id) s = .next { u with hart := u.hart.restartMix 0 }) ∧
       (4 ≤ n → h.mixHold = 0 → h.cls = .v → h.vq ≠ [] ∨ s.canArrive .c = true ∧ s.mayLeaveV = false →
         exec (.mixWindowEnd h.id) s = .next u) ∧
       (4 ≤ n → h.mixHold = 0 → h.cls = .v → h.vq = [] → s.mayLeaveV = true → ∀ r v, runM peelImage u = (r, v) → ∃ t,
         exec (.mixWindowEnd h.id) s = .next t ∧ t.mem = v.mem ∧
         (∀ e, r = .error e → t = { v with hart := v.hart.restartMix 0 }) ∧
         (r = .ok () → t.hart.flying = some .c ∧ t.hart.resident = false ∧ t.hart.pc = h.pc ∧
           t.hart.vdirty = h.vdirty &&& h.nres ∧ t.agenda = v.agenda ++ [.peelArrival h.id])) ∧
       (4 ≤ n → h.mixHold = 0 → h.cls = .c → s.canArrive .v = true → ∃ t, exec (.mixWindowEnd h.id) s = .next t ∧
         t.hart.flying = some .v ∧ t.hart.resident = false ∧ t.hart.pc = h.pc ∧ t.agenda = s.agenda ++ [.peelArrival h.id])) ∧
    (∀ h, s.hartOf hid = some h → h.mixReady = true → ∃ t, exec (.mixWindowEnd hid) s = .next t) ∧
    (∀ h dst p, s.hartOf hid = some h → h.flying = some dst → h.goal = some p →
      let first := (s.gang hid.gang).bind (fun g => g.landing.lookup hid.ix)
      let whole : Prop := ∀ o, o ∈ s.harts → o.id = hid → o.peelErr = false
      (∃ t, exec (.peelArrival hid) s = .next t ∧ (h.peelErr = true → ∃ x, x ∈ t.harts ∧ x.id = hid ∧ x.mcheck = h.mcheck ++ [mcheckV 2 0])) ∧
      (dst = .c → first = none → whole →
        let lands (o : Hart) : Hart := if o.id = hid then { o with
          cls := .c, core := p.1, slot := p.2.1, lg := p.2.2, flying := none, goal := none, resident := true, peelErr := false,
          seen := (Config.elapsed s.tick (2 * hartSite o.id) % 65, 0) } else o
        ∃ b, exec (.peelArrival hid) s = .next { s with hart := lands s.hart, others := s.others.map lands, bellows := b }) ∧
      (dst = .v → whole → s.memOk → ∃ t, exec (.peelArrival hid) s = .next t ∧
        t = { s with
          hart := t.hart, others := t.others, bellows := t.bellows, gangs := t.gangs, mem := t.mem, bad := t.bad, unseen := t.unseen } ∧
        (first = none → t.mem = s.mem ∧ t.gangs = s.gangs) ∧
        (∀ sh, first = some sh → ∀ a, memRead t.mem a = if sh.holds a then 0 else memRead s.mem a) ∧
        ∀ o, o ∈ s.harts → (o.id ≠ hid → o ∈ t.harts) ∧ (o.id = hid → ∃ x, x ∈ t.harts ∧ x.id = hid ∧ x.cls = .v ∧ x.flying = none ∧
          x.resident = true ∧ (o.bindings = [] → x.nres = o.live) ∧ x.x = o.x ∧ x.f = o.f ∧ x.pc = o.pc ∧
          x.vc.vl.toNat = min o.vc.vl.toNat (4096 * p.2.2 / etSew o.vc.vt.et) ∧
          (o.bindings = [] → ∀ n : Reg, o.live.getLsbD (n.toNat / 8) = false → x.getV n = 0))))) ∧
  (∀ (s : State) (g x : Gang) (h : Head) (r : Nat) (p : Placing),
    let mine (o : Hart) : Prop := o ∈ s.harts ∧ o.id.gang = g.id
    let waits (o : Hart) (met : Bool) : Prop := ∃ a b c pa rest, o.waitOn = some (.waitsig a b c) ∧
      xlatN s (devCtx g.asid) .read (o.getX a) 4 = .ok (pa :: rest) ∧
      condHolds32 c (BitVec.ofNat 32 (s.peek pa 4)) ((o.getX b).setWidth 32) = met
    let live (o : Hart) : Prop := mine o ∧ o.ended = false
    let holds (y : Gang) : Prop := y ∈ s.gangs ∧ ∀ d, y.run ≠ .saved d
    let freeT (i : Nat) : Prop := i < 640 ∧ (s.str i).tripped = false ∧ ∀ y, holds y → y.cls = .t → i ∉ y.strings
    let freeV (c : Nat) : Prop :=
      c < 64 ∧ (s.str (640 + 2 * c)).tripped = false ∧ (s.str (641 + 2 * c)).tripped = false ∧ ∀ y, holds y → c ∉ y.clusters
    let freeC (c : Nat × Nat) : Prop := c.1 < 32 ∧ c.2 < 2 ∧ ∀ y, holds y → c ∉ y.cslots
    let paid (l : List Nat) : Prop :=
      (l.map fun i => (if i < 640 then (10 : Int) else 13) - ((s.str i).demand : Int)).sum ≤ (s.sched.freePool : Int) ∧
      ¬ (s.sched.freePool = 0 ∧ ∃ y, y ∈ s.strings ∧ y.spow = 48)
    let chips (w : Nat) (l : List Nat) : Nat := ((l.map (· / w)).dedup).length
    (canSave s g = true ↔ (∃ d, g.run = .preempting d) ∧ (∃ o, live o) ∧
      ∀ o, mine o → (o.ended = true ∨ o.yielded = true) ∧ o.dead = false ∧ o.flying = none ∧ ∀ c, c ∈ o.copies → c.err ≠ none) ∧
    (canRetire s g = true ↔ g.id ≠ 0 ∧ (∀ d, g.run ≠ .saved d) ∧
      ∀ o, mine o → o.ended = true ∧ o.dead = false ∧ o.flying = none ∧ ∀ c, c ∈ o.copies → c.err ≠ none) ∧
    (canDeschedule s g = true ↔ g.id ≠ 0 ∧ g.run = .resident ∧ (∀ o, mine o → o.halted = false) ∧ (∃ o, live o) ∧
      (∀ o, live o → ¬ waits o true) ∧
      ((∀ o, live o → waits o false ∨ o.waitOn = some .gbar) ∨
        (∃ o, live o ∧ waits o false) ∧ ∃ f, f ∈ pinnedHeads s ∧ (place (s.without [g.id]) f.record.toNat).isSome = true)) ∧
    (pinnedHeads s).Perm (s.sched.heads.filter fun f => f.pinned && f.ready && descEn (s.desc f.queue) && decide (descStat (s.desc f.queue) < 2)) ∧
    ((pinnedHeads s).Pairwise fun a b =>
      b.eff < a.eff ∨ a.eff = b.eff ∧ (a.readyNs < b.readyNs ∨ a.readyNs = b.readyNs ∧ a.queue ≤ b.queue)) ∧
    (victimOk s h x = true ↔ x.id ≠ 0 ∧ x.run = .resident ∧ x.cls = classOf (recClass h.record.toNat) ∧ x.eff < h.eff ∧
      (s.desc x.queue).testBit 158 = true ∧ ∀ o, o ∈ s.harts → o.id.gang = x.id → o.halted = false) ∧
    (∃ cands : List Gang, cands.Perm (s.gangs.filter (victimOk s h)) ∧
      (cands.Pairwise fun a b => a.eff < b.eff ∨ a.eff = b.eff ∧ b.seq ≤ a.seq) ∧
      let leaving := (s.gangs.filter fun y => y.run != .resident).map (·.id)
      let fits (n : Nat) : Bool := (place ((s.without leaving).without ((cands.take n).map (·.id))) h.record.toNat).isSome
      ∀ ids, victimsFor s h = some ids ↔
        ∃ n, 0 < n ∧ n ≤ cands.length ∧ ids = (cands.take n).map (·.id) ∧ fits n = true ∧ ∀ m, m < n → fits m = false) ∧
    (∀ l m ids, pinnedHeads s = l ++ h :: m → (∀ o, o ∈ l → victimsFor s o = none) → victimsFor s h = some ids → victims s = ids) ∧
    ((∀ o, o ∈ pinnedHeads s → victimsFor s o = none) → victims s = []) ∧
    (place s r = some p →
      (recClass r = 2 → p.strings.length = recHarts r / 1024 ∧ p.strings.Nodup ∧ (∀ i, i ∈ p.strings → freeT i) ∧ paid p.strings ∧
        p.clusters = [] ∧ p.cslots = [] ∧
        ∀ l : List Nat, l.length = recHarts r / 1024 → l.Nodup → (∀ i, i ∈ l → freeT i) → chips 40 p.strings ≤ chips 40 l) ∧
      (recClass r ≠ 2 → p.strings = p.clusters.flatMap (fun c => [640 + 2 * c, 641 + 2 * c]) ∧
        p.clusters.length = recClusters r ∧ p.clusters.Nodup ∧ (∀ c, c ∈ p.clusters → freeV c) ∧ (recClass r ≠ 0 → paid p.strings) ∧
        (∀ l : List Nat, l.length = recClusters r → l.Nodup → (∀ c, c ∈ l → freeV c) → chips 8 p.clusters ≤ chips 8 l) ∧
        p.cslots.length = (if recClass r = 0 then recHarts r else 0) + recMresc r ∧ p.cslots.Nodup ∧ (∀ c, c ∈ p.cslots → freeC c) ∧
        (recCrf r = true → ∃ q, ∀ c, c ∈ p.cslots → c.1 / 16 = q) ∧
        (recClass r = 1 → p.spots.length = recHarts r ∧ p.spots.Nodup ∧ ∀ c, c ∈ p.spots → c.1 / 8 ∈ p.clusters))) ∧
    (place s r = none → recClass r = 2 → (∀ l : List Nat, l.length = recHarts r / 1024 → l.Nodup → ¬ ∀ i, i ∈ l → freeT i) ∨
      ∃ l : List Nat, l.length = recHarts r / 1024 ∧ l.Nodup ∧ (∀ i, i ∈ l → freeT i) ∧ ¬ paid l))

/-- 12:R331, R351, R352; 02:R58-R61; 07:R229, R232; 11:R305; 15:R457; 17:R513: an asynchronous trap is taken, TIME comes to
TIMECMP, a deadlock is reported and trapped, a wait runs out or ends well (an .acq load reads its elements once no bit of its mask
is expected), a TMMA completes, and a T gang's steps follow each other; after an exchange step its words have performed (02:R60).
12:R330, R331; 02:R58: which asynchronous trap a hart takes, and when: at a boundary of its scalar side, outside a convoy, the
first pending one in the order MCHECK, PREEMPT, TIMER, EXTINT that may be taken: MCHECK always, another where its level lies above
the hart's or IE is 1. -/
def Obligations.WaitEvents : Prop :=
  (∀ (s : State) (n : Nat) (id : BitVec 32) (g : Gang), s.up = true →
    let h := s.hart
    let gang (f : Gang → Gang) : List Gang := s.gangs.map fun x => if x.id = id then f x else x
    let pass (o : Hart) : Hart := if o.stepDone then
      { o with waitOn := none, waitS := o.waitS.over o.pc, pc := o.pc + 4, gbarHere := false, stepDone := false } else o
    let here (f : Hart → Hart) (o : Hart) : Hart := if o.id.gang = id then f o else o
    let ran (w : WaitCount) : State := s.lapse (1000 * h.waitmax.toNat - w.ns)
    let level (o : Hart) (c : Cause) : Level := if o.lv = .m ∨ o.mkeep.getLsbD (c.code - 1) = true then .m else .k
    let trapped (o y : Hart) (c : Cause) (v : Word) : Prop :=
      let b := if level o c = .m then y.mb else y.kb
      b.trapc = BitVec.ofNat 8 c.code ∧ b.trapv = v ∧ b.trappc = o.pc.setWidth 56 ∧ b.plv = o.lv ∧ b.pie = o.ie ∧ y.lv = level o c ∧
      y.ie = false ∧ y.waitOn = none ∧ y.stepDone = false
    let noPlan (u t : State) (k : BitVec 32) (c : Cause) (v : Word) : Prop := (u.harts.map (·.id)).Nodup →
      ∀ o, o ∈ u.harts → o.id.gang = k → o.ended = false → o.cls = .t → ∃ y, y ∈ t.harts ∧ y.id = o.id ∧
        (o.waitOn = some .tsync ∧ o.stepDone = true → trapped o y c v) ∧
        (¬ (o.waitOn = some .tsync ∧ o.stepDone = true) → y = { o with planFault := some (c, v) })
    let granted (un : List Unseen) : Prop := ∀ u, u ∈ un → (∃ w, w ∈ s.unseen ∧ u = { w with toS := u.toS, toV := u.toV } ∧
      (w.toS = true → u.toS = true) ∧ (w.toV = true → u.toV = true)) ∧ (u.owner.gang = id → u.shared = true → u.toS = true)
    (∀ c v, s.asyncNow = some (c, v) →
      let past : Prop := h.waitOn = some .idle ∨ h.waitOn = some .idleX
      (past → ({ s with hart := h.took c } : State).traps (exec .asyncTrapTake s) c v (h.pc + 4)) ∧
      (¬ past → ({ s with hart := h.took c } : State).traps (exec .asyncTrapTake s) c v h.pc)) ∧
    (s.time.ult h.timecmp = true → ∃ t, exec .timerMatch s = .next t ∧ t.time = h.timecmp ∧
      t.hart = { h with waitS := t.hart.waitS, waitV := t.hart.waitV } ∧ t = { s with time := t.time, hart := t.hart, others := t.others }) ∧
    (∀ f, h.tmma = some f → exec .tmmaComplete s = .next
      { s with hart := { h.setTa f.ta f.value with fflags := h.fflags ||| f.flags, tmma := none } }) ∧
    (h.waitmax ≠ 0 → h.live' = true → h.namoPend = [] →
      (∀ c v, scalarTimeout s = some (c, v) → vectorTimeout h = none →
        let u := ran h.waitS
        let u : State := { u with hart := { u.hart with waitS := { u.hart.waitS with ns := 0 } } }
        (c = .waittimeout → u.traps (exec .waitTimeout s) c v h.pc) ∧
        (c ≠ .waittimeout → ∃ t, exec .waitTimeout s = .next t ∧ noPlan u t h.id.gang c v)) ∧
      (∀ v, scalarTimeout s = none → vectorTimeout h = some v →
        let u := ran h.waitV
        ({ u with hart := { u.hart with waitV := { u.hart.waitV with ns := 0 }, ves := if h.waitsAcq then 0 else h.ves } } : State).traps
          (exec .waitTimeout s) .waittimeout v h.pc) ∧
      (∀ a b c, h.waitOn = some (.waitsig a b c) → scalarTimeout s = some (.waittimeout, s.getX a)) ∧
      (∀ m, h.waitOn = some (.semts m) → scalarTimeout s = some (.waittimeout, m.setWidth 64))) ∧
    (∀ a b c pas, h.waitOn = some (.waitsig a b c) → h.live' = true → (s.getX a).toNat % 4 = 0 → s.reaches .read (s.getX a) 4 pas →
      condHolds32 c (BitVec.ofNat 32 (leNat (s.scalarSees pas))) ((s.getX b).setWidth 32) = true →
      ∃ t, exec .waitsigSatisfied s = .next t ∧ s.accessOnly t ∧ s.sameMem t ∧
        t.hart = { h with waitOn := none, waitS := h.waitS.over h.pc, pc := h.pc + 4 }) ∧
    (∀ i d m (pas : Nat → List Nat), s.vIdle → h.live' = true → loadForm i = some (d, true, m) → h.expectedBelow m.k = 0 → s.nibblesOk i → s.tlbFresh →
      (∀ j, j < h.vlN → h.active m.k j = true → s.eltOk i .read j (pas j)) →
      let now := s.order h.id (acquired h m.k)
      let val (j : Nat) :=
        if h.sew = 4 then getE 4 (leNat (now.vectorSees j (pas j))) (j % 2) else trimElt h.et (leNat (now.vectorSees j (pas j)))
      ∃ t v, exec .acqLoadWaitEnd (s.vPosted 2 i) = .next t ∧ s.accessOnly t ∧ s.sameMem t ∧
        t.hart = ((s.vDone 2).hart.setV d v).mark (marks i) ∧ h.eltsAre h.vlN h.sew m val (h.getV d) v) ∧
    (s.gang id = some g → g.cls = .t →
      (g.stepKind = .toExchange → ∃ un, granted un ∧ exec (.exchangeStepBegin id) s = .next
        { s with gangs := gang fun x => { x with stepKind := .exchange }, hart := here (fun o => { pass o with incoming := 0, planFault := none }) h,
                 others := s.others.map (here fun o => { pass o with incoming := 0, planFault := none }), unseen := un }) ∧
      (∀ l, exchangeDue s g = true → planCounts s g = .ok l → ∃ t, exec (.exchangeStepComplete id) s = .next t ∧
        t = { s with gangs := gang fun x => { x with stepKind := .toCompute }, agenda := s.agenda ++ [.computeStepBegin id],
                     unseen := t.unseen, hostLines := t.hostLines, hostCopies := t.hostCopies, poolLines := t.poolLines, out := t.out } ∧
        ∀ u, u ∈ t.unseen → (∃ w, w ∈ s.unseen ∧ u = { w with toS := u.toS, toV := u.toV }) ∧
          (u.origin = .exchange → u.owner.gang = id → u.toS = true ∧ u.toV = true)) ∧
      (∀ c v, exchangeDue s g = true → planCounts s g = .error (c, v) →
        ∃ t, exec (.exchangeStepComplete id) s = .next t ∧ noPlan s t id c v) ∧
      (g.stepKind = .toCompute → ∃ un, granted un ∧ exec (.computeStepBegin id) s = .next
        { s with gangs := gang fun x => { x with stepKind := .compute, stepNo := x.stepNo + 1 }, hart := here pass h,
                 others := s.others.map (here pass), unseen := un })) ∧
    (deadlocked s n = true → ∃ t, exec (.deadlockDetect n) s = .next t ∧
      ∀ m, sharers s n = [h] → h.cls = .c → h.waitOn = some (.semts m) → s.memOk → s.bad = [] →
        let count := Config.scb + 0x21000
        let c := leNat (memReadN s.mem count 4)
        let entry := h.id.gang.toNat + n * 2 ^ 32 + 2 ^ 48 + s.time.toNat * 2 ^ 64
        let rings (o : Hart) : Hart :=
          if o.id = ⟨0, 0⟩ ∧ 3 ∉ o.extint then { o with extint := o.extint ++ [3] } else o
        ∃ u, s.tookTrap u (if h.lv = .m ∨ h.mkeep.getLsbD 14 = true then Level.m else .k) .deadlock (m.setWidth 64) h.pc ∧
          t.hart = rings u.hart ∧ t.others = s.others.map rings ∧
          s.memAfter t ((run (Config.scb + 0x20000 + 16 * (c % 256)) 16).zip (leBytes 16 entry) ++
            (run count 4).zip (leBytes 4 ((c + 1) % 2 ^ 32))))) ∧
  (∀ (s : State) (c : Cause) (v : Word),
    let h := s.hart
    let level (k : Cause) : Level := if h.lv = .m ∨ h.mkeep.getLsbD (k.code - 1) = true then .m else .k
    let may (k : Cause) : Prop := k = .mcheck ∨ (h.lv = .a ∨ h.lv = .k ∧ level k = .m) ∨ h.ie = true
    let boundary : Prop := s.up = true ∧ h.resident = true ∧ h.dead = false ∧ h.ended = false ∧ h.yielded = false ∧ h.halted = false ∧
      h.flying = none ∧ h.stepping = false ∧ h.convoyLeft = 0 ∧ h.namoPend = [] ∧
      ¬ (h.waitOn = some .tsync ∧ h.stepDone = true ∧
        ∃ g, s.gang h.id.gang = some g ∧ (g.stepKind = .toExchange ∨ g.stepKind = .toCompute))
    let pends (k : Cause) (w : Word) : Prop :=
      match k with
      | .mcheck => h.mcheck.head? = some w
      | .preempt => ∃ d, h.preempt = some d ∧ w = if d = true then 1 else 0
      | .timer => h.timecmp.toNat ≤ s.time.toNat ∧ w = s.time
      | .extint => ∃ b, h.extint.head? = some b ∧ w = b.setWidth 64
      | _ => False
    let before (k : Cause) : List Cause :=
      match k with
      | .preempt => [.mcheck]
      | .timer => [.mcheck, .preempt]
      | .extint => [.mcheck, .preempt, .timer]
      | _ => []
    s.asyncNow = some (c, v) ↔ boundary ∧ pends c v ∧ may c ∧ ∀ k, k ∈ before c → ∀ w, pends k w → ¬ may k)

/-- 11:R303, R305-R307, R310, R311, R314, R315, R317; 06:R197: a copy writes its next chunk, and then completes it: its mask bit
is set and no longer expected, and the copy ends with its last chunk or where CPYCAN has asked it to stop; a chunk is reduced over
the ranks in their order; a stream whose ranks disagree, whose peer is freed, or cannot be reached gets ERR 1, 2 or 3. -/
def Obligations.EngineEvents : Prop :=
  ∀ (s : State) (n : Nat) (h : Hart) (c : Copy) (id : HartId) (d : Reg) (b : Binding), s.up = true →
    let lo := c.next * 2 ^ c.chlog
    let hi := min ((c.next + 1) * 2 ^ c.chlog) c.total
    let on (l : List Copy) : List Copy := l.flatMap fun x =>
      if x.tag = c.tag then (if c.next + 1 = c.chunks ∨ c.stop = true then [] else [{ x with next := x.next + 1, moved := false }]) else [x]
    let mine (f : Copy → Copy) : List Copy :=
      if s.hart.id = h.id then s.hart.copies.map (fun x => if x.tag = c.tag then f x else x) else s.hart.copies
    let failed (x : Except Stop (List (Nat × Byte))) (k : Cause) (v : Word) : Prop := x = .error (.trap k v)
    let gathered := runM (gatherRuns (s.engineCtx h c.user) c (c.runs (hi - lo) lo hi)) s
    let bound (t : State) (e : Binding) : Prop := ∃ o, getBinding t id d = some (o, e)
    (s.running[n]? = some (h, c) →
      (∀ l, c.moved = false → s.memOk → gathered.1 = .ok l → ∃ t, exec (.copyChunkComplete n) s = .next t ∧ s.memAfter t l ∧
        t.hart.copies = mine (fun x => { x with moved := true }) ∧ t.hart.x = s.hart.x ∧ t.hart.k = s.hart.k ∧ t.hart.pc = s.hart.pc) ∧
      (∀ k v, c.moved = false → failed gathered.1 k v → ∃ t, exec (.copyChunkComplete n) s = .next t ∧
        t.hart.copies = mine (fun x => { x with err := some (k, v) })) ∧
      (c.moved = true → ∃ t, exec (.copyChunkComplete n) s = .next t ∧ t = { s with hart := t.hart, others := t.others } ∧
        t.hart.copies = (if s.hart.id = h.id then on s.hart.copies else s.hart.copies) ∧ t.hart.x = s.hart.x ∧ t.hart.pc = s.hart.pc ∧
        (c.k ≠ 0 → s.hart.id = ⟨h.id.gang, c.cons⟩ → s.hart.masksHere = true → c.first + c.next < 4096 →
          (t.hart.getK c.k).getLsbD (c.first + c.next) = true ∧
          (t.hart.expected[c.k.toNat]'c.k.isLt).getLsbD (c.first + c.next) = false))) ∧
    (getBinding s id d = some (h, b) →
      (∀ peers vals w e, b.err ≠ 1 → b.reduced.length < b.count → 1 ≤ b.nranks → b.nranks ≤ 2 ^ 20 →
        (s.stream b.cid).filter (fun p => p.2.reduced.length == b.reduced.length) = [(h, b)] →
        ((∃ x, x ∈ b.group ∧ entryHere s x = false) → s.etherUp = true) →
        chunkValues s b b.reduced.length peers b.nranks = some vals → etIsInt b.ty = true → b.op = 0 → b.exact = false →
        w = etSew b.ty → b.chunk * w ≤ 16384 → e < b.chunk →
        ∃ t v f, exec (.collectiveChunkReduced id d peers false) s = .next t ∧ bound t f ∧ f.reduced = b.reduced ++ [v] ∧
          getE w v.toNat e = ((vals.map fun x => getE w x e).sum) % 2 ^ w ∧ f.flags = b.flags ∧ f.seed = b.seed ∧
          t.contributions = s.contributions.filter fun x => !(x.cid == b.cid && x.chunk == b.reduced.length)) ∧
      (b.err = 0 → b.reduced.length < b.count → strangers s h b ≠ [] →
        ∃ t e, exec (.collectiveChunkReduced id d [] true) s = .next t ∧ bound t e ∧ e.err = 1) ∧
      (b.count ≤ b.reduced.length → exec (.collectivePeerFreed id d) s = .next s) ∧
      (b.reduced.length < b.count → b.err = 0 → ∃ t e, exec (.collectivePeerFreed id d) s = .next t ∧ bound t e ∧ e.err = 2) ∧
      (b.reduced.length < b.count → b.err ≠ 0 → exec (.collectivePeerFreed id d) s = .next s) ∧
      (b.err = 0 → ∃ t e, exec (.collectivePeerUnreachable id d) s = .next t ∧ bound t e ∧ e.err = 3) ∧
      (b.err ≠ 0 → exec (.collectivePeerUnreachable id d) s = .next s))

/-- 10:R293; 11:R319-R323; 15:R430-R434: the adapter as target and as initiator. A put's only packet is stored and its message
passed; a message that its region does not accept is refused with the reason; a get is answered in packets of 4,096 bytes; what
comes back ends the operation it answers; a refusal fails the connection. -/
def Obligations.AdapterEvents : Prop :=
  ∀ (s : State) (c r : Nat) (p : Packet) (o : RemoteOp) (reason : BitVec 8) (v : Word) (pas : List Nat), s.memOk → s.up = true → s.etherUp = true →
    let a := s.adapter
    let head := numOf a.heads p.conn
    let conn := a.ctab.toNat + 64 * c + 8
    let reg := leNat (memReadN s.mem (a.rtab.toNat + 64 * r) 64)
    let pr := leNat (memReadN s.mem (a.rtab.toNat + 64 * p.region) 64)
    let ea := BitVec.ofNat 64 (bitsOf pr 55 0 + p.offset)
    let asid := BitVec.ofNat 16 (bitsOf pr 119 104)
    let past (t : State) (k : Nat) : Prop := numOf t.adapter.heads k = numOf a.heads k + 1
    let sole : Prop := s.onConn o.conn = [o] ∧ o ∈ s.hart.remote ∧ o.begun = true
    let plain (w : Nat) : Prop := s.bad = [] ∧ w + 8 ≤ Config.scb ∧ ∀ x, x ∈ run w 8 → permitted s x = false
    let rest := s.hart.remote.filter fun q => q.conn != o.conn
    (p.kind = .put → p.msg < head → exec (.remotePacketArrival p) s = .next s) ∧
    (p.kind = .put → p.msg = head → a.incoming = [] → a.stalled = [] → p.pktOff = 0 → p.bytes.length = p.msgLen → 0 < p.msgLen →
      p.msgLen ≤ 4096 →
      (∀ k, regionReason s p = some k → ∃ t, exec (.remotePacketArrival p) s = .next t ∧ s.sameMem t ∧
        (∃ l, t.out = s.out ++ l ++ [.refusal p.conn k]) ∧ past t p.conn ∧ t.hart = s.hart) ∧
      (regionReason s p = none → xlatN s (devCtx asid) .write ea p.msgLen = .ok pas →
        physCheck s .write ea pas false = .ok () → ∃ t, exec (.remotePacketArrival p) s = .next t ∧
          s.memAfter t (pas.zip p.bytes) ∧ past t p.conn ∧ t.adapter.incoming = [] ∧ t.hart.x = s.hart.x ∧ t.hart.pc = s.hart.pc)) ∧
    (∀ n, p.kind = .getReq n → p.msg = head → a.incoming = [] → a.stalled = [] → p.pktOff = 0 → regionReason s p = none →
      xlatN s (devCtx asid) .read ea n = .ok pas → physCheck s .read ea pas false = .ok () → ∃ t l,
        exec (.remotePacketArrival p) s = .next t ∧ s.sameMem t ∧ past t p.conn ∧
        t.out = s.out ++ l ++ (packetOffs n).map fun k => .getResp p.conn p.msg k (((memReadAt s.mem pas).drop k).take 4096)) ∧
    (p.kind = .getResp → (∀ q, q ∈ s.onConn p.conn → q.seq ≠ p.msg) → exec (.remotePacketArrival p) s = .next s) ∧
    (p.kind = .getResp → sole → o.conn = p.conn → o.seq = p.msg → o.kind = .getReq o.pas.length → o.got = [] → a.resp = [] → a.orphans = [] →
      p.pktOff = 0 → p.bytes.length = o.pas.length → 0 < o.pas.length → o.pas.length ≤ 4096 →
      (∀ x, x ∈ o.pas → permitted s x = false) → s.bad = [] → s.poolUp = true →
      ∃ t, exec (.remotePacketArrival p) s = .next t ∧ s.memAfter t (o.pas.zip p.bytes) ∧ t.hart.remote = rest ∧ t.hart.x = s.hart.x) ∧
    (a.stalled.lookup c = none → exec (.adapterResume c) s = .next s) ∧
    (a.stalled.lookup c ≠ none → ∃ t, exec (.adapterResume c) s = .next t) ∧
    (∀ q i, a.stalled.lookup c = some q → (leNat (memReadN s.mem (a.rtab.toNat + 64 * q.region) 64)).testBit 123 = true →
      s.msg c (numOf a.heads c) = some i → i.accepted = true → i.held = [] →
      exec (.adapterResume c) s = .next { s with adapter := { a with stalled := a.stalled.filter fun x => x.1 != c } }) ∧
    (a.stalled.lookup c ≠ none → (∃ t, exec (.remotePageFaultTimeout c) s = .next t) ∧
      ((∀ i, i ∈ a.incoming → i.conn = c → i.msg = numOf a.heads c ∧ i.under = []) → ∃ t, exec (.remotePageFaultTimeout c) s = .next t ∧
        s.sameMem t ∧ t.out = s.out ++ [.refusal c 5] ∧ past t c ∧ t.adapter.stalled = a.stalled.filter (fun x => x.1 != c))) ∧
    (c < a.cnum.toNat → ∃ t, exec (.remoteRefusalArrival c reason) s = .next t ∧
      (s.sentOn c ≠ [] → reason = 6 → exec (.remoteAckTimeout c) s = .next t) ∧
      (plain conn → a.resp = [] → s.memAfter t ((run conn 8).zip
        (leBytes 8 (setBits (setBits (leNat (memReadN s.mem conn 8)) 25 24 2) 39 32 reason.toNat)))) ∧
      (sole → o.conn = c → t.hart.remote = rest ∧ (∃ q, q ∈ t.hart.reports ∧ q.1 = c) ∧ t.hart.getX o.xd = 0)) ∧
    (s.sentOn c ≠ [] → ∃ t, exec (.remoteAckTimeout c) s = .next t) ∧
    (∀ k z w, sole → o.conn = c → o.kind = .amo k z w →
      exec (.namoResponseArrival c v) s = .next { s with hart :=
        { ((s.hart.cleanse [(0, o.xd.toNat)]).setX o.xd (extendN true (asizeBytes z) (v.toNat % 2 ^ (8 * asizeBytes z)))) with
          remote := rest, namoPend := s.hart.namoPend.filter (· != o.xd) } }) ∧
    (bitsOf reg 125 124 = 2 → r ∉ a.revoking →
      exec (.regionRevokeAccept r) s = .next { s with adapter := { a with revoking := a.revoking ++ [r] } }) ∧
    (r ∈ a.revoking → (∀ i, i ∈ a.incoming → i.accepted = true → i.head.region ≠ r) →
      ∃ t, exec (.regionRevokeComplete r) s = .next t ∧ t.adapter.revoking = a.revoking.filter (· != r) ∧ t.hart = s.hart ∧
        let w := a.rtab.toNat + 64 * r + 8
        (plain w → bitsOf reg 183 128 = 0 →
          s.memAfter t ((run w 8).zip (leBytes 8 (setBits (leNat (memReadN s.mem w 8)) 61 60 0)))))

/-- 09:R262, R263: an invalidation request that is in progress removes the translations it names, every page and pointer that
covers a named address, and ends once no covered NGET is left to place and no covered NPUT to read; a malformed one is answered
with ERR. -/
def Obligations.InvalidationEvents : Prop :=
  ∀ (s : State) (n : Nat), s.memOk → s.up = true → s.bad = [] →
    let b := leNat (memReadN s.mem (invPa n) 64)
    let kind := bitsOf b 129 128
    let asid := BitVec.ofNat 16 (bitsOf b 159 144)
    let lo := bitsOf b 247 208 * 65536
    let hi := (bitsOf b 247 208 + bitsOf b 191 160) * 65536
    let covers (size page : Nat) : Bool := decide (page * 2 ^ size < hi) && decide (lo < (page + 1) * 2 ^ size)
    let byte (err : Nat) : Byte := BitVec.ofNat 8 (setBits (leNat (memReadN s.mem (invPa n) 1)) 1 0 err)
    let answers (t : State) (err : Nat) : Prop := ∀ a, memRead t.mem a = if a = invPa n then byte err else memRead s.mem a
    let starts (e : Instr) (gone : TlbEntry → Bool) (goneP : PtrEntry → Bool) : Prop := n < 64 → b.testBit 0 = true → n ∉ s.invRunning →
      (invMalformed b = true → ∃ t, exec e s = .next t ∧ answers t 2 ∧ t.hart = s.hart ∧ t.tlb = s.tlb ∧ t.walks = s.walks ∧
        t.invRunning = s.invRunning) ∧
      (invMalformed b = false → exec e s = .next { s with
        tlb := s.tlb.filter (fun t => !gone t), walks := s.walks.filter (fun p => !goneP p.2), invRunning := n :: s.invRunning,
        agenda := s.agenda ++ [.invalidationComplete n] })
    (kind = 0 ∨ kind = 3 → starts (.invalidateRange n) (fun t => t.asid == asid && covers t.leaf.lo t.page)
      (fun p => p.asid == asid && covers p.lo p.page)) ∧
    (kind = 1 → starts (.invalidateAsid n) (fun t => t.asid == asid && !t.leaf.g) (fun p => p.asid == asid)) ∧
    (kind = 2 → starts (.invalidateAll n) (fun _ => true) (fun _ => true)) ∧
    (n ∈ s.invRunning → getInRange s b = false → ∃ t, exec (.invalidationComplete n) s = .next t ∧
      t.invRunning = s.invRunning.filter (· != n) ∧ t.hart = s.hart ∧ (bitsOf b 307 256 = 0 → answers t 0))

/-- 12:R355-R358: Rebeica carries a request out with a STATUS, the first of its checks that fails, or 0 where the leaves of the
text are written or removed and its frames permitted or released, a patch swapping the leaves of its base and releasing the old
frames; and then reports it. -/
def Obligations.CodeRequests : Prop :=
  ∀ (s : State), s.memOk → s.up = true →
    let rb := s.rebeica
    let q := rb.block.toNat
    let op := bitsOf q 280 279
    let obj := bitsOf q 243 192
    let len := bitsOf q 167 128
    let va := bitsOf q 375 320
    let space := BitVec.ofNat 16 (bitsOf q 319 304)
    let o : ObjHead := ⟨leNat (memReadN s.mem obj 256)⟩
    let carries (t : State) (st : Nat) : Prop := t.rebeica.pending = some st ∧ t.agenda = s.agenda ++ [.rebeicaRequestDone] ∧
      t.hart = s.hart ∧ t.others = s.others
    let refuses (e : Instr) (st : Nat) : Prop := ∃ t, exec e s = .next t ∧ carries t st ∧ s.sameMem t ∧ t.rebeica.permits = rb.permits
    let busy : Prop := q.testBit 0 = true ∧ rb.pending = none
    let mapped (l : List Nat) : List Nat :=
      ((l.map fun p => leNat (memReadN s.mem p 8)).filter fun e => e.testBit 0 && e.testBit 1).map fun e => bitsOf e 51 16
    let leaves (l : List Nat) (t : State) : Prop :=
      (l.Pairwise (fun x y => x + 8 ≤ y ∨ y + 8 ≤ x) → (∀ p, p ∈ l → (permit s (o.frames obj)).takes (run p 8) = true) →
        ∀ (k p f : Nat), l[k]? = some p → (o.frames obj)[k]? = some f →
          memReadN t.mem p 8 = leBytes 8 (f * 65536 + 11 + (if o.user then 16 else 0))) ∧
      (∀ a, (∀ p, p ∈ l → a < p ∨ p + 8 ≤ a) → memRead t.mem a = memRead s.mem a)
    (busy → op = 0 ∨ op = 3 →
      (reqMalformed q = true → refuses .rebeicaMapObject 1) ∧
      (reqMalformed q = false → o.ok 0 len = false → refuses .rebeicaMapObject 2) ∧
      (reqMalformed q = false → o.ok 0 len = true → Config.keySlot o.key = false → refuses .rebeicaMapObject 4) ∧
      (reqMalformed q = false → o.ok 0 len = true → Config.keySlot o.key = true → framesFree s (o.frames obj) = false →
        refuses .rebeicaMapObject 5) ∧
      (reqMalformed q = false → o.ok 0 len = true → Config.keySlot o.key = true → framesFree s (o.frames obj) = true →
        (allSlots s space (pages va (o.frames obj).length) = none → refuses .rebeicaMapObject 6) ∧
        ∀ l, allSlots s space (pages va (o.frames obj).length) = some l →
          (objSigned s obj len o = false → refuses .rebeicaMapObject 3) ∧
          (objSigned s obj len o = true → ∃ t, exec .rebeicaMapObject s = .next t ∧ carries t 0 ∧
            t.rebeica.permits = o.frames obj ++ rb.permits ∧
            ⟨space, va, o.textLen, objDigest s obj len⟩ ∈ t.rebeica.mapped ∧ leaves l t ∧ t.icache = []))) ∧
    (busy → op = 1 →
      (reqMalformed q = true → refuses .rebeicaMapPatch 1) ∧
      (reqMalformed q = false → o.ok 1 len = false → refuses .rebeicaMapPatch 2) ∧
      (reqMalformed q = false → o.ok 1 len = true → Config.keySlot o.key = false → refuses .rebeicaMapPatch 4) ∧
      (reqMalformed q = false → o.ok 1 len = true → Config.keySlot o.key = true → framesFree s (o.frames obj) = false →
        refuses .rebeicaMapPatch 5) ∧
      (reqMalformed q = false → o.ok 1 len = true → Config.keySlot o.key = true → framesFree s (o.frames obj) = true →
        let slots := allSlots s space (pages (va + o.patchOff) (o.frames obj).length)
        let base (m : Mapped) : Bool := m.asid == space && m.va == va && m.hash == o.baseHash
        (slots = none → refuses .rebeicaMapPatch 6) ∧
        (slots ≠ none → (∀ m, m ∈ rb.mapped → base m = false) → refuses .rebeicaMapPatch 7) ∧
        ∀ l m, slots = some l → rb.mapped.find? base = some m →
          (m.len < o.patchOff + o.textLen → refuses .rebeicaMapPatch 2) ∧
          (o.patchOff + o.textLen ≤ m.len → objSigned s obj len o = false → refuses .rebeicaMapPatch 3) ∧
          (o.patchOff + o.textLen ≤ m.len → objSigned s obj len o = true → ∃ t, exec .rebeicaMapPatch s = .next t ∧ carries t 0 ∧
            leaves l t ∧ t.icache = [] ∧ t.rebeica.mapped = rb.mapped ∧
            (∀ f, f ∈ t.rebeica.permits ↔ (f ∈ o.frames obj ∨ f ∈ rb.permits) ∧ f ∉ mapped l) ∧
            ∀ e, e ∈ t.tlb → ∀ k, k < (o.frames obj).length → ¬ (e.asid = space ∧ e.page = (va + o.patchOff + 65536 * k) / 2 ^ e.leaf.lo))) ∧
      (∃ t, exec .rebeicaMapPatch s = .next t ∧ t.hart = s.hart ∧ t.agenda = s.agenda ++ [.rebeicaRequestDone])) ∧
    (busy → op = 2 →
      (reqMalformed q = true → refuses .rebeicaUnmap 1) ∧
      (reqMalformed q = false → allSlots s space (pages va ((len + 65535) / 65536)) = none → refuses .rebeicaUnmap 6) ∧
      ∀ l, reqMalformed q = false → allSlots s space (pages va ((len + 65535) / 65536)) = some l →
        ∃ t, exec .rebeicaUnmap s = .next t ∧ carries t 0 ∧
          t.rebeica.permits = rb.permits.filter (fun f => !(mapped l).contains f) ∧ t.icache = [] ∧
          (∀ m, m ∈ t.rebeica.mapped → ¬ (m.asid = space ∧ m.va < va + len ∧ va < m.va + m.len)) ∧
          ((∀ p, p ∈ l → s.takes (run p 8) = true) → ∀ p, p ∈ l → memReadN t.mem p 8 = List.replicate 8 0) ∧
          (∀ a, (∀ p, p ∈ l → a < p ∨ p + 8 ≤ a) → memRead t.mem a = memRead s.mem a)) ∧
    (∀ st, rb.pending = some st → ∃ t, exec .rebeicaRequestDone s = .next t ∧ t.rebeica.pending = none ∧ t.hart = s.hart ∧
      t.rebeica.permits = rb.permits ∧
      t.rebeica.block = BitVec.ofNat 512 (setBits (setBits q 271 256 st) 1 0 (if st = 0 then 0 else 2)) ∧
      (bitsOf q 435 384 = 0 → s.sameMem t))

/-- 11:R318, R325-R328; 12:R329, R350, R353: the mailbox, host snoops of lines L2 holds, host requests to HDM, pool memory, and
the management controller's interrupt. -/
def Obligations.HostPortEvents : Prop :=
  ∀ (s : State) (line pa n : Nat) (own : Bool) (b : List Byte) (v : Word), s.up = true →
    let m := s.mailbox
    let rings (src : BitVec 8) (h : Hart) : Hart :=
      if h.id = ⟨0, 0⟩ ∧ src ∉ h.extint then { h with extint := h.extint ++ [src] } else h
    let rung (src : BitVec 8) : State := { s with hart := rings src s.hart, others := s.others.map (rings src) }
    let box (f : Mailbox) : State := { s with mailbox := f }
    let doorbell : State := if m.pend then s else { rung 2 with mailbox := { m with pend := true } }
    let data : List Out := [.snoopData line (memReadN s.mem (64 * line) 64)]
    let gone := s.hostLines.filter fun p => p.1 != line
    let clear : State := box { m with pend := false, hdataOld := m.hdata }
    let sends : State := { box { m with dpend := true } with out := if m.msix then s.out ++ [.msix] else s.out }
    let lines := ((run pa n).map (· / 64)).eraseDups
    let reach (n : Nat) : Prop := 0 < n ∧ pa + n ≤ s.hdm ∧ pa + n ≤ 0x8000000000
    let pas := run pa b.length
    exec .hostDoorbell s = .next doorbell ∧ exec .mailboxPendClear s = .next clear ∧ exec .deviceDoorbell s = .next sends ∧
    exec .hostDpendClear s = .next (box { m with dpend := false }) ∧ exec .managementControllerInterrupt s = .next (rung 1) ∧
    exec (.registerWrite 0x200000 v true) s = .next (box { m with hdata := v, hdataOld := if m.pend then m.hdata else v }) ∧
    exec (.registerWrite 0x200008 v true) s = .next doorbell ∧
    exec (.registerWrite 0x200018 v true) s = .next (if v.getLsbD 0 then box { m with dpend := false } else s) ∧
    exec (.registerWrite 0x200010 v true) s = .next s ∧
    exec (.registerWrite 0x200010 v false) s = .next (box { m with ddata := v }) ∧
    exec (.registerWrite 0x200008 v false) s = .next (if v.getLsbD 0 then clear else s) ∧
    exec (.registerWrite 0x200018 v false) s = .next sends ∧
    exec (.registerWrite 0x100000 v false) s = .next { s with adapter := { s.adapter with ctab := v } } ∧
    exec (.registerWrite 0x100030 v false) s = .next { s with adapter := { s.adapter with resume := v },
                                                              agenda := s.agenda ++ [.adapterResume v.toNat] } ∧
    (0x1000000000000 ≤ 64 * line → 64 * line < 0x2000000000000 →
      (s.hostLines.lookup line = none → exec (.hostSnpData line) s = .next s ∧ exec (.hostSnpInv line) s = .next s ∧
        exec (.hostSnpCur line) s = .next s) ∧
      ∀ st, s.hostLines.lookup line = some st →
        exec (.hostSnpData line) s = .next { s with hostLines := (line, .s) :: gone, out := if st = .m then s.out ++ data else s.out } ∧
        exec (.hostSnpInv line) s = .next { s with hostLines := gone, out := if st = .m then s.out ++ data else s.out } ∧
        exec (.hostSnpCur line) s = .next { s with out := s.out ++ data }) ∧
    (reach n →
      (firstBad s.bad (run pa n) 0 = none → exec (.hostHdmRequest (.read pa n own)) s = .next
        { s with out := s.out ++ [.hdmData pa (memReadN s.mem pa n)],
                 hostCopies := lines.map (·, own) ++ s.hostCopies.filter fun l => !lines.contains l.1 }) ∧
      (firstBad s.bad (run pa n) 0 ≠ none → exec (.hostHdmRequest (.read pa n own)) s = .next { s with out := s.out ++ [.hdmError pa] })) ∧
    (reach b.length →
      ((∃ a, a ∈ pas ∧ frameOf a ∈ s.rebeica.permits) ∨ firstPartial s.bad pas pas 0 ≠ none →
        exec (.hostHdmRequest (.write pa b)) s = .next { s with out := s.out ++ [.hdmError pa] }) ∧
      ((∀ a, a ∈ pas → frameOf a ∉ s.rebeica.permits) → firstPartial s.bad pas pas 0 = none → s.memOk →
        ∃ t, exec (.hostHdmRequest (.write pa b)) s = .next t ∧ s.memAfter t (pas.zip b) ∧ t.out = s.out ∧ t.hart.x = s.hart.x ∧
          t.hart.pc = s.hart.pc)) ∧
    (line ∈ s.poolLines → exec (.poolBackInvalidate line) s = .next { s with poolLines := s.poolLines.filter (· != line) }) ∧
    (s.poolUp = true → exec .poolPortDown s = .next { s with poolUp := false }) ∧
    (s.poolUp = false → 16 ∈ s.portsOn → exec .poolPortUp s = .next { s with poolUp := true })

/-- 12:R345-R347: a grant is given where the signature over the outstanding nonce verifies; of a hart that a grant covers, a
debugger halts (past a TSYNC that has completed), resumes and steps it, reads and writes its registers once halted, and its
memory. -/
def Obligations.DebugEvents : Prop :=
  ∀ (s : State) (t : Option (BitVec 8)) (brk : Bool) (key : BitVec 32) (sig : BitVec 4096) (r : Reg) (v va : Word) (n : Nat)
    (b : List Byte) (pas : List Nat), s.up = true →
    let rb := s.rebeica
    let h := s.hart
    let k := Config.nonce rb.nonces
    let asked (m : BitVec 512) : List Byte := leBytes 64 m.toNat ++ [if t = none then 1 else 0, t.getD 0, if brk then 1 else 0]
    let signed (m : BitVec 512) : Bool := Config.debugKey key && Config.rsaOk key (Config.sha512 (asked m)) sig
    let reg (q : DbgReg) : Instr := .debugRegisterAccess h.id q none
    let set_ (q : DbgReg) : Instr := .debugRegisterAccess h.id q (some v)
    let alone : Prop := ∀ o, o ∈ s.others → o.id ≠ h.id
    let ctx : Ctx := { devCtx (s.asidOf h) with gang := h.id.gang, noWindow := h.cls == .c }
    exec .debugNonceRequest s = .next
      { s with rebeica := { rb with nonces := rb.nonces + 1, nonce := some k }, out := s.out ++ [.nonce k] } ∧
    (∀ m, rb.nonce = some m → signed m = true → exec (.debugGrant t brk key sig) s = .next
      { s with rebeica := { rb with nonce := none, grants := ⟨t, brk⟩ :: rb.grants } }) ∧
    (∀ m, rb.nonce = some m → signed m = false → exec (.debugGrant t brk key sig) s = .next s) ∧
    (rb.grants ≠ [] → exec .debugRevoke s = .next { s with rebeica := { rb with grants := [] } }) ∧
    ((∃ g, g ∈ rb.grants ∧ (g.tenant = none ∨ ∃ w x, g.tenant = some w ∧ s.gang h.id.gang = some x ∧ x.tenant = w)) → alone →
      (h.resident = true → h.dead = false → h.ended = false → h.halted = false → h.convoyLeft = 0 →
        (s.syncPassed = true → exec (.debugHalt h.id) s = .next { s with agenda := s.agenda ++ [.debugHalt h.id] }) ∧
        (s.syncPassed = false → ∃ u, exec (.debugHalt h.id) s = .next u ∧ u = { s with hart := u.hart, files := u.files } ∧
          u.hart = { h with
            halted := true, stepping := false, waitOn := none, gbarHere := false, stepDone := false, desc := none })) ∧
      (h.halted = true →
        exec (.debugResume h.id) s = .next { s with hart := { h with halted := false, stepping := false } } ∧
        exec (.debugSingleStep h.id) s = .next { s with hart := { h with halted := false, stepping := true } }) ∧
      (h.halted = true → h.dead = false →
        exec (reg (.x r)) s = .next { s with out := s.out ++ [.debugValue (s.getX r)] } ∧
        exec (reg (.f r)) s = .next { s with out := s.out ++ [.debugValue (h.getF r)] } ∧
        exec (reg .pc) s = .next { s with out := s.out ++ [.debugValue h.pc] } ∧
        exec (set_ (.x r)) s = .next (s.setX r v) ∧
        exec (set_ (.f r)) s = .next { s with hart := h.setF r v } ∧
        exec (set_ .pc) s = .next (s.setPc v)) ∧
      (∀ c w, reachN s ctx .read va n false = .error (c, w) →
        exec (.debugMemoryAccess h.id va n none) s = .next { s with out := s.out ++ [.debugFail c w] }) ∧
      (xlatN s ctx .read va n = .ok pas → physCheck s .read va pas false = .ok () →
        ∃ u, exec (.debugMemoryAccess h.id va n none) s = .next u ∧ s.sameMem u ∧ u.hart = h ∧
          ∃ l, u.out = s.out ++ l ++ [.debugBytes (memReadAt s.mem pas)]) ∧
      (∀ c w, reachN s ctx .write va b.length false = .error (c, w) →
        exec (.debugMemoryAccess h.id va n (some b)) s = .next { s with out := s.out ++ [.debugFail c w] }) ∧
      (xlatN s ctx .write va b.length = .ok pas → physCheck s .write va pas false = .ok () → s.memOk →
        ∃ u, exec (.debugMemoryAccess h.id va n (some b)) s = .next u ∧ s.memAfter u (pas.zip b) ∧ u.hart.x = h.x ∧ u.hart.pc = h.pc))

/-- 04:R102-R132, R135: decoding the words of a well-formed instruction gives it back, with every operand at every value its
encoding admits. -/
def Obligations.RoundTrip : Prop :=
  ∀ (i : Instr), wellFormed i = true → isEvent i = false → decode (headOf i) (tailOf i) = .ok i

/-- 04:R106, R133: a word that decodes is the word of the instruction it decodes to, which is well formed: no other bits mean it.
A tail is read where the head's major says so. -/
def Obligations.DecodeExact : Prop :=
  ∀ (h t : Parcel) (i : Instr), decode h t = .ok i →
    wellFormed i = true ∧ isEvent i = false ∧ headOf i = h ∧ (isLong h = true → tailOf i = t) ∧ (isLong h = false → tailOf i = 0)

/-- 04:R105, R107, R115-R118, R121, R122, R125, R130, R131, R133: words written out from the encoding tables, and majors that are
no instruction. -/
def Obligations.SpecWords : Prop :=
  decode 0b000000_00101_00110_00111_00000_000000 0 = .ok (.add 5 6 7 false) ∧
  decode 0b000000_00101_00110_00111_00100_000010 0 = .ok (.div 5 6 7 false true) ∧
  decode 0b000001_00001_00010_1111111111111111 0 = .ok (.addImm 1 2 0xFFFF) ∧
  decode 0b010000_00101_00110_011_0000000010000 0 = .ok (.ld 5 6 .d 16) ∧
  decode 0b011000_00011_00100_010_1111111111110 0 = .ok (.b 3 4 .lt 0x1FFE) ∧
  decode 0b100000_00001_00010_00011_00010_001_000 0 = .ok (.fmul 1 2 3 .fp32 .rne) ∧
  decode 0b100011_00000_00000_0000_000000000111 0 = .ok (.sysc 7) ∧
  decode 0b101001_00001_00010_00100_00_000_0_00010 0 = .ok (.tmma 1 2 4 false .fp16) ∧
  decode 0b110001_01000001_00011_00100_00000_010 0b00101_1_000_00_000000000000000000000 =
    .ok (.vsub 3 4 (.vx 5) ⟨2, true⟩) ∧
  decode 0b110000_00000000_01010_00000_00000_000 0b00110_0_000_00_000000000000001000000 =
    .ok (.vld 10 6 64 false ⟨0, false⟩) ∧
  (∀ (h t : Parcel), (11 ≤ h.toNat / 2 ^ 26 ∧ h.toNat / 2 ^ 26 ≤ 15) ∨ (20 ≤ h.toNat / 2 ^ 26 ∧ h.toNat / 2 ^ 26 ≤ 23) ∨
    h.toNat / 2 ^ 26 = 30 ∨ h.toNat / 2 ^ 26 = 31 ∨ (43 ≤ h.toNat / 2 ^ 26 ∧ h.toNat / 2 ^ 26 ≤ 46) ∨ h.toNat / 2 ^ 26 = 63 →
    ∃ r, decode h t = .error r)

/-- 04:R103, R104; 07:R204: a step runs the instruction decoded from the bytes at the pc. With no event due, a live hart whose
bytes at pc decode to i, where its caches hold memory's bytes, its vector side having gone on first: the step is exec of i there,
with the count of choices, the convoy, the mix counts and a single step's halt seen to around it; where i names a register
awaited, nothing but that count changes, or a convoy held for that member starts; where i reads one in error, DATAERR is taken
(12:R349). In a single step the vector side stands while the instruction executes (12:R346). -/
def Obligations.StepRunsDecoded : Prop :=
  ∀ (s u v : State) (i : Instr) (head tail : Parcel) (p q : List Nat), s.due = none → s.phase = .running → s.stimuli = [] →
    s.toSend = [] ∨ Config.choice s.tick 2 = false →
    u = s.takeTurn.rotate → deviceEvents u = [] ∨ Config.choice u.tick 1 = true → u.hart.acts = true → u.asyncNow = none →
    vectorGoes u = (.ok (), v) → v.hart.halted = false → v.hart.live' = true → v.hart.mixFull = false → v.tlbFresh → (∀ l, l ∈ v.icache → l.bytes = memReadN v.mem (64 * l.line) 64) →
    v.reaches .fetch v.hart.pc 4 p → head = BitVec.ofNat 32 (leNat (memReadAt v.mem p)) →
    (isLong head = true → v.reaches .fetch (v.hart.pc + 4) 4 q ∧ tail = BitVec.ofNat 32 (leNat (memReadAt v.mem q))) →
    (isLong head = false → tail = 0) → decode head tail = .ok i → ¬ (i = .tret ∧ v.hart.lv = .a) →
    ∃ w : State, w = { v with tlb := w.tlb, walks := w.walks, icache := w.icache, hostCopies := w.hostCopies, out := w.out } ∧
      (w.hart.mustWait i = true → step s = .next { w with tick := w.tick + 1, hart := w.hart.startConvoy }) ∧
      (∀ e, w.hart.mustWait i = false → w.hart.inError (issueReads i) = some e → step s = takeTrap w .dataerr e w.hart.pc) ∧
      (w.hart.mustWait i = false → w.hart.inError (issueReads i) = none →
        let left := if w.hart.convoyLeft ≠ 0 ∧ isPosted i = false then 0 else w.hart.convoyLeft
        let x : State := { w with hart := { w.hart with convoyLeft := left },
                                  pace := if w.hart.stepping then (0, 0) :: w.pace else w.pace }
        (∀ f, exec i x = .fault f → step s = .fault f) ∧ (∀ r, exec i x = .refused r → step s = .refused r) ∧
        ∀ t, exec i x = .next t → ∃ h l o, step s = .next { t with
              tick := t.tick + 1, hart := h, hold := l, others := o, pace := if w.hart.stepping then w.pace else t.pace } ∧
          ((∀ g, g ∈ t.others → g.stepping = false) → o = t.others) ∧
          h = { t.hart with mixCount := h.mixCount, mixHits := h.mixHits, mixMoves := h.mixMoves, halted := h.halted, stepping := h.stepping,
                            badRegs := h.badRegs } ∧
          (∀ r, r ∈ h.badRegs → r ∈ t.hart.badRegs) ∧
          (t.hart.stepping = false → h.halted = t.hart.halted ∧ h.stepping = false) ∧
          (t.hart.migMix = false → h.mixCount = t.hart.mixCount ∧ h.mixHits = t.hart.mixHits ∧ h.mixMoves = t.hart.mixMoves))

/-- 01:R32; 02:R48; 05:R147-R161: what reset leaves. No byte is listed, so memory reads zero and is in its canonical form; a hart
as it is created has the values its registers are given there. (x1 and pc are set by what creates the hart; the first hart runs at
level M.) -/
def Obligations.ResetState : Prop :=
  let h := Hart.reset
  State.reset.memOk ∧ (∀ a, memRead State.reset.mem a = 0) ∧ State.reset.hart = { h with lv := .m } ∧ State.reset.phase = .running ∧
  (∀ r, h.getX r = 0 ∧ h.getF r = 0 ∧ h.getV r = 0) ∧ h.lv = .a ∧ h.ie = false ∧ h.mkeep = BitVec.allOnes 25 ∧
  h.vc = ⟨1, ⟨.fp64, .b16, false, false, .fp32, .rne⟩, 16⟩ ∧ h.srseed = 1 ∧ h.fflags = 0 ∧ h.fen = 0 ∧ h.ftz = false ∧
  h.timecmp = BitVec.allOnes 64 ∧ h.waitmax = 0 ∧ h.ctxb = 0 ∧ h.vdirty = 0 ∧ h.live = 0 ∧ h.migTrap = true ∧ h.migMix = false ∧
  (∀ (n : BitVec 2) (j : Nat), j < 256 → getE 8 (h.getSc n).toNat j = 0x7F)

/-- The model's choice (log 1, 5): memory is one list of addresses and bytes in a canonical form, and whatever a step does,
instruction, event, trap or wait, from any state that has the form, it leaves the form. -/
def Obligations.StepKeepsMemOk : Prop :=
  ∀ (s t : State), s.memOk → step s = .next t → t.memOk
end

