-- ==== Sys2Proof/Laws/Actions.lean ====
section
/-! SUPPORT. What each primitive of an action does: later proofs rewrite by these and never unfold the monad. -/
namespace Sys2Proof.Machine
open Sys2Proof

/-- A sequence runs its first part, and its second where the first does not stop. -/
theorem runM_bind {α β : Type} (m : M α) (f : α → M β) (s : State) :
    runM (m >>= f) s =
      match runM m s with
      | (.ok a, t) => runM (f a) t
      | (.error e, t) => (.error e, t) := by
  simp only [runM, ExceptT.run_bind]
  show StateT.run _ s = _
  simp only [StateT.run_bind]
  rcases h : StateT.run (ExceptT.run m) s with ⟨r, t⟩
  simp only [StateT.run] at h
  simp only [StateT.run, h]
  cases r <;> rfl

/-- A result mapped. -/
theorem runM_map {α β : Type} (f : α → β) (m : M α) (s : State) :
    runM (f <$> m) s =
      match runM m s with
      | (.ok a, t) => (.ok (f a), t)
      | (.error e, t) => (.error e, t) := by
  rw [← bind_pure_comp, runM_bind]
  rcases h : runM m s with ⟨r, t⟩
  cases r <;> rfl

@[simp] theorem runM_pure {α : Type} (a : α) (s : State) : runM (pure a) s = (.ok a, s) := rfl
@[simp] theorem runM_throw {α : Type} (e : Stop) (s : State) : runM (throw e : M α) s = (.error e, s) := rfl
@[simp] theorem runM_trap {α : Type} (c : Cause) (v : Word) (s : State) :
    runM (trapM c v : M α) s = (.error (.trap c v), s) := rfl
@[simp] theorem runM_wait {α : Type} (s : State) : runM (waitM : M α) s = (.error .wait, s) := rfl
@[simp] theorem runM_get (s : State) : runM (get : M State) s = (.ok s, s) := rfl
@[simp] theorem runM_set (t s : State) : runM (set t : M PUnit) s = (.ok ⟨⟩, t) := rfl
@[simp] theorem runM_modify (f : State → State) (s : State) : runM (modify f : M PUnit) s = (.ok ⟨⟩, f s) := rfl
@[simp] theorem runM_getHart (s : State) : runM getHart s = (.ok s.hart, s) := rfl
@[simp] theorem runM_modHart (f : Hart → Hart) (s : State) :
    runM (modHart f) s = (.ok ⟨⟩, { s with hart := f s.hart }) := rfl
@[simp] theorem runM_liftX_ok {α : Type} (a : α) (s : State) : runM (liftX (.ok a)) s = (.ok a, s) := rfl
@[simp] theorem runM_liftX_error {α : Type} (c : Cause) (v : Word) (s : State) :
    runM (liftX (.error (c, v)) : M α) s = (.error (.trap c v), s) := rfl
/-- A check passes, or traps with nothing changed. -/
@[simp] theorem runM_checkM (ok : Bool) (c : Cause) (v : Word) (s : State) :
    runM (checkM ok c v) s = if ok then (.ok ⟨⟩, s) else (.error (.trap c v), s) := by cases ok <;> rfl
@[simp] theorem runM_doneX (d : Reg) (v : Word) (s : State) : runM (doneX d v) s = (.ok ⟨⟩, s.result d v) := rfl
@[simp] theorem runM_done1 (s : State) : runM done1 s = (.ok ⟨⟩, s.advance 1) := rfl
@[simp] theorem runM_waitAt {α : Type} (i : Instr) (s : State) :
    runM (waitAt i : M α) s = (.error .wait, { s with hart := s.hart.waitHere i }) := rfl
@[simp] theorem runM_doneWait (s : State) :
    runM doneWait s = (.ok ⟨⟩, { s with hart := s.hart.endWait }.advance 1) := rfl
/-- An action run as data keeps its state. -/
theorem runM_tryM {α : Type} (m : M α) (s : State) :
    runM (tryM m) s =
      match runM m s with
      | (.ok a, t) => (.ok (.ok a), t)
      | (.error e, t) => (.ok (.error e), t) := by
  show (tryCatch (do return .ok (← m)) (fun e => return .error e) : M (Except Stop α)) s = _
  simp only [tryCatch, tryCatchThe, MonadExceptOf.tryCatch, ExceptT.tryCatch, ExceptT.mk]
  show (StateT.bind _ _) s = _
  simp only [StateT.bind, bind, ExceptT.bind, ExceptT.mk, StateT.bind, ExceptT.bindCont, runM, ExceptT.run]
  rcases h : m s with ⟨r, t⟩
  cases r <;> rfl

/-! The outcomes of an instruction's action. -/

@[simp] theorem finish_ok (pc : Word) (s : State) : finish pc (.ok (), s) = .next s := rfl
@[simp] theorem finish_trap (pc : Word) (c : Cause) (v : Word) (s : State) :
    finish pc (.error (.trap c v), s) = takeTrap s c v pc := rfl
@[simp] theorem finish_wait (pc : Word) (s : State) : finish pc (.error .wait, s) = .next s := rfl
@[simp] theorem finish_move (pc : Word) (d : Class) (s : State) :
    finish pc (.error (.move d), s) = .next (if s.hart.namoPend.isEmpty then startMove s d else s) := rfl
theorem runInstr_of_run {m : M Unit} {s : State} {r : Except Stop Unit × State} (h : runM m s = r) :
    runInstr m s = finish s.hart.pc r := by rw [runInstr, h]
/-- An action that completes answers its state. -/
theorem runInstr_ok {m : M Unit} {s t : State} (h : runM m s = (.ok (), t)) : runInstr m s = .next t := by
  rw [runInstr, h, finish_ok]

end Sys2Proof.Machine
end

