-- ==== Sys2Proof/Laws/Memory.lean ====
section
/-! SUPPORT. Memory's laws: a read after a write, and that every write keeps the canonical form. -/
namespace Sys2Proof.Machine
open Sys2Proof

/-- The canonical form above a bound is the canonical form above any lower one. -/
theorem Memory.wfFrom_le {lo hi : Nat} (h : lo ≤ hi) : ∀ {m : List Host.Cell}, Memory.wfFrom hi m = true → Memory.wfFrom lo m = true
  | [], _ => rfl
  | (a, b) :: t, w => by
    simp only [Memory.wfFrom, Bool.and_eq_true, decide_eq_true_eq] at w ⊢
    exact ⟨⟨le_trans h w.1.1, w.1.2⟩, w.2⟩

/-- Below its bound a canonical list reads as unlisted. -/
theorem memRead_below {lo x : Nat} (h : x < lo) : ∀ {m : List Host.Cell}, Memory.wfFrom lo m = true → memRead m x = Memory.empty
  | [], _ => rfl
  | (a, b) :: t, w => by
    simp only [Memory.wfFrom, Bool.and_eq_true, decide_eq_true_eq] at w
    have hx : x < a := lt_of_lt_of_le h w.1.1
    have e : (x == a) = false := by simpa using hx.ne
    simp only [memRead, e, hx, if_true, Bool.false_eq_true, if_false]

/-- A write keeps the canonical form. -/
theorem memWrite_wfFrom (x : Nat) (v : Byte) : ∀ {lo : Nat} {m : List Host.Cell}, lo ≤ x → Memory.wfFrom lo m = true →
    Memory.wfFrom lo (memWrite m x v) = true
  | lo, [], hx, _ => by
    unfold memWrite
    by_cases hv : (v == Memory.empty) = true
    · simp [hv, Memory.wfFrom]
    · have : (v != Memory.empty) = true := by simpa using hv
      simp [hv, Memory.wfFrom, hx, this]
  | lo, (a, b) :: t, hx, w => by
    have w0 := w
    simp only [Memory.wfFrom, Bool.and_eq_true, decide_eq_true_eq] at w
    unfold memWrite
    by_cases h1 : x < a
    · by_cases hv : (v == Memory.empty) = true
      · simp only [h1, hv, if_true]; exact w0
      · have hv' : (v != Memory.empty) = true := by simpa using hv
        simp only [h1, hv, if_true, Bool.false_eq_true, if_false, Memory.wfFrom, Bool.and_eq_true, decide_eq_true_eq]
        exact ⟨⟨hx, hv'⟩, ⟨⟨h1, w.1.2⟩, w.2⟩⟩
    · by_cases h2 : (x == a) = true
      · have e : x = a := by simpa using h2
        by_cases hv : (v == Memory.empty) = true
        · simp only [h1, h2, hv, if_true, if_false]
          exact Memory.wfFrom_le (le_trans w.1.1 (Nat.le_succ a)) w.2
        · have hv' : (v != Memory.empty) = true := by simpa using hv
          simp only [h1, h2, hv, if_true, Bool.false_eq_true, if_false, Memory.wfFrom, Bool.and_eq_true, decide_eq_true_eq]
          exact ⟨⟨hx, hv'⟩, e ▸ w.2⟩
      · simp only [h1, h2, if_false, Bool.false_eq_true, Memory.wfFrom, Bool.and_eq_true, decide_eq_true_eq]
        have e : x ≠ a := by simpa using h2
        exact ⟨w.1, memWrite_wfFrom x v (by omega) w.2⟩

theorem memWrite_wf {m : List Host.Cell} (x : Nat) (v : Byte) (h : Memory.wf m = true) : Memory.wf (memWrite m x v) = true :=
  memWrite_wfFrom x v (Nat.zero_le x) h
theorem memWriteN_wf : ∀ {m : List Host.Cell} (a : Nat) (b : List Byte), Memory.wf m = true → Memory.wf (memWriteN m a b) = true
  | _, _, [], h => h
  | _, a, b :: t, h => memWriteN_wf (a + 1) t (memWrite_wf a b h)
theorem memWriteAt_wf : ∀ {m : List Host.Cell} (l : List Nat) (b : List Byte), Memory.wf m = true →
    Memory.wf (memWriteAt m l b) = true
  | _, [], _, h => h
  | _, _ :: _, [], h => h
  | _, a :: l, b :: t, h => memWriteAt_wf l t (memWrite_wf a b h)

/-- A read after a write: the value written there, and the old byte elsewhere. -/
theorem memRead_memWrite_from (x y : Nat) (v : Byte) : ∀ {lo : Nat} {m : List Host.Cell}, Memory.wfFrom lo m = true →
    memRead (memWrite m x v) y = if y = x then v else memRead m y
  | _, [], _ => by
    unfold memWrite
    by_cases hv : (v == Memory.empty) = true
    · have e : v = Memory.empty := by simpa using hv
      by_cases hy : y = x <;> simp [hy, memRead, e]
    · by_cases hy : y = x
      · simp [hv, hy, memRead]
      · have : (y == x) = false := by simpa using hy
        simp [hv, hy, memRead, this]
  | lo, (a, b) :: t, w => by
    simp only [Memory.wfFrom, Bool.and_eq_true, decide_eq_true_eq] at w
    have hbelow : ∀ z, z < a + 1 → memRead t z = Memory.empty := fun z hz => memRead_below hz w.2
    unfold memWrite
    by_cases h1 : x < a
    · by_cases hv : (v == Memory.empty) = true
      · have e : v = Memory.empty := by simpa using hv
        simp only [h1, hv, if_true]
        by_cases hy : y = x
        · subst hy
          have n : (y == a) = false := by simpa using h1.ne
          simp [memRead, n, h1, e]
        · simp [hy]
      · simp only [h1, hv, if_true, Bool.false_eq_true, if_false]
        by_cases hy : y = x
        · simp [memRead, hy]
        · have n : (y == x) = false := by simpa using hy
          rw [memRead]
          simp only [n, Bool.false_eq_true, if_false, hy]
          by_cases hlt : y < x
          · have n2 : (y == a) = false := by simpa using (lt_trans hlt h1).ne
            simp [memRead, hlt, n2, lt_trans hlt h1]
          · simp [hlt]
    · by_cases h2 : (x == a) = true
      · have e : x = a := by simpa using h2
        subst e
        by_cases hv : (v == Memory.empty) = true
        · have ev : v = Memory.empty := by simpa using hv
          simp only [h1, h2, hv, if_true, if_false]
          by_cases hy : y = x
          · simp [hy, ev, hbelow x (Nat.lt_succ_self x)]
          · have n : (y == x) = false := by simpa using hy
            simp only [hy, if_false, memRead, n, Bool.false_eq_true]
            by_cases hlt : y < x
            · simp [hlt, hbelow y (by omega)]
            · simp [hlt]
        · simp only [h1, h2, hv, if_true, Bool.false_eq_true, if_false]
          by_cases hy : y = x
          · simp [memRead, hy]
          · have n : (y == x) = false := by simpa using hy
            simp [memRead, n, hy]
      · simp only [h1, h2, if_false, Bool.false_eq_true]
        have e : x ≠ a := by simpa using h2
        have ih := memRead_memWrite_from x y v w.2
        by_cases hy : y = a
        · subst hy
          have : y ≠ x := fun h => e h.symm
          simp [memRead, this]
        · have n : (y == a) = false := by simpa using hy
          simp only [memRead, n, Bool.false_eq_true, if_false]
          by_cases hlt : y < a
          · have : y ≠ x := by omega
            simp [hlt, this]
          · simp only [hlt, if_false]; exact ih
theorem memRead_memWrite {m : List Host.Cell} (x y : Nat) (v : Byte) (h : Memory.wf m = true) :
    memRead (memWrite m x v) y = if y = x then v else memRead m y := memRead_memWrite_from x y v h

/-- Bytes at listed addresses leave every other address alone. -/
theorem memRead_memWriteAt_ne : ∀ {m : List Host.Cell} (l : List Nat) (b : List Byte) (y : Nat), Memory.wf m = true → y ∉ l →
    memRead (memWriteAt m l b) y = memRead m y
  | _, [], _, _, _, _ => rfl
  | _, _ :: _, [], _, _, _ => rfl
  | m, a :: l, b :: t, y, h, hy => by
    rw [memWriteAt, memRead_memWriteAt_ne l t y (memWrite_wf a b h) (fun e => hy (List.mem_cons_of_mem _ e)),
      memRead_memWrite a y b h]
    have n : y ≠ a := fun e => hy (by rw [e]; exact List.mem_cons_self)
    rw [if_neg n]
/-- Bytes at distinct addresses read back. -/
theorem memRead_memWriteAt_get : ∀ {m : List Host.Cell} (l : List Nat) (b : List Byte) (k p : Nat) (x : Byte),
    Memory.wf m = true → l.Nodup → l[k]? = some p → b[k]? = some x → memRead (memWriteAt m l b) p = x
  | _, [], _, k, p, _, _, _, hp, _ => by simp at hp
  | _, _ :: _, [], k, p, _, _, _, _, hx => by simp at hx
  | m, a :: l, b :: t, 0, p, x, h, hn, hp, hx => by
    simp only [List.getElem?_cons_zero, Option.some.injEq] at hp hx
    subst hp; subst hx
    rw [memWriteAt, memRead_memWriteAt_ne l t a (memWrite_wf a b h) (List.nodup_cons.mp hn).1, memRead_memWrite a a b h, if_pos rfl]
  | m, a :: l, b :: t, k + 1, p, x, h, hn, hp, hx => by
    rw [memWriteAt]
    exact memRead_memWriteAt_get l t k p x (memWrite_wf a b h) (List.nodup_cons.mp hn).2 (by simpa using hp) (by simpa using hx)
/-- Bytes upward from an address leave every other address alone. -/
theorem memRead_memWriteN_ne : ∀ {m : List Host.Cell} (a : Nat) (b : List Byte) (y : Nat), Memory.wf m = true →
    (y < a ∨ a + b.length ≤ y) → memRead (memWriteN m a b) y = memRead m y
  | _, _, [], _, _, _ => rfl
  | m, a, b :: t, y, h, hy => by
    rw [memWriteN, memRead_memWriteN_ne (a + 1) t y (memWrite_wf a b h) (by simp only [List.length_cons] at hy; omega),
      memRead_memWrite a y b h, if_neg (by simp only [List.length_cons] at hy; omega)]

/-! ## Bytes and numbers -/

theorem leBytes_length : ∀ (n v : Nat), (leBytes n v).length = n
  | 0, _ => rfl
  | n + 1, v => by simp [leBytes, leBytes_length n]
/-- n little-endian bytes of a value give it back modulo 2^(8n). -/
theorem leNat_leBytes : ∀ (n v : Nat), leNat (leBytes n v) = v % 2 ^ (8 * n)
  | 0, v => by simp [leBytes, leNat, Nat.mod_one]
  | n + 1, v => by
    rw [leBytes, leNat, leNat_leBytes n]
    have e : 2 ^ (8 * (n + 1)) = 256 * 2 ^ (8 * n) := by rw [Nat.mul_add, Nat.pow_add]; norm_num [Nat.mul_comm]
    rw [e, Nat.mod_mul]
    simp

end Sys2Proof.Machine
end

