-- ==== Sys2Proof/Laws/State.lean ====
section
/-! SUPPORT. The register file's laws: what a write reads back as, and that each update leaves every other field alone. -/
namespace Sys2Proof.Machine
open Sys2Proof

/-! ## A write reads back, and leaves the other registers -/

@[simp] theorem Hart.getX_zero (h : Hart) : h.getX 0 = 0 := rfl
theorem Hart.getX_setX (h : Hart) (r q : Reg) (y : Word) :
    (h.setX r y).getX q = if q = 0 then 0 else if q = r then y else h.getX q := by
  unfold Hart.setX Hart.getX
  by_cases hq : q = 0
  · simp [hq]
  · by_cases hr : r = 0
    · subst hr; simp only [hq, if_false, if_true]
    · simp only [hq, hr, if_false]
      rw [Vector.getElem_set]
      by_cases e : q = r
      · simp [e]
      · have : r.toNat ≠ q.toNat := fun h => e (BitVec.eq_of_toNat_eq h.symm)
        simp [e, this]
/-- x0 discards a write (05:R147). -/
@[simp] theorem Hart.setX_zero (h : Hart) (y : Word) : h.setX 0 y = h := rfl
/-- A write of an x register changes field x alone. -/
theorem Hart.setX_form (h : Hart) (r : Reg) (y : Word) : h.setX r y = { h with x := (h.setX r y).x } := by
  unfold Hart.setX; split <;> rfl

theorem Hart.getF_setF (h : Hart) (r q : Reg) (y : Word) :
    (h.setF r y).getF q = if q = r then y else h.getF q := by
  unfold Hart.setF Hart.getF
  simp only
  rw [Vector.getElem_set]
  by_cases e : q = r
  · simp [e]
  · have : r.toNat ≠ q.toNat := fun h => e (BitVec.eq_of_toNat_eq h.symm)
    simp [e, this]

theorem Hart.getV_setV (h : Hart) (r q : Reg) (y : VReg) :
    (h.setV r y).getV q = if q = r then y else h.getV q := by
  unfold Hart.setV Hart.getV
  simp only
  rw [Vector.getElem_set]
  by_cases e : q = r
  · simp [e]
  · have : r.toNat ≠ q.toNat := fun h => e (BitVec.eq_of_toNat_eq h.symm)
    simp [e, this]

theorem Hart.getSh_setSh (h : Hart) (r q : BitVec 1) (y : VReg) :
    (h.setSh r y).getSh q = if q = r then y else h.getSh q := by
  unfold Hart.setSh Hart.getSh
  simp only
  rw [Vector.getElem_set]
  by_cases e : q = r
  · simp [e]
  · have : r.toNat ≠ q.toNat := fun h => e (BitVec.eq_of_toNat_eq h.symm)
    simp [e, this]

theorem Hart.getSc_setSc (h : Hart) (r q : BitVec 2) (y : ScReg) :
    (h.setSc r y).getSc q = if q = r then y else h.getSc q := by
  unfold Hart.setSc Hart.getSc
  simp only
  rw [Vector.getElem_set]
  by_cases e : q = r
  · simp [e]
  · have : r.toNat ≠ q.toNat := fun h => e (BitVec.eq_of_toNat_eq h.symm)
    simp [e, this]

theorem Hart.getW_setW (h : Hart) (r q : BitVec 3) (y : TReg) :
    (h.setW r y).getW q = if q = r then y else h.getW q := by
  unfold Hart.setW Hart.getW
  simp only
  rw [Vector.getElem_set]
  by_cases e : q = r
  · simp [e]
  · have : r.toNat ≠ q.toNat := fun h => e (BitVec.eq_of_toNat_eq h.symm)
    simp [e, this]

theorem Hart.getTa_setTa (h : Hart) (r q : BitVec 1) (y : TReg) :
    (h.setTa r y).getTa q = if q = r then y else h.getTa q := by
  unfold Hart.setTa Hart.getTa
  simp only
  rw [Vector.getElem_set]
  by_cases e : q = r
  · simp [e]
  · have : r.toNat ≠ q.toNat := fun h => e (BitVec.eq_of_toNat_eq h.symm)
    simp [e, this]

theorem Hart.getK_setK (h : Hart) (r q : BitVec 3) (y : KReg) :
    (h.setK r y).getK q = if q = 0 then h.getK 0 else if q = r then y else h.getK q := by
  unfold Hart.setK Hart.getK
  by_cases hr : r = 0
  · subst hr
    by_cases hq : q = 0
    · simp only [hq, if_true]
    · simp only [hq, if_false, if_true]
  · by_cases hq : q = 0
    · simp only [hq, hr, if_true, if_false, Hart.vlen]
    · simp only [hq, hr, if_false]
      rw [Vector.getElem_set]
      by_cases e : q = r
      · simp [e]
      · have : r.toNat ≠ q.toNat := fun h => e (BitVec.eq_of_toNat_eq h.symm)
        simp [e, this]

/-! ## Each update leaves the other fields alone -/

@[simp] theorem Hart.setX_id (h : Hart) (r : Reg) (y : Word) : (h.setX r y).id = h.id := by unfold Hart.setX; split <;> rfl
@[simp] theorem Hart.setX_cls (h : Hart) (r : Reg) (y : Word) : (h.setX r y).cls = h.cls := by unfold Hart.setX; split <;> rfl
@[simp] theorem Hart.setX_core (h : Hart) (r : Reg) (y : Word) : (h.setX r y).core = h.core := by unfold Hart.setX; split <;> rfl
@[simp] theorem Hart.setX_slot (h : Hart) (r : Reg) (y : Word) : (h.setX r y).slot = h.slot := by unfold Hart.setX; split <;> rfl
@[simp] theorem Hart.setX_lg (h : Hart) (r : Reg) (y : Word) : (h.setX r y).lg = h.lg := by unfold Hart.setX; split <;> rfl
@[simp] theorem Hart.setX_f (h : Hart) (r : Reg) (y : Word) : (h.setX r y).f = h.f := by unfold Hart.setX; split <;> rfl
@[simp] theorem Hart.setX_pc (h : Hart) (r : Reg) (y : Word) : (h.setX r y).pc = h.pc := by unfold Hart.setX; split <;> rfl
@[simp] theorem Hart.setX_lv (h : Hart) (r : Reg) (y : Word) : (h.setX r y).lv = h.lv := by unfold Hart.setX; split <;> rfl
@[simp] theorem Hart.setX_ie (h : Hart) (r : Reg) (y : Word) : (h.setX r y).ie = h.ie := by unfold Hart.setX; split <;> rfl
@[simp] theorem Hart.setX_kb (h : Hart) (r : Reg) (y : Word) : (h.setX r y).kb = h.kb := by unfold Hart.setX; split <;> rfl
@[simp] theorem Hart.setX_mb (h : Hart) (r : Reg) (y : Word) : (h.setX r y).mb = h.mb := by unfold Hart.setX; split <;> rfl
@[simp] theorem Hart.setX_ktvec (h : Hart) (r : Reg) (y : Word) : (h.setX r y).ktvec = h.ktvec := by unfold Hart.setX; split <;> rfl
@[simp] theorem Hart.setX_mtvec (h : Hart) (r : Reg) (y : Word) : (h.setX r y).mtvec = h.mtvec := by unfold Hart.setX; split <;> rfl
@[simp] theorem Hart.setX_mkeep (h : Hart) (r : Reg) (y : Word) : (h.setX r y).mkeep = h.mkeep := by unfold Hart.setX; split <;> rfl
@[simp] theorem Hart.setX_vc (h : Hart) (r : Reg) (y : Word) : (h.setX r y).vc = h.vc := by unfold Hart.setX; split <;> rfl
@[simp] theorem Hart.setX_pcfg (h : Hart) (r : Reg) (y : Word) : (h.setX r y).pcfg = h.pcfg := by unfold Hart.setX; split <;> rfl
@[simp] theorem Hart.setX_ves (h : Hart) (r : Reg) (y : Word) : (h.setX r y).ves = h.ves := by unfold Hart.setX; split <;> rfl
@[simp] theorem Hart.setX_vcp (h : Hart) (r : Reg) (y : Word) : (h.setX r y).vcp = h.vcp := by unfold Hart.setX; split <;> rfl
@[simp] theorem Hart.setX_lix (h : Hart) (r : Reg) (y : Word) : (h.setX r y).lix = h.lix := by unfold Hart.setX; split <;> rfl
@[simp] theorem Hart.setX_xpos (h : Hart) (r : Reg) (y : Word) : (h.setX r y).xpos = h.xpos := by unfold Hart.setX; split <;> rfl
@[simp] theorem Hart.setX_vdirty (h : Hart) (r : Reg) (y : Word) : (h.setX r y).vdirty = h.vdirty := by unfold Hart.setX; split <;> rfl
@[simp] theorem Hart.setX_live (h : Hart) (r : Reg) (y : Word) : (h.setX r y).live = h.live := by unfold Hart.setX; split <;> rfl
@[simp] theorem Hart.setX_nres (h : Hart) (r : Reg) (y : Word) : (h.setX r y).nres = h.nres := by unfold Hart.setX; split <;> rfl
@[simp] theorem Hart.setX_fflags (h : Hart) (r : Reg) (y : Word) : (h.setX r y).fflags = h.fflags := by unfold Hart.setX; split <;> rfl
@[simp] theorem Hart.setX_ftz (h : Hart) (r : Reg) (y : Word) : (h.setX r y).ftz = h.ftz := by unfold Hart.setX; split <;> rfl
@[simp] theorem Hart.setX_fen (h : Hart) (r : Reg) (y : Word) : (h.setX r y).fen = h.fen := by unfold Hart.setX; split <;> rfl
@[simp] theorem Hart.setX_srseed (h : Hart) (r : Reg) (y : Word) : (h.setX r y).srseed = h.srseed := by unfold Hart.setX; split <;> rfl
@[simp] theorem Hart.setX_cycle (h : Hart) (r : Reg) (y : Word) : (h.setX r y).cycle = h.cycle := by unfold Hart.setX; split <;> rfl
@[simp] theorem Hart.setX_timecmp (h : Hart) (r : Reg) (y : Word) : (h.setX r y).timecmp = h.timecmp := by unfold Hart.setX; split <;> rfl
@[simp] theorem Hart.setX_waitmax (h : Hart) (r : Reg) (y : Word) : (h.setX r y).waitmax = h.waitmax := by unfold Hart.setX; split <;> rfl
@[simp] theorem Hart.setX_fill (h : Hart) (r : Reg) (y : Word) : (h.setX r y).fill = h.fill := by unfold Hart.setX; split <;> rfl
@[simp] theorem Hart.setX_stores (h : Hart) (r : Reg) (y : Word) : (h.setX r y).stores = h.stores := by unfold Hart.setX; split <;> rfl
@[simp] theorem Hart.setX_strip (h : Hart) (r : Reg) (y : Word) : (h.setX r y).strip = h.strip := by unfold Hart.setX; split <;> rfl
@[simp] theorem Hart.setX_thrPow (h : Hart) (r : Reg) (y : Word) : (h.setX r y).thrPow = h.thrPow := by unfold Hart.setX; split <;> rfl
@[simp] theorem Hart.setX_thrBal (h : Hart) (r : Reg) (y : Word) : (h.setX r y).thrBal = h.thrBal := by unfold Hart.setX; split <;> rfl
@[simp] theorem Hart.setX_balThrottle (h : Hart) (r : Reg) (y : Word) : (h.setX r y).balThrottle = h.balThrottle := by unfold Hart.setX; split <;> rfl
@[simp] theorem Hart.setX_migTrap (h : Hart) (r : Reg) (y : Word) : (h.setX r y).migTrap = h.migTrap := by unfold Hart.setX; split <;> rfl
@[simp] theorem Hart.setX_migMix (h : Hart) (r : Reg) (y : Word) : (h.setX r y).migMix = h.migMix := by unfold Hart.setX; split <;> rfl
@[simp] theorem Hart.setX_ctxb (h : Hart) (r : Reg) (y : Word) : (h.setX r y).ctxb = h.ctxb := by unfold Hart.setX; split <;> rfl
@[simp] theorem Hart.setX_qosShare (h : Hart) (r : Reg) (y : Word) : (h.setX r y).qosShare = h.qosShare := by unfold Hart.setX; split <;> rfl
@[simp] theorem Hart.setX_v (h : Hart) (r : Reg) (y : Word) : (h.setX r y).v = h.v := by unfold Hart.setX; split <;> rfl
@[simp] theorem Hart.setX_k (h : Hart) (r : Reg) (y : Word) : (h.setX r y).k = h.k := by unfold Hart.setX; split <;> rfl
@[simp] theorem Hart.setX_m (h : Hart) (r : Reg) (y : Word) : (h.setX r y).m = h.m := by unfold Hart.setX; split <;> rfl
@[simp] theorem Hart.setX_sh (h : Hart) (r : Reg) (y : Word) : (h.setX r y).sh = h.sh := by unfold Hart.setX; split <;> rfl
@[simp] theorem Hart.setX_sc (h : Hart) (r : Reg) (y : Word) : (h.setX r y).sc = h.sc := by unfold Hart.setX; split <;> rfl
@[simp] theorem Hart.setX_ct (h : Hart) (r : Reg) (y : Word) : (h.setX r y).ct = h.ct := by unfold Hart.setX; split <;> rfl
@[simp] theorem Hart.setX_perm (h : Hart) (r : Reg) (y : Word) : (h.setX r y).perm = h.perm := by unfold Hart.setX; split <;> rfl
@[simp] theorem Hart.setX_w (h : Hart) (r : Reg) (y : Word) : (h.setX r y).w = h.w := by unfold Hart.setX; split <;> rfl
@[simp] theorem Hart.setX_ta (h : Hart) (r : Reg) (y : Word) : (h.setX r y).ta = h.ta := by unfold Hart.setX; split <;> rfl
@[simp] theorem Hart.setX_vq (h : Hart) (r : Reg) (y : Word) : (h.setX r y).vq = h.vq := by unfold Hart.setX; split <;> rfl
@[simp] theorem Hart.setX_stopped (h : Hart) (r : Reg) (y : Word) : (h.setX r y).stopped = h.stopped := by unfold Hart.setX; split <;> rfl
@[simp] theorem Hart.setX_tagCtr (h : Hart) (r : Reg) (y : Word) : (h.setX r y).tagCtr = h.tagCtr := by unfold Hart.setX; split <;> rfl
@[simp] theorem Hart.setX_copies (h : Hart) (r : Reg) (y : Word) : (h.setX r y).copies = h.copies := by unfold Hart.setX; split <;> rfl
@[simp] theorem Hart.setX_expected (h : Hart) (r : Reg) (y : Word) : (h.setX r y).expected = h.expected := by unfold Hart.setX; split <;> rfl
@[simp] theorem Hart.setX_pendClr (h : Hart) (r : Reg) (y : Word) : (h.setX r y).pendClr = h.pendClr := by unfold Hart.setX; split <;> rfl
@[simp] theorem Hart.setX_pendSet (h : Hart) (r : Reg) (y : Word) : (h.setX r y).pendSet = h.pendSet := by unfold Hart.setX; split <;> rfl
@[simp] theorem Hart.setX_bindings (h : Hart) (r : Reg) (y : Word) : (h.setX r y).bindings = h.bindings := by unfold Hart.setX; split <;> rfl
@[simp] theorem Hart.setX_remote (h : Hart) (r : Reg) (y : Word) : (h.setX r y).remote = h.remote := by unfold Hart.setX; split <;> rfl
@[simp] theorem Hart.setX_reports (h : Hart) (r : Reg) (y : Word) : (h.setX r y).reports = h.reports := by unfold Hart.setX; split <;> rfl
@[simp] theorem Hart.setX_namoPend (h : Hart) (r : Reg) (y : Word) : (h.setX r y).namoPend = h.namoPend := by unfold Hart.setX; split <;> rfl
@[simp] theorem Hart.setX_tmma (h : Hart) (r : Reg) (y : Word) : (h.setX r y).tmma = h.tmma := by unfold Hart.setX; split <;> rfl
@[simp] theorem Hart.setX_incoming (h : Hart) (r : Reg) (y : Word) : (h.setX r y).incoming = h.incoming := by unfold Hart.setX; split <;> rfl
@[simp] theorem Hart.setX_planFault (h : Hart) (r : Reg) (y : Word) : (h.setX r y).planFault = h.planFault := by unfold Hart.setX; split <;> rfl
@[simp] theorem Hart.setX_stepDone (h : Hart) (r : Reg) (y : Word) : (h.setX r y).stepDone = h.stepDone := by unfold Hart.setX; split <;> rfl
@[simp] theorem Hart.setX_gbarDone (h : Hart) (r : Reg) (y : Word) : (h.setX r y).gbarDone = h.gbarDone := by unfold Hart.setX; split <;> rfl
@[simp] theorem Hart.setX_gbarHere (h : Hart) (r : Reg) (y : Word) : (h.setX r y).gbarHere = h.gbarHere := by unfold Hart.setX; split <;> rfl
@[simp] theorem Hart.setX_waitOn (h : Hart) (r : Reg) (y : Word) : (h.setX r y).waitOn = h.waitOn := by unfold Hart.setX; split <;> rfl
@[simp] theorem Hart.setX_waitS (h : Hart) (r : Reg) (y : Word) : (h.setX r y).waitS = h.waitS := by unfold Hart.setX; split <;> rfl
@[simp] theorem Hart.setX_waitV (h : Hart) (r : Reg) (y : Word) : (h.setX r y).waitV = h.waitV := by unfold Hart.setX; split <;> rfl
@[simp] theorem Hart.setX_ended (h : Hart) (r : Reg) (y : Word) : (h.setX r y).ended = h.ended := by unfold Hart.setX; split <;> rfl
@[simp] theorem Hart.setX_yielded (h : Hart) (r : Reg) (y : Word) : (h.setX r y).yielded = h.yielded := by unfold Hart.setX; split <;> rfl
@[simp] theorem Hart.setX_halted (h : Hart) (r : Reg) (y : Word) : (h.setX r y).halted = h.halted := by unfold Hart.setX; split <;> rfl
@[simp] theorem Hart.setX_stepping (h : Hart) (r : Reg) (y : Word) : (h.setX r y).stepping = h.stepping := by unfold Hart.setX; split <;> rfl
@[simp] theorem Hart.setX_rest (h : Hart) (r : Reg) (y : Word) : (h.setX r y).rest = h.rest := by unfold Hart.setX; split <;> rfl
@[simp] theorem Hart.setX_desc (h : Hart) (r : Reg) (y : Word) : (h.setX r y).desc = h.desc := by unfold Hart.setX; split <;> rfl
@[simp] theorem Hart.setX_seen (h : Hart) (r : Reg) (y : Word) : (h.setX r y).seen = h.seen := by unfold Hart.setX; split <;> rfl
@[simp] theorem Hart.setX_resident (h : Hart) (r : Reg) (y : Word) : (h.setX r y).resident = h.resident := by unfold Hart.setX; split <;> rfl
@[simp] theorem Hart.setX_flying (h : Hart) (r : Reg) (y : Word) : (h.setX r y).flying = h.flying := by unfold Hart.setX; split <;> rfl
@[simp] theorem Hart.setX_goal (h : Hart) (r : Reg) (y : Word) : (h.setX r y).goal = h.goal := by unfold Hart.setX; split <;> rfl
@[simp] theorem Hart.setX_peelErr (h : Hart) (r : Reg) (y : Word) : (h.setX r y).peelErr = h.peelErr := by unfold Hart.setX; split <;> rfl
@[simp] theorem Hart.setX_badRegs (h : Hart) (r : Reg) (y : Word) : (h.setX r y).badRegs = h.badRegs := by unfold Hart.setX; split <;> rfl
@[simp] theorem Hart.setX_dead (h : Hart) (r : Reg) (y : Word) : (h.setX r y).dead = h.dead := by unfold Hart.setX; split <;> rfl
@[simp] theorem Hart.setX_preempt (h : Hart) (r : Reg) (y : Word) : (h.setX r y).preempt = h.preempt := by unfold Hart.setX; split <;> rfl
@[simp] theorem Hart.setX_extint (h : Hart) (r : Reg) (y : Word) : (h.setX r y).extint = h.extint := by unfold Hart.setX; split <;> rfl
@[simp] theorem Hart.setX_mcheck (h : Hart) (r : Reg) (y : Word) : (h.setX r y).mcheck = h.mcheck := by unfold Hart.setX; split <;> rfl
@[simp] theorem Hart.setX_convoyLeft (h : Hart) (r : Reg) (y : Word) : (h.setX r y).convoyLeft = h.convoyLeft := by unfold Hart.setX; split <;> rfl
@[simp] theorem Hart.setX_mixCount (h : Hart) (r : Reg) (y : Word) : (h.setX r y).mixCount = h.mixCount := by unfold Hart.setX; split <;> rfl
@[simp] theorem Hart.setX_mixHits (h : Hart) (r : Reg) (y : Word) : (h.setX r y).mixHits = h.mixHits := by unfold Hart.setX; split <;> rfl
@[simp] theorem Hart.setX_mixMoves (h : Hart) (r : Reg) (y : Word) : (h.setX r y).mixMoves = h.mixMoves := by unfold Hart.setX; split <;> rfl
@[simp] theorem Hart.setX_mixRun (h : Hart) (r : Reg) (y : Word) : (h.setX r y).mixRun = h.mixRun := by unfold Hart.setX; split <;> rfl
@[simp] theorem Hart.setX_mixHold (h : Hart) (r : Reg) (y : Word) : (h.setX r y).mixHold = h.mixHold := by unfold Hart.setX; split <;> rfl
@[simp] theorem Hart.setX_blind (h : Hart) (r : Reg) (y : Word) : (h.setX r y).blind = h.blind := by unfold Hart.setX; split <;> rfl
@[simp] theorem Hart.setX_blindSteps (h : Hart) (r : Reg) (y : Word) : (h.setX r y).blindSteps = h.blindSteps := by unfold Hart.setX; split <;> rfl

@[simp] theorem Hart.setF_id (h : Hart) (r : Reg) (y : Word) : (h.setF r y).id = h.id := rfl
@[simp] theorem Hart.setF_cls (h : Hart) (r : Reg) (y : Word) : (h.setF r y).cls = h.cls := rfl
@[simp] theorem Hart.setF_core (h : Hart) (r : Reg) (y : Word) : (h.setF r y).core = h.core := rfl
@[simp] theorem Hart.setF_slot (h : Hart) (r : Reg) (y : Word) : (h.setF r y).slot = h.slot := rfl
@[simp] theorem Hart.setF_lg (h : Hart) (r : Reg) (y : Word) : (h.setF r y).lg = h.lg := rfl
@[simp] theorem Hart.setF_x (h : Hart) (r : Reg) (y : Word) : (h.setF r y).x = h.x := rfl
@[simp] theorem Hart.setF_pc (h : Hart) (r : Reg) (y : Word) : (h.setF r y).pc = h.pc := rfl
@[simp] theorem Hart.setF_lv (h : Hart) (r : Reg) (y : Word) : (h.setF r y).lv = h.lv := rfl
@[simp] theorem Hart.setF_ie (h : Hart) (r : Reg) (y : Word) : (h.setF r y).ie = h.ie := rfl
@[simp] theorem Hart.setF_kb (h : Hart) (r : Reg) (y : Word) : (h.setF r y).kb = h.kb := rfl
@[simp] theorem Hart.setF_mb (h : Hart) (r : Reg) (y : Word) : (h.setF r y).mb = h.mb := rfl
@[simp] theorem Hart.setF_ktvec (h : Hart) (r : Reg) (y : Word) : (h.setF r y).ktvec = h.ktvec := rfl
@[simp] theorem Hart.setF_mtvec (h : Hart) (r : Reg) (y : Word) : (h.setF r y).mtvec = h.mtvec := rfl
@[simp] theorem Hart.setF_mkeep (h : Hart) (r : Reg) (y : Word) : (h.setF r y).mkeep = h.mkeep := rfl
@[simp] theorem Hart.setF_vc (h : Hart) (r : Reg) (y : Word) : (h.setF r y).vc = h.vc := rfl
@[simp] theorem Hart.setF_pcfg (h : Hart) (r : Reg) (y : Word) : (h.setF r y).pcfg = h.pcfg := rfl
@[simp] theorem Hart.setF_ves (h : Hart) (r : Reg) (y : Word) : (h.setF r y).ves = h.ves := rfl
@[simp] theorem Hart.setF_vcp (h : Hart) (r : Reg) (y : Word) : (h.setF r y).vcp = h.vcp := rfl
@[simp] theorem Hart.setF_lix (h : Hart) (r : Reg) (y : Word) : (h.setF r y).lix = h.lix := rfl
@[simp] theorem Hart.setF_xpos (h : Hart) (r : Reg) (y : Word) : (h.setF r y).xpos = h.xpos := rfl
@[simp] theorem Hart.setF_vdirty (h : Hart) (r : Reg) (y : Word) : (h.setF r y).vdirty = h.vdirty := rfl
@[simp] theorem Hart.setF_live (h : Hart) (r : Reg) (y : Word) : (h.setF r y).live = h.live := rfl
@[simp] theorem Hart.setF_nres (h : Hart) (r : Reg) (y : Word) : (h.setF r y).nres = h.nres := rfl
@[simp] theorem Hart.setF_fflags (h : Hart) (r : Reg) (y : Word) : (h.setF r y).fflags = h.fflags := rfl
@[simp] theorem Hart.setF_ftz (h : Hart) (r : Reg) (y : Word) : (h.setF r y).ftz = h.ftz := rfl
@[simp] theorem Hart.setF_fen (h : Hart) (r : Reg) (y : Word) : (h.setF r y).fen = h.fen := rfl
@[simp] theorem Hart.setF_srseed (h : Hart) (r : Reg) (y : Word) : (h.setF r y).srseed = h.srseed := rfl
@[simp] theorem Hart.setF_cycle (h : Hart) (r : Reg) (y : Word) : (h.setF r y).cycle = h.cycle := rfl
@[simp] theorem Hart.setF_timecmp (h : Hart) (r : Reg) (y : Word) : (h.setF r y).timecmp = h.timecmp := rfl
@[simp] theorem Hart.setF_waitmax (h : Hart) (r : Reg) (y : Word) : (h.setF r y).waitmax = h.waitmax := rfl
@[simp] theorem Hart.setF_fill (h : Hart) (r : Reg) (y : Word) : (h.setF r y).fill = h.fill := rfl
@[simp] theorem Hart.setF_stores (h : Hart) (r : Reg) (y : Word) : (h.setF r y).stores = h.stores := rfl
@[simp] theorem Hart.setF_strip (h : Hart) (r : Reg) (y : Word) : (h.setF r y).strip = h.strip := rfl
@[simp] theorem Hart.setF_thrPow (h : Hart) (r : Reg) (y : Word) : (h.setF r y).thrPow = h.thrPow := rfl
@[simp] theorem Hart.setF_thrBal (h : Hart) (r : Reg) (y : Word) : (h.setF r y).thrBal = h.thrBal := rfl
@[simp] theorem Hart.setF_balThrottle (h : Hart) (r : Reg) (y : Word) : (h.setF r y).balThrottle = h.balThrottle := rfl
@[simp] theorem Hart.setF_migTrap (h : Hart) (r : Reg) (y : Word) : (h.setF r y).migTrap = h.migTrap := rfl
@[simp] theorem Hart.setF_migMix (h : Hart) (r : Reg) (y : Word) : (h.setF r y).migMix = h.migMix := rfl
@[simp] theorem Hart.setF_ctxb (h : Hart) (r : Reg) (y : Word) : (h.setF r y).ctxb = h.ctxb := rfl
@[simp] theorem Hart.setF_qosShare (h : Hart) (r : Reg) (y : Word) : (h.setF r y).qosShare = h.qosShare := rfl
@[simp] theorem Hart.setF_v (h : Hart) (r : Reg) (y : Word) : (h.setF r y).v = h.v := rfl
@[simp] theorem Hart.setF_k (h : Hart) (r : Reg) (y : Word) : (h.setF r y).k = h.k := rfl
@[simp] theorem Hart.setF_m (h : Hart) (r : Reg) (y : Word) : (h.setF r y).m = h.m := rfl
@[simp] theorem Hart.setF_sh (h : Hart) (r : Reg) (y : Word) : (h.setF r y).sh = h.sh := rfl
@[simp] theorem Hart.setF_sc (h : Hart) (r : Reg) (y : Word) : (h.setF r y).sc = h.sc := rfl
@[simp] theorem Hart.setF_ct (h : Hart) (r : Reg) (y : Word) : (h.setF r y).ct = h.ct := rfl
@[simp] theorem Hart.setF_perm (h : Hart) (r : Reg) (y : Word) : (h.setF r y).perm = h.perm := rfl
@[simp] theorem Hart.setF_w (h : Hart) (r : Reg) (y : Word) : (h.setF r y).w = h.w := rfl
@[simp] theorem Hart.setF_ta (h : Hart) (r : Reg) (y : Word) : (h.setF r y).ta = h.ta := rfl
@[simp] theorem Hart.setF_vq (h : Hart) (r : Reg) (y : Word) : (h.setF r y).vq = h.vq := rfl
@[simp] theorem Hart.setF_stopped (h : Hart) (r : Reg) (y : Word) : (h.setF r y).stopped = h.stopped := rfl
@[simp] theorem Hart.setF_tagCtr (h : Hart) (r : Reg) (y : Word) : (h.setF r y).tagCtr = h.tagCtr := rfl
@[simp] theorem Hart.setF_copies (h : Hart) (r : Reg) (y : Word) : (h.setF r y).copies = h.copies := rfl
@[simp] theorem Hart.setF_expected (h : Hart) (r : Reg) (y : Word) : (h.setF r y).expected = h.expected := rfl
@[simp] theorem Hart.setF_pendClr (h : Hart) (r : Reg) (y : Word) : (h.setF r y).pendClr = h.pendClr := rfl
@[simp] theorem Hart.setF_pendSet (h : Hart) (r : Reg) (y : Word) : (h.setF r y).pendSet = h.pendSet := rfl
@[simp] theorem Hart.setF_bindings (h : Hart) (r : Reg) (y : Word) : (h.setF r y).bindings = h.bindings := rfl
@[simp] theorem Hart.setF_remote (h : Hart) (r : Reg) (y : Word) : (h.setF r y).remote = h.remote := rfl
@[simp] theorem Hart.setF_reports (h : Hart) (r : Reg) (y : Word) : (h.setF r y).reports = h.reports := rfl
@[simp] theorem Hart.setF_namoPend (h : Hart) (r : Reg) (y : Word) : (h.setF r y).namoPend = h.namoPend := rfl
@[simp] theorem Hart.setF_tmma (h : Hart) (r : Reg) (y : Word) : (h.setF r y).tmma = h.tmma := rfl
@[simp] theorem Hart.setF_incoming (h : Hart) (r : Reg) (y : Word) : (h.setF r y).incoming = h.incoming := rfl
@[simp] theorem Hart.setF_planFault (h : Hart) (r : Reg) (y : Word) : (h.setF r y).planFault = h.planFault := rfl
@[simp] theorem Hart.setF_stepDone (h : Hart) (r : Reg) (y : Word) : (h.setF r y).stepDone = h.stepDone := rfl
@[simp] theorem Hart.setF_gbarDone (h : Hart) (r : Reg) (y : Word) : (h.setF r y).gbarDone = h.gbarDone := rfl
@[simp] theorem Hart.setF_gbarHere (h : Hart) (r : Reg) (y : Word) : (h.setF r y).gbarHere = h.gbarHere := rfl
@[simp] theorem Hart.setF_waitOn (h : Hart) (r : Reg) (y : Word) : (h.setF r y).waitOn = h.waitOn := rfl
@[simp] theorem Hart.setF_waitS (h : Hart) (r : Reg) (y : Word) : (h.setF r y).waitS = h.waitS := rfl
@[simp] theorem Hart.setF_waitV (h : Hart) (r : Reg) (y : Word) : (h.setF r y).waitV = h.waitV := rfl
@[simp] theorem Hart.setF_ended (h : Hart) (r : Reg) (y : Word) : (h.setF r y).ended = h.ended := rfl
@[simp] theorem Hart.setF_yielded (h : Hart) (r : Reg) (y : Word) : (h.setF r y).yielded = h.yielded := rfl
@[simp] theorem Hart.setF_halted (h : Hart) (r : Reg) (y : Word) : (h.setF r y).halted = h.halted := rfl
@[simp] theorem Hart.setF_stepping (h : Hart) (r : Reg) (y : Word) : (h.setF r y).stepping = h.stepping := rfl
@[simp] theorem Hart.setF_rest (h : Hart) (r : Reg) (y : Word) : (h.setF r y).rest = h.rest := rfl
@[simp] theorem Hart.setF_desc (h : Hart) (r : Reg) (y : Word) : (h.setF r y).desc = h.desc := rfl
@[simp] theorem Hart.setF_seen (h : Hart) (r : Reg) (y : Word) : (h.setF r y).seen = h.seen := rfl
@[simp] theorem Hart.setF_resident (h : Hart) (r : Reg) (y : Word) : (h.setF r y).resident = h.resident := rfl
@[simp] theorem Hart.setF_flying (h : Hart) (r : Reg) (y : Word) : (h.setF r y).flying = h.flying := rfl
@[simp] theorem Hart.setF_goal (h : Hart) (r : Reg) (y : Word) : (h.setF r y).goal = h.goal := rfl
@[simp] theorem Hart.setF_peelErr (h : Hart) (r : Reg) (y : Word) : (h.setF r y).peelErr = h.peelErr := rfl
@[simp] theorem Hart.setF_badRegs (h : Hart) (r : Reg) (y : Word) : (h.setF r y).badRegs = h.badRegs := rfl
@[simp] theorem Hart.setF_dead (h : Hart) (r : Reg) (y : Word) : (h.setF r y).dead = h.dead := rfl
@[simp] theorem Hart.setF_preempt (h : Hart) (r : Reg) (y : Word) : (h.setF r y).preempt = h.preempt := rfl
@[simp] theorem Hart.setF_extint (h : Hart) (r : Reg) (y : Word) : (h.setF r y).extint = h.extint := rfl
@[simp] theorem Hart.setF_mcheck (h : Hart) (r : Reg) (y : Word) : (h.setF r y).mcheck = h.mcheck := rfl
@[simp] theorem Hart.setF_convoyLeft (h : Hart) (r : Reg) (y : Word) : (h.setF r y).convoyLeft = h.convoyLeft := rfl
@[simp] theorem Hart.setF_mixCount (h : Hart) (r : Reg) (y : Word) : (h.setF r y).mixCount = h.mixCount := rfl
@[simp] theorem Hart.setF_mixHits (h : Hart) (r : Reg) (y : Word) : (h.setF r y).mixHits = h.mixHits := rfl
@[simp] theorem Hart.setF_mixMoves (h : Hart) (r : Reg) (y : Word) : (h.setF r y).mixMoves = h.mixMoves := rfl
@[simp] theorem Hart.setF_mixRun (h : Hart) (r : Reg) (y : Word) : (h.setF r y).mixRun = h.mixRun := rfl
@[simp] theorem Hart.setF_mixHold (h : Hart) (r : Reg) (y : Word) : (h.setF r y).mixHold = h.mixHold := rfl
@[simp] theorem Hart.setF_blind (h : Hart) (r : Reg) (y : Word) : (h.setF r y).blind = h.blind := rfl
@[simp] theorem Hart.setF_blindSteps (h : Hart) (r : Reg) (y : Word) : (h.setF r y).blindSteps = h.blindSteps := rfl

@[simp] theorem Hart.setV_id (h : Hart) (r : Reg) (y : VReg) : (h.setV r y).id = h.id := rfl
@[simp] theorem Hart.setV_cls (h : Hart) (r : Reg) (y : VReg) : (h.setV r y).cls = h.cls := rfl
@[simp] theorem Hart.setV_core (h : Hart) (r : Reg) (y : VReg) : (h.setV r y).core = h.core := rfl
@[simp] theorem Hart.setV_slot (h : Hart) (r : Reg) (y : VReg) : (h.setV r y).slot = h.slot := rfl
@[simp] theorem Hart.setV_lg (h : Hart) (r : Reg) (y : VReg) : (h.setV r y).lg = h.lg := rfl
@[simp] theorem Hart.setV_x (h : Hart) (r : Reg) (y : VReg) : (h.setV r y).x = h.x := rfl
@[simp] theorem Hart.setV_f (h : Hart) (r : Reg) (y : VReg) : (h.setV r y).f = h.f := rfl
@[simp] theorem Hart.setV_pc (h : Hart) (r : Reg) (y : VReg) : (h.setV r y).pc = h.pc := rfl
@[simp] theorem Hart.setV_lv (h : Hart) (r : Reg) (y : VReg) : (h.setV r y).lv = h.lv := rfl
@[simp] theorem Hart.setV_ie (h : Hart) (r : Reg) (y : VReg) : (h.setV r y).ie = h.ie := rfl
@[simp] theorem Hart.setV_kb (h : Hart) (r : Reg) (y : VReg) : (h.setV r y).kb = h.kb := rfl
@[simp] theorem Hart.setV_mb (h : Hart) (r : Reg) (y : VReg) : (h.setV r y).mb = h.mb := rfl
@[simp] theorem Hart.setV_ktvec (h : Hart) (r : Reg) (y : VReg) : (h.setV r y).ktvec = h.ktvec := rfl
@[simp] theorem Hart.setV_mtvec (h : Hart) (r : Reg) (y : VReg) : (h.setV r y).mtvec = h.mtvec := rfl
@[simp] theorem Hart.setV_mkeep (h : Hart) (r : Reg) (y : VReg) : (h.setV r y).mkeep = h.mkeep := rfl
@[simp] theorem Hart.setV_vc (h : Hart) (r : Reg) (y : VReg) : (h.setV r y).vc = h.vc := rfl
@[simp] theorem Hart.setV_pcfg (h : Hart) (r : Reg) (y : VReg) : (h.setV r y).pcfg = h.pcfg := rfl
@[simp] theorem Hart.setV_ves (h : Hart) (r : Reg) (y : VReg) : (h.setV r y).ves = h.ves := rfl
@[simp] theorem Hart.setV_vcp (h : Hart) (r : Reg) (y : VReg) : (h.setV r y).vcp = h.vcp := rfl
@[simp] theorem Hart.setV_lix (h : Hart) (r : Reg) (y : VReg) : (h.setV r y).lix = h.lix := rfl
@[simp] theorem Hart.setV_xpos (h : Hart) (r : Reg) (y : VReg) : (h.setV r y).xpos = h.xpos := rfl
@[simp] theorem Hart.setV_vdirty (h : Hart) (r : Reg) (y : VReg) : (h.setV r y).vdirty = h.vdirty := rfl
@[simp] theorem Hart.setV_live (h : Hart) (r : Reg) (y : VReg) : (h.setV r y).live = h.live := rfl
@[simp] theorem Hart.setV_nres (h : Hart) (r : Reg) (y : VReg) : (h.setV r y).nres = h.nres := rfl
@[simp] theorem Hart.setV_fflags (h : Hart) (r : Reg) (y : VReg) : (h.setV r y).fflags = h.fflags := rfl
@[simp] theorem Hart.setV_ftz (h : Hart) (r : Reg) (y : VReg) : (h.setV r y).ftz = h.ftz := rfl
@[simp] theorem Hart.setV_fen (h : Hart) (r : Reg) (y : VReg) : (h.setV r y).fen = h.fen := rfl
@[simp] theorem Hart.setV_srseed (h : Hart) (r : Reg) (y : VReg) : (h.setV r y).srseed = h.srseed := rfl
@[simp] theorem Hart.setV_cycle (h : Hart) (r : Reg) (y : VReg) : (h.setV r y).cycle = h.cycle := rfl
@[simp] theorem Hart.setV_timecmp (h : Hart) (r : Reg) (y : VReg) : (h.setV r y).timecmp = h.timecmp := rfl
@[simp] theorem Hart.setV_waitmax (h : Hart) (r : Reg) (y : VReg) : (h.setV r y).waitmax = h.waitmax := rfl
@[simp] theorem Hart.setV_fill (h : Hart) (r : Reg) (y : VReg) : (h.setV r y).fill = h.fill := rfl
@[simp] theorem Hart.setV_stores (h : Hart) (r : Reg) (y : VReg) : (h.setV r y).stores = h.stores := rfl
@[simp] theorem Hart.setV_strip (h : Hart) (r : Reg) (y : VReg) : (h.setV r y).strip = h.strip := rfl
@[simp] theorem Hart.setV_thrPow (h : Hart) (r : Reg) (y : VReg) : (h.setV r y).thrPow = h.thrPow := rfl
@[simp] theorem Hart.setV_thrBal (h : Hart) (r : Reg) (y : VReg) : (h.setV r y).thrBal = h.thrBal := rfl
@[simp] theorem Hart.setV_balThrottle (h : Hart) (r : Reg) (y : VReg) : (h.setV r y).balThrottle = h.balThrottle := rfl
@[simp] theorem Hart.setV_migTrap (h : Hart) (r : Reg) (y : VReg) : (h.setV r y).migTrap = h.migTrap := rfl
@[simp] theorem Hart.setV_migMix (h : Hart) (r : Reg) (y : VReg) : (h.setV r y).migMix = h.migMix := rfl
@[simp] theorem Hart.setV_ctxb (h : Hart) (r : Reg) (y : VReg) : (h.setV r y).ctxb = h.ctxb := rfl
@[simp] theorem Hart.setV_qosShare (h : Hart) (r : Reg) (y : VReg) : (h.setV r y).qosShare = h.qosShare := rfl
@[simp] theorem Hart.setV_k (h : Hart) (r : Reg) (y : VReg) : (h.setV r y).k = h.k := rfl
@[simp] theorem Hart.setV_m (h : Hart) (r : Reg) (y : VReg) : (h.setV r y).m = h.m := rfl
@[simp] theorem Hart.setV_sh (h : Hart) (r : Reg) (y : VReg) : (h.setV r y).sh = h.sh := rfl
@[simp] theorem Hart.setV_sc (h : Hart) (r : Reg) (y : VReg) : (h.setV r y).sc = h.sc := rfl
@[simp] theorem Hart.setV_ct (h : Hart) (r : Reg) (y : VReg) : (h.setV r y).ct = h.ct := rfl
@[simp] theorem Hart.setV_perm (h : Hart) (r : Reg) (y : VReg) : (h.setV r y).perm = h.perm := rfl
@[simp] theorem Hart.setV_w (h : Hart) (r : Reg) (y : VReg) : (h.setV r y).w = h.w := rfl
@[simp] theorem Hart.setV_ta (h : Hart) (r : Reg) (y : VReg) : (h.setV r y).ta = h.ta := rfl
@[simp] theorem Hart.setV_vq (h : Hart) (r : Reg) (y : VReg) : (h.setV r y).vq = h.vq := rfl
@[simp] theorem Hart.setV_stopped (h : Hart) (r : Reg) (y : VReg) : (h.setV r y).stopped = h.stopped := rfl
@[simp] theorem Hart.setV_tagCtr (h : Hart) (r : Reg) (y : VReg) : (h.setV r y).tagCtr = h.tagCtr := rfl
@[simp] theorem Hart.setV_copies (h : Hart) (r : Reg) (y : VReg) : (h.setV r y).copies = h.copies := rfl
@[simp] theorem Hart.setV_expected (h : Hart) (r : Reg) (y : VReg) : (h.setV r y).expected = h.expected := rfl
@[simp] theorem Hart.setV_pendClr (h : Hart) (r : Reg) (y : VReg) : (h.setV r y).pendClr = h.pendClr := rfl
@[simp] theorem Hart.setV_pendSet (h : Hart) (r : Reg) (y : VReg) : (h.setV r y).pendSet = h.pendSet := rfl
@[simp] theorem Hart.setV_bindings (h : Hart) (r : Reg) (y : VReg) : (h.setV r y).bindings = h.bindings := rfl
@[simp] theorem Hart.setV_remote (h : Hart) (r : Reg) (y : VReg) : (h.setV r y).remote = h.remote := rfl
@[simp] theorem Hart.setV_reports (h : Hart) (r : Reg) (y : VReg) : (h.setV r y).reports = h.reports := rfl
@[simp] theorem Hart.setV_namoPend (h : Hart) (r : Reg) (y : VReg) : (h.setV r y).namoPend = h.namoPend := rfl
@[simp] theorem Hart.setV_tmma (h : Hart) (r : Reg) (y : VReg) : (h.setV r y).tmma = h.tmma := rfl
@[simp] theorem Hart.setV_incoming (h : Hart) (r : Reg) (y : VReg) : (h.setV r y).incoming = h.incoming := rfl
@[simp] theorem Hart.setV_planFault (h : Hart) (r : Reg) (y : VReg) : (h.setV r y).planFault = h.planFault := rfl
@[simp] theorem Hart.setV_stepDone (h : Hart) (r : Reg) (y : VReg) : (h.setV r y).stepDone = h.stepDone := rfl
@[simp] theorem Hart.setV_gbarDone (h : Hart) (r : Reg) (y : VReg) : (h.setV r y).gbarDone = h.gbarDone := rfl
@[simp] theorem Hart.setV_gbarHere (h : Hart) (r : Reg) (y : VReg) : (h.setV r y).gbarHere = h.gbarHere := rfl
@[simp] theorem Hart.setV_waitOn (h : Hart) (r : Reg) (y : VReg) : (h.setV r y).waitOn = h.waitOn := rfl
@[simp] theorem Hart.setV_waitS (h : Hart) (r : Reg) (y : VReg) : (h.setV r y).waitS = h.waitS := rfl
@[simp] theorem Hart.setV_waitV (h : Hart) (r : Reg) (y : VReg) : (h.setV r y).waitV = h.waitV := rfl
@[simp] theorem Hart.setV_ended (h : Hart) (r : Reg) (y : VReg) : (h.setV r y).ended = h.ended := rfl
@[simp] theorem Hart.setV_yielded (h : Hart) (r : Reg) (y : VReg) : (h.setV r y).yielded = h.yielded := rfl
@[simp] theorem Hart.setV_halted (h : Hart) (r : Reg) (y : VReg) : (h.setV r y).halted = h.halted := rfl
@[simp] theorem Hart.setV_stepping (h : Hart) (r : Reg) (y : VReg) : (h.setV r y).stepping = h.stepping := rfl
@[simp] theorem Hart.setV_rest (h : Hart) (r : Reg) (y : VReg) : (h.setV r y).rest = h.rest := rfl
@[simp] theorem Hart.setV_desc (h : Hart) (r : Reg) (y : VReg) : (h.setV r y).desc = h.desc := rfl
@[simp] theorem Hart.setV_seen (h : Hart) (r : Reg) (y : VReg) : (h.setV r y).seen = h.seen := rfl
@[simp] theorem Hart.setV_resident (h : Hart) (r : Reg) (y : VReg) : (h.setV r y).resident = h.resident := rfl
@[simp] theorem Hart.setV_flying (h : Hart) (r : Reg) (y : VReg) : (h.setV r y).flying = h.flying := rfl
@[simp] theorem Hart.setV_goal (h : Hart) (r : Reg) (y : VReg) : (h.setV r y).goal = h.goal := rfl
@[simp] theorem Hart.setV_peelErr (h : Hart) (r : Reg) (y : VReg) : (h.setV r y).peelErr = h.peelErr := rfl
@[simp] theorem Hart.setV_badRegs (h : Hart) (r : Reg) (y : VReg) : (h.setV r y).badRegs = h.badRegs := rfl
@[simp] theorem Hart.setV_dead (h : Hart) (r : Reg) (y : VReg) : (h.setV r y).dead = h.dead := rfl
@[simp] theorem Hart.setV_preempt (h : Hart) (r : Reg) (y : VReg) : (h.setV r y).preempt = h.preempt := rfl
@[simp] theorem Hart.setV_extint (h : Hart) (r : Reg) (y : VReg) : (h.setV r y).extint = h.extint := rfl
@[simp] theorem Hart.setV_mcheck (h : Hart) (r : Reg) (y : VReg) : (h.setV r y).mcheck = h.mcheck := rfl
@[simp] theorem Hart.setV_convoyLeft (h : Hart) (r : Reg) (y : VReg) : (h.setV r y).convoyLeft = h.convoyLeft := rfl
@[simp] theorem Hart.setV_mixCount (h : Hart) (r : Reg) (y : VReg) : (h.setV r y).mixCount = h.mixCount := rfl
@[simp] theorem Hart.setV_mixHits (h : Hart) (r : Reg) (y : VReg) : (h.setV r y).mixHits = h.mixHits := rfl
@[simp] theorem Hart.setV_mixMoves (h : Hart) (r : Reg) (y : VReg) : (h.setV r y).mixMoves = h.mixMoves := rfl
@[simp] theorem Hart.setV_mixRun (h : Hart) (r : Reg) (y : VReg) : (h.setV r y).mixRun = h.mixRun := rfl
@[simp] theorem Hart.setV_mixHold (h : Hart) (r : Reg) (y : VReg) : (h.setV r y).mixHold = h.mixHold := rfl
@[simp] theorem Hart.setV_blind (h : Hart) (r : Reg) (y : VReg) : (h.setV r y).blind = h.blind := rfl
@[simp] theorem Hart.setV_blindSteps (h : Hart) (r : Reg) (y : VReg) : (h.setV r y).blindSteps = h.blindSteps := rfl

@[simp] theorem Hart.setK_id (h : Hart) (r : BitVec 3) (y : KReg) : (h.setK r y).id = h.id := by unfold Hart.setK; split <;> rfl
@[simp] theorem Hart.setK_cls (h : Hart) (r : BitVec 3) (y : KReg) : (h.setK r y).cls = h.cls := by unfold Hart.setK; split <;> rfl
@[simp] theorem Hart.setK_core (h : Hart) (r : BitVec 3) (y : KReg) : (h.setK r y).core = h.core := by unfold Hart.setK; split <;> rfl
@[simp] theorem Hart.setK_slot (h : Hart) (r : BitVec 3) (y : KReg) : (h.setK r y).slot = h.slot := by unfold Hart.setK; split <;> rfl
@[simp] theorem Hart.setK_lg (h : Hart) (r : BitVec 3) (y : KReg) : (h.setK r y).lg = h.lg := by unfold Hart.setK; split <;> rfl
@[simp] theorem Hart.setK_x (h : Hart) (r : BitVec 3) (y : KReg) : (h.setK r y).x = h.x := by unfold Hart.setK; split <;> rfl
@[simp] theorem Hart.setK_f (h : Hart) (r : BitVec 3) (y : KReg) : (h.setK r y).f = h.f := by unfold Hart.setK; split <;> rfl
@[simp] theorem Hart.setK_pc (h : Hart) (r : BitVec 3) (y : KReg) : (h.setK r y).pc = h.pc := by unfold Hart.setK; split <;> rfl
@[simp] theorem Hart.setK_lv (h : Hart) (r : BitVec 3) (y : KReg) : (h.setK r y).lv = h.lv := by unfold Hart.setK; split <;> rfl
@[simp] theorem Hart.setK_ie (h : Hart) (r : BitVec 3) (y : KReg) : (h.setK r y).ie = h.ie := by unfold Hart.setK; split <;> rfl
@[simp] theorem Hart.setK_kb (h : Hart) (r : BitVec 3) (y : KReg) : (h.setK r y).kb = h.kb := by unfold Hart.setK; split <;> rfl
@[simp] theorem Hart.setK_mb (h : Hart) (r : BitVec 3) (y : KReg) : (h.setK r y).mb = h.mb := by unfold Hart.setK; split <;> rfl
@[simp] theorem Hart.setK_ktvec (h : Hart) (r : BitVec 3) (y : KReg) : (h.setK r y).ktvec = h.ktvec := by unfold Hart.setK; split <;> rfl
@[simp] theorem Hart.setK_mtvec (h : Hart) (r : BitVec 3) (y : KReg) : (h.setK r y).mtvec = h.mtvec := by unfold Hart.setK; split <;> rfl
@[simp] theorem Hart.setK_mkeep (h : Hart) (r : BitVec 3) (y : KReg) : (h.setK r y).mkeep = h.mkeep := by unfold Hart.setK; split <;> rfl
@[simp] theorem Hart.setK_vc (h : Hart) (r : BitVec 3) (y : KReg) : (h.setK r y).vc = h.vc := by unfold Hart.setK; split <;> rfl
@[simp] theorem Hart.setK_pcfg (h : Hart) (r : BitVec 3) (y : KReg) : (h.setK r y).pcfg = h.pcfg := by unfold Hart.setK; split <;> rfl
@[simp] theorem Hart.setK_ves (h : Hart) (r : BitVec 3) (y : KReg) : (h.setK r y).ves = h.ves := by unfold Hart.setK; split <;> rfl
@[simp] theorem Hart.setK_vcp (h : Hart) (r : BitVec 3) (y : KReg) : (h.setK r y).vcp = h.vcp := by unfold Hart.setK; split <;> rfl
@[simp] theorem Hart.setK_lix (h : Hart) (r : BitVec 3) (y : KReg) : (h.setK r y).lix = h.lix := by unfold Hart.setK; split <;> rfl
@[simp] theorem Hart.setK_xpos (h : Hart) (r : BitVec 3) (y : KReg) : (h.setK r y).xpos = h.xpos := by unfold Hart.setK; split <;> rfl
@[simp] theorem Hart.setK_vdirty (h : Hart) (r : BitVec 3) (y : KReg) : (h.setK r y).vdirty = h.vdirty := by unfold Hart.setK; split <;> rfl
@[simp] theorem Hart.setK_live (h : Hart) (r : BitVec 3) (y : KReg) : (h.setK r y).live = h.live := by unfold Hart.setK; split <;> rfl
@[simp] theorem Hart.setK_nres (h : Hart) (r : BitVec 3) (y : KReg) : (h.setK r y).nres = h.nres := by unfold Hart.setK; split <;> rfl
@[simp] theorem Hart.setK_fflags (h : Hart) (r : BitVec 3) (y : KReg) : (h.setK r y).fflags = h.fflags := by unfold Hart.setK; split <;> rfl
@[simp] theorem Hart.setK_ftz (h : Hart) (r : BitVec 3) (y : KReg) : (h.setK r y).ftz = h.ftz := by unfold Hart.setK; split <;> rfl
@[simp] theorem Hart.setK_fen (h : Hart) (r : BitVec 3) (y : KReg) : (h.setK r y).fen = h.fen := by unfold Hart.setK; split <;> rfl
@[simp] theorem Hart.setK_srseed (h : Hart) (r : BitVec 3) (y : KReg) : (h.setK r y).srseed = h.srseed := by unfold Hart.setK; split <;> rfl
@[simp] theorem Hart.setK_cycle (h : Hart) (r : BitVec 3) (y : KReg) : (h.setK r y).cycle = h.cycle := by unfold Hart.setK; split <;> rfl
@[simp] theorem Hart.setK_timecmp (h : Hart) (r : BitVec 3) (y : KReg) : (h.setK r y).timecmp = h.timecmp := by unfold Hart.setK; split <;> rfl
@[simp] theorem Hart.setK_waitmax (h : Hart) (r : BitVec 3) (y : KReg) : (h.setK r y).waitmax = h.waitmax := by unfold Hart.setK; split <;> rfl
@[simp] theorem Hart.setK_fill (h : Hart) (r : BitVec 3) (y : KReg) : (h.setK r y).fill = h.fill := by unfold Hart.setK; split <;> rfl
@[simp] theorem Hart.setK_stores (h : Hart) (r : BitVec 3) (y : KReg) : (h.setK r y).stores = h.stores := by unfold Hart.setK; split <;> rfl
@[simp] theorem Hart.setK_strip (h : Hart) (r : BitVec 3) (y : KReg) : (h.setK r y).strip = h.strip := by unfold Hart.setK; split <;> rfl
@[simp] theorem Hart.setK_thrPow (h : Hart) (r : BitVec 3) (y : KReg) : (h.setK r y).thrPow = h.thrPow := by unfold Hart.setK; split <;> rfl
@[simp] theorem Hart.setK_thrBal (h : Hart) (r : BitVec 3) (y : KReg) : (h.setK r y).thrBal = h.thrBal := by unfold Hart.setK; split <;> rfl
@[simp] theorem Hart.setK_balThrottle (h : Hart) (r : BitVec 3) (y : KReg) : (h.setK r y).balThrottle = h.balThrottle := by unfold Hart.setK; split <;> rfl
@[simp] theorem Hart.setK_migTrap (h : Hart) (r : BitVec 3) (y : KReg) : (h.setK r y).migTrap = h.migTrap := by unfold Hart.setK; split <;> rfl
@[simp] theorem Hart.setK_migMix (h : Hart) (r : BitVec 3) (y : KReg) : (h.setK r y).migMix = h.migMix := by unfold Hart.setK; split <;> rfl
@[simp] theorem Hart.setK_ctxb (h : Hart) (r : BitVec 3) (y : KReg) : (h.setK r y).ctxb = h.ctxb := by unfold Hart.setK; split <;> rfl
@[simp] theorem Hart.setK_qosShare (h : Hart) (r : BitVec 3) (y : KReg) : (h.setK r y).qosShare = h.qosShare := by unfold Hart.setK; split <;> rfl
@[simp] theorem Hart.setK_v (h : Hart) (r : BitVec 3) (y : KReg) : (h.setK r y).v = h.v := by unfold Hart.setK; split <;> rfl
@[simp] theorem Hart.setK_m (h : Hart) (r : BitVec 3) (y : KReg) : (h.setK r y).m = h.m := by unfold Hart.setK; split <;> rfl
@[simp] theorem Hart.setK_sh (h : Hart) (r : BitVec 3) (y : KReg) : (h.setK r y).sh = h.sh := by unfold Hart.setK; split <;> rfl
@[simp] theorem Hart.setK_sc (h : Hart) (r : BitVec 3) (y : KReg) : (h.setK r y).sc = h.sc := by unfold Hart.setK; split <;> rfl
@[simp] theorem Hart.setK_ct (h : Hart) (r : BitVec 3) (y : KReg) : (h.setK r y).ct = h.ct := by unfold Hart.setK; split <;> rfl
@[simp] theorem Hart.setK_perm (h : Hart) (r : BitVec 3) (y : KReg) : (h.setK r y).perm = h.perm := by unfold Hart.setK; split <;> rfl
@[simp] theorem Hart.setK_w (h : Hart) (r : BitVec 3) (y : KReg) : (h.setK r y).w = h.w := by unfold Hart.setK; split <;> rfl
@[simp] theorem Hart.setK_ta (h : Hart) (r : BitVec 3) (y : KReg) : (h.setK r y).ta = h.ta := by unfold Hart.setK; split <;> rfl
@[simp] theorem Hart.setK_vq (h : Hart) (r : BitVec 3) (y : KReg) : (h.setK r y).vq = h.vq := by unfold Hart.setK; split <;> rfl
@[simp] theorem Hart.setK_stopped (h : Hart) (r : BitVec 3) (y : KReg) : (h.setK r y).stopped = h.stopped := by unfold Hart.setK; split <;> rfl
@[simp] theorem Hart.setK_tagCtr (h : Hart) (r : BitVec 3) (y : KReg) : (h.setK r y).tagCtr = h.tagCtr := by unfold Hart.setK; split <;> rfl
@[simp] theorem Hart.setK_copies (h : Hart) (r : BitVec 3) (y : KReg) : (h.setK r y).copies = h.copies := by unfold Hart.setK; split <;> rfl
@[simp] theorem Hart.setK_expected (h : Hart) (r : BitVec 3) (y : KReg) : (h.setK r y).expected = h.expected := by unfold Hart.setK; split <;> rfl
@[simp] theorem Hart.setK_pendClr (h : Hart) (r : BitVec 3) (y : KReg) : (h.setK r y).pendClr = h.pendClr := by unfold Hart.setK; split <;> rfl
@[simp] theorem Hart.setK_pendSet (h : Hart) (r : BitVec 3) (y : KReg) : (h.setK r y).pendSet = h.pendSet := by unfold Hart.setK; split <;> rfl
@[simp] theorem Hart.setK_bindings (h : Hart) (r : BitVec 3) (y : KReg) : (h.setK r y).bindings = h.bindings := by unfold Hart.setK; split <;> rfl
@[simp] theorem Hart.setK_remote (h : Hart) (r : BitVec 3) (y : KReg) : (h.setK r y).remote = h.remote := by unfold Hart.setK; split <;> rfl
@[simp] theorem Hart.setK_reports (h : Hart) (r : BitVec 3) (y : KReg) : (h.setK r y).reports = h.reports := by unfold Hart.setK; split <;> rfl
@[simp] theorem Hart.setK_namoPend (h : Hart) (r : BitVec 3) (y : KReg) : (h.setK r y).namoPend = h.namoPend := by unfold Hart.setK; split <;> rfl
@[simp] theorem Hart.setK_tmma (h : Hart) (r : BitVec 3) (y : KReg) : (h.setK r y).tmma = h.tmma := by unfold Hart.setK; split <;> rfl
@[simp] theorem Hart.setK_incoming (h : Hart) (r : BitVec 3) (y : KReg) : (h.setK r y).incoming = h.incoming := by unfold Hart.setK; split <;> rfl
@[simp] theorem Hart.setK_planFault (h : Hart) (r : BitVec 3) (y : KReg) : (h.setK r y).planFault = h.planFault := by unfold Hart.setK; split <;> rfl
@[simp] theorem Hart.setK_stepDone (h : Hart) (r : BitVec 3) (y : KReg) : (h.setK r y).stepDone = h.stepDone := by unfold Hart.setK; split <;> rfl
@[simp] theorem Hart.setK_gbarDone (h : Hart) (r : BitVec 3) (y : KReg) : (h.setK r y).gbarDone = h.gbarDone := by unfold Hart.setK; split <;> rfl
@[simp] theorem Hart.setK_gbarHere (h : Hart) (r : BitVec 3) (y : KReg) : (h.setK r y).gbarHere = h.gbarHere := by unfold Hart.setK; split <;> rfl
@[simp] theorem Hart.setK_waitOn (h : Hart) (r : BitVec 3) (y : KReg) : (h.setK r y).waitOn = h.waitOn := by unfold Hart.setK; split <;> rfl
@[simp] theorem Hart.setK_waitS (h : Hart) (r : BitVec 3) (y : KReg) : (h.setK r y).waitS = h.waitS := by unfold Hart.setK; split <;> rfl
@[simp] theorem Hart.setK_waitV (h : Hart) (r : BitVec 3) (y : KReg) : (h.setK r y).waitV = h.waitV := by unfold Hart.setK; split <;> rfl
@[simp] theorem Hart.setK_ended (h : Hart) (r : BitVec 3) (y : KReg) : (h.setK r y).ended = h.ended := by unfold Hart.setK; split <;> rfl
@[simp] theorem Hart.setK_yielded (h : Hart) (r : BitVec 3) (y : KReg) : (h.setK r y).yielded = h.yielded := by unfold Hart.setK; split <;> rfl
@[simp] theorem Hart.setK_halted (h : Hart) (r : BitVec 3) (y : KReg) : (h.setK r y).halted = h.halted := by unfold Hart.setK; split <;> rfl
@[simp] theorem Hart.setK_stepping (h : Hart) (r : BitVec 3) (y : KReg) : (h.setK r y).stepping = h.stepping := by unfold Hart.setK; split <;> rfl
@[simp] theorem Hart.setK_rest (h : Hart) (r : BitVec 3) (y : KReg) : (h.setK r y).rest = h.rest := by unfold Hart.setK; split <;> rfl
@[simp] theorem Hart.setK_desc (h : Hart) (r : BitVec 3) (y : KReg) : (h.setK r y).desc = h.desc := by unfold Hart.setK; split <;> rfl
@[simp] theorem Hart.setK_seen (h : Hart) (r : BitVec 3) (y : KReg) : (h.setK r y).seen = h.seen := by unfold Hart.setK; split <;> rfl
@[simp] theorem Hart.setK_resident (h : Hart) (r : BitVec 3) (y : KReg) : (h.setK r y).resident = h.resident := by unfold Hart.setK; split <;> rfl
@[simp] theorem Hart.setK_flying (h : Hart) (r : BitVec 3) (y : KReg) : (h.setK r y).flying = h.flying := by unfold Hart.setK; split <;> rfl
@[simp] theorem Hart.setK_goal (h : Hart) (r : BitVec 3) (y : KReg) : (h.setK r y).goal = h.goal := by unfold Hart.setK; split <;> rfl
@[simp] theorem Hart.setK_peelErr (h : Hart) (r : BitVec 3) (y : KReg) : (h.setK r y).peelErr = h.peelErr := by unfold Hart.setK; split <;> rfl
@[simp] theorem Hart.setK_badRegs (h : Hart) (r : BitVec 3) (y : KReg) : (h.setK r y).badRegs = h.badRegs := by unfold Hart.setK; split <;> rfl
@[simp] theorem Hart.setK_dead (h : Hart) (r : BitVec 3) (y : KReg) : (h.setK r y).dead = h.dead := by unfold Hart.setK; split <;> rfl
@[simp] theorem Hart.setK_preempt (h : Hart) (r : BitVec 3) (y : KReg) : (h.setK r y).preempt = h.preempt := by unfold Hart.setK; split <;> rfl
@[simp] theorem Hart.setK_extint (h : Hart) (r : BitVec 3) (y : KReg) : (h.setK r y).extint = h.extint := by unfold Hart.setK; split <;> rfl
@[simp] theorem Hart.setK_mcheck (h : Hart) (r : BitVec 3) (y : KReg) : (h.setK r y).mcheck = h.mcheck := by unfold Hart.setK; split <;> rfl
@[simp] theorem Hart.setK_convoyLeft (h : Hart) (r : BitVec 3) (y : KReg) : (h.setK r y).convoyLeft = h.convoyLeft := by unfold Hart.setK; split <;> rfl
@[simp] theorem Hart.setK_mixCount (h : Hart) (r : BitVec 3) (y : KReg) : (h.setK r y).mixCount = h.mixCount := by unfold Hart.setK; split <;> rfl
@[simp] theorem Hart.setK_mixHits (h : Hart) (r : BitVec 3) (y : KReg) : (h.setK r y).mixHits = h.mixHits := by unfold Hart.setK; split <;> rfl
@[simp] theorem Hart.setK_mixMoves (h : Hart) (r : BitVec 3) (y : KReg) : (h.setK r y).mixMoves = h.mixMoves := by unfold Hart.setK; split <;> rfl
@[simp] theorem Hart.setK_mixRun (h : Hart) (r : BitVec 3) (y : KReg) : (h.setK r y).mixRun = h.mixRun := by unfold Hart.setK; split <;> rfl
@[simp] theorem Hart.setK_mixHold (h : Hart) (r : BitVec 3) (y : KReg) : (h.setK r y).mixHold = h.mixHold := by unfold Hart.setK; split <;> rfl
@[simp] theorem Hart.setK_blind (h : Hart) (r : BitVec 3) (y : KReg) : (h.setK r y).blind = h.blind := by unfold Hart.setK; split <;> rfl
@[simp] theorem Hart.setK_blindSteps (h : Hart) (r : BitVec 3) (y : KReg) : (h.setK r y).blindSteps = h.blindSteps := by unfold Hart.setK; split <;> rfl

@[simp] theorem Hart.setM_id (h : Hart) (r : BitVec 2) (n : Nat) (y : VReg) : (h.setM r n y).id = h.id := by unfold Hart.setM; split <;> rfl
@[simp] theorem Hart.setM_cls (h : Hart) (r : BitVec 2) (n : Nat) (y : VReg) : (h.setM r n y).cls = h.cls := by unfold Hart.setM; split <;> rfl
@[simp] theorem Hart.setM_core (h : Hart) (r : BitVec 2) (n : Nat) (y : VReg) : (h.setM r n y).core = h.core := by unfold Hart.setM; split <;> rfl
@[simp] theorem Hart.setM_slot (h : Hart) (r : BitVec 2) (n : Nat) (y : VReg) : (h.setM r n y).slot = h.slot := by unfold Hart.setM; split <;> rfl
@[simp] theorem Hart.setM_lg (h : Hart) (r : BitVec 2) (n : Nat) (y : VReg) : (h.setM r n y).lg = h.lg := by unfold Hart.setM; split <;> rfl
@[simp] theorem Hart.setM_x (h : Hart) (r : BitVec 2) (n : Nat) (y : VReg) : (h.setM r n y).x = h.x := by unfold Hart.setM; split <;> rfl
@[simp] theorem Hart.setM_f (h : Hart) (r : BitVec 2) (n : Nat) (y : VReg) : (h.setM r n y).f = h.f := by unfold Hart.setM; split <;> rfl
@[simp] theorem Hart.setM_pc (h : Hart) (r : BitVec 2) (n : Nat) (y : VReg) : (h.setM r n y).pc = h.pc := by unfold Hart.setM; split <;> rfl
@[simp] theorem Hart.setM_lv (h : Hart) (r : BitVec 2) (n : Nat) (y : VReg) : (h.setM r n y).lv = h.lv := by unfold Hart.setM; split <;> rfl
@[simp] theorem Hart.setM_ie (h : Hart) (r : BitVec 2) (n : Nat) (y : VReg) : (h.setM r n y).ie = h.ie := by unfold Hart.setM; split <;> rfl
@[simp] theorem Hart.setM_kb (h : Hart) (r : BitVec 2) (n : Nat) (y : VReg) : (h.setM r n y).kb = h.kb := by unfold Hart.setM; split <;> rfl
@[simp] theorem Hart.setM_mb (h : Hart) (r : BitVec 2) (n : Nat) (y : VReg) : (h.setM r n y).mb = h.mb := by unfold Hart.setM; split <;> rfl
@[simp] theorem Hart.setM_ktvec (h : Hart) (r : BitVec 2) (n : Nat) (y : VReg) : (h.setM r n y).ktvec = h.ktvec := by unfold Hart.setM; split <;> rfl
@[simp] theorem Hart.setM_mtvec (h : Hart) (r : BitVec 2) (n : Nat) (y : VReg) : (h.setM r n y).mtvec = h.mtvec := by unfold Hart.setM; split <;> rfl
@[simp] theorem Hart.setM_mkeep (h : Hart) (r : BitVec 2) (n : Nat) (y : VReg) : (h.setM r n y).mkeep = h.mkeep := by unfold Hart.setM; split <;> rfl
@[simp] theorem Hart.setM_vc (h : Hart) (r : BitVec 2) (n : Nat) (y : VReg) : (h.setM r n y).vc = h.vc := by unfold Hart.setM; split <;> rfl
@[simp] theorem Hart.setM_pcfg (h : Hart) (r : BitVec 2) (n : Nat) (y : VReg) : (h.setM r n y).pcfg = h.pcfg := by unfold Hart.setM; split <;> rfl
@[simp] theorem Hart.setM_ves (h : Hart) (r : BitVec 2) (n : Nat) (y : VReg) : (h.setM r n y).ves = h.ves := by unfold Hart.setM; split <;> rfl
@[simp] theorem Hart.setM_vcp (h : Hart) (r : BitVec 2) (n : Nat) (y : VReg) : (h.setM r n y).vcp = h.vcp := by unfold Hart.setM; split <;> rfl
@[simp] theorem Hart.setM_lix (h : Hart) (r : BitVec 2) (n : Nat) (y : VReg) : (h.setM r n y).lix = h.lix := by unfold Hart.setM; split <;> rfl
@[simp] theorem Hart.setM_xpos (h : Hart) (r : BitVec 2) (n : Nat) (y : VReg) : (h.setM r n y).xpos = h.xpos := by unfold Hart.setM; split <;> rfl
@[simp] theorem Hart.setM_vdirty (h : Hart) (r : BitVec 2) (n : Nat) (y : VReg) : (h.setM r n y).vdirty = h.vdirty := by unfold Hart.setM; split <;> rfl
@[simp] theorem Hart.setM_live (h : Hart) (r : BitVec 2) (n : Nat) (y : VReg) : (h.setM r n y).live = h.live := by unfold Hart.setM; split <;> rfl
@[simp] theorem Hart.setM_nres (h : Hart) (r : BitVec 2) (n : Nat) (y : VReg) : (h.setM r n y).nres = h.nres := by unfold Hart.setM; split <;> rfl
@[simp] theorem Hart.setM_fflags (h : Hart) (r : BitVec 2) (n : Nat) (y : VReg) : (h.setM r n y).fflags = h.fflags := by unfold Hart.setM; split <;> rfl
@[simp] theorem Hart.setM_ftz (h : Hart) (r : BitVec 2) (n : Nat) (y : VReg) : (h.setM r n y).ftz = h.ftz := by unfold Hart.setM; split <;> rfl
@[simp] theorem Hart.setM_fen (h : Hart) (r : BitVec 2) (n : Nat) (y : VReg) : (h.setM r n y).fen = h.fen := by unfold Hart.setM; split <;> rfl
@[simp] theorem Hart.setM_srseed (h : Hart) (r : BitVec 2) (n : Nat) (y : VReg) : (h.setM r n y).srseed = h.srseed := by unfold Hart.setM; split <;> rfl
@[simp] theorem Hart.setM_cycle (h : Hart) (r : BitVec 2) (n : Nat) (y : VReg) : (h.setM r n y).cycle = h.cycle := by unfold Hart.setM; split <;> rfl
@[simp] theorem Hart.setM_timecmp (h : Hart) (r : BitVec 2) (n : Nat) (y : VReg) : (h.setM r n y).timecmp = h.timecmp := by unfold Hart.setM; split <;> rfl
@[simp] theorem Hart.setM_waitmax (h : Hart) (r : BitVec 2) (n : Nat) (y : VReg) : (h.setM r n y).waitmax = h.waitmax := by unfold Hart.setM; split <;> rfl
@[simp] theorem Hart.setM_fill (h : Hart) (r : BitVec 2) (n : Nat) (y : VReg) : (h.setM r n y).fill = h.fill := by unfold Hart.setM; split <;> rfl
@[simp] theorem Hart.setM_stores (h : Hart) (r : BitVec 2) (n : Nat) (y : VReg) : (h.setM r n y).stores = h.stores := by unfold Hart.setM; split <;> rfl
@[simp] theorem Hart.setM_strip (h : Hart) (r : BitVec 2) (n : Nat) (y : VReg) : (h.setM r n y).strip = h.strip := by unfold Hart.setM; split <;> rfl
@[simp] theorem Hart.setM_thrPow (h : Hart) (r : BitVec 2) (n : Nat) (y : VReg) : (h.setM r n y).thrPow = h.thrPow := by unfold Hart.setM; split <;> rfl
@[simp] theorem Hart.setM_thrBal (h : Hart) (r : BitVec 2) (n : Nat) (y : VReg) : (h.setM r n y).thrBal = h.thrBal := by unfold Hart.setM; split <;> rfl
@[simp] theorem Hart.setM_balThrottle (h : Hart) (r : BitVec 2) (n : Nat) (y : VReg) : (h.setM r n y).balThrottle = h.balThrottle := by unfold Hart.setM; split <;> rfl
@[simp] theorem Hart.setM_migTrap (h : Hart) (r : BitVec 2) (n : Nat) (y : VReg) : (h.setM r n y).migTrap = h.migTrap := by unfold Hart.setM; split <;> rfl
@[simp] theorem Hart.setM_migMix (h : Hart) (r : BitVec 2) (n : Nat) (y : VReg) : (h.setM r n y).migMix = h.migMix := by unfold Hart.setM; split <;> rfl
@[simp] theorem Hart.setM_ctxb (h : Hart) (r : BitVec 2) (n : Nat) (y : VReg) : (h.setM r n y).ctxb = h.ctxb := by unfold Hart.setM; split <;> rfl
@[simp] theorem Hart.setM_qosShare (h : Hart) (r : BitVec 2) (n : Nat) (y : VReg) : (h.setM r n y).qosShare = h.qosShare := by unfold Hart.setM; split <;> rfl
@[simp] theorem Hart.setM_v (h : Hart) (r : BitVec 2) (n : Nat) (y : VReg) : (h.setM r n y).v = h.v := by unfold Hart.setM; split <;> rfl
@[simp] theorem Hart.setM_k (h : Hart) (r : BitVec 2) (n : Nat) (y : VReg) : (h.setM r n y).k = h.k := by unfold Hart.setM; split <;> rfl
@[simp] theorem Hart.setM_sh (h : Hart) (r : BitVec 2) (n : Nat) (y : VReg) : (h.setM r n y).sh = h.sh := by unfold Hart.setM; split <;> rfl
@[simp] theorem Hart.setM_sc (h : Hart) (r : BitVec 2) (n : Nat) (y : VReg) : (h.setM r n y).sc = h.sc := by unfold Hart.setM; split <;> rfl
@[simp] theorem Hart.setM_ct (h : Hart) (r : BitVec 2) (n : Nat) (y : VReg) : (h.setM r n y).ct = h.ct := by unfold Hart.setM; split <;> rfl
@[simp] theorem Hart.setM_perm (h : Hart) (r : BitVec 2) (n : Nat) (y : VReg) : (h.setM r n y).perm = h.perm := by unfold Hart.setM; split <;> rfl
@[simp] theorem Hart.setM_w (h : Hart) (r : BitVec 2) (n : Nat) (y : VReg) : (h.setM r n y).w = h.w := by unfold Hart.setM; split <;> rfl
@[simp] theorem Hart.setM_ta (h : Hart) (r : BitVec 2) (n : Nat) (y : VReg) : (h.setM r n y).ta = h.ta := by unfold Hart.setM; split <;> rfl
@[simp] theorem Hart.setM_vq (h : Hart) (r : BitVec 2) (n : Nat) (y : VReg) : (h.setM r n y).vq = h.vq := by unfold Hart.setM; split <;> rfl
@[simp] theorem Hart.setM_stopped (h : Hart) (r : BitVec 2) (n : Nat) (y : VReg) : (h.setM r n y).stopped = h.stopped := by unfold Hart.setM; split <;> rfl
@[simp] theorem Hart.setM_tagCtr (h : Hart) (r : BitVec 2) (n : Nat) (y : VReg) : (h.setM r n y).tagCtr = h.tagCtr := by unfold Hart.setM; split <;> rfl
@[simp] theorem Hart.setM_copies (h : Hart) (r : BitVec 2) (n : Nat) (y : VReg) : (h.setM r n y).copies = h.copies := by unfold Hart.setM; split <;> rfl
@[simp] theorem Hart.setM_expected (h : Hart) (r : BitVec 2) (n : Nat) (y : VReg) : (h.setM r n y).expected = h.expected := by unfold Hart.setM; split <;> rfl
@[simp] theorem Hart.setM_pendClr (h : Hart) (r : BitVec 2) (n : Nat) (y : VReg) : (h.setM r n y).pendClr = h.pendClr := by unfold Hart.setM; split <;> rfl
@[simp] theorem Hart.setM_pendSet (h : Hart) (r : BitVec 2) (n : Nat) (y : VReg) : (h.setM r n y).pendSet = h.pendSet := by unfold Hart.setM; split <;> rfl
@[simp] theorem Hart.setM_bindings (h : Hart) (r : BitVec 2) (n : Nat) (y : VReg) : (h.setM r n y).bindings = h.bindings := by unfold Hart.setM; split <;> rfl
@[simp] theorem Hart.setM_remote (h : Hart) (r : BitVec 2) (n : Nat) (y : VReg) : (h.setM r n y).remote = h.remote := by unfold Hart.setM; split <;> rfl
@[simp] theorem Hart.setM_reports (h : Hart) (r : BitVec 2) (n : Nat) (y : VReg) : (h.setM r n y).reports = h.reports := by unfold Hart.setM; split <;> rfl
@[simp] theorem Hart.setM_namoPend (h : Hart) (r : BitVec 2) (n : Nat) (y : VReg) : (h.setM r n y).namoPend = h.namoPend := by unfold Hart.setM; split <;> rfl
@[simp] theorem Hart.setM_tmma (h : Hart) (r : BitVec 2) (n : Nat) (y : VReg) : (h.setM r n y).tmma = h.tmma := by unfold Hart.setM; split <;> rfl
@[simp] theorem Hart.setM_incoming (h : Hart) (r : BitVec 2) (n : Nat) (y : VReg) : (h.setM r n y).incoming = h.incoming := by unfold Hart.setM; split <;> rfl
@[simp] theorem Hart.setM_planFault (h : Hart) (r : BitVec 2) (n : Nat) (y : VReg) : (h.setM r n y).planFault = h.planFault := by unfold Hart.setM; split <;> rfl
@[simp] theorem Hart.setM_stepDone (h : Hart) (r : BitVec 2) (n : Nat) (y : VReg) : (h.setM r n y).stepDone = h.stepDone := by unfold Hart.setM; split <;> rfl
@[simp] theorem Hart.setM_gbarDone (h : Hart) (r : BitVec 2) (n : Nat) (y : VReg) : (h.setM r n y).gbarDone = h.gbarDone := by unfold Hart.setM; split <;> rfl
@[simp] theorem Hart.setM_gbarHere (h : Hart) (r : BitVec 2) (n : Nat) (y : VReg) : (h.setM r n y).gbarHere = h.gbarHere := by unfold Hart.setM; split <;> rfl
@[simp] theorem Hart.setM_waitOn (h : Hart) (r : BitVec 2) (n : Nat) (y : VReg) : (h.setM r n y).waitOn = h.waitOn := by unfold Hart.setM; split <;> rfl
@[simp] theorem Hart.setM_waitS (h : Hart) (r : BitVec 2) (n : Nat) (y : VReg) : (h.setM r n y).waitS = h.waitS := by unfold Hart.setM; split <;> rfl
@[simp] theorem Hart.setM_waitV (h : Hart) (r : BitVec 2) (n : Nat) (y : VReg) : (h.setM r n y).waitV = h.waitV := by unfold Hart.setM; split <;> rfl
@[simp] theorem Hart.setM_ended (h : Hart) (r : BitVec 2) (n : Nat) (y : VReg) : (h.setM r n y).ended = h.ended := by unfold Hart.setM; split <;> rfl
@[simp] theorem Hart.setM_yielded (h : Hart) (r : BitVec 2) (n : Nat) (y : VReg) : (h.setM r n y).yielded = h.yielded := by unfold Hart.setM; split <;> rfl
@[simp] theorem Hart.setM_halted (h : Hart) (r : BitVec 2) (n : Nat) (y : VReg) : (h.setM r n y).halted = h.halted := by unfold Hart.setM; split <;> rfl
@[simp] theorem Hart.setM_stepping (h : Hart) (r : BitVec 2) (n : Nat) (y : VReg) : (h.setM r n y).stepping = h.stepping := by unfold Hart.setM; split <;> rfl
@[simp] theorem Hart.setM_rest (h : Hart) (r : BitVec 2) (n : Nat) (y : VReg) : (h.setM r n y).rest = h.rest := by unfold Hart.setM; split <;> rfl
@[simp] theorem Hart.setM_desc (h : Hart) (r : BitVec 2) (n : Nat) (y : VReg) : (h.setM r n y).desc = h.desc := by unfold Hart.setM; split <;> rfl
@[simp] theorem Hart.setM_seen (h : Hart) (r : BitVec 2) (n : Nat) (y : VReg) : (h.setM r n y).seen = h.seen := by unfold Hart.setM; split <;> rfl
@[simp] theorem Hart.setM_resident (h : Hart) (r : BitVec 2) (n : Nat) (y : VReg) : (h.setM r n y).resident = h.resident := by unfold Hart.setM; split <;> rfl
@[simp] theorem Hart.setM_flying (h : Hart) (r : BitVec 2) (n : Nat) (y : VReg) : (h.setM r n y).flying = h.flying := by unfold Hart.setM; split <;> rfl
@[simp] theorem Hart.setM_goal (h : Hart) (r : BitVec 2) (n : Nat) (y : VReg) : (h.setM r n y).goal = h.goal := by unfold Hart.setM; split <;> rfl
@[simp] theorem Hart.setM_peelErr (h : Hart) (r : BitVec 2) (n : Nat) (y : VReg) : (h.setM r n y).peelErr = h.peelErr := by unfold Hart.setM; split <;> rfl
@[simp] theorem Hart.setM_badRegs (h : Hart) (r : BitVec 2) (n : Nat) (y : VReg) : (h.setM r n y).badRegs = h.badRegs := by unfold Hart.setM; split <;> rfl
@[simp] theorem Hart.setM_dead (h : Hart) (r : BitVec 2) (n : Nat) (y : VReg) : (h.setM r n y).dead = h.dead := by unfold Hart.setM; split <;> rfl
@[simp] theorem Hart.setM_preempt (h : Hart) (r : BitVec 2) (n : Nat) (y : VReg) : (h.setM r n y).preempt = h.preempt := by unfold Hart.setM; split <;> rfl
@[simp] theorem Hart.setM_extint (h : Hart) (r : BitVec 2) (n : Nat) (y : VReg) : (h.setM r n y).extint = h.extint := by unfold Hart.setM; split <;> rfl
@[simp] theorem Hart.setM_mcheck (h : Hart) (r : BitVec 2) (n : Nat) (y : VReg) : (h.setM r n y).mcheck = h.mcheck := by unfold Hart.setM; split <;> rfl
@[simp] theorem Hart.setM_convoyLeft (h : Hart) (r : BitVec 2) (n : Nat) (y : VReg) : (h.setM r n y).convoyLeft = h.convoyLeft := by unfold Hart.setM; split <;> rfl
@[simp] theorem Hart.setM_mixCount (h : Hart) (r : BitVec 2) (n : Nat) (y : VReg) : (h.setM r n y).mixCount = h.mixCount := by unfold Hart.setM; split <;> rfl
@[simp] theorem Hart.setM_mixHits (h : Hart) (r : BitVec 2) (n : Nat) (y : VReg) : (h.setM r n y).mixHits = h.mixHits := by unfold Hart.setM; split <;> rfl
@[simp] theorem Hart.setM_mixMoves (h : Hart) (r : BitVec 2) (n : Nat) (y : VReg) : (h.setM r n y).mixMoves = h.mixMoves := by unfold Hart.setM; split <;> rfl
@[simp] theorem Hart.setM_mixRun (h : Hart) (r : BitVec 2) (n : Nat) (y : VReg) : (h.setM r n y).mixRun = h.mixRun := by unfold Hart.setM; split <;> rfl
@[simp] theorem Hart.setM_mixHold (h : Hart) (r : BitVec 2) (n : Nat) (y : VReg) : (h.setM r n y).mixHold = h.mixHold := by unfold Hart.setM; split <;> rfl
@[simp] theorem Hart.setM_blind (h : Hart) (r : BitVec 2) (n : Nat) (y : VReg) : (h.setM r n y).blind = h.blind := by unfold Hart.setM; split <;> rfl
@[simp] theorem Hart.setM_blindSteps (h : Hart) (r : BitVec 2) (n : Nat) (y : VReg) : (h.setM r n y).blindSteps = h.blindSteps := by unfold Hart.setM; split <;> rfl

@[simp] theorem Hart.setSh_id (h : Hart) (r : BitVec 1) (y : VReg) : (h.setSh r y).id = h.id := rfl
@[simp] theorem Hart.setSh_cls (h : Hart) (r : BitVec 1) (y : VReg) : (h.setSh r y).cls = h.cls := rfl
@[simp] theorem Hart.setSh_core (h : Hart) (r : BitVec 1) (y : VReg) : (h.setSh r y).core = h.core := rfl
@[simp] theorem Hart.setSh_slot (h : Hart) (r : BitVec 1) (y : VReg) : (h.setSh r y).slot = h.slot := rfl
@[simp] theorem Hart.setSh_lg (h : Hart) (r : BitVec 1) (y : VReg) : (h.setSh r y).lg = h.lg := rfl
@[simp] theorem Hart.setSh_x (h : Hart) (r : BitVec 1) (y : VReg) : (h.setSh r y).x = h.x := rfl
@[simp] theorem Hart.setSh_f (h : Hart) (r : BitVec 1) (y : VReg) : (h.setSh r y).f = h.f := rfl
@[simp] theorem Hart.setSh_pc (h : Hart) (r : BitVec 1) (y : VReg) : (h.setSh r y).pc = h.pc := rfl
@[simp] theorem Hart.setSh_lv (h : Hart) (r : BitVec 1) (y : VReg) : (h.setSh r y).lv = h.lv := rfl
@[simp] theorem Hart.setSh_ie (h : Hart) (r : BitVec 1) (y : VReg) : (h.setSh r y).ie = h.ie := rfl
@[simp] theorem Hart.setSh_kb (h : Hart) (r : BitVec 1) (y : VReg) : (h.setSh r y).kb = h.kb := rfl
@[simp] theorem Hart.setSh_mb (h : Hart) (r : BitVec 1) (y : VReg) : (h.setSh r y).mb = h.mb := rfl
@[simp] theorem Hart.setSh_ktvec (h : Hart) (r : BitVec 1) (y : VReg) : (h.setSh r y).ktvec = h.ktvec := rfl
@[simp] theorem Hart.setSh_mtvec (h : Hart) (r : BitVec 1) (y : VReg) : (h.setSh r y).mtvec = h.mtvec := rfl
@[simp] theorem Hart.setSh_mkeep (h : Hart) (r : BitVec 1) (y : VReg) : (h.setSh r y).mkeep = h.mkeep := rfl
@[simp] theorem Hart.setSh_vc (h : Hart) (r : BitVec 1) (y : VReg) : (h.setSh r y).vc = h.vc := rfl
@[simp] theorem Hart.setSh_pcfg (h : Hart) (r : BitVec 1) (y : VReg) : (h.setSh r y).pcfg = h.pcfg := rfl
@[simp] theorem Hart.setSh_ves (h : Hart) (r : BitVec 1) (y : VReg) : (h.setSh r y).ves = h.ves := rfl
@[simp] theorem Hart.setSh_vcp (h : Hart) (r : BitVec 1) (y : VReg) : (h.setSh r y).vcp = h.vcp := rfl
@[simp] theorem Hart.setSh_lix (h : Hart) (r : BitVec 1) (y : VReg) : (h.setSh r y).lix = h.lix := rfl
@[simp] theorem Hart.setSh_xpos (h : Hart) (r : BitVec 1) (y : VReg) : (h.setSh r y).xpos = h.xpos := rfl
@[simp] theorem Hart.setSh_vdirty (h : Hart) (r : BitVec 1) (y : VReg) : (h.setSh r y).vdirty = h.vdirty := rfl
@[simp] theorem Hart.setSh_live (h : Hart) (r : BitVec 1) (y : VReg) : (h.setSh r y).live = h.live := rfl
@[simp] theorem Hart.setSh_nres (h : Hart) (r : BitVec 1) (y : VReg) : (h.setSh r y).nres = h.nres := rfl
@[simp] theorem Hart.setSh_fflags (h : Hart) (r : BitVec 1) (y : VReg) : (h.setSh r y).fflags = h.fflags := rfl
@[simp] theorem Hart.setSh_ftz (h : Hart) (r : BitVec 1) (y : VReg) : (h.setSh r y).ftz = h.ftz := rfl
@[simp] theorem Hart.setSh_fen (h : Hart) (r : BitVec 1) (y : VReg) : (h.setSh r y).fen = h.fen := rfl
@[simp] theorem Hart.setSh_srseed (h : Hart) (r : BitVec 1) (y : VReg) : (h.setSh r y).srseed = h.srseed := rfl
@[simp] theorem Hart.setSh_cycle (h : Hart) (r : BitVec 1) (y : VReg) : (h.setSh r y).cycle = h.cycle := rfl
@[simp] theorem Hart.setSh_timecmp (h : Hart) (r : BitVec 1) (y : VReg) : (h.setSh r y).timecmp = h.timecmp := rfl
@[simp] theorem Hart.setSh_waitmax (h : Hart) (r : BitVec 1) (y : VReg) : (h.setSh r y).waitmax = h.waitmax := rfl
@[simp] theorem Hart.setSh_fill (h : Hart) (r : BitVec 1) (y : VReg) : (h.setSh r y).fill = h.fill := rfl
@[simp] theorem Hart.setSh_stores (h : Hart) (r : BitVec 1) (y : VReg) : (h.setSh r y).stores = h.stores := rfl
@[simp] theorem Hart.setSh_strip (h : Hart) (r : BitVec 1) (y : VReg) : (h.setSh r y).strip = h.strip := rfl
@[simp] theorem Hart.setSh_thrPow (h : Hart) (r : BitVec 1) (y : VReg) : (h.setSh r y).thrPow = h.thrPow := rfl
@[simp] theorem Hart.setSh_thrBal (h : Hart) (r : BitVec 1) (y : VReg) : (h.setSh r y).thrBal = h.thrBal := rfl
@[simp] theorem Hart.setSh_balThrottle (h : Hart) (r : BitVec 1) (y : VReg) : (h.setSh r y).balThrottle = h.balThrottle := rfl
@[simp] theorem Hart.setSh_migTrap (h : Hart) (r : BitVec 1) (y : VReg) : (h.setSh r y).migTrap = h.migTrap := rfl
@[simp] theorem Hart.setSh_migMix (h : Hart) (r : BitVec 1) (y : VReg) : (h.setSh r y).migMix = h.migMix := rfl
@[simp] theorem Hart.setSh_ctxb (h : Hart) (r : BitVec 1) (y : VReg) : (h.setSh r y).ctxb = h.ctxb := rfl
@[simp] theorem Hart.setSh_qosShare (h : Hart) (r : BitVec 1) (y : VReg) : (h.setSh r y).qosShare = h.qosShare := rfl
@[simp] theorem Hart.setSh_v (h : Hart) (r : BitVec 1) (y : VReg) : (h.setSh r y).v = h.v := rfl
@[simp] theorem Hart.setSh_k (h : Hart) (r : BitVec 1) (y : VReg) : (h.setSh r y).k = h.k := rfl
@[simp] theorem Hart.setSh_m (h : Hart) (r : BitVec 1) (y : VReg) : (h.setSh r y).m = h.m := rfl
@[simp] theorem Hart.setSh_sc (h : Hart) (r : BitVec 1) (y : VReg) : (h.setSh r y).sc = h.sc := rfl
@[simp] theorem Hart.setSh_ct (h : Hart) (r : BitVec 1) (y : VReg) : (h.setSh r y).ct = h.ct := rfl
@[simp] theorem Hart.setSh_perm (h : Hart) (r : BitVec 1) (y : VReg) : (h.setSh r y).perm = h.perm := rfl
@[simp] theorem Hart.setSh_w (h : Hart) (r : BitVec 1) (y : VReg) : (h.setSh r y).w = h.w := rfl
@[simp] theorem Hart.setSh_ta (h : Hart) (r : BitVec 1) (y : VReg) : (h.setSh r y).ta = h.ta := rfl
@[simp] theorem Hart.setSh_vq (h : Hart) (r : BitVec 1) (y : VReg) : (h.setSh r y).vq = h.vq := rfl
@[simp] theorem Hart.setSh_stopped (h : Hart) (r : BitVec 1) (y : VReg) : (h.setSh r y).stopped = h.stopped := rfl
@[simp] theorem Hart.setSh_tagCtr (h : Hart) (r : BitVec 1) (y : VReg) : (h.setSh r y).tagCtr = h.tagCtr := rfl
@[simp] theorem Hart.setSh_copies (h : Hart) (r : BitVec 1) (y : VReg) : (h.setSh r y).copies = h.copies := rfl
@[simp] theorem Hart.setSh_expected (h : Hart) (r : BitVec 1) (y : VReg) : (h.setSh r y).expected = h.expected := rfl
@[simp] theorem Hart.setSh_pendClr (h : Hart) (r : BitVec 1) (y : VReg) : (h.setSh r y).pendClr = h.pendClr := rfl
@[simp] theorem Hart.setSh_pendSet (h : Hart) (r : BitVec 1) (y : VReg) : (h.setSh r y).pendSet = h.pendSet := rfl
@[simp] theorem Hart.setSh_bindings (h : Hart) (r : BitVec 1) (y : VReg) : (h.setSh r y).bindings = h.bindings := rfl
@[simp] theorem Hart.setSh_remote (h : Hart) (r : BitVec 1) (y : VReg) : (h.setSh r y).remote = h.remote := rfl
@[simp] theorem Hart.setSh_reports (h : Hart) (r : BitVec 1) (y : VReg) : (h.setSh r y).reports = h.reports := rfl
@[simp] theorem Hart.setSh_namoPend (h : Hart) (r : BitVec 1) (y : VReg) : (h.setSh r y).namoPend = h.namoPend := rfl
@[simp] theorem Hart.setSh_tmma (h : Hart) (r : BitVec 1) (y : VReg) : (h.setSh r y).tmma = h.tmma := rfl
@[simp] theorem Hart.setSh_incoming (h : Hart) (r : BitVec 1) (y : VReg) : (h.setSh r y).incoming = h.incoming := rfl
@[simp] theorem Hart.setSh_planFault (h : Hart) (r : BitVec 1) (y : VReg) : (h.setSh r y).planFault = h.planFault := rfl
@[simp] theorem Hart.setSh_stepDone (h : Hart) (r : BitVec 1) (y : VReg) : (h.setSh r y).stepDone = h.stepDone := rfl
@[simp] theorem Hart.setSh_gbarDone (h : Hart) (r : BitVec 1) (y : VReg) : (h.setSh r y).gbarDone = h.gbarDone := rfl
@[simp] theorem Hart.setSh_gbarHere (h : Hart) (r : BitVec 1) (y : VReg) : (h.setSh r y).gbarHere = h.gbarHere := rfl
@[simp] theorem Hart.setSh_waitOn (h : Hart) (r : BitVec 1) (y : VReg) : (h.setSh r y).waitOn = h.waitOn := rfl
@[simp] theorem Hart.setSh_waitS (h : Hart) (r : BitVec 1) (y : VReg) : (h.setSh r y).waitS = h.waitS := rfl
@[simp] theorem Hart.setSh_waitV (h : Hart) (r : BitVec 1) (y : VReg) : (h.setSh r y).waitV = h.waitV := rfl
@[simp] theorem Hart.setSh_ended (h : Hart) (r : BitVec 1) (y : VReg) : (h.setSh r y).ended = h.ended := rfl
@[simp] theorem Hart.setSh_yielded (h : Hart) (r : BitVec 1) (y : VReg) : (h.setSh r y).yielded = h.yielded := rfl
@[simp] theorem Hart.setSh_halted (h : Hart) (r : BitVec 1) (y : VReg) : (h.setSh r y).halted = h.halted := rfl
@[simp] theorem Hart.setSh_stepping (h : Hart) (r : BitVec 1) (y : VReg) : (h.setSh r y).stepping = h.stepping := rfl
@[simp] theorem Hart.setSh_rest (h : Hart) (r : BitVec 1) (y : VReg) : (h.setSh r y).rest = h.rest := rfl
@[simp] theorem Hart.setSh_desc (h : Hart) (r : BitVec 1) (y : VReg) : (h.setSh r y).desc = h.desc := rfl
@[simp] theorem Hart.setSh_seen (h : Hart) (r : BitVec 1) (y : VReg) : (h.setSh r y).seen = h.seen := rfl
@[simp] theorem Hart.setSh_resident (h : Hart) (r : BitVec 1) (y : VReg) : (h.setSh r y).resident = h.resident := rfl
@[simp] theorem Hart.setSh_flying (h : Hart) (r : BitVec 1) (y : VReg) : (h.setSh r y).flying = h.flying := rfl
@[simp] theorem Hart.setSh_goal (h : Hart) (r : BitVec 1) (y : VReg) : (h.setSh r y).goal = h.goal := rfl
@[simp] theorem Hart.setSh_peelErr (h : Hart) (r : BitVec 1) (y : VReg) : (h.setSh r y).peelErr = h.peelErr := rfl
@[simp] theorem Hart.setSh_badRegs (h : Hart) (r : BitVec 1) (y : VReg) : (h.setSh r y).badRegs = h.badRegs := rfl
@[simp] theorem Hart.setSh_dead (h : Hart) (r : BitVec 1) (y : VReg) : (h.setSh r y).dead = h.dead := rfl
@[simp] theorem Hart.setSh_preempt (h : Hart) (r : BitVec 1) (y : VReg) : (h.setSh r y).preempt = h.preempt := rfl
@[simp] theorem Hart.setSh_extint (h : Hart) (r : BitVec 1) (y : VReg) : (h.setSh r y).extint = h.extint := rfl
@[simp] theorem Hart.setSh_mcheck (h : Hart) (r : BitVec 1) (y : VReg) : (h.setSh r y).mcheck = h.mcheck := rfl
@[simp] theorem Hart.setSh_convoyLeft (h : Hart) (r : BitVec 1) (y : VReg) : (h.setSh r y).convoyLeft = h.convoyLeft := rfl
@[simp] theorem Hart.setSh_mixCount (h : Hart) (r : BitVec 1) (y : VReg) : (h.setSh r y).mixCount = h.mixCount := rfl
@[simp] theorem Hart.setSh_mixHits (h : Hart) (r : BitVec 1) (y : VReg) : (h.setSh r y).mixHits = h.mixHits := rfl
@[simp] theorem Hart.setSh_mixMoves (h : Hart) (r : BitVec 1) (y : VReg) : (h.setSh r y).mixMoves = h.mixMoves := rfl
@[simp] theorem Hart.setSh_mixRun (h : Hart) (r : BitVec 1) (y : VReg) : (h.setSh r y).mixRun = h.mixRun := rfl
@[simp] theorem Hart.setSh_mixHold (h : Hart) (r : BitVec 1) (y : VReg) : (h.setSh r y).mixHold = h.mixHold := rfl
@[simp] theorem Hart.setSh_blind (h : Hart) (r : BitVec 1) (y : VReg) : (h.setSh r y).blind = h.blind := rfl
@[simp] theorem Hart.setSh_blindSteps (h : Hart) (r : BitVec 1) (y : VReg) : (h.setSh r y).blindSteps = h.blindSteps := rfl

@[simp] theorem Hart.setSc_id (h : Hart) (r : BitVec 2) (y : ScReg) : (h.setSc r y).id = h.id := rfl
@[simp] theorem Hart.setSc_cls (h : Hart) (r : BitVec 2) (y : ScReg) : (h.setSc r y).cls = h.cls := rfl
@[simp] theorem Hart.setSc_core (h : Hart) (r : BitVec 2) (y : ScReg) : (h.setSc r y).core = h.core := rfl
@[simp] theorem Hart.setSc_slot (h : Hart) (r : BitVec 2) (y : ScReg) : (h.setSc r y).slot = h.slot := rfl
@[simp] theorem Hart.setSc_lg (h : Hart) (r : BitVec 2) (y : ScReg) : (h.setSc r y).lg = h.lg := rfl
@[simp] theorem Hart.setSc_x (h : Hart) (r : BitVec 2) (y : ScReg) : (h.setSc r y).x = h.x := rfl
@[simp] theorem Hart.setSc_f (h : Hart) (r : BitVec 2) (y : ScReg) : (h.setSc r y).f = h.f := rfl
@[simp] theorem Hart.setSc_pc (h : Hart) (r : BitVec 2) (y : ScReg) : (h.setSc r y).pc = h.pc := rfl
@[simp] theorem Hart.setSc_lv (h : Hart) (r : BitVec 2) (y : ScReg) : (h.setSc r y).lv = h.lv := rfl
@[simp] theorem Hart.setSc_ie (h : Hart) (r : BitVec 2) (y : ScReg) : (h.setSc r y).ie = h.ie := rfl
@[simp] theorem Hart.setSc_kb (h : Hart) (r : BitVec 2) (y : ScReg) : (h.setSc r y).kb = h.kb := rfl
@[simp] theorem Hart.setSc_mb (h : Hart) (r : BitVec 2) (y : ScReg) : (h.setSc r y).mb = h.mb := rfl
@[simp] theorem Hart.setSc_ktvec (h : Hart) (r : BitVec 2) (y : ScReg) : (h.setSc r y).ktvec = h.ktvec := rfl
@[simp] theorem Hart.setSc_mtvec (h : Hart) (r : BitVec 2) (y : ScReg) : (h.setSc r y).mtvec = h.mtvec := rfl
@[simp] theorem Hart.setSc_mkeep (h : Hart) (r : BitVec 2) (y : ScReg) : (h.setSc r y).mkeep = h.mkeep := rfl
@[simp] theorem Hart.setSc_vc (h : Hart) (r : BitVec 2) (y : ScReg) : (h.setSc r y).vc = h.vc := rfl
@[simp] theorem Hart.setSc_pcfg (h : Hart) (r : BitVec 2) (y : ScReg) : (h.setSc r y).pcfg = h.pcfg := rfl
@[simp] theorem Hart.setSc_ves (h : Hart) (r : BitVec 2) (y : ScReg) : (h.setSc r y).ves = h.ves := rfl
@[simp] theorem Hart.setSc_vcp (h : Hart) (r : BitVec 2) (y : ScReg) : (h.setSc r y).vcp = h.vcp := rfl
@[simp] theorem Hart.setSc_lix (h : Hart) (r : BitVec 2) (y : ScReg) : (h.setSc r y).lix = h.lix := rfl
@[simp] theorem Hart.setSc_xpos (h : Hart) (r : BitVec 2) (y : ScReg) : (h.setSc r y).xpos = h.xpos := rfl
@[simp] theorem Hart.setSc_vdirty (h : Hart) (r : BitVec 2) (y : ScReg) : (h.setSc r y).vdirty = h.vdirty := rfl
@[simp] theorem Hart.setSc_live (h : Hart) (r : BitVec 2) (y : ScReg) : (h.setSc r y).live = h.live := rfl
@[simp] theorem Hart.setSc_nres (h : Hart) (r : BitVec 2) (y : ScReg) : (h.setSc r y).nres = h.nres := rfl
@[simp] theorem Hart.setSc_fflags (h : Hart) (r : BitVec 2) (y : ScReg) : (h.setSc r y).fflags = h.fflags := rfl
@[simp] theorem Hart.setSc_ftz (h : Hart) (r : BitVec 2) (y : ScReg) : (h.setSc r y).ftz = h.ftz := rfl
@[simp] theorem Hart.setSc_fen (h : Hart) (r : BitVec 2) (y : ScReg) : (h.setSc r y).fen = h.fen := rfl
@[simp] theorem Hart.setSc_srseed (h : Hart) (r : BitVec 2) (y : ScReg) : (h.setSc r y).srseed = h.srseed := rfl
@[simp] theorem Hart.setSc_cycle (h : Hart) (r : BitVec 2) (y : ScReg) : (h.setSc r y).cycle = h.cycle := rfl
@[simp] theorem Hart.setSc_timecmp (h : Hart) (r : BitVec 2) (y : ScReg) : (h.setSc r y).timecmp = h.timecmp := rfl
@[simp] theorem Hart.setSc_waitmax (h : Hart) (r : BitVec 2) (y : ScReg) : (h.setSc r y).waitmax = h.waitmax := rfl
@[simp] theorem Hart.setSc_fill (h : Hart) (r : BitVec 2) (y : ScReg) : (h.setSc r y).fill = h.fill := rfl
@[simp] theorem Hart.setSc_stores (h : Hart) (r : BitVec 2) (y : ScReg) : (h.setSc r y).stores = h.stores := rfl
@[simp] theorem Hart.setSc_strip (h : Hart) (r : BitVec 2) (y : ScReg) : (h.setSc r y).strip = h.strip := rfl
@[simp] theorem Hart.setSc_thrPow (h : Hart) (r : BitVec 2) (y : ScReg) : (h.setSc r y).thrPow = h.thrPow := rfl
@[simp] theorem Hart.setSc_thrBal (h : Hart) (r : BitVec 2) (y : ScReg) : (h.setSc r y).thrBal = h.thrBal := rfl
@[simp] theorem Hart.setSc_balThrottle (h : Hart) (r : BitVec 2) (y : ScReg) : (h.setSc r y).balThrottle = h.balThrottle := rfl
@[simp] theorem Hart.setSc_migTrap (h : Hart) (r : BitVec 2) (y : ScReg) : (h.setSc r y).migTrap = h.migTrap := rfl
@[simp] theorem Hart.setSc_migMix (h : Hart) (r : BitVec 2) (y : ScReg) : (h.setSc r y).migMix = h.migMix := rfl
@[simp] theorem Hart.setSc_ctxb (h : Hart) (r : BitVec 2) (y : ScReg) : (h.setSc r y).ctxb = h.ctxb := rfl
@[simp] theorem Hart.setSc_qosShare (h : Hart) (r : BitVec 2) (y : ScReg) : (h.setSc r y).qosShare = h.qosShare := rfl
@[simp] theorem Hart.setSc_v (h : Hart) (r : BitVec 2) (y : ScReg) : (h.setSc r y).v = h.v := rfl
@[simp] theorem Hart.setSc_k (h : Hart) (r : BitVec 2) (y : ScReg) : (h.setSc r y).k = h.k := rfl
@[simp] theorem Hart.setSc_m (h : Hart) (r : BitVec 2) (y : ScReg) : (h.setSc r y).m = h.m := rfl
@[simp] theorem Hart.setSc_sh (h : Hart) (r : BitVec 2) (y : ScReg) : (h.setSc r y).sh = h.sh := rfl
@[simp] theorem Hart.setSc_ct (h : Hart) (r : BitVec 2) (y : ScReg) : (h.setSc r y).ct = h.ct := rfl
@[simp] theorem Hart.setSc_perm (h : Hart) (r : BitVec 2) (y : ScReg) : (h.setSc r y).perm = h.perm := rfl
@[simp] theorem Hart.setSc_w (h : Hart) (r : BitVec 2) (y : ScReg) : (h.setSc r y).w = h.w := rfl
@[simp] theorem Hart.setSc_ta (h : Hart) (r : BitVec 2) (y : ScReg) : (h.setSc r y).ta = h.ta := rfl
@[simp] theorem Hart.setSc_vq (h : Hart) (r : BitVec 2) (y : ScReg) : (h.setSc r y).vq = h.vq := rfl
@[simp] theorem Hart.setSc_stopped (h : Hart) (r : BitVec 2) (y : ScReg) : (h.setSc r y).stopped = h.stopped := rfl
@[simp] theorem Hart.setSc_tagCtr (h : Hart) (r : BitVec 2) (y : ScReg) : (h.setSc r y).tagCtr = h.tagCtr := rfl
@[simp] theorem Hart.setSc_copies (h : Hart) (r : BitVec 2) (y : ScReg) : (h.setSc r y).copies = h.copies := rfl
@[simp] theorem Hart.setSc_expected (h : Hart) (r : BitVec 2) (y : ScReg) : (h.setSc r y).expected = h.expected := rfl
@[simp] theorem Hart.setSc_pendClr (h : Hart) (r : BitVec 2) (y : ScReg) : (h.setSc r y).pendClr = h.pendClr := rfl
@[simp] theorem Hart.setSc_pendSet (h : Hart) (r : BitVec 2) (y : ScReg) : (h.setSc r y).pendSet = h.pendSet := rfl
@[simp] theorem Hart.setSc_bindings (h : Hart) (r : BitVec 2) (y : ScReg) : (h.setSc r y).bindings = h.bindings := rfl
@[simp] theorem Hart.setSc_remote (h : Hart) (r : BitVec 2) (y : ScReg) : (h.setSc r y).remote = h.remote := rfl
@[simp] theorem Hart.setSc_reports (h : Hart) (r : BitVec 2) (y : ScReg) : (h.setSc r y).reports = h.reports := rfl
@[simp] theorem Hart.setSc_namoPend (h : Hart) (r : BitVec 2) (y : ScReg) : (h.setSc r y).namoPend = h.namoPend := rfl
@[simp] theorem Hart.setSc_tmma (h : Hart) (r : BitVec 2) (y : ScReg) : (h.setSc r y).tmma = h.tmma := rfl
@[simp] theorem Hart.setSc_incoming (h : Hart) (r : BitVec 2) (y : ScReg) : (h.setSc r y).incoming = h.incoming := rfl
@[simp] theorem Hart.setSc_planFault (h : Hart) (r : BitVec 2) (y : ScReg) : (h.setSc r y).planFault = h.planFault := rfl
@[simp] theorem Hart.setSc_stepDone (h : Hart) (r : BitVec 2) (y : ScReg) : (h.setSc r y).stepDone = h.stepDone := rfl
@[simp] theorem Hart.setSc_gbarDone (h : Hart) (r : BitVec 2) (y : ScReg) : (h.setSc r y).gbarDone = h.gbarDone := rfl
@[simp] theorem Hart.setSc_gbarHere (h : Hart) (r : BitVec 2) (y : ScReg) : (h.setSc r y).gbarHere = h.gbarHere := rfl
@[simp] theorem Hart.setSc_waitOn (h : Hart) (r : BitVec 2) (y : ScReg) : (h.setSc r y).waitOn = h.waitOn := rfl
@[simp] theorem Hart.setSc_waitS (h : Hart) (r : BitVec 2) (y : ScReg) : (h.setSc r y).waitS = h.waitS := rfl
@[simp] theorem Hart.setSc_waitV (h : Hart) (r : BitVec 2) (y : ScReg) : (h.setSc r y).waitV = h.waitV := rfl
@[simp] theorem Hart.setSc_ended (h : Hart) (r : BitVec 2) (y : ScReg) : (h.setSc r y).ended = h.ended := rfl
@[simp] theorem Hart.setSc_yielded (h : Hart) (r : BitVec 2) (y : ScReg) : (h.setSc r y).yielded = h.yielded := rfl
@[simp] theorem Hart.setSc_halted (h : Hart) (r : BitVec 2) (y : ScReg) : (h.setSc r y).halted = h.halted := rfl
@[simp] theorem Hart.setSc_stepping (h : Hart) (r : BitVec 2) (y : ScReg) : (h.setSc r y).stepping = h.stepping := rfl
@[simp] theorem Hart.setSc_rest (h : Hart) (r : BitVec 2) (y : ScReg) : (h.setSc r y).rest = h.rest := rfl
@[simp] theorem Hart.setSc_desc (h : Hart) (r : BitVec 2) (y : ScReg) : (h.setSc r y).desc = h.desc := rfl
@[simp] theorem Hart.setSc_seen (h : Hart) (r : BitVec 2) (y : ScReg) : (h.setSc r y).seen = h.seen := rfl
@[simp] theorem Hart.setSc_resident (h : Hart) (r : BitVec 2) (y : ScReg) : (h.setSc r y).resident = h.resident := rfl
@[simp] theorem Hart.setSc_flying (h : Hart) (r : BitVec 2) (y : ScReg) : (h.setSc r y).flying = h.flying := rfl
@[simp] theorem Hart.setSc_goal (h : Hart) (r : BitVec 2) (y : ScReg) : (h.setSc r y).goal = h.goal := rfl
@[simp] theorem Hart.setSc_peelErr (h : Hart) (r : BitVec 2) (y : ScReg) : (h.setSc r y).peelErr = h.peelErr := rfl
@[simp] theorem Hart.setSc_badRegs (h : Hart) (r : BitVec 2) (y : ScReg) : (h.setSc r y).badRegs = h.badRegs := rfl
@[simp] theorem Hart.setSc_dead (h : Hart) (r : BitVec 2) (y : ScReg) : (h.setSc r y).dead = h.dead := rfl
@[simp] theorem Hart.setSc_preempt (h : Hart) (r : BitVec 2) (y : ScReg) : (h.setSc r y).preempt = h.preempt := rfl
@[simp] theorem Hart.setSc_extint (h : Hart) (r : BitVec 2) (y : ScReg) : (h.setSc r y).extint = h.extint := rfl
@[simp] theorem Hart.setSc_mcheck (h : Hart) (r : BitVec 2) (y : ScReg) : (h.setSc r y).mcheck = h.mcheck := rfl
@[simp] theorem Hart.setSc_convoyLeft (h : Hart) (r : BitVec 2) (y : ScReg) : (h.setSc r y).convoyLeft = h.convoyLeft := rfl
@[simp] theorem Hart.setSc_mixCount (h : Hart) (r : BitVec 2) (y : ScReg) : (h.setSc r y).mixCount = h.mixCount := rfl
@[simp] theorem Hart.setSc_mixHits (h : Hart) (r : BitVec 2) (y : ScReg) : (h.setSc r y).mixHits = h.mixHits := rfl
@[simp] theorem Hart.setSc_mixMoves (h : Hart) (r : BitVec 2) (y : ScReg) : (h.setSc r y).mixMoves = h.mixMoves := rfl
@[simp] theorem Hart.setSc_mixRun (h : Hart) (r : BitVec 2) (y : ScReg) : (h.setSc r y).mixRun = h.mixRun := rfl
@[simp] theorem Hart.setSc_mixHold (h : Hart) (r : BitVec 2) (y : ScReg) : (h.setSc r y).mixHold = h.mixHold := rfl
@[simp] theorem Hart.setSc_blind (h : Hart) (r : BitVec 2) (y : ScReg) : (h.setSc r y).blind = h.blind := rfl
@[simp] theorem Hart.setSc_blindSteps (h : Hart) (r : BitVec 2) (y : ScReg) : (h.setSc r y).blindSteps = h.blindSteps := rfl

@[simp] theorem Hart.setW_id (h : Hart) (r : BitVec 3) (y : TReg) : (h.setW r y).id = h.id := rfl
@[simp] theorem Hart.setW_cls (h : Hart) (r : BitVec 3) (y : TReg) : (h.setW r y).cls = h.cls := rfl
@[simp] theorem Hart.setW_core (h : Hart) (r : BitVec 3) (y : TReg) : (h.setW r y).core = h.core := rfl
@[simp] theorem Hart.setW_slot (h : Hart) (r : BitVec 3) (y : TReg) : (h.setW r y).slot = h.slot := rfl
@[simp] theorem Hart.setW_lg (h : Hart) (r : BitVec 3) (y : TReg) : (h.setW r y).lg = h.lg := rfl
@[simp] theorem Hart.setW_x (h : Hart) (r : BitVec 3) (y : TReg) : (h.setW r y).x = h.x := rfl
@[simp] theorem Hart.setW_f (h : Hart) (r : BitVec 3) (y : TReg) : (h.setW r y).f = h.f := rfl
@[simp] theorem Hart.setW_pc (h : Hart) (r : BitVec 3) (y : TReg) : (h.setW r y).pc = h.pc := rfl
@[simp] theorem Hart.setW_lv (h : Hart) (r : BitVec 3) (y : TReg) : (h.setW r y).lv = h.lv := rfl
@[simp] theorem Hart.setW_ie (h : Hart) (r : BitVec 3) (y : TReg) : (h.setW r y).ie = h.ie := rfl
@[simp] theorem Hart.setW_kb (h : Hart) (r : BitVec 3) (y : TReg) : (h.setW r y).kb = h.kb := rfl
@[simp] theorem Hart.setW_mb (h : Hart) (r : BitVec 3) (y : TReg) : (h.setW r y).mb = h.mb := rfl
@[simp] theorem Hart.setW_ktvec (h : Hart) (r : BitVec 3) (y : TReg) : (h.setW r y).ktvec = h.ktvec := rfl
@[simp] theorem Hart.setW_mtvec (h : Hart) (r : BitVec 3) (y : TReg) : (h.setW r y).mtvec = h.mtvec := rfl
@[simp] theorem Hart.setW_mkeep (h : Hart) (r : BitVec 3) (y : TReg) : (h.setW r y).mkeep = h.mkeep := rfl
@[simp] theorem Hart.setW_vc (h : Hart) (r : BitVec 3) (y : TReg) : (h.setW r y).vc = h.vc := rfl
@[simp] theorem Hart.setW_pcfg (h : Hart) (r : BitVec 3) (y : TReg) : (h.setW r y).pcfg = h.pcfg := rfl
@[simp] theorem Hart.setW_ves (h : Hart) (r : BitVec 3) (y : TReg) : (h.setW r y).ves = h.ves := rfl
@[simp] theorem Hart.setW_vcp (h : Hart) (r : BitVec 3) (y : TReg) : (h.setW r y).vcp = h.vcp := rfl
@[simp] theorem Hart.setW_lix (h : Hart) (r : BitVec 3) (y : TReg) : (h.setW r y).lix = h.lix := rfl
@[simp] theorem Hart.setW_xpos (h : Hart) (r : BitVec 3) (y : TReg) : (h.setW r y).xpos = h.xpos := rfl
@[simp] theorem Hart.setW_vdirty (h : Hart) (r : BitVec 3) (y : TReg) : (h.setW r y).vdirty = h.vdirty := rfl
@[simp] theorem Hart.setW_live (h : Hart) (r : BitVec 3) (y : TReg) : (h.setW r y).live = h.live := rfl
@[simp] theorem Hart.setW_nres (h : Hart) (r : BitVec 3) (y : TReg) : (h.setW r y).nres = h.nres := rfl
@[simp] theorem Hart.setW_fflags (h : Hart) (r : BitVec 3) (y : TReg) : (h.setW r y).fflags = h.fflags := rfl
@[simp] theorem Hart.setW_ftz (h : Hart) (r : BitVec 3) (y : TReg) : (h.setW r y).ftz = h.ftz := rfl
@[simp] theorem Hart.setW_fen (h : Hart) (r : BitVec 3) (y : TReg) : (h.setW r y).fen = h.fen := rfl
@[simp] theorem Hart.setW_srseed (h : Hart) (r : BitVec 3) (y : TReg) : (h.setW r y).srseed = h.srseed := rfl
@[simp] theorem Hart.setW_cycle (h : Hart) (r : BitVec 3) (y : TReg) : (h.setW r y).cycle = h.cycle := rfl
@[simp] theorem Hart.setW_timecmp (h : Hart) (r : BitVec 3) (y : TReg) : (h.setW r y).timecmp = h.timecmp := rfl
@[simp] theorem Hart.setW_waitmax (h : Hart) (r : BitVec 3) (y : TReg) : (h.setW r y).waitmax = h.waitmax := rfl
@[simp] theorem Hart.setW_fill (h : Hart) (r : BitVec 3) (y : TReg) : (h.setW r y).fill = h.fill := rfl
@[simp] theorem Hart.setW_stores (h : Hart) (r : BitVec 3) (y : TReg) : (h.setW r y).stores = h.stores := rfl
@[simp] theorem Hart.setW_strip (h : Hart) (r : BitVec 3) (y : TReg) : (h.setW r y).strip = h.strip := rfl
@[simp] theorem Hart.setW_thrPow (h : Hart) (r : BitVec 3) (y : TReg) : (h.setW r y).thrPow = h.thrPow := rfl
@[simp] theorem Hart.setW_thrBal (h : Hart) (r : BitVec 3) (y : TReg) : (h.setW r y).thrBal = h.thrBal := rfl
@[simp] theorem Hart.setW_balThrottle (h : Hart) (r : BitVec 3) (y : TReg) : (h.setW r y).balThrottle = h.balThrottle := rfl
@[simp] theorem Hart.setW_migTrap (h : Hart) (r : BitVec 3) (y : TReg) : (h.setW r y).migTrap = h.migTrap := rfl
@[simp] theorem Hart.setW_migMix (h : Hart) (r : BitVec 3) (y : TReg) : (h.setW r y).migMix = h.migMix := rfl
@[simp] theorem Hart.setW_ctxb (h : Hart) (r : BitVec 3) (y : TReg) : (h.setW r y).ctxb = h.ctxb := rfl
@[simp] theorem Hart.setW_qosShare (h : Hart) (r : BitVec 3) (y : TReg) : (h.setW r y).qosShare = h.qosShare := rfl
@[simp] theorem Hart.setW_v (h : Hart) (r : BitVec 3) (y : TReg) : (h.setW r y).v = h.v := rfl
@[simp] theorem Hart.setW_k (h : Hart) (r : BitVec 3) (y : TReg) : (h.setW r y).k = h.k := rfl
@[simp] theorem Hart.setW_m (h : Hart) (r : BitVec 3) (y : TReg) : (h.setW r y).m = h.m := rfl
@[simp] theorem Hart.setW_sh (h : Hart) (r : BitVec 3) (y : TReg) : (h.setW r y).sh = h.sh := rfl
@[simp] theorem Hart.setW_sc (h : Hart) (r : BitVec 3) (y : TReg) : (h.setW r y).sc = h.sc := rfl
@[simp] theorem Hart.setW_ct (h : Hart) (r : BitVec 3) (y : TReg) : (h.setW r y).ct = h.ct := rfl
@[simp] theorem Hart.setW_perm (h : Hart) (r : BitVec 3) (y : TReg) : (h.setW r y).perm = h.perm := rfl
@[simp] theorem Hart.setW_ta (h : Hart) (r : BitVec 3) (y : TReg) : (h.setW r y).ta = h.ta := rfl
@[simp] theorem Hart.setW_vq (h : Hart) (r : BitVec 3) (y : TReg) : (h.setW r y).vq = h.vq := rfl
@[simp] theorem Hart.setW_stopped (h : Hart) (r : BitVec 3) (y : TReg) : (h.setW r y).stopped = h.stopped := rfl
@[simp] theorem Hart.setW_tagCtr (h : Hart) (r : BitVec 3) (y : TReg) : (h.setW r y).tagCtr = h.tagCtr := rfl
@[simp] theorem Hart.setW_copies (h : Hart) (r : BitVec 3) (y : TReg) : (h.setW r y).copies = h.copies := rfl
@[simp] theorem Hart.setW_expected (h : Hart) (r : BitVec 3) (y : TReg) : (h.setW r y).expected = h.expected := rfl
@[simp] theorem Hart.setW_pendClr (h : Hart) (r : BitVec 3) (y : TReg) : (h.setW r y).pendClr = h.pendClr := rfl
@[simp] theorem Hart.setW_pendSet (h : Hart) (r : BitVec 3) (y : TReg) : (h.setW r y).pendSet = h.pendSet := rfl
@[simp] theorem Hart.setW_bindings (h : Hart) (r : BitVec 3) (y : TReg) : (h.setW r y).bindings = h.bindings := rfl
@[simp] theorem Hart.setW_remote (h : Hart) (r : BitVec 3) (y : TReg) : (h.setW r y).remote = h.remote := rfl
@[simp] theorem Hart.setW_reports (h : Hart) (r : BitVec 3) (y : TReg) : (h.setW r y).reports = h.reports := rfl
@[simp] theorem Hart.setW_namoPend (h : Hart) (r : BitVec 3) (y : TReg) : (h.setW r y).namoPend = h.namoPend := rfl
@[simp] theorem Hart.setW_tmma (h : Hart) (r : BitVec 3) (y : TReg) : (h.setW r y).tmma = h.tmma := rfl
@[simp] theorem Hart.setW_incoming (h : Hart) (r : BitVec 3) (y : TReg) : (h.setW r y).incoming = h.incoming := rfl
@[simp] theorem Hart.setW_planFault (h : Hart) (r : BitVec 3) (y : TReg) : (h.setW r y).planFault = h.planFault := rfl
@[simp] theorem Hart.setW_stepDone (h : Hart) (r : BitVec 3) (y : TReg) : (h.setW r y).stepDone = h.stepDone := rfl
@[simp] theorem Hart.setW_gbarDone (h : Hart) (r : BitVec 3) (y : TReg) : (h.setW r y).gbarDone = h.gbarDone := rfl
@[simp] theorem Hart.setW_gbarHere (h : Hart) (r : BitVec 3) (y : TReg) : (h.setW r y).gbarHere = h.gbarHere := rfl
@[simp] theorem Hart.setW_waitOn (h : Hart) (r : BitVec 3) (y : TReg) : (h.setW r y).waitOn = h.waitOn := rfl
@[simp] theorem Hart.setW_waitS (h : Hart) (r : BitVec 3) (y : TReg) : (h.setW r y).waitS = h.waitS := rfl
@[simp] theorem Hart.setW_waitV (h : Hart) (r : BitVec 3) (y : TReg) : (h.setW r y).waitV = h.waitV := rfl
@[simp] theorem Hart.setW_ended (h : Hart) (r : BitVec 3) (y : TReg) : (h.setW r y).ended = h.ended := rfl
@[simp] theorem Hart.setW_yielded (h : Hart) (r : BitVec 3) (y : TReg) : (h.setW r y).yielded = h.yielded := rfl
@[simp] theorem Hart.setW_halted (h : Hart) (r : BitVec 3) (y : TReg) : (h.setW r y).halted = h.halted := rfl
@[simp] theorem Hart.setW_stepping (h : Hart) (r : BitVec 3) (y : TReg) : (h.setW r y).stepping = h.stepping := rfl
@[simp] theorem Hart.setW_rest (h : Hart) (r : BitVec 3) (y : TReg) : (h.setW r y).rest = h.rest := rfl
@[simp] theorem Hart.setW_desc (h : Hart) (r : BitVec 3) (y : TReg) : (h.setW r y).desc = h.desc := rfl
@[simp] theorem Hart.setW_seen (h : Hart) (r : BitVec 3) (y : TReg) : (h.setW r y).seen = h.seen := rfl
@[simp] theorem Hart.setW_resident (h : Hart) (r : BitVec 3) (y : TReg) : (h.setW r y).resident = h.resident := rfl
@[simp] theorem Hart.setW_flying (h : Hart) (r : BitVec 3) (y : TReg) : (h.setW r y).flying = h.flying := rfl
@[simp] theorem Hart.setW_goal (h : Hart) (r : BitVec 3) (y : TReg) : (h.setW r y).goal = h.goal := rfl
@[simp] theorem Hart.setW_peelErr (h : Hart) (r : BitVec 3) (y : TReg) : (h.setW r y).peelErr = h.peelErr := rfl
@[simp] theorem Hart.setW_badRegs (h : Hart) (r : BitVec 3) (y : TReg) : (h.setW r y).badRegs = h.badRegs := rfl
@[simp] theorem Hart.setW_dead (h : Hart) (r : BitVec 3) (y : TReg) : (h.setW r y).dead = h.dead := rfl
@[simp] theorem Hart.setW_preempt (h : Hart) (r : BitVec 3) (y : TReg) : (h.setW r y).preempt = h.preempt := rfl
@[simp] theorem Hart.setW_extint (h : Hart) (r : BitVec 3) (y : TReg) : (h.setW r y).extint = h.extint := rfl
@[simp] theorem Hart.setW_mcheck (h : Hart) (r : BitVec 3) (y : TReg) : (h.setW r y).mcheck = h.mcheck := rfl
@[simp] theorem Hart.setW_convoyLeft (h : Hart) (r : BitVec 3) (y : TReg) : (h.setW r y).convoyLeft = h.convoyLeft := rfl
@[simp] theorem Hart.setW_mixCount (h : Hart) (r : BitVec 3) (y : TReg) : (h.setW r y).mixCount = h.mixCount := rfl
@[simp] theorem Hart.setW_mixHits (h : Hart) (r : BitVec 3) (y : TReg) : (h.setW r y).mixHits = h.mixHits := rfl
@[simp] theorem Hart.setW_mixMoves (h : Hart) (r : BitVec 3) (y : TReg) : (h.setW r y).mixMoves = h.mixMoves := rfl
@[simp] theorem Hart.setW_mixRun (h : Hart) (r : BitVec 3) (y : TReg) : (h.setW r y).mixRun = h.mixRun := rfl
@[simp] theorem Hart.setW_mixHold (h : Hart) (r : BitVec 3) (y : TReg) : (h.setW r y).mixHold = h.mixHold := rfl
@[simp] theorem Hart.setW_blind (h : Hart) (r : BitVec 3) (y : TReg) : (h.setW r y).blind = h.blind := rfl
@[simp] theorem Hart.setW_blindSteps (h : Hart) (r : BitVec 3) (y : TReg) : (h.setW r y).blindSteps = h.blindSteps := rfl

@[simp] theorem Hart.setTa_id (h : Hart) (r : BitVec 1) (y : TReg) : (h.setTa r y).id = h.id := rfl
@[simp] theorem Hart.setTa_cls (h : Hart) (r : BitVec 1) (y : TReg) : (h.setTa r y).cls = h.cls := rfl
@[simp] theorem Hart.setTa_core (h : Hart) (r : BitVec 1) (y : TReg) : (h.setTa r y).core = h.core := rfl
@[simp] theorem Hart.setTa_slot (h : Hart) (r : BitVec 1) (y : TReg) : (h.setTa r y).slot = h.slot := rfl
@[simp] theorem Hart.setTa_lg (h : Hart) (r : BitVec 1) (y : TReg) : (h.setTa r y).lg = h.lg := rfl
@[simp] theorem Hart.setTa_x (h : Hart) (r : BitVec 1) (y : TReg) : (h.setTa r y).x = h.x := rfl
@[simp] theorem Hart.setTa_f (h : Hart) (r : BitVec 1) (y : TReg) : (h.setTa r y).f = h.f := rfl
@[simp] theorem Hart.setTa_pc (h : Hart) (r : BitVec 1) (y : TReg) : (h.setTa r y).pc = h.pc := rfl
@[simp] theorem Hart.setTa_lv (h : Hart) (r : BitVec 1) (y : TReg) : (h.setTa r y).lv = h.lv := rfl
@[simp] theorem Hart.setTa_ie (h : Hart) (r : BitVec 1) (y : TReg) : (h.setTa r y).ie = h.ie := rfl
@[simp] theorem Hart.setTa_kb (h : Hart) (r : BitVec 1) (y : TReg) : (h.setTa r y).kb = h.kb := rfl
@[simp] theorem Hart.setTa_mb (h : Hart) (r : BitVec 1) (y : TReg) : (h.setTa r y).mb = h.mb := rfl
@[simp] theorem Hart.setTa_ktvec (h : Hart) (r : BitVec 1) (y : TReg) : (h.setTa r y).ktvec = h.ktvec := rfl
@[simp] theorem Hart.setTa_mtvec (h : Hart) (r : BitVec 1) (y : TReg) : (h.setTa r y).mtvec = h.mtvec := rfl
@[simp] theorem Hart.setTa_mkeep (h : Hart) (r : BitVec 1) (y : TReg) : (h.setTa r y).mkeep = h.mkeep := rfl
@[simp] theorem Hart.setTa_vc (h : Hart) (r : BitVec 1) (y : TReg) : (h.setTa r y).vc = h.vc := rfl
@[simp] theorem Hart.setTa_pcfg (h : Hart) (r : BitVec 1) (y : TReg) : (h.setTa r y).pcfg = h.pcfg := rfl
@[simp] theorem Hart.setTa_ves (h : Hart) (r : BitVec 1) (y : TReg) : (h.setTa r y).ves = h.ves := rfl
@[simp] theorem Hart.setTa_vcp (h : Hart) (r : BitVec 1) (y : TReg) : (h.setTa r y).vcp = h.vcp := rfl
@[simp] theorem Hart.setTa_lix (h : Hart) (r : BitVec 1) (y : TReg) : (h.setTa r y).lix = h.lix := rfl
@[simp] theorem Hart.setTa_xpos (h : Hart) (r : BitVec 1) (y : TReg) : (h.setTa r y).xpos = h.xpos := rfl
@[simp] theorem Hart.setTa_vdirty (h : Hart) (r : BitVec 1) (y : TReg) : (h.setTa r y).vdirty = h.vdirty := rfl
@[simp] theorem Hart.setTa_live (h : Hart) (r : BitVec 1) (y : TReg) : (h.setTa r y).live = h.live := rfl
@[simp] theorem Hart.setTa_nres (h : Hart) (r : BitVec 1) (y : TReg) : (h.setTa r y).nres = h.nres := rfl
@[simp] theorem Hart.setTa_fflags (h : Hart) (r : BitVec 1) (y : TReg) : (h.setTa r y).fflags = h.fflags := rfl
@[simp] theorem Hart.setTa_ftz (h : Hart) (r : BitVec 1) (y : TReg) : (h.setTa r y).ftz = h.ftz := rfl
@[simp] theorem Hart.setTa_fen (h : Hart) (r : BitVec 1) (y : TReg) : (h.setTa r y).fen = h.fen := rfl
@[simp] theorem Hart.setTa_srseed (h : Hart) (r : BitVec 1) (y : TReg) : (h.setTa r y).srseed = h.srseed := rfl
@[simp] theorem Hart.setTa_cycle (h : Hart) (r : BitVec 1) (y : TReg) : (h.setTa r y).cycle = h.cycle := rfl
@[simp] theorem Hart.setTa_timecmp (h : Hart) (r : BitVec 1) (y : TReg) : (h.setTa r y).timecmp = h.timecmp := rfl
@[simp] theorem Hart.setTa_waitmax (h : Hart) (r : BitVec 1) (y : TReg) : (h.setTa r y).waitmax = h.waitmax := rfl
@[simp] theorem Hart.setTa_fill (h : Hart) (r : BitVec 1) (y : TReg) : (h.setTa r y).fill = h.fill := rfl
@[simp] theorem Hart.setTa_stores (h : Hart) (r : BitVec 1) (y : TReg) : (h.setTa r y).stores = h.stores := rfl
@[simp] theorem Hart.setTa_strip (h : Hart) (r : BitVec 1) (y : TReg) : (h.setTa r y).strip = h.strip := rfl
@[simp] theorem Hart.setTa_thrPow (h : Hart) (r : BitVec 1) (y : TReg) : (h.setTa r y).thrPow = h.thrPow := rfl
@[simp] theorem Hart.setTa_thrBal (h : Hart) (r : BitVec 1) (y : TReg) : (h.setTa r y).thrBal = h.thrBal := rfl
@[simp] theorem Hart.setTa_balThrottle (h : Hart) (r : BitVec 1) (y : TReg) : (h.setTa r y).balThrottle = h.balThrottle := rfl
@[simp] theorem Hart.setTa_migTrap (h : Hart) (r : BitVec 1) (y : TReg) : (h.setTa r y).migTrap = h.migTrap := rfl
@[simp] theorem Hart.setTa_migMix (h : Hart) (r : BitVec 1) (y : TReg) : (h.setTa r y).migMix = h.migMix := rfl
@[simp] theorem Hart.setTa_ctxb (h : Hart) (r : BitVec 1) (y : TReg) : (h.setTa r y).ctxb = h.ctxb := rfl
@[simp] theorem Hart.setTa_qosShare (h : Hart) (r : BitVec 1) (y : TReg) : (h.setTa r y).qosShare = h.qosShare := rfl
@[simp] theorem Hart.setTa_v (h : Hart) (r : BitVec 1) (y : TReg) : (h.setTa r y).v = h.v := rfl
@[simp] theorem Hart.setTa_k (h : Hart) (r : BitVec 1) (y : TReg) : (h.setTa r y).k = h.k := rfl
@[simp] theorem Hart.setTa_m (h : Hart) (r : BitVec 1) (y : TReg) : (h.setTa r y).m = h.m := rfl
@[simp] theorem Hart.setTa_sh (h : Hart) (r : BitVec 1) (y : TReg) : (h.setTa r y).sh = h.sh := rfl
@[simp] theorem Hart.setTa_sc (h : Hart) (r : BitVec 1) (y : TReg) : (h.setTa r y).sc = h.sc := rfl
@[simp] theorem Hart.setTa_ct (h : Hart) (r : BitVec 1) (y : TReg) : (h.setTa r y).ct = h.ct := rfl
@[simp] theorem Hart.setTa_perm (h : Hart) (r : BitVec 1) (y : TReg) : (h.setTa r y).perm = h.perm := rfl
@[simp] theorem Hart.setTa_w (h : Hart) (r : BitVec 1) (y : TReg) : (h.setTa r y).w = h.w := rfl
@[simp] theorem Hart.setTa_vq (h : Hart) (r : BitVec 1) (y : TReg) : (h.setTa r y).vq = h.vq := rfl
@[simp] theorem Hart.setTa_stopped (h : Hart) (r : BitVec 1) (y : TReg) : (h.setTa r y).stopped = h.stopped := rfl
@[simp] theorem Hart.setTa_tagCtr (h : Hart) (r : BitVec 1) (y : TReg) : (h.setTa r y).tagCtr = h.tagCtr := rfl
@[simp] theorem Hart.setTa_copies (h : Hart) (r : BitVec 1) (y : TReg) : (h.setTa r y).copies = h.copies := rfl
@[simp] theorem Hart.setTa_expected (h : Hart) (r : BitVec 1) (y : TReg) : (h.setTa r y).expected = h.expected := rfl
@[simp] theorem Hart.setTa_pendClr (h : Hart) (r : BitVec 1) (y : TReg) : (h.setTa r y).pendClr = h.pendClr := rfl
@[simp] theorem Hart.setTa_pendSet (h : Hart) (r : BitVec 1) (y : TReg) : (h.setTa r y).pendSet = h.pendSet := rfl
@[simp] theorem Hart.setTa_bindings (h : Hart) (r : BitVec 1) (y : TReg) : (h.setTa r y).bindings = h.bindings := rfl
@[simp] theorem Hart.setTa_remote (h : Hart) (r : BitVec 1) (y : TReg) : (h.setTa r y).remote = h.remote := rfl
@[simp] theorem Hart.setTa_reports (h : Hart) (r : BitVec 1) (y : TReg) : (h.setTa r y).reports = h.reports := rfl
@[simp] theorem Hart.setTa_namoPend (h : Hart) (r : BitVec 1) (y : TReg) : (h.setTa r y).namoPend = h.namoPend := rfl
@[simp] theorem Hart.setTa_tmma (h : Hart) (r : BitVec 1) (y : TReg) : (h.setTa r y).tmma = h.tmma := rfl
@[simp] theorem Hart.setTa_incoming (h : Hart) (r : BitVec 1) (y : TReg) : (h.setTa r y).incoming = h.incoming := rfl
@[simp] theorem Hart.setTa_planFault (h : Hart) (r : BitVec 1) (y : TReg) : (h.setTa r y).planFault = h.planFault := rfl
@[simp] theorem Hart.setTa_stepDone (h : Hart) (r : BitVec 1) (y : TReg) : (h.setTa r y).stepDone = h.stepDone := rfl
@[simp] theorem Hart.setTa_gbarDone (h : Hart) (r : BitVec 1) (y : TReg) : (h.setTa r y).gbarDone = h.gbarDone := rfl
@[simp] theorem Hart.setTa_gbarHere (h : Hart) (r : BitVec 1) (y : TReg) : (h.setTa r y).gbarHere = h.gbarHere := rfl
@[simp] theorem Hart.setTa_waitOn (h : Hart) (r : BitVec 1) (y : TReg) : (h.setTa r y).waitOn = h.waitOn := rfl
@[simp] theorem Hart.setTa_waitS (h : Hart) (r : BitVec 1) (y : TReg) : (h.setTa r y).waitS = h.waitS := rfl
@[simp] theorem Hart.setTa_waitV (h : Hart) (r : BitVec 1) (y : TReg) : (h.setTa r y).waitV = h.waitV := rfl
@[simp] theorem Hart.setTa_ended (h : Hart) (r : BitVec 1) (y : TReg) : (h.setTa r y).ended = h.ended := rfl
@[simp] theorem Hart.setTa_yielded (h : Hart) (r : BitVec 1) (y : TReg) : (h.setTa r y).yielded = h.yielded := rfl
@[simp] theorem Hart.setTa_halted (h : Hart) (r : BitVec 1) (y : TReg) : (h.setTa r y).halted = h.halted := rfl
@[simp] theorem Hart.setTa_stepping (h : Hart) (r : BitVec 1) (y : TReg) : (h.setTa r y).stepping = h.stepping := rfl
@[simp] theorem Hart.setTa_rest (h : Hart) (r : BitVec 1) (y : TReg) : (h.setTa r y).rest = h.rest := rfl
@[simp] theorem Hart.setTa_desc (h : Hart) (r : BitVec 1) (y : TReg) : (h.setTa r y).desc = h.desc := rfl
@[simp] theorem Hart.setTa_seen (h : Hart) (r : BitVec 1) (y : TReg) : (h.setTa r y).seen = h.seen := rfl
@[simp] theorem Hart.setTa_resident (h : Hart) (r : BitVec 1) (y : TReg) : (h.setTa r y).resident = h.resident := rfl
@[simp] theorem Hart.setTa_flying (h : Hart) (r : BitVec 1) (y : TReg) : (h.setTa r y).flying = h.flying := rfl
@[simp] theorem Hart.setTa_goal (h : Hart) (r : BitVec 1) (y : TReg) : (h.setTa r y).goal = h.goal := rfl
@[simp] theorem Hart.setTa_peelErr (h : Hart) (r : BitVec 1) (y : TReg) : (h.setTa r y).peelErr = h.peelErr := rfl
@[simp] theorem Hart.setTa_badRegs (h : Hart) (r : BitVec 1) (y : TReg) : (h.setTa r y).badRegs = h.badRegs := rfl
@[simp] theorem Hart.setTa_dead (h : Hart) (r : BitVec 1) (y : TReg) : (h.setTa r y).dead = h.dead := rfl
@[simp] theorem Hart.setTa_preempt (h : Hart) (r : BitVec 1) (y : TReg) : (h.setTa r y).preempt = h.preempt := rfl
@[simp] theorem Hart.setTa_extint (h : Hart) (r : BitVec 1) (y : TReg) : (h.setTa r y).extint = h.extint := rfl
@[simp] theorem Hart.setTa_mcheck (h : Hart) (r : BitVec 1) (y : TReg) : (h.setTa r y).mcheck = h.mcheck := rfl
@[simp] theorem Hart.setTa_convoyLeft (h : Hart) (r : BitVec 1) (y : TReg) : (h.setTa r y).convoyLeft = h.convoyLeft := rfl
@[simp] theorem Hart.setTa_mixCount (h : Hart) (r : BitVec 1) (y : TReg) : (h.setTa r y).mixCount = h.mixCount := rfl
@[simp] theorem Hart.setTa_mixHits (h : Hart) (r : BitVec 1) (y : TReg) : (h.setTa r y).mixHits = h.mixHits := rfl
@[simp] theorem Hart.setTa_mixMoves (h : Hart) (r : BitVec 1) (y : TReg) : (h.setTa r y).mixMoves = h.mixMoves := rfl
@[simp] theorem Hart.setTa_mixRun (h : Hart) (r : BitVec 1) (y : TReg) : (h.setTa r y).mixRun = h.mixRun := rfl
@[simp] theorem Hart.setTa_mixHold (h : Hart) (r : BitVec 1) (y : TReg) : (h.setTa r y).mixHold = h.mixHold := rfl
@[simp] theorem Hart.setTa_blind (h : Hart) (r : BitVec 1) (y : TReg) : (h.setTa r y).blind = h.blind := rfl
@[simp] theorem Hart.setTa_blindSteps (h : Hart) (r : BitVec 1) (y : TReg) : (h.setTa r y).blindSteps = h.blindSteps := rfl

@[simp] theorem Hart.mark_id (h : Hart) (y : BitVec 12) : (h.mark y).id = h.id := rfl
@[simp] theorem Hart.mark_cls (h : Hart) (y : BitVec 12) : (h.mark y).cls = h.cls := rfl
@[simp] theorem Hart.mark_core (h : Hart) (y : BitVec 12) : (h.mark y).core = h.core := rfl
@[simp] theorem Hart.mark_slot (h : Hart) (y : BitVec 12) : (h.mark y).slot = h.slot := rfl
@[simp] theorem Hart.mark_lg (h : Hart) (y : BitVec 12) : (h.mark y).lg = h.lg := rfl
@[simp] theorem Hart.mark_x (h : Hart) (y : BitVec 12) : (h.mark y).x = h.x := rfl
@[simp] theorem Hart.mark_f (h : Hart) (y : BitVec 12) : (h.mark y).f = h.f := rfl
@[simp] theorem Hart.mark_pc (h : Hart) (y : BitVec 12) : (h.mark y).pc = h.pc := rfl
@[simp] theorem Hart.mark_lv (h : Hart) (y : BitVec 12) : (h.mark y).lv = h.lv := rfl
@[simp] theorem Hart.mark_ie (h : Hart) (y : BitVec 12) : (h.mark y).ie = h.ie := rfl
@[simp] theorem Hart.mark_kb (h : Hart) (y : BitVec 12) : (h.mark y).kb = h.kb := rfl
@[simp] theorem Hart.mark_mb (h : Hart) (y : BitVec 12) : (h.mark y).mb = h.mb := rfl
@[simp] theorem Hart.mark_ktvec (h : Hart) (y : BitVec 12) : (h.mark y).ktvec = h.ktvec := rfl
@[simp] theorem Hart.mark_mtvec (h : Hart) (y : BitVec 12) : (h.mark y).mtvec = h.mtvec := rfl
@[simp] theorem Hart.mark_mkeep (h : Hart) (y : BitVec 12) : (h.mark y).mkeep = h.mkeep := rfl
@[simp] theorem Hart.mark_vc (h : Hart) (y : BitVec 12) : (h.mark y).vc = h.vc := rfl
@[simp] theorem Hart.mark_pcfg (h : Hart) (y : BitVec 12) : (h.mark y).pcfg = h.pcfg := rfl
@[simp] theorem Hart.mark_ves (h : Hart) (y : BitVec 12) : (h.mark y).ves = h.ves := rfl
@[simp] theorem Hart.mark_vcp (h : Hart) (y : BitVec 12) : (h.mark y).vcp = h.vcp := rfl
@[simp] theorem Hart.mark_lix (h : Hart) (y : BitVec 12) : (h.mark y).lix = h.lix := rfl
@[simp] theorem Hart.mark_xpos (h : Hart) (y : BitVec 12) : (h.mark y).xpos = h.xpos := rfl
@[simp] theorem Hart.mark_nres (h : Hart) (y : BitVec 12) : (h.mark y).nres = h.nres := rfl
@[simp] theorem Hart.mark_fflags (h : Hart) (y : BitVec 12) : (h.mark y).fflags = h.fflags := rfl
@[simp] theorem Hart.mark_ftz (h : Hart) (y : BitVec 12) : (h.mark y).ftz = h.ftz := rfl
@[simp] theorem Hart.mark_fen (h : Hart) (y : BitVec 12) : (h.mark y).fen = h.fen := rfl
@[simp] theorem Hart.mark_srseed (h : Hart) (y : BitVec 12) : (h.mark y).srseed = h.srseed := rfl
@[simp] theorem Hart.mark_cycle (h : Hart) (y : BitVec 12) : (h.mark y).cycle = h.cycle := rfl
@[simp] theorem Hart.mark_timecmp (h : Hart) (y : BitVec 12) : (h.mark y).timecmp = h.timecmp := rfl
@[simp] theorem Hart.mark_waitmax (h : Hart) (y : BitVec 12) : (h.mark y).waitmax = h.waitmax := rfl
@[simp] theorem Hart.mark_fill (h : Hart) (y : BitVec 12) : (h.mark y).fill = h.fill := rfl
@[simp] theorem Hart.mark_stores (h : Hart) (y : BitVec 12) : (h.mark y).stores = h.stores := rfl
@[simp] theorem Hart.mark_strip (h : Hart) (y : BitVec 12) : (h.mark y).strip = h.strip := rfl
@[simp] theorem Hart.mark_thrPow (h : Hart) (y : BitVec 12) : (h.mark y).thrPow = h.thrPow := rfl
@[simp] theorem Hart.mark_thrBal (h : Hart) (y : BitVec 12) : (h.mark y).thrBal = h.thrBal := rfl
@[simp] theorem Hart.mark_balThrottle (h : Hart) (y : BitVec 12) : (h.mark y).balThrottle = h.balThrottle := rfl
@[simp] theorem Hart.mark_migTrap (h : Hart) (y : BitVec 12) : (h.mark y).migTrap = h.migTrap := rfl
@[simp] theorem Hart.mark_migMix (h : Hart) (y : BitVec 12) : (h.mark y).migMix = h.migMix := rfl
@[simp] theorem Hart.mark_ctxb (h : Hart) (y : BitVec 12) : (h.mark y).ctxb = h.ctxb := rfl
@[simp] theorem Hart.mark_qosShare (h : Hart) (y : BitVec 12) : (h.mark y).qosShare = h.qosShare := rfl
@[simp] theorem Hart.mark_v (h : Hart) (y : BitVec 12) : (h.mark y).v = h.v := rfl
@[simp] theorem Hart.mark_k (h : Hart) (y : BitVec 12) : (h.mark y).k = h.k := rfl
@[simp] theorem Hart.mark_m (h : Hart) (y : BitVec 12) : (h.mark y).m = h.m := rfl
@[simp] theorem Hart.mark_sh (h : Hart) (y : BitVec 12) : (h.mark y).sh = h.sh := rfl
@[simp] theorem Hart.mark_sc (h : Hart) (y : BitVec 12) : (h.mark y).sc = h.sc := rfl
@[simp] theorem Hart.mark_ct (h : Hart) (y : BitVec 12) : (h.mark y).ct = h.ct := rfl
@[simp] theorem Hart.mark_perm (h : Hart) (y : BitVec 12) : (h.mark y).perm = h.perm := rfl
@[simp] theorem Hart.mark_w (h : Hart) (y : BitVec 12) : (h.mark y).w = h.w := rfl
@[simp] theorem Hart.mark_ta (h : Hart) (y : BitVec 12) : (h.mark y).ta = h.ta := rfl
@[simp] theorem Hart.mark_vq (h : Hart) (y : BitVec 12) : (h.mark y).vq = h.vq := rfl
@[simp] theorem Hart.mark_stopped (h : Hart) (y : BitVec 12) : (h.mark y).stopped = h.stopped := rfl
@[simp] theorem Hart.mark_tagCtr (h : Hart) (y : BitVec 12) : (h.mark y).tagCtr = h.tagCtr := rfl
@[simp] theorem Hart.mark_copies (h : Hart) (y : BitVec 12) : (h.mark y).copies = h.copies := rfl
@[simp] theorem Hart.mark_expected (h : Hart) (y : BitVec 12) : (h.mark y).expected = h.expected := rfl
@[simp] theorem Hart.mark_pendClr (h : Hart) (y : BitVec 12) : (h.mark y).pendClr = h.pendClr := rfl
@[simp] theorem Hart.mark_pendSet (h : Hart) (y : BitVec 12) : (h.mark y).pendSet = h.pendSet := rfl
@[simp] theorem Hart.mark_bindings (h : Hart) (y : BitVec 12) : (h.mark y).bindings = h.bindings := rfl
@[simp] theorem Hart.mark_remote (h : Hart) (y : BitVec 12) : (h.mark y).remote = h.remote := rfl
@[simp] theorem Hart.mark_reports (h : Hart) (y : BitVec 12) : (h.mark y).reports = h.reports := rfl
@[simp] theorem Hart.mark_namoPend (h : Hart) (y : BitVec 12) : (h.mark y).namoPend = h.namoPend := rfl
@[simp] theorem Hart.mark_tmma (h : Hart) (y : BitVec 12) : (h.mark y).tmma = h.tmma := rfl
@[simp] theorem Hart.mark_incoming (h : Hart) (y : BitVec 12) : (h.mark y).incoming = h.incoming := rfl
@[simp] theorem Hart.mark_planFault (h : Hart) (y : BitVec 12) : (h.mark y).planFault = h.planFault := rfl
@[simp] theorem Hart.mark_stepDone (h : Hart) (y : BitVec 12) : (h.mark y).stepDone = h.stepDone := rfl
@[simp] theorem Hart.mark_gbarDone (h : Hart) (y : BitVec 12) : (h.mark y).gbarDone = h.gbarDone := rfl
@[simp] theorem Hart.mark_gbarHere (h : Hart) (y : BitVec 12) : (h.mark y).gbarHere = h.gbarHere := rfl
@[simp] theorem Hart.mark_waitOn (h : Hart) (y : BitVec 12) : (h.mark y).waitOn = h.waitOn := rfl
@[simp] theorem Hart.mark_waitS (h : Hart) (y : BitVec 12) : (h.mark y).waitS = h.waitS := rfl
@[simp] theorem Hart.mark_waitV (h : Hart) (y : BitVec 12) : (h.mark y).waitV = h.waitV := rfl
@[simp] theorem Hart.mark_ended (h : Hart) (y : BitVec 12) : (h.mark y).ended = h.ended := rfl
@[simp] theorem Hart.mark_yielded (h : Hart) (y : BitVec 12) : (h.mark y).yielded = h.yielded := rfl
@[simp] theorem Hart.mark_halted (h : Hart) (y : BitVec 12) : (h.mark y).halted = h.halted := rfl
@[simp] theorem Hart.mark_stepping (h : Hart) (y : BitVec 12) : (h.mark y).stepping = h.stepping := rfl
@[simp] theorem Hart.mark_rest (h : Hart) (y : BitVec 12) : (h.mark y).rest = h.rest := rfl
@[simp] theorem Hart.mark_desc (h : Hart) (y : BitVec 12) : (h.mark y).desc = h.desc := rfl
@[simp] theorem Hart.mark_seen (h : Hart) (y : BitVec 12) : (h.mark y).seen = h.seen := rfl
@[simp] theorem Hart.mark_resident (h : Hart) (y : BitVec 12) : (h.mark y).resident = h.resident := rfl
@[simp] theorem Hart.mark_flying (h : Hart) (y : BitVec 12) : (h.mark y).flying = h.flying := rfl
@[simp] theorem Hart.mark_goal (h : Hart) (y : BitVec 12) : (h.mark y).goal = h.goal := rfl
@[simp] theorem Hart.mark_peelErr (h : Hart) (y : BitVec 12) : (h.mark y).peelErr = h.peelErr := rfl
@[simp] theorem Hart.mark_badRegs (h : Hart) (y : BitVec 12) : (h.mark y).badRegs = h.badRegs := rfl
@[simp] theorem Hart.mark_dead (h : Hart) (y : BitVec 12) : (h.mark y).dead = h.dead := rfl
@[simp] theorem Hart.mark_preempt (h : Hart) (y : BitVec 12) : (h.mark y).preempt = h.preempt := rfl
@[simp] theorem Hart.mark_extint (h : Hart) (y : BitVec 12) : (h.mark y).extint = h.extint := rfl
@[simp] theorem Hart.mark_mcheck (h : Hart) (y : BitVec 12) : (h.mark y).mcheck = h.mcheck := rfl
@[simp] theorem Hart.mark_convoyLeft (h : Hart) (y : BitVec 12) : (h.mark y).convoyLeft = h.convoyLeft := rfl
@[simp] theorem Hart.mark_mixCount (h : Hart) (y : BitVec 12) : (h.mark y).mixCount = h.mixCount := rfl
@[simp] theorem Hart.mark_mixHits (h : Hart) (y : BitVec 12) : (h.mark y).mixHits = h.mixHits := rfl
@[simp] theorem Hart.mark_mixMoves (h : Hart) (y : BitVec 12) : (h.mark y).mixMoves = h.mixMoves := rfl
@[simp] theorem Hart.mark_mixRun (h : Hart) (y : BitVec 12) : (h.mark y).mixRun = h.mixRun := rfl
@[simp] theorem Hart.mark_mixHold (h : Hart) (y : BitVec 12) : (h.mark y).mixHold = h.mixHold := rfl
@[simp] theorem Hart.mark_blind (h : Hart) (y : BitVec 12) : (h.mark y).blind = h.blind := rfl
@[simp] theorem Hart.mark_blindSteps (h : Hart) (y : BitVec 12) : (h.mark y).blindSteps = h.blindSteps := rfl

@[simp] theorem Hart.endWait_id (h : Hart) : (h.endWait).id = h.id := rfl
@[simp] theorem Hart.endWait_cls (h : Hart) : (h.endWait).cls = h.cls := rfl
@[simp] theorem Hart.endWait_core (h : Hart) : (h.endWait).core = h.core := rfl
@[simp] theorem Hart.endWait_slot (h : Hart) : (h.endWait).slot = h.slot := rfl
@[simp] theorem Hart.endWait_lg (h : Hart) : (h.endWait).lg = h.lg := rfl
@[simp] theorem Hart.endWait_x (h : Hart) : (h.endWait).x = h.x := rfl
@[simp] theorem Hart.endWait_f (h : Hart) : (h.endWait).f = h.f := rfl
@[simp] theorem Hart.endWait_pc (h : Hart) : (h.endWait).pc = h.pc := rfl
@[simp] theorem Hart.endWait_lv (h : Hart) : (h.endWait).lv = h.lv := rfl
@[simp] theorem Hart.endWait_ie (h : Hart) : (h.endWait).ie = h.ie := rfl
@[simp] theorem Hart.endWait_kb (h : Hart) : (h.endWait).kb = h.kb := rfl
@[simp] theorem Hart.endWait_mb (h : Hart) : (h.endWait).mb = h.mb := rfl
@[simp] theorem Hart.endWait_ktvec (h : Hart) : (h.endWait).ktvec = h.ktvec := rfl
@[simp] theorem Hart.endWait_mtvec (h : Hart) : (h.endWait).mtvec = h.mtvec := rfl
@[simp] theorem Hart.endWait_mkeep (h : Hart) : (h.endWait).mkeep = h.mkeep := rfl
@[simp] theorem Hart.endWait_vc (h : Hart) : (h.endWait).vc = h.vc := rfl
@[simp] theorem Hart.endWait_pcfg (h : Hart) : (h.endWait).pcfg = h.pcfg := rfl
@[simp] theorem Hart.endWait_ves (h : Hart) : (h.endWait).ves = h.ves := rfl
@[simp] theorem Hart.endWait_vcp (h : Hart) : (h.endWait).vcp = h.vcp := rfl
@[simp] theorem Hart.endWait_lix (h : Hart) : (h.endWait).lix = h.lix := rfl
@[simp] theorem Hart.endWait_xpos (h : Hart) : (h.endWait).xpos = h.xpos := rfl
@[simp] theorem Hart.endWait_vdirty (h : Hart) : (h.endWait).vdirty = h.vdirty := rfl
@[simp] theorem Hart.endWait_live (h : Hart) : (h.endWait).live = h.live := rfl
@[simp] theorem Hart.endWait_nres (h : Hart) : (h.endWait).nres = h.nres := rfl
@[simp] theorem Hart.endWait_fflags (h : Hart) : (h.endWait).fflags = h.fflags := rfl
@[simp] theorem Hart.endWait_ftz (h : Hart) : (h.endWait).ftz = h.ftz := rfl
@[simp] theorem Hart.endWait_fen (h : Hart) : (h.endWait).fen = h.fen := rfl
@[simp] theorem Hart.endWait_srseed (h : Hart) : (h.endWait).srseed = h.srseed := rfl
@[simp] theorem Hart.endWait_cycle (h : Hart) : (h.endWait).cycle = h.cycle := rfl
@[simp] theorem Hart.endWait_timecmp (h : Hart) : (h.endWait).timecmp = h.timecmp := rfl
@[simp] theorem Hart.endWait_waitmax (h : Hart) : (h.endWait).waitmax = h.waitmax := rfl
@[simp] theorem Hart.endWait_fill (h : Hart) : (h.endWait).fill = h.fill := rfl
@[simp] theorem Hart.endWait_stores (h : Hart) : (h.endWait).stores = h.stores := rfl
@[simp] theorem Hart.endWait_strip (h : Hart) : (h.endWait).strip = h.strip := rfl
@[simp] theorem Hart.endWait_thrPow (h : Hart) : (h.endWait).thrPow = h.thrPow := rfl
@[simp] theorem Hart.endWait_thrBal (h : Hart) : (h.endWait).thrBal = h.thrBal := rfl
@[simp] theorem Hart.endWait_balThrottle (h : Hart) : (h.endWait).balThrottle = h.balThrottle := rfl
@[simp] theorem Hart.endWait_migTrap (h : Hart) : (h.endWait).migTrap = h.migTrap := rfl
@[simp] theorem Hart.endWait_migMix (h : Hart) : (h.endWait).migMix = h.migMix := rfl
@[simp] theorem Hart.endWait_ctxb (h : Hart) : (h.endWait).ctxb = h.ctxb := rfl
@[simp] theorem Hart.endWait_qosShare (h : Hart) : (h.endWait).qosShare = h.qosShare := rfl
@[simp] theorem Hart.endWait_v (h : Hart) : (h.endWait).v = h.v := rfl
@[simp] theorem Hart.endWait_k (h : Hart) : (h.endWait).k = h.k := rfl
@[simp] theorem Hart.endWait_m (h : Hart) : (h.endWait).m = h.m := rfl
@[simp] theorem Hart.endWait_sh (h : Hart) : (h.endWait).sh = h.sh := rfl
@[simp] theorem Hart.endWait_sc (h : Hart) : (h.endWait).sc = h.sc := rfl
@[simp] theorem Hart.endWait_ct (h : Hart) : (h.endWait).ct = h.ct := rfl
@[simp] theorem Hart.endWait_perm (h : Hart) : (h.endWait).perm = h.perm := rfl
@[simp] theorem Hart.endWait_w (h : Hart) : (h.endWait).w = h.w := rfl
@[simp] theorem Hart.endWait_ta (h : Hart) : (h.endWait).ta = h.ta := rfl
@[simp] theorem Hart.endWait_vq (h : Hart) : (h.endWait).vq = h.vq := rfl
@[simp] theorem Hart.endWait_stopped (h : Hart) : (h.endWait).stopped = h.stopped := rfl
@[simp] theorem Hart.endWait_tagCtr (h : Hart) : (h.endWait).tagCtr = h.tagCtr := rfl
@[simp] theorem Hart.endWait_copies (h : Hart) : (h.endWait).copies = h.copies := rfl
@[simp] theorem Hart.endWait_expected (h : Hart) : (h.endWait).expected = h.expected := rfl
@[simp] theorem Hart.endWait_pendClr (h : Hart) : (h.endWait).pendClr = h.pendClr := rfl
@[simp] theorem Hart.endWait_pendSet (h : Hart) : (h.endWait).pendSet = h.pendSet := rfl
@[simp] theorem Hart.endWait_bindings (h : Hart) : (h.endWait).bindings = h.bindings := rfl
@[simp] theorem Hart.endWait_remote (h : Hart) : (h.endWait).remote = h.remote := rfl
@[simp] theorem Hart.endWait_reports (h : Hart) : (h.endWait).reports = h.reports := rfl
@[simp] theorem Hart.endWait_namoPend (h : Hart) : (h.endWait).namoPend = h.namoPend := rfl
@[simp] theorem Hart.endWait_tmma (h : Hart) : (h.endWait).tmma = h.tmma := rfl
@[simp] theorem Hart.endWait_incoming (h : Hart) : (h.endWait).incoming = h.incoming := rfl
@[simp] theorem Hart.endWait_planFault (h : Hart) : (h.endWait).planFault = h.planFault := rfl
@[simp] theorem Hart.endWait_stepDone (h : Hart) : (h.endWait).stepDone = h.stepDone := rfl
@[simp] theorem Hart.endWait_gbarDone (h : Hart) : (h.endWait).gbarDone = h.gbarDone := rfl
@[simp] theorem Hart.endWait_gbarHere (h : Hart) : (h.endWait).gbarHere = h.gbarHere := rfl
@[simp] theorem Hart.endWait_waitV (h : Hart) : (h.endWait).waitV = h.waitV := rfl
@[simp] theorem Hart.endWait_ended (h : Hart) : (h.endWait).ended = h.ended := rfl
@[simp] theorem Hart.endWait_yielded (h : Hart) : (h.endWait).yielded = h.yielded := rfl
@[simp] theorem Hart.endWait_halted (h : Hart) : (h.endWait).halted = h.halted := rfl
@[simp] theorem Hart.endWait_stepping (h : Hart) : (h.endWait).stepping = h.stepping := rfl
@[simp] theorem Hart.endWait_rest (h : Hart) : (h.endWait).rest = h.rest := rfl
@[simp] theorem Hart.endWait_desc (h : Hart) : (h.endWait).desc = h.desc := rfl
@[simp] theorem Hart.endWait_seen (h : Hart) : (h.endWait).seen = h.seen := rfl
@[simp] theorem Hart.endWait_resident (h : Hart) : (h.endWait).resident = h.resident := rfl
@[simp] theorem Hart.endWait_flying (h : Hart) : (h.endWait).flying = h.flying := rfl
@[simp] theorem Hart.endWait_goal (h : Hart) : (h.endWait).goal = h.goal := rfl
@[simp] theorem Hart.endWait_peelErr (h : Hart) : (h.endWait).peelErr = h.peelErr := rfl
@[simp] theorem Hart.endWait_badRegs (h : Hart) : (h.endWait).badRegs = h.badRegs := rfl
@[simp] theorem Hart.endWait_dead (h : Hart) : (h.endWait).dead = h.dead := rfl
@[simp] theorem Hart.endWait_preempt (h : Hart) : (h.endWait).preempt = h.preempt := rfl
@[simp] theorem Hart.endWait_extint (h : Hart) : (h.endWait).extint = h.extint := rfl
@[simp] theorem Hart.endWait_mcheck (h : Hart) : (h.endWait).mcheck = h.mcheck := rfl
@[simp] theorem Hart.endWait_convoyLeft (h : Hart) : (h.endWait).convoyLeft = h.convoyLeft := rfl
@[simp] theorem Hart.endWait_mixCount (h : Hart) : (h.endWait).mixCount = h.mixCount := rfl
@[simp] theorem Hart.endWait_mixHits (h : Hart) : (h.endWait).mixHits = h.mixHits := rfl
@[simp] theorem Hart.endWait_mixMoves (h : Hart) : (h.endWait).mixMoves = h.mixMoves := rfl
@[simp] theorem Hart.endWait_mixRun (h : Hart) : (h.endWait).mixRun = h.mixRun := rfl
@[simp] theorem Hart.endWait_mixHold (h : Hart) : (h.endWait).mixHold = h.mixHold := rfl
@[simp] theorem Hart.endWait_blind (h : Hart) : (h.endWait).blind = h.blind := rfl
@[simp] theorem Hart.endWait_blindSteps (h : Hart) : (h.endWait).blindSteps = h.blindSteps := rfl

@[simp] theorem Hart.waitHere_id (h : Hart) (i : Instr) : (h.waitHere i).id = h.id := rfl
@[simp] theorem Hart.waitHere_cls (h : Hart) (i : Instr) : (h.waitHere i).cls = h.cls := rfl
@[simp] theorem Hart.waitHere_core (h : Hart) (i : Instr) : (h.waitHere i).core = h.core := rfl
@[simp] theorem Hart.waitHere_slot (h : Hart) (i : Instr) : (h.waitHere i).slot = h.slot := rfl
@[simp] theorem Hart.waitHere_lg (h : Hart) (i : Instr) : (h.waitHere i).lg = h.lg := rfl
@[simp] theorem Hart.waitHere_x (h : Hart) (i : Instr) : (h.waitHere i).x = h.x := rfl
@[simp] theorem Hart.waitHere_f (h : Hart) (i : Instr) : (h.waitHere i).f = h.f := rfl
@[simp] theorem Hart.waitHere_pc (h : Hart) (i : Instr) : (h.waitHere i).pc = h.pc := rfl
@[simp] theorem Hart.waitHere_lv (h : Hart) (i : Instr) : (h.waitHere i).lv = h.lv := rfl
@[simp] theorem Hart.waitHere_ie (h : Hart) (i : Instr) : (h.waitHere i).ie = h.ie := rfl
@[simp] theorem Hart.waitHere_kb (h : Hart) (i : Instr) : (h.waitHere i).kb = h.kb := rfl
@[simp] theorem Hart.waitHere_mb (h : Hart) (i : Instr) : (h.waitHere i).mb = h.mb := rfl
@[simp] theorem Hart.waitHere_ktvec (h : Hart) (i : Instr) : (h.waitHere i).ktvec = h.ktvec := rfl
@[simp] theorem Hart.waitHere_mtvec (h : Hart) (i : Instr) : (h.waitHere i).mtvec = h.mtvec := rfl
@[simp] theorem Hart.waitHere_mkeep (h : Hart) (i : Instr) : (h.waitHere i).mkeep = h.mkeep := rfl
@[simp] theorem Hart.waitHere_vc (h : Hart) (i : Instr) : (h.waitHere i).vc = h.vc := rfl
@[simp] theorem Hart.waitHere_pcfg (h : Hart) (i : Instr) : (h.waitHere i).pcfg = h.pcfg := rfl
@[simp] theorem Hart.waitHere_ves (h : Hart) (i : Instr) : (h.waitHere i).ves = h.ves := rfl
@[simp] theorem Hart.waitHere_vcp (h : Hart) (i : Instr) : (h.waitHere i).vcp = h.vcp := rfl
@[simp] theorem Hart.waitHere_lix (h : Hart) (i : Instr) : (h.waitHere i).lix = h.lix := rfl
@[simp] theorem Hart.waitHere_xpos (h : Hart) (i : Instr) : (h.waitHere i).xpos = h.xpos := rfl
@[simp] theorem Hart.waitHere_vdirty (h : Hart) (i : Instr) : (h.waitHere i).vdirty = h.vdirty := rfl
@[simp] theorem Hart.waitHere_live (h : Hart) (i : Instr) : (h.waitHere i).live = h.live := rfl
@[simp] theorem Hart.waitHere_nres (h : Hart) (i : Instr) : (h.waitHere i).nres = h.nres := rfl
@[simp] theorem Hart.waitHere_fflags (h : Hart) (i : Instr) : (h.waitHere i).fflags = h.fflags := rfl
@[simp] theorem Hart.waitHere_ftz (h : Hart) (i : Instr) : (h.waitHere i).ftz = h.ftz := rfl
@[simp] theorem Hart.waitHere_fen (h : Hart) (i : Instr) : (h.waitHere i).fen = h.fen := rfl
@[simp] theorem Hart.waitHere_srseed (h : Hart) (i : Instr) : (h.waitHere i).srseed = h.srseed := rfl
@[simp] theorem Hart.waitHere_cycle (h : Hart) (i : Instr) : (h.waitHere i).cycle = h.cycle := rfl
@[simp] theorem Hart.waitHere_timecmp (h : Hart) (i : Instr) : (h.waitHere i).timecmp = h.timecmp := rfl
@[simp] theorem Hart.waitHere_waitmax (h : Hart) (i : Instr) : (h.waitHere i).waitmax = h.waitmax := rfl
@[simp] theorem Hart.waitHere_fill (h : Hart) (i : Instr) : (h.waitHere i).fill = h.fill := rfl
@[simp] theorem Hart.waitHere_stores (h : Hart) (i : Instr) : (h.waitHere i).stores = h.stores := rfl
@[simp] theorem Hart.waitHere_strip (h : Hart) (i : Instr) : (h.waitHere i).strip = h.strip := rfl
@[simp] theorem Hart.waitHere_thrPow (h : Hart) (i : Instr) : (h.waitHere i).thrPow = h.thrPow := rfl
@[simp] theorem Hart.waitHere_thrBal (h : Hart) (i : Instr) : (h.waitHere i).thrBal = h.thrBal := rfl
@[simp] theorem Hart.waitHere_balThrottle (h : Hart) (i : Instr) : (h.waitHere i).balThrottle = h.balThrottle := rfl
@[simp] theorem Hart.waitHere_migTrap (h : Hart) (i : Instr) : (h.waitHere i).migTrap = h.migTrap := rfl
@[simp] theorem Hart.waitHere_migMix (h : Hart) (i : Instr) : (h.waitHere i).migMix = h.migMix := rfl
@[simp] theorem Hart.waitHere_ctxb (h : Hart) (i : Instr) : (h.waitHere i).ctxb = h.ctxb := rfl
@[simp] theorem Hart.waitHere_qosShare (h : Hart) (i : Instr) : (h.waitHere i).qosShare = h.qosShare := rfl
@[simp] theorem Hart.waitHere_v (h : Hart) (i : Instr) : (h.waitHere i).v = h.v := rfl
@[simp] theorem Hart.waitHere_k (h : Hart) (i : Instr) : (h.waitHere i).k = h.k := rfl
@[simp] theorem Hart.waitHere_m (h : Hart) (i : Instr) : (h.waitHere i).m = h.m := rfl
@[simp] theorem Hart.waitHere_sh (h : Hart) (i : Instr) : (h.waitHere i).sh = h.sh := rfl
@[simp] theorem Hart.waitHere_sc (h : Hart) (i : Instr) : (h.waitHere i).sc = h.sc := rfl
@[simp] theorem Hart.waitHere_ct (h : Hart) (i : Instr) : (h.waitHere i).ct = h.ct := rfl
@[simp] theorem Hart.waitHere_perm (h : Hart) (i : Instr) : (h.waitHere i).perm = h.perm := rfl
@[simp] theorem Hart.waitHere_w (h : Hart) (i : Instr) : (h.waitHere i).w = h.w := rfl
@[simp] theorem Hart.waitHere_ta (h : Hart) (i : Instr) : (h.waitHere i).ta = h.ta := rfl
@[simp] theorem Hart.waitHere_vq (h : Hart) (i : Instr) : (h.waitHere i).vq = h.vq := rfl
@[simp] theorem Hart.waitHere_stopped (h : Hart) (i : Instr) : (h.waitHere i).stopped = h.stopped := rfl
@[simp] theorem Hart.waitHere_tagCtr (h : Hart) (i : Instr) : (h.waitHere i).tagCtr = h.tagCtr := rfl
@[simp] theorem Hart.waitHere_copies (h : Hart) (i : Instr) : (h.waitHere i).copies = h.copies := rfl
@[simp] theorem Hart.waitHere_expected (h : Hart) (i : Instr) : (h.waitHere i).expected = h.expected := rfl
@[simp] theorem Hart.waitHere_pendClr (h : Hart) (i : Instr) : (h.waitHere i).pendClr = h.pendClr := rfl
@[simp] theorem Hart.waitHere_pendSet (h : Hart) (i : Instr) : (h.waitHere i).pendSet = h.pendSet := rfl
@[simp] theorem Hart.waitHere_bindings (h : Hart) (i : Instr) : (h.waitHere i).bindings = h.bindings := rfl
@[simp] theorem Hart.waitHere_remote (h : Hart) (i : Instr) : (h.waitHere i).remote = h.remote := rfl
@[simp] theorem Hart.waitHere_reports (h : Hart) (i : Instr) : (h.waitHere i).reports = h.reports := rfl
@[simp] theorem Hart.waitHere_namoPend (h : Hart) (i : Instr) : (h.waitHere i).namoPend = h.namoPend := rfl
@[simp] theorem Hart.waitHere_tmma (h : Hart) (i : Instr) : (h.waitHere i).tmma = h.tmma := rfl
@[simp] theorem Hart.waitHere_incoming (h : Hart) (i : Instr) : (h.waitHere i).incoming = h.incoming := rfl
@[simp] theorem Hart.waitHere_planFault (h : Hart) (i : Instr) : (h.waitHere i).planFault = h.planFault := rfl
@[simp] theorem Hart.waitHere_stepDone (h : Hart) (i : Instr) : (h.waitHere i).stepDone = h.stepDone := rfl
@[simp] theorem Hart.waitHere_gbarDone (h : Hart) (i : Instr) : (h.waitHere i).gbarDone = h.gbarDone := rfl
@[simp] theorem Hart.waitHere_gbarHere (h : Hart) (i : Instr) : (h.waitHere i).gbarHere = h.gbarHere := rfl
@[simp] theorem Hart.waitHere_waitV (h : Hart) (i : Instr) : (h.waitHere i).waitV = h.waitV := rfl
@[simp] theorem Hart.waitHere_ended (h : Hart) (i : Instr) : (h.waitHere i).ended = h.ended := rfl
@[simp] theorem Hart.waitHere_yielded (h : Hart) (i : Instr) : (h.waitHere i).yielded = h.yielded := rfl
@[simp] theorem Hart.waitHere_halted (h : Hart) (i : Instr) : (h.waitHere i).halted = h.halted := rfl
@[simp] theorem Hart.waitHere_stepping (h : Hart) (i : Instr) : (h.waitHere i).stepping = h.stepping := rfl
@[simp] theorem Hart.waitHere_rest (h : Hart) (i : Instr) : (h.waitHere i).rest = h.rest := rfl
@[simp] theorem Hart.waitHere_desc (h : Hart) (i : Instr) : (h.waitHere i).desc = h.desc := rfl
@[simp] theorem Hart.waitHere_seen (h : Hart) (i : Instr) : (h.waitHere i).seen = h.seen := rfl
@[simp] theorem Hart.waitHere_resident (h : Hart) (i : Instr) : (h.waitHere i).resident = h.resident := rfl
@[simp] theorem Hart.waitHere_flying (h : Hart) (i : Instr) : (h.waitHere i).flying = h.flying := rfl
@[simp] theorem Hart.waitHere_goal (h : Hart) (i : Instr) : (h.waitHere i).goal = h.goal := rfl
@[simp] theorem Hart.waitHere_peelErr (h : Hart) (i : Instr) : (h.waitHere i).peelErr = h.peelErr := rfl
@[simp] theorem Hart.waitHere_badRegs (h : Hart) (i : Instr) : (h.waitHere i).badRegs = h.badRegs := rfl
@[simp] theorem Hart.waitHere_dead (h : Hart) (i : Instr) : (h.waitHere i).dead = h.dead := rfl
@[simp] theorem Hart.waitHere_preempt (h : Hart) (i : Instr) : (h.waitHere i).preempt = h.preempt := rfl
@[simp] theorem Hart.waitHere_extint (h : Hart) (i : Instr) : (h.waitHere i).extint = h.extint := rfl
@[simp] theorem Hart.waitHere_mcheck (h : Hart) (i : Instr) : (h.waitHere i).mcheck = h.mcheck := rfl
@[simp] theorem Hart.waitHere_convoyLeft (h : Hart) (i : Instr) : (h.waitHere i).convoyLeft = h.convoyLeft := rfl
@[simp] theorem Hart.waitHere_mixCount (h : Hart) (i : Instr) : (h.waitHere i).mixCount = h.mixCount := rfl
@[simp] theorem Hart.waitHere_mixHits (h : Hart) (i : Instr) : (h.waitHere i).mixHits = h.mixHits := rfl
@[simp] theorem Hart.waitHere_mixMoves (h : Hart) (i : Instr) : (h.waitHere i).mixMoves = h.mixMoves := rfl
@[simp] theorem Hart.waitHere_mixRun (h : Hart) (i : Instr) : (h.waitHere i).mixRun = h.mixRun := rfl
@[simp] theorem Hart.waitHere_mixHold (h : Hart) (i : Instr) : (h.waitHere i).mixHold = h.mixHold := rfl
@[simp] theorem Hart.waitHere_blind (h : Hart) (i : Instr) : (h.waitHere i).blind = h.blind := rfl
@[simp] theorem Hart.waitHere_blindSteps (h : Hart) (i : Instr) : (h.waitHere i).blindSteps = h.blindSteps := rfl

@[simp] theorem State.setX_others (s : State) (r : Reg) (y : Word) : (s.setX r y).others = s.others := rfl
@[simp] theorem State.setX_gangs (s : State) (r : Reg) (y : Word) : (s.setX r y).gangs = s.gangs := rfl
@[simp] theorem State.setX_files (s : State) (r : Reg) (y : Word) : (s.setX r y).files = s.files := rfl
@[simp] theorem State.setX_sched (s : State) (r : Reg) (y : Word) : (s.setX r y).sched = s.sched := rfl
@[simp] theorem State.setX_strings (s : State) (r : Reg) (y : Word) : (s.setX r y).strings = s.strings := rfl
@[simp] theorem State.setX_bellows (s : State) (r : Reg) (y : Word) : (s.setX r y).bellows = s.bellows := rfl
@[simp] theorem State.setX_phase (s : State) (r : Reg) (y : Word) : (s.setX r y).phase = s.phase := rfl
@[simp] theorem State.setX_mem (s : State) (r : Reg) (y : Word) : (s.setX r y).mem = s.mem := rfl
@[simp] theorem State.setX_unseen (s : State) (r : Reg) (y : Word) : (s.setX r y).unseen = s.unseen := rfl
@[simp] theorem State.setX_bad (s : State) (r : Reg) (y : Word) : (s.setX r y).bad = s.bad := rfl
@[simp] theorem State.setX_tlb (s : State) (r : Reg) (y : Word) : (s.setX r y).tlb = s.tlb := rfl
@[simp] theorem State.setX_walks (s : State) (r : Reg) (y : Word) : (s.setX r y).walks = s.walks := rfl
@[simp] theorem State.setX_icache (s : State) (r : Reg) (y : Word) : (s.setX r y).icache = s.icache := rfl
@[simp] theorem State.setX_hostLines (s : State) (r : Reg) (y : Word) : (s.setX r y).hostLines = s.hostLines := rfl
@[simp] theorem State.setX_hostCopies (s : State) (r : Reg) (y : Word) : (s.setX r y).hostCopies = s.hostCopies := rfl
@[simp] theorem State.setX_hdm (s : State) (r : Reg) (y : Word) : (s.setX r y).hdm = s.hdm := rfl
@[simp] theorem State.setX_poolLines (s : State) (r : Reg) (y : Word) : (s.setX r y).poolLines = s.poolLines := rfl
@[simp] theorem State.setX_poolUp (s : State) (r : Reg) (y : Word) : (s.setX r y).poolUp = s.poolUp := rfl
@[simp] theorem State.setX_portsOn (s : State) (r : Reg) (y : Word) : (s.setX r y).portsOn = s.portsOn := rfl
@[simp] theorem State.setX_rebeica (s : State) (r : Reg) (y : Word) : (s.setX r y).rebeica = s.rebeica := rfl
@[simp] theorem State.setX_adapter (s : State) (r : Reg) (y : Word) : (s.setX r y).adapter = s.adapter := rfl
@[simp] theorem State.setX_mailbox (s : State) (r : Reg) (y : Word) : (s.setX r y).mailbox = s.mailbox := rfl
@[simp] theorem State.setX_contributions (s : State) (r : Reg) (y : Word) : (s.setX r y).contributions = s.contributions := rfl
@[simp] theorem State.setX_invRunning (s : State) (r : Reg) (y : Word) : (s.setX r y).invRunning = s.invRunning := rfl
@[simp] theorem State.setX_thermal (s : State) (r : Reg) (y : Word) : (s.setX r y).thermal = s.thermal := rfl
@[simp] theorem State.setX_heat (s : State) (r : Reg) (y : Word) : (s.setX r y).heat = s.heat := rfl
@[simp] theorem State.setX_time (s : State) (r : Reg) (y : Word) : (s.setX r y).time = s.time := rfl
@[simp] theorem State.setX_out (s : State) (r : Reg) (y : Word) : (s.setX r y).out = s.out := rfl
@[simp] theorem State.setX_agenda (s : State) (r : Reg) (y : Word) : (s.setX r y).agenda = s.agenda := rfl
@[simp] theorem State.setX_hold (s : State) (r : Reg) (y : Word) : (s.setX r y).hold = s.hold := rfl
@[simp] theorem State.setX_turns (s : State) (r : Reg) (y : Word) : (s.setX r y).turns = s.turns := rfl
@[simp] theorem State.setX_pace (s : State) (r : Reg) (y : Word) : (s.setX r y).pace = s.pace := rfl
@[simp] theorem State.setX_stimuli (s : State) (r : Reg) (y : Word) : (s.setX r y).stimuli = s.stimuli := rfl
@[simp] theorem State.setX_tick (s : State) (r : Reg) (y : Word) : (s.setX r y).tick = s.tick := rfl

@[simp] theorem State.setPc_others (s : State) (a : Word) : (s.setPc a).others = s.others := rfl
@[simp] theorem State.setPc_gangs (s : State) (a : Word) : (s.setPc a).gangs = s.gangs := rfl
@[simp] theorem State.setPc_files (s : State) (a : Word) : (s.setPc a).files = s.files := rfl
@[simp] theorem State.setPc_sched (s : State) (a : Word) : (s.setPc a).sched = s.sched := rfl
@[simp] theorem State.setPc_strings (s : State) (a : Word) : (s.setPc a).strings = s.strings := rfl
@[simp] theorem State.setPc_bellows (s : State) (a : Word) : (s.setPc a).bellows = s.bellows := rfl
@[simp] theorem State.setPc_phase (s : State) (a : Word) : (s.setPc a).phase = s.phase := rfl
@[simp] theorem State.setPc_mem (s : State) (a : Word) : (s.setPc a).mem = s.mem := rfl
@[simp] theorem State.setPc_unseen (s : State) (a : Word) : (s.setPc a).unseen = s.unseen := rfl
@[simp] theorem State.setPc_bad (s : State) (a : Word) : (s.setPc a).bad = s.bad := rfl
@[simp] theorem State.setPc_tlb (s : State) (a : Word) : (s.setPc a).tlb = s.tlb := rfl
@[simp] theorem State.setPc_walks (s : State) (a : Word) : (s.setPc a).walks = s.walks := rfl
@[simp] theorem State.setPc_icache (s : State) (a : Word) : (s.setPc a).icache = s.icache := rfl
@[simp] theorem State.setPc_hostLines (s : State) (a : Word) : (s.setPc a).hostLines = s.hostLines := rfl
@[simp] theorem State.setPc_hostCopies (s : State) (a : Word) : (s.setPc a).hostCopies = s.hostCopies := rfl
@[simp] theorem State.setPc_hdm (s : State) (a : Word) : (s.setPc a).hdm = s.hdm := rfl
@[simp] theorem State.setPc_poolLines (s : State) (a : Word) : (s.setPc a).poolLines = s.poolLines := rfl
@[simp] theorem State.setPc_poolUp (s : State) (a : Word) : (s.setPc a).poolUp = s.poolUp := rfl
@[simp] theorem State.setPc_portsOn (s : State) (a : Word) : (s.setPc a).portsOn = s.portsOn := rfl
@[simp] theorem State.setPc_rebeica (s : State) (a : Word) : (s.setPc a).rebeica = s.rebeica := rfl
@[simp] theorem State.setPc_adapter (s : State) (a : Word) : (s.setPc a).adapter = s.adapter := rfl
@[simp] theorem State.setPc_mailbox (s : State) (a : Word) : (s.setPc a).mailbox = s.mailbox := rfl
@[simp] theorem State.setPc_contributions (s : State) (a : Word) : (s.setPc a).contributions = s.contributions := rfl
@[simp] theorem State.setPc_invRunning (s : State) (a : Word) : (s.setPc a).invRunning = s.invRunning := rfl
@[simp] theorem State.setPc_thermal (s : State) (a : Word) : (s.setPc a).thermal = s.thermal := rfl
@[simp] theorem State.setPc_heat (s : State) (a : Word) : (s.setPc a).heat = s.heat := rfl
@[simp] theorem State.setPc_time (s : State) (a : Word) : (s.setPc a).time = s.time := rfl
@[simp] theorem State.setPc_out (s : State) (a : Word) : (s.setPc a).out = s.out := rfl
@[simp] theorem State.setPc_agenda (s : State) (a : Word) : (s.setPc a).agenda = s.agenda := rfl
@[simp] theorem State.setPc_hold (s : State) (a : Word) : (s.setPc a).hold = s.hold := rfl
@[simp] theorem State.setPc_turns (s : State) (a : Word) : (s.setPc a).turns = s.turns := rfl
@[simp] theorem State.setPc_pace (s : State) (a : Word) : (s.setPc a).pace = s.pace := rfl
@[simp] theorem State.setPc_stimuli (s : State) (a : Word) : (s.setPc a).stimuli = s.stimuli := rfl
@[simp] theorem State.setPc_tick (s : State) (a : Word) : (s.setPc a).tick = s.tick := rfl

@[simp] theorem State.advance_others (s : State) (n : Nat) : (s.advance n).others = s.others := rfl
@[simp] theorem State.advance_gangs (s : State) (n : Nat) : (s.advance n).gangs = s.gangs := rfl
@[simp] theorem State.advance_files (s : State) (n : Nat) : (s.advance n).files = s.files := rfl
@[simp] theorem State.advance_sched (s : State) (n : Nat) : (s.advance n).sched = s.sched := rfl
@[simp] theorem State.advance_strings (s : State) (n : Nat) : (s.advance n).strings = s.strings := rfl
@[simp] theorem State.advance_bellows (s : State) (n : Nat) : (s.advance n).bellows = s.bellows := rfl
@[simp] theorem State.advance_phase (s : State) (n : Nat) : (s.advance n).phase = s.phase := rfl
@[simp] theorem State.advance_mem (s : State) (n : Nat) : (s.advance n).mem = s.mem := rfl
@[simp] theorem State.advance_unseen (s : State) (n : Nat) : (s.advance n).unseen = s.unseen := rfl
@[simp] theorem State.advance_bad (s : State) (n : Nat) : (s.advance n).bad = s.bad := rfl
@[simp] theorem State.advance_tlb (s : State) (n : Nat) : (s.advance n).tlb = s.tlb := rfl
@[simp] theorem State.advance_walks (s : State) (n : Nat) : (s.advance n).walks = s.walks := rfl
@[simp] theorem State.advance_icache (s : State) (n : Nat) : (s.advance n).icache = s.icache := rfl
@[simp] theorem State.advance_hostLines (s : State) (n : Nat) : (s.advance n).hostLines = s.hostLines := rfl
@[simp] theorem State.advance_hostCopies (s : State) (n : Nat) : (s.advance n).hostCopies = s.hostCopies := rfl
@[simp] theorem State.advance_hdm (s : State) (n : Nat) : (s.advance n).hdm = s.hdm := rfl
@[simp] theorem State.advance_poolLines (s : State) (n : Nat) : (s.advance n).poolLines = s.poolLines := rfl
@[simp] theorem State.advance_poolUp (s : State) (n : Nat) : (s.advance n).poolUp = s.poolUp := rfl
@[simp] theorem State.advance_portsOn (s : State) (n : Nat) : (s.advance n).portsOn = s.portsOn := rfl
@[simp] theorem State.advance_rebeica (s : State) (n : Nat) : (s.advance n).rebeica = s.rebeica := rfl
@[simp] theorem State.advance_adapter (s : State) (n : Nat) : (s.advance n).adapter = s.adapter := rfl
@[simp] theorem State.advance_mailbox (s : State) (n : Nat) : (s.advance n).mailbox = s.mailbox := rfl
@[simp] theorem State.advance_contributions (s : State) (n : Nat) : (s.advance n).contributions = s.contributions := rfl
@[simp] theorem State.advance_invRunning (s : State) (n : Nat) : (s.advance n).invRunning = s.invRunning := rfl
@[simp] theorem State.advance_thermal (s : State) (n : Nat) : (s.advance n).thermal = s.thermal := rfl
@[simp] theorem State.advance_heat (s : State) (n : Nat) : (s.advance n).heat = s.heat := rfl
@[simp] theorem State.advance_time (s : State) (n : Nat) : (s.advance n).time = s.time := rfl
@[simp] theorem State.advance_out (s : State) (n : Nat) : (s.advance n).out = s.out := rfl
@[simp] theorem State.advance_agenda (s : State) (n : Nat) : (s.advance n).agenda = s.agenda := rfl
@[simp] theorem State.advance_hold (s : State) (n : Nat) : (s.advance n).hold = s.hold := rfl
@[simp] theorem State.advance_turns (s : State) (n : Nat) : (s.advance n).turns = s.turns := rfl
@[simp] theorem State.advance_pace (s : State) (n : Nat) : (s.advance n).pace = s.pace := rfl
@[simp] theorem State.advance_stimuli (s : State) (n : Nat) : (s.advance n).stimuli = s.stimuli := rfl
@[simp] theorem State.advance_tick (s : State) (n : Nat) : (s.advance n).tick = s.tick := rfl

@[simp] theorem State.result_others (s : State) (r : Reg) (y : Word) : (s.result r y).others = s.others := rfl
@[simp] theorem State.result_gangs (s : State) (r : Reg) (y : Word) : (s.result r y).gangs = s.gangs := rfl
@[simp] theorem State.result_files (s : State) (r : Reg) (y : Word) : (s.result r y).files = s.files := rfl
@[simp] theorem State.result_sched (s : State) (r : Reg) (y : Word) : (s.result r y).sched = s.sched := rfl
@[simp] theorem State.result_strings (s : State) (r : Reg) (y : Word) : (s.result r y).strings = s.strings := rfl
@[simp] theorem State.result_bellows (s : State) (r : Reg) (y : Word) : (s.result r y).bellows = s.bellows := rfl
@[simp] theorem State.result_phase (s : State) (r : Reg) (y : Word) : (s.result r y).phase = s.phase := rfl
@[simp] theorem State.result_mem (s : State) (r : Reg) (y : Word) : (s.result r y).mem = s.mem := rfl
@[simp] theorem State.result_unseen (s : State) (r : Reg) (y : Word) : (s.result r y).unseen = s.unseen := rfl
@[simp] theorem State.result_bad (s : State) (r : Reg) (y : Word) : (s.result r y).bad = s.bad := rfl
@[simp] theorem State.result_tlb (s : State) (r : Reg) (y : Word) : (s.result r y).tlb = s.tlb := rfl
@[simp] theorem State.result_walks (s : State) (r : Reg) (y : Word) : (s.result r y).walks = s.walks := rfl
@[simp] theorem State.result_icache (s : State) (r : Reg) (y : Word) : (s.result r y).icache = s.icache := rfl
@[simp] theorem State.result_hostLines (s : State) (r : Reg) (y : Word) : (s.result r y).hostLines = s.hostLines := rfl
@[simp] theorem State.result_hostCopies (s : State) (r : Reg) (y : Word) : (s.result r y).hostCopies = s.hostCopies := rfl
@[simp] theorem State.result_hdm (s : State) (r : Reg) (y : Word) : (s.result r y).hdm = s.hdm := rfl
@[simp] theorem State.result_poolLines (s : State) (r : Reg) (y : Word) : (s.result r y).poolLines = s.poolLines := rfl
@[simp] theorem State.result_poolUp (s : State) (r : Reg) (y : Word) : (s.result r y).poolUp = s.poolUp := rfl
@[simp] theorem State.result_portsOn (s : State) (r : Reg) (y : Word) : (s.result r y).portsOn = s.portsOn := rfl
@[simp] theorem State.result_rebeica (s : State) (r : Reg) (y : Word) : (s.result r y).rebeica = s.rebeica := rfl
@[simp] theorem State.result_adapter (s : State) (r : Reg) (y : Word) : (s.result r y).adapter = s.adapter := rfl
@[simp] theorem State.result_mailbox (s : State) (r : Reg) (y : Word) : (s.result r y).mailbox = s.mailbox := rfl
@[simp] theorem State.result_contributions (s : State) (r : Reg) (y : Word) : (s.result r y).contributions = s.contributions := rfl
@[simp] theorem State.result_invRunning (s : State) (r : Reg) (y : Word) : (s.result r y).invRunning = s.invRunning := rfl
@[simp] theorem State.result_thermal (s : State) (r : Reg) (y : Word) : (s.result r y).thermal = s.thermal := rfl
@[simp] theorem State.result_heat (s : State) (r : Reg) (y : Word) : (s.result r y).heat = s.heat := rfl
@[simp] theorem State.result_time (s : State) (r : Reg) (y : Word) : (s.result r y).time = s.time := rfl
@[simp] theorem State.result_out (s : State) (r : Reg) (y : Word) : (s.result r y).out = s.out := rfl
@[simp] theorem State.result_agenda (s : State) (r : Reg) (y : Word) : (s.result r y).agenda = s.agenda := rfl
@[simp] theorem State.result_hold (s : State) (r : Reg) (y : Word) : (s.result r y).hold = s.hold := rfl
@[simp] theorem State.result_turns (s : State) (r : Reg) (y : Word) : (s.result r y).turns = s.turns := rfl
@[simp] theorem State.result_pace (s : State) (r : Reg) (y : Word) : (s.result r y).pace = s.pace := rfl
@[simp] theorem State.result_stimuli (s : State) (r : Reg) (y : Word) : (s.result r y).stimuli = s.stimuli := rfl
@[simp] theorem State.result_tick (s : State) (r : Reg) (y : Word) : (s.result r y).tick = s.tick := rfl

@[simp] theorem State.setX_hart (s : State) (r : Reg) (y : Word) : (s.setX r y).hart = s.hart.setX r y := rfl
@[simp] theorem State.setPc_hart (s : State) (a : Word) : (s.setPc a).hart = { s.hart with pc := a } := rfl
@[simp] theorem State.advance_hart (s : State) (n : Nat) :
    (s.advance n).hart = { s.hart with pc := s.hart.pc + BitVec.ofNat 64 (4 * n) } := rfl
@[simp] theorem State.result_hart (s : State) (r : Reg) (y : Word) :
    (s.result r y).hart = { s.hart.setX r y with pc := s.hart.pc + 4 } := by
  simp [State.result]
theorem State.getX_result (s : State) (r q : Reg) (y : Word) :
    (s.result r y).getX q = if q = 0 then 0 else if q = r then y else s.getX q := by
  have h : (s.result r y).getX q = (s.hart.setX r y).getX q := by
    unfold State.getX; rw [State.result_hart]; rfl
  rw [h, Hart.getX_setX]; rfl

end Sys2Proof.Machine
end

