-- ==== Sys2Proof/Laws/Access.lean ====
section
/-! SUPPORT. What an access may change: one lemma per operation on the way from an address to memory. -/
namespace Sys2Proof.Machine
open Sys2Proof

/-- A device's read of a Coherent line changes what the host holds, and tells it. -/
theorem backRead_form (s : State) (pa : Nat) :
    backRead s pa = { s with hostCopies := (backRead s pa).hostCopies, out := (backRead s pa).out } := by
  unfold backRead
  dsimp only
  split <;> rfl
theorem backReads_form : ∀ (l : List Nat) (s : State),
    l.foldl backRead s = { s with hostCopies := (l.foldl backRead s).hostCopies, out := (l.foldl backRead s).out }
  | [], _ => rfl
  | pa :: t, s => by
    rw [List.foldl_cons, backReads_form t, backRead_form s]
/-- Remembering translations changes what the agents hold, and what the host holds of the entries' lines. -/
theorem notePage_form (s : State) (c : Ctx) (site va : Nat) :
    notePage s c site va = { s with tlb := (notePage s c site va).tlb, walks := (notePage s c site va).walks,
                                    hostCopies := (notePage s c site va).hostCopies, out := (notePage s c site va).out } := by
  unfold notePage
  dsimp only
  split
  · rfl
  · split
    · rfl
    · rw [backReads_form]
theorem noteXlat_form (s : State) (c : Ctx) (va : Word) (n : Nat) :
    noteXlat s c va n = { s with tlb := (noteXlat s c va n).tlb, walks := (noteXlat s c va n).walks,
                                 hostCopies := (noteXlat s c va n).hostCopies, out := (noteXlat s c va n).out } := by
  unfold noteXlat
  generalize List.range _ = l
  induction l generalizing s with
  | nil => rfl
  | cons i t ih =>
    rw [List.foldl_cons, ih]
    dsimp only
    rw [notePage_form s]
/-- What L2 and the directory track of a line changes four fields alone. -/
theorem touchHost_form (s : State) (w : Bool) (pa : Nat) :
    touchHost s w pa = { s with hostLines := (touchHost s w pa).hostLines, hostCopies := (touchHost s w pa).hostCopies,
                                poolLines := (touchHost s w pa).poolLines, out := (touchHost s w pa).out } := by
  unfold touchHost hostState
  dsimp only
  split
  all_goals first | rfl | (split <;> first | rfl | rw [backRead_form s pa])
theorem touchLines_form : ∀ (l : List Nat) (s : State) (w : Bool),
    touchLines s w l = { s with hostLines := (touchLines s w l).hostLines, hostCopies := (touchLines s w l).hostCopies,
                                poolLines := (touchLines s w l).poolLines, out := (touchLines s w l).out }
  | [], s, w => rfl
  | pa :: t, s, w => by
    unfold touchLines
    split
    · exact touchLines_form t s w
    · rw [touchLines_form t (touchHost s w pa) w]
      rw [touchHost_form s w pa]
@[simp] theorem noteXlat_hart (s : State) (c : Ctx) (va : Word) (n : Nat) : (noteXlat s c va n).hart = s.hart := by rw [noteXlat_form]
@[simp] theorem noteXlat_others (s : State) (c : Ctx) (va : Word) (n : Nat) : (noteXlat s c va n).others = s.others := by rw [noteXlat_form]
@[simp] theorem noteXlat_gangs (s : State) (c : Ctx) (va : Word) (n : Nat) : (noteXlat s c va n).gangs = s.gangs := by rw [noteXlat_form]
@[simp] theorem noteXlat_files (s : State) (c : Ctx) (va : Word) (n : Nat) : (noteXlat s c va n).files = s.files := by rw [noteXlat_form]
@[simp] theorem noteXlat_sched (s : State) (c : Ctx) (va : Word) (n : Nat) : (noteXlat s c va n).sched = s.sched := by rw [noteXlat_form]
@[simp] theorem noteXlat_strings (s : State) (c : Ctx) (va : Word) (n : Nat) : (noteXlat s c va n).strings = s.strings := by rw [noteXlat_form]
@[simp] theorem noteXlat_bellows (s : State) (c : Ctx) (va : Word) (n : Nat) : (noteXlat s c va n).bellows = s.bellows := by rw [noteXlat_form]
@[simp] theorem noteXlat_phase (s : State) (c : Ctx) (va : Word) (n : Nat) : (noteXlat s c va n).phase = s.phase := by rw [noteXlat_form]
@[simp] theorem noteXlat_mem (s : State) (c : Ctx) (va : Word) (n : Nat) : (noteXlat s c va n).mem = s.mem := by rw [noteXlat_form]
@[simp] theorem noteXlat_unseen (s : State) (c : Ctx) (va : Word) (n : Nat) : (noteXlat s c va n).unseen = s.unseen := by rw [noteXlat_form]
@[simp] theorem noteXlat_bad (s : State) (c : Ctx) (va : Word) (n : Nat) : (noteXlat s c va n).bad = s.bad := by rw [noteXlat_form]
@[simp] theorem noteXlat_icache (s : State) (c : Ctx) (va : Word) (n : Nat) : (noteXlat s c va n).icache = s.icache := by rw [noteXlat_form]
@[simp] theorem noteXlat_hostLines (s : State) (c : Ctx) (va : Word) (n : Nat) : (noteXlat s c va n).hostLines = s.hostLines := by rw [noteXlat_form]
@[simp] theorem noteXlat_hdm (s : State) (c : Ctx) (va : Word) (n : Nat) : (noteXlat s c va n).hdm = s.hdm := by rw [noteXlat_form]
@[simp] theorem noteXlat_poolLines (s : State) (c : Ctx) (va : Word) (n : Nat) : (noteXlat s c va n).poolLines = s.poolLines := by rw [noteXlat_form]
@[simp] theorem noteXlat_poolUp (s : State) (c : Ctx) (va : Word) (n : Nat) : (noteXlat s c va n).poolUp = s.poolUp := by rw [noteXlat_form]
@[simp] theorem noteXlat_portsOn (s : State) (c : Ctx) (va : Word) (n : Nat) : (noteXlat s c va n).portsOn = s.portsOn := by rw [noteXlat_form]
@[simp] theorem noteXlat_rebeica (s : State) (c : Ctx) (va : Word) (n : Nat) : (noteXlat s c va n).rebeica = s.rebeica := by rw [noteXlat_form]
@[simp] theorem noteXlat_adapter (s : State) (c : Ctx) (va : Word) (n : Nat) : (noteXlat s c va n).adapter = s.adapter := by rw [noteXlat_form]
@[simp] theorem noteXlat_mailbox (s : State) (c : Ctx) (va : Word) (n : Nat) : (noteXlat s c va n).mailbox = s.mailbox := by rw [noteXlat_form]
@[simp] theorem noteXlat_contributions (s : State) (c : Ctx) (va : Word) (n : Nat) : (noteXlat s c va n).contributions = s.contributions := by rw [noteXlat_form]
@[simp] theorem noteXlat_invRunning (s : State) (c : Ctx) (va : Word) (n : Nat) : (noteXlat s c va n).invRunning = s.invRunning := by rw [noteXlat_form]
@[simp] theorem noteXlat_thermal (s : State) (c : Ctx) (va : Word) (n : Nat) : (noteXlat s c va n).thermal = s.thermal := by rw [noteXlat_form]
@[simp] theorem noteXlat_heat (s : State) (c : Ctx) (va : Word) (n : Nat) : (noteXlat s c va n).heat = s.heat := by rw [noteXlat_form]
@[simp] theorem noteXlat_time (s : State) (c : Ctx) (va : Word) (n : Nat) : (noteXlat s c va n).time = s.time := by rw [noteXlat_form]
@[simp] theorem noteXlat_agenda (s : State) (c : Ctx) (va : Word) (n : Nat) : (noteXlat s c va n).agenda = s.agenda := by rw [noteXlat_form]
@[simp] theorem noteXlat_hold (s : State) (c : Ctx) (va : Word) (n : Nat) : (noteXlat s c va n).hold = s.hold := by rw [noteXlat_form]
@[simp] theorem noteXlat_turns (s : State) (c : Ctx) (va : Word) (n : Nat) : (noteXlat s c va n).turns = s.turns := by rw [noteXlat_form]
@[simp] theorem noteXlat_pace (s : State) (c : Ctx) (va : Word) (n : Nat) : (noteXlat s c va n).pace = s.pace := by rw [noteXlat_form]
@[simp] theorem noteXlat_stimuli (s : State) (c : Ctx) (va : Word) (n : Nat) : (noteXlat s c va n).stimuli = s.stimuli := by rw [noteXlat_form]
@[simp] theorem noteXlat_tick (s : State) (c : Ctx) (va : Word) (n : Nat) : (noteXlat s c va n).tick = s.tick := by rw [noteXlat_form]
@[simp] theorem touchLines_hart (s : State) (w : Bool) (l : List Nat) : (touchLines s w l).hart = s.hart := by rw [touchLines_form]
@[simp] theorem touchLines_others (s : State) (w : Bool) (l : List Nat) : (touchLines s w l).others = s.others := by rw [touchLines_form]
@[simp] theorem touchLines_gangs (s : State) (w : Bool) (l : List Nat) : (touchLines s w l).gangs = s.gangs := by rw [touchLines_form]
@[simp] theorem touchLines_files (s : State) (w : Bool) (l : List Nat) : (touchLines s w l).files = s.files := by rw [touchLines_form]
@[simp] theorem touchLines_sched (s : State) (w : Bool) (l : List Nat) : (touchLines s w l).sched = s.sched := by rw [touchLines_form]
@[simp] theorem touchLines_strings (s : State) (w : Bool) (l : List Nat) : (touchLines s w l).strings = s.strings := by rw [touchLines_form]
@[simp] theorem touchLines_bellows (s : State) (w : Bool) (l : List Nat) : (touchLines s w l).bellows = s.bellows := by rw [touchLines_form]
@[simp] theorem touchLines_phase (s : State) (w : Bool) (l : List Nat) : (touchLines s w l).phase = s.phase := by rw [touchLines_form]
@[simp] theorem touchLines_mem (s : State) (w : Bool) (l : List Nat) : (touchLines s w l).mem = s.mem := by rw [touchLines_form]
@[simp] theorem touchLines_unseen (s : State) (w : Bool) (l : List Nat) : (touchLines s w l).unseen = s.unseen := by rw [touchLines_form]
@[simp] theorem touchLines_bad (s : State) (w : Bool) (l : List Nat) : (touchLines s w l).bad = s.bad := by rw [touchLines_form]
@[simp] theorem touchLines_tlb (s : State) (w : Bool) (l : List Nat) : (touchLines s w l).tlb = s.tlb := by rw [touchLines_form]
@[simp] theorem touchLines_walks (s : State) (w : Bool) (l : List Nat) : (touchLines s w l).walks = s.walks := by rw [touchLines_form]
@[simp] theorem touchLines_icache (s : State) (w : Bool) (l : List Nat) : (touchLines s w l).icache = s.icache := by rw [touchLines_form]
@[simp] theorem touchLines_hdm (s : State) (w : Bool) (l : List Nat) : (touchLines s w l).hdm = s.hdm := by rw [touchLines_form]
@[simp] theorem touchLines_poolUp (s : State) (w : Bool) (l : List Nat) : (touchLines s w l).poolUp = s.poolUp := by rw [touchLines_form]
@[simp] theorem touchLines_portsOn (s : State) (w : Bool) (l : List Nat) : (touchLines s w l).portsOn = s.portsOn := by rw [touchLines_form]
@[simp] theorem touchLines_rebeica (s : State) (w : Bool) (l : List Nat) : (touchLines s w l).rebeica = s.rebeica := by rw [touchLines_form]
@[simp] theorem touchLines_adapter (s : State) (w : Bool) (l : List Nat) : (touchLines s w l).adapter = s.adapter := by rw [touchLines_form]
@[simp] theorem touchLines_mailbox (s : State) (w : Bool) (l : List Nat) : (touchLines s w l).mailbox = s.mailbox := by rw [touchLines_form]
@[simp] theorem touchLines_contributions (s : State) (w : Bool) (l : List Nat) : (touchLines s w l).contributions = s.contributions := by rw [touchLines_form]
@[simp] theorem touchLines_invRunning (s : State) (w : Bool) (l : List Nat) : (touchLines s w l).invRunning = s.invRunning := by rw [touchLines_form]
@[simp] theorem touchLines_thermal (s : State) (w : Bool) (l : List Nat) : (touchLines s w l).thermal = s.thermal := by rw [touchLines_form]
@[simp] theorem touchLines_heat (s : State) (w : Bool) (l : List Nat) : (touchLines s w l).heat = s.heat := by rw [touchLines_form]
@[simp] theorem touchLines_time (s : State) (w : Bool) (l : List Nat) : (touchLines s w l).time = s.time := by rw [touchLines_form]
@[simp] theorem touchLines_agenda (s : State) (w : Bool) (l : List Nat) : (touchLines s w l).agenda = s.agenda := by rw [touchLines_form]
@[simp] theorem touchLines_hold (s : State) (w : Bool) (l : List Nat) : (touchLines s w l).hold = s.hold := by rw [touchLines_form]
@[simp] theorem touchLines_turns (s : State) (w : Bool) (l : List Nat) : (touchLines s w l).turns = s.turns := by rw [touchLines_form]
@[simp] theorem touchLines_pace (s : State) (w : Bool) (l : List Nat) : (touchLines s w l).pace = s.pace := by rw [touchLines_form]
@[simp] theorem touchLines_stimuli (s : State) (w : Bool) (l : List Nat) : (touchLines s w l).stimuli = s.stimuli := by rw [touchLines_form]
@[simp] theorem touchLines_tick (s : State) (w : Bool) (l : List Nat) : (touchLines s w l).tick = s.tick := by rw [touchLines_form]
/-- What follows a write of the control block joins the agenda alone. -/
theorem scbEvents_form (l : List Nat) (s : State) : scbEvents s l = { s with agenda := (scbEvents s l).agenda } := rfl

/-- A physical write changes memory as memWriteAt says of the bytes that land, and otherwise what follows accesses. -/
theorem putAt_mem (s : State) (pas : List Nat) (b : List Byte) :
    (s.putAt pas b).mem = memWriteAt s.mem pas (List.zipWith (landsAs s.mem) pas b) := by
  unfold State.putAt State.writeAt
  rw [scbEvents_form, touchLines_form]
theorem writeAt_form (s : State) (pas : List Nat) (b : List Byte) :
    s.writeAt pas b = { s with mem := (s.writeAt pas b).mem, unseen := pruned s.unseen pas, bad := healed s.bad pas,
                               hostLines := (s.writeAt pas b).hostLines, hostCopies := (s.writeAt pas b).hostCopies,
                               poolLines := (s.writeAt pas b).poolLines, out := (s.writeAt pas b).out } := by
  unfold State.writeAt
  rw [touchLines_form]
theorem putAt_form (s : State) (pas : List Nat) (b : List Byte) :
    s.putAt pas b = { s with mem := (s.putAt pas b).mem, unseen := (s.putAt pas b).unseen, bad := (s.putAt pas b).bad,
                             hostLines := (s.putAt pas b).hostLines, hostCopies := (s.putAt pas b).hostCopies,
                             poolLines := (s.putAt pas b).poolLines, out := (s.putAt pas b).out, agenda := (s.putAt pas b).agenda } := by
  unfold State.putAt
  rw [scbEvents_form, writeAt_form]
@[simp] theorem putAt_hart (s : State) (pas : List Nat) (b : List Byte) : (s.putAt pas b).hart = s.hart := by rw [putAt_form]
@[simp] theorem putAt_others (s : State) (pas : List Nat) (b : List Byte) : (s.putAt pas b).others = s.others := by rw [putAt_form]
@[simp] theorem putAt_gangs (s : State) (pas : List Nat) (b : List Byte) : (s.putAt pas b).gangs = s.gangs := by rw [putAt_form]
@[simp] theorem putAt_files (s : State) (pas : List Nat) (b : List Byte) : (s.putAt pas b).files = s.files := by rw [putAt_form]
@[simp] theorem putAt_sched (s : State) (pas : List Nat) (b : List Byte) : (s.putAt pas b).sched = s.sched := by rw [putAt_form]
@[simp] theorem putAt_strings (s : State) (pas : List Nat) (b : List Byte) : (s.putAt pas b).strings = s.strings := by rw [putAt_form]
@[simp] theorem putAt_bellows (s : State) (pas : List Nat) (b : List Byte) : (s.putAt pas b).bellows = s.bellows := by rw [putAt_form]
@[simp] theorem putAt_phase (s : State) (pas : List Nat) (b : List Byte) : (s.putAt pas b).phase = s.phase := by rw [putAt_form]
@[simp] theorem putAt_tlb (s : State) (pas : List Nat) (b : List Byte) : (s.putAt pas b).tlb = s.tlb := by rw [putAt_form]
@[simp] theorem putAt_walks (s : State) (pas : List Nat) (b : List Byte) : (s.putAt pas b).walks = s.walks := by rw [putAt_form]
@[simp] theorem putAt_icache (s : State) (pas : List Nat) (b : List Byte) : (s.putAt pas b).icache = s.icache := by rw [putAt_form]
@[simp] theorem putAt_hdm (s : State) (pas : List Nat) (b : List Byte) : (s.putAt pas b).hdm = s.hdm := by rw [putAt_form]
@[simp] theorem putAt_poolUp (s : State) (pas : List Nat) (b : List Byte) : (s.putAt pas b).poolUp = s.poolUp := by rw [putAt_form]
@[simp] theorem putAt_portsOn (s : State) (pas : List Nat) (b : List Byte) : (s.putAt pas b).portsOn = s.portsOn := by rw [putAt_form]
@[simp] theorem putAt_rebeica (s : State) (pas : List Nat) (b : List Byte) : (s.putAt pas b).rebeica = s.rebeica := by rw [putAt_form]
@[simp] theorem putAt_adapter (s : State) (pas : List Nat) (b : List Byte) : (s.putAt pas b).adapter = s.adapter := by rw [putAt_form]
@[simp] theorem putAt_mailbox (s : State) (pas : List Nat) (b : List Byte) : (s.putAt pas b).mailbox = s.mailbox := by rw [putAt_form]
@[simp] theorem putAt_contributions (s : State) (pas : List Nat) (b : List Byte) : (s.putAt pas b).contributions = s.contributions := by rw [putAt_form]
@[simp] theorem putAt_invRunning (s : State) (pas : List Nat) (b : List Byte) : (s.putAt pas b).invRunning = s.invRunning := by rw [putAt_form]
@[simp] theorem putAt_thermal (s : State) (pas : List Nat) (b : List Byte) : (s.putAt pas b).thermal = s.thermal := by rw [putAt_form]
@[simp] theorem putAt_heat (s : State) (pas : List Nat) (b : List Byte) : (s.putAt pas b).heat = s.heat := by rw [putAt_form]
@[simp] theorem putAt_time (s : State) (pas : List Nat) (b : List Byte) : (s.putAt pas b).time = s.time := by rw [putAt_form]
@[simp] theorem putAt_hold (s : State) (pas : List Nat) (b : List Byte) : (s.putAt pas b).hold = s.hold := by rw [putAt_form]
@[simp] theorem putAt_turns (s : State) (pas : List Nat) (b : List Byte) : (s.putAt pas b).turns = s.turns := by rw [putAt_form]
@[simp] theorem putAt_pace (s : State) (pas : List Nat) (b : List Byte) : (s.putAt pas b).pace = s.pace := by rw [putAt_form]
@[simp] theorem putAt_stimuli (s : State) (pas : List Nat) (b : List Byte) : (s.putAt pas b).stimuli = s.stimuli := by rw [putAt_form]
@[simp] theorem putAt_tick (s : State) (pas : List Nat) (b : List Byte) : (s.putAt pas b).tick = s.tick := by rw [putAt_form]
@[simp] theorem putAt_unseen (s : State) (pas : List Nat) (b : List Byte) : (s.putAt pas b).unseen = pruned s.unseen pas := by
  unfold State.putAt; rw [scbEvents_form, writeAt_form]
@[simp] theorem putAt_bad (s : State) (pas : List Nat) (b : List Byte) : (s.putAt pas b).bad = healed s.bad pas := by
  unfold State.putAt; rw [scbEvents_form, writeAt_form]
/-- A physical write keeps memory's canonical form. -/
theorem putAt_wf (s : State) (pas : List Nat) (b : List Byte) (h : Memory.wf s.mem = true) :
    Memory.wf (s.putAt pas b).mem = true := by
  rw [putAt_mem]; exact memWriteAt_wf _ _ h
/-- A device's write of its own fields keeps it as well. -/
theorem pokeN_wf (s : State) (pa : Nat) (b : List Byte) (h : Memory.wf s.mem = true) : Memory.wf (s.pokeN pa b).mem = true := by
  unfold State.pokeN
  split
  · unfold State.writeAt
    rw [touchLines_mem]
    exact memWriteAt_wf _ _ h
  · exact h
theorem putN_wf (s : State) (pa : Nat) (b : List Byte) (h : Memory.wf s.mem = true) : Memory.wf (s.putN pa b).mem = true := by
  unfold State.putN
  split
  · exact putAt_wf _ _ _ h
  · exact h
/-- A physical write leaves every other byte alone. -/
theorem putAt_read_ne (s : State) (pas : List Nat) (b : List Byte) (a : Nat) (h : Memory.wf s.mem = true) (ha : a ∉ pas) :
    memRead (s.putAt pas b).mem a = memRead s.mem a := by
  rw [putAt_mem]
  exact memRead_memWriteAt_ne _ _ _ h ha
/-- A byte of a physical write lands as landsAs says. -/
theorem putAt_read_get (s : State) (pas : List Nat) (b : List Byte) (k p : Nat) (x : Byte) (h : Memory.wf s.mem = true)
    (hn : pas.Nodup) (hp : pas[k]? = some p) (hx : b[k]? = some x) : memRead (s.putAt pas b).mem p = landsAs s.mem p x := by
  rw [putAt_mem]
  exact memRead_memWriteAt_get _ _ k p _ h hn hp (by rw [List.getElem?_zipWith, hp, hx])

/-- A translated access that passes every check reaches its bytes. -/
theorem reachN_ok {s : State} {c : Ctx} {k : AccKind} {va : Word} {n : Nat} {dv : Bool} {pas : List Nat}
    (hx : xlatN s c k va n = .ok pas) (hp : physCheck s k va pas dv = .ok ()) : reachN s c k va n dv = .ok pas := by
  rw [reachN, hx]; show Except.map _ (physCheck s k va pas dv) = _; rw [hp]; rfl
/-- A translated access that fails a check faults as the check says. -/
theorem reachN_stopped {s : State} {c : Ctx} {k : AccKind} {va : Word} {n : Nat} {dv : Bool} {pas : List Nat} {e : Cause × Word}
    (hx : xlatN s c k va n = .ok pas) (hp : physCheck s k va pas dv = .error e) : reachN s c k va n dv = .error e := by
  rw [reachN, hx]; show Except.map _ (physCheck s k va pas dv) = _; rw [hp]; rfl
/-- Where every byte translates and no check stops it, an access has its addresses. -/
theorem runM_addresses {c : Ctx} {k : AccKind} {va : Word} {n : Nat} {dv : Bool} {s : State} {pas : List Nat}
    (hx : xlatN s c k va n = .ok pas) (hp : physCheck s k va pas dv = .ok ()) :
    runM (addresses c k va n dv) s = (.ok pas, noteXlat s c va n) := by
  simp only [addresses, runM_bind, runM_get, runM_modify, reachN_ok hx hp, runM_liftX_ok]
/-- Where it cannot reach a byte, the access traps, and the agent keeps what it has read of the tables (09:R261). -/
theorem runM_addresses_fault {c : Ctx} {k : AccKind} {va : Word} {n : Nat} {dv : Bool} {s : State} {e : Cause × Word}
    (h : reachN s c k va n dv = .error e) : runM (addresses c k va n dv) s = (.error (.trap e.1 e.2), noteXlat s c va n) := by
  obtain ⟨c', v⟩ := e
  simp only [addresses, runM_bind, runM_get, runM_modify, h, runM_liftX_error]

/-- No byte of an access faults. -/
theorem firstFault_none {p : Nat → Option Cause} : ∀ {l : List Nat} {i : Nat}, firstFault p l i = none ↔ ∀ a ∈ l, p a = none
  | [], _ => by simp [firstFault]
  | x :: t, i => by
    unfold firstFault
    cases h : p x <;> simp [h, firstFault_none]
theorem physCheck_ok {s : State} {k : AccKind} {va : Word} {pas : List Nat} {d : Bool} :
    physCheck s k va pas d = .ok () ↔ ∀ p ∈ pas, byteFault s k d pas p = none := by
  rw [← firstFault_none (i := 0)]
  unfold physCheck
  split <;> simp_all
/-- An access checked as one that may not act on the Device range reaches none of it, and passes where it may. -/
theorem physCheck_mem {s : State} {k : AccKind} {va : Word} {pas : List Nat} (h : physCheck s k va pas false = .ok ()) :
    physCheck s k va pas true = .ok () ∧ ∀ p ∈ pas, (paClass p == some PaClass.device) = false := by
  rw [physCheck_ok] at h ⊢
  have hd : ∀ p ∈ pas, (paClass p == some PaClass.device) = false := by
    intro p hp
    have := h p hp
    unfold byteFault at this
    by_contra c
    rw [Bool.not_eq_false] at c
    simp [c] at this
  refine ⟨fun p hp => ?_, hd⟩
  have := h p hp
  unfold byteFault at this ⊢
  simpa [hd p hp] using this

theorem xlatEach_length {s : State} {c : Ctx} {k : AccKind} {start : Word} {n : Nat} : ∀ {m : Nat} {va : Word} {l : List Nat},
    xlatEach s c k start n va m = .ok l → l.length = m
  | 0, va, l, h => by
    simp only [xlatEach, Except.ok.injEq] at h; subst h; rfl
  | m + 1, va, l, h => by
    unfold xlatEach at h
    split at h
    · cases h
    · split at h
      · cases h
      · rename_i l' h2
        simp only [Except.ok.injEq] at h; subst h
        simp [xlatEach_length h2]
theorem run_length : ∀ (n a : Nat), (run a n).length = n
  | 0, _ => rfl
  | n + 1, a => by simp [run, run_length n]
/-- A translation has an address for every byte. -/
theorem xlatN_length {s : State} {c : Ctx} {k : AccKind} {va : Word} {n : Nat} {l : List Nat}
    (h : xlatN s c k va n = .ok l) : l.length = n := by
  unfold xlatN at h
  split at h
  · exact xlatEach_length h
  · split at h
    · cases h
    · simp only [Except.ok.injEq] at h; subst h; exact run_length _ _

/-! ## Stores that a side need not see yet -/

/-- A change of a hart's unseen stores changes nothing else. -/
theorem setOwn_form (s : State) (id : HartId) (l : List Unseen) : s.setOwn id l = { s with unseen := (s.setOwn id l).unseen } := rfl
theorem order_form (s : State) (id : HartId) (f : Unseen → Unseen) : s.order id f = { s with unseen := (s.order id f).unseen } := rfl
theorem orderAll_form (s : State) (f : Unseen → Unseen) : s.orderAll f = { s with unseen := (s.orderAll f).unseen } := by
  unfold State.orderAll
  generalize (s.unseen.map (·.owner)).eraseDups = l
  induction l generalizing s with
  | nil => rfl
  | cons i t ih => rw [List.foldl_cons, ih, order_form]
/-- The end of a strip counts it, and changes what is unseen. -/
theorem closeStrip_form (s : State) :
    s.closeStrip = { s with unseen := s.closeStrip.unseen, hart := { s.hart with strip := s.closeStrip.hart.strip } } := by
  unfold State.closeStrip; split
  · dsimp only; rw [order_form]
  · rfl
/-- Without unseen stores of its own at these bytes a hart reads memory. -/
theorem sees_none (s : State) (vec : Bool) (site : Nat) (pas : List Nat)
    (h : (s.ownUnseen s.hart.id).any (Unseen.hits pas) = false) : s.sees vec site pas = memReadAt s.mem pas := by
  unfold State.sees State.splitOwn State.splitBy State.bytesBefore
  simp only [h, Bool.false_eq_true, if_false, byteBefore, List.findSome?_nil, Option.getD_none, memReadAt]
theorem sees_length (s : State) (vec : Bool) (site : Nat) (pas : List Nat) : (s.sees vec site pas).length = pas.length := by
  simp [State.sees, State.bytesBefore]
/-- A side sees the stores that a rule makes it see. -/
theorem mem_splitSeen {p : Unseen → Bool} : ∀ {l : List Unseen} {u : Unseen}, u ∈ l → p u = true → u ∈ (splitSeen p l).1
  | w :: t, u, hu, hp => by
    rw [splitSeen]
    rcases List.mem_cons.mp hu with rfl | h
    · simp [hp]
    · have := mem_splitSeen h hp
      split
      · exact List.mem_cons_of_mem _ this
      · exact this
/-- Every store is seen or not. -/
theorem splitSeen_length {p : Unseen → Bool} : ∀ {l : List Unseen},
    (splitSeen p l).1.length + (splitSeen p l).2.length = l.length
  | [] => rfl
  | u :: t => by
    have ih := splitSeen_length (p := p) (l := t)
    rw [splitSeen]
    split <;> simp only [List.length_cons] <;> omega
/-- A store that a side does not see shares no byte with a later one that it sees: a side sees a part of coherence order that is
closed downward (10:R277, R279). -/
theorem splitSeen_closed {p : Unseen → Bool} : ∀ {l r : List Unseen} {u w : Unseen}, u ∈ (splitSeen p r).1 → w.meets u = true →
    w ∈ (splitSeen p (l ++ w :: r)).1
  | [], r, u, w, hu, hm => by
    have h : (p w || (splitSeen p r).1.any w.meets) = true := by
      rw [Bool.or_eq_true]; exact .inr (List.any_eq_true.mpr ⟨u, hu, hm⟩)
    simp only [List.nil_append, splitSeen, h, if_true, List.mem_cons_self]
  | x :: l, r, u, w, hu, hm => by
    have ih := splitSeen_closed (l := l) hu hm
    rw [List.cons_append, splitSeen]
    split
    · exact List.mem_cons_of_mem _ ih
    · exact ih

/-- A store of one side changes what a physical write does, what is unseen, and the hart's count of stores. -/
def putFrame (s t : State) : Prop :=
  t = { s with hart := { s.hart with stores := t.hart.stores }, mem := t.mem, unseen := t.unseen, bad := t.bad, hostLines := t.hostLines,
               hostCopies := t.hostCopies, poolLines := t.poolLines, out := t.out, agenda := t.agenda }
theorem putFrame.trans {s t u : State} (h : putFrame s t) (k : putFrame t u) : putFrame s u := by
  unfold putFrame at *
  rw [h] at k
  exact k
theorem putAt_frame (s : State) (l : List Nat) (b : List Byte) : putFrame s (s.putAt l b) := by
  unfold putFrame
  conv_lhs => rw [putAt_form]
  rw [putAt_hart]
theorem putFrame_stores (s : State) (n : Nat) : putFrame s { s with hart := { s.hart with stores := n } } := rfl
theorem putUnits_frame (vec : Bool) (kind : StoreKind) : ∀ (l : List (List (Nat × Byte))) (s : State) (a b : List Unseen),
    putFrame s (s.putUnits vec kind a b l)
  | [], _, _, _ => rfl
  | z :: t, s, a, b => by
    rw [State.putUnits]
    exact ((putAt_frame s _ _).trans (putFrame_stores _ _)).trans (putUnits_frame vec kind t _ _ _)
theorem putAs_frame (s : State) (vec : Bool) (kind : StoreKind) (p : Unseen → Bool) (l : List (List (Nat × Byte))) :
    putFrame s (s.putAs vec kind p l) := by
  unfold State.putAs
  dsimp only
  split
  · exact putAt_frame _ _ _
  · exact (putUnits_frame vec kind l s _ _).trans rfl
theorem putOwn_frame (s : State) (vec : Bool) (l : List (List (Nat × Byte))) : putFrame s (s.putOwn vec l) := putAs_frame ..
theorem putAtomic_frame (s : State) (vec : Bool) (l : List (List (Nat × Byte))) : putFrame s (s.putAtomic vec l) := putAs_frame ..
theorem putUnits_wf (vec : Bool) (kind : StoreKind) : ∀ (l : List (List (Nat × Byte))) (s : State) (a b : List Unseen),
    Memory.wf s.mem = true → Memory.wf (s.putUnits vec kind a b l).mem = true
  | [], _, _, _, h => h
  | _ :: t, s, _, _, h => putUnits_wf vec kind t _ _ _ (putAt_wf s _ _ h)
/-- It keeps memory's canonical form. -/
theorem putAs_wf (s : State) (vec : Bool) (kind : StoreKind) (p : Unseen → Bool) (l : List (List (Nat × Byte)))
    (h : Memory.wf s.mem = true) : Memory.wf (s.putAs vec kind p l).mem = true := by
  unfold State.putAs
  dsimp only
  split
  · exact putAt_wf _ _ _ h
  · exact putUnits_wf vec kind l s _ _ h
theorem putOwn_wf (s : State) (vec : Bool) (l : List (List (Nat × Byte))) (h : Memory.wf s.mem = true) :
    Memory.wf (s.putOwn vec l).mem = true := putAs_wf _ _ _ _ _ h
theorem putUnits_read_ne (vec : Bool) (kind : StoreKind) (x : Nat) : ∀ (l : List (List (Nat × Byte))) (s : State) (a b : List Unseen),
    Memory.wf s.mem = true → x ∉ l.flatten.map (·.1) → memRead (s.putUnits vec kind a b l).mem x = memRead s.mem x
  | [], _, _, _, _, _ => rfl
  | z :: t, s, a, b, h, hx => by
    rw [List.flatten_cons, List.map_append, List.mem_append, not_or] at hx
    have h1 := putAt_wf s (z.map (·.1)) (s.underlaid b z) h
    refine Eq.trans ?_ (putAt_read_ne s _ (s.underlaid b z) x h hx.1)
    exact putUnits_read_ne vec kind x t _ _ _ h1 hx.2
/-- It leaves every other byte alone. -/
theorem putAs_read_ne (s : State) (vec : Bool) (kind : StoreKind) (p : Unseen → Bool) (l : List (List (Nat × Byte))) (x : Nat)
    (h : Memory.wf s.mem = true) (hx : x ∉ l.flatten.map (·.1)) : memRead (s.putAs vec kind p l).mem x = memRead s.mem x := by
  unfold State.putAs
  dsimp only
  split
  · exact putAt_read_ne s _ _ x h hx
  · exact putUnits_read_ne vec kind x l s _ _ h hx
theorem putOwn_read_ne (s : State) (vec : Bool) (l : List (List (Nat × Byte))) (x : Nat) (h : Memory.wf s.mem = true)
    (hx : x ∉ l.flatten.map (·.1)) : memRead (s.putOwn vec l).mem x = memRead s.mem x := putAs_read_ne _ _ _ _ _ x h hx
/-- The bytes that an engine brings for a hart keep memory's canonical form. -/
theorem bring_mem (s : State) (ids : List HartId) (o : Origin) (z : List (List (Nat × Byte))) :
    (s.bring ids o z).mem = (s.putAt (z.flatten.map (·.1)) (z.flatten.map (·.2))).mem := by
  unfold State.bring
  dsimp only
  generalize s.putAt (z.flatten.map (·.1)) (z.flatten.map (·.2)) = t
  generalize ids.eraseDups = l
  induction l generalizing t with
  | nil => rfl
  | cons i r ih =>
    rw [List.foldl_cons, ih]
    split
    · rfl
    · rfl

/-- An acquire changes what is unseen alone. -/
theorem acquire_form (s : State) (id : HartId) : s.acquire id = { s with unseen := (s.acquire id).unseen } := by
  unfold State.acquire; split
  · rw [order_form]
  · rfl
theorem acquireGang_form (s : State) (g : BitVec 32) : s.acquireGang g = { s with unseen := (s.acquireGang g).unseen } := by
  unfold State.acquireGang; split
  · rw [orderAll_form]
  · rfl
/-- Where another hart has acquired none of the hart's chunks, an acquire changes nothing (10:R284). -/
theorem acquire_none (s : State) (id : HartId) (h : (s.ownUnseen id).any (·.shared) = false) : s.acquire id = s := by
  unfold State.acquire; rw [h]; rfl
/-- Noting what a vector read saw changes what is unseen alone. -/
theorem noteSaw_form (s : State) (site n : Nat) (l : List Nat) : s.noteSaw site n l = { s with unseen := (s.noteSaw site n l).unseen } := by
  unfold State.noteSaw; dsimp only; split
  · rw [order_form]
  · rfl

/-- A hart's scalar read at translated addresses. -/
theorem runM_scalarBytes (pas : List Nat) (s : State) :
    runM (scalarBytes pas) s = (.ok ((touchLines s false pas).sees false 0 pas), touchLines s false pas) := by
  simp only [scalarBytes, runM_bind, runM_modify, runM_get, runM_pure]
/-- What a hart sees does not depend on what L2 tracks. -/
theorem sees_touch (s : State) (w vec : Bool) (site : Nat) (l pas : List Nat) :
    (touchLines s w l).sees vec site pas = s.sees vec site pas := by
  rw [touchLines_form]; rfl
theorem sees_note (s : State) (c : Ctx) (va : Word) (n : Nat) (vec : Bool) (site : Nat) (pas : List Nat) :
    (noteXlat s c va n).sees vec site pas = s.sees vec site pas := by
  rw [noteXlat_form]; rfl

/-- A scalar load of bytes that no check stops and of which none lies in the Device range (14:R416). -/
theorem runM_loadScalar {s : State} {va : Word} {n : Nat} {pas : List Nat}
    (hx : xlatN s s.ctx .read va n = .ok pas) (hp : physCheck s .read va pas false = .ok ()) :
    runM (loadScalar va n) s = (.ok (leNat (s.sees false 0 pas)), touchLines (noteXlat s s.ctx va n) false pas) := by
  obtain ⟨ht, hd⟩ := physCheck_mem hp
  have ha : pas.any (fun pa => paClass pa == some PaClass.device) = false := by
    rw [List.any_eq_false]; intro p hp'; simpa using hd p hp'
  simp only [loadScalar, runM_bind, runM_get, runM_addresses hx ht, ha, Bool.false_eq_true, if_false, runM_scalarBytes, runM_pure,
    sees_touch, sees_note]
/-- A scalar store of such bytes (15:R449). -/
theorem runM_storeScalar {s : State} {va : Word} {b : List Byte} {pas : List Nat}
    (hx : xlatN s s.ctx .write va b.length = .ok pas) (hp : physCheck s .write va pas false = .ok ()) :
    runM (storeScalar va b) s =
      (.ok (), (noteXlat s s.ctx va b.length).putOwn false (atomicUnits (pas.zip b))) := by
  obtain ⟨ht, hd⟩ := physCheck_mem hp
  have ha : pas.any (fun pa => paClass pa == some PaClass.device) = false := by
    rw [List.any_eq_false]; intro p hp'; simpa using hd p hp'
  simp only [storeScalar, runM_bind, runM_get, runM_addresses hx ht, ha, Bool.false_eq_true, if_false, scalarPut, runM_modify]

/-! ## Frames of accesses -/

theorem State.accessOnly.trans {s t u : State} (h : s.accessOnly t) (k : t.accessOnly u) : s.accessOnly u := by
  unfold State.accessOnly at *
  rw [h] at k
  exact k
theorem accessOnly_hart (s : State) (h : Hart) : s.accessOnly { s with hart := h } := rfl
theorem accessOnly_advance (s : State) (a : Nat) : s.accessOnly (s.advance a) := rfl
theorem accessOnly_result (s : State) (d : Reg) (a : Word) : s.accessOnly (s.result d a) := rfl
theorem accessOnly_note (s : State) (c : Ctx) (va : Word) (n : Nat) : s.accessOnly (noteXlat s c va n) := by
  unfold State.accessOnly
  conv_lhs => rw [noteXlat_form]
  simp
theorem accessOnly_touch (s : State) (w : Bool) (l : List Nat) : s.accessOnly (touchLines s w l) := by
  unfold State.accessOnly
  conv_lhs => rw [touchLines_form]
  simp
theorem accessOnly_put (s : State) (vec : Bool) (l : List (List (Nat × Byte))) : s.accessOnly (s.putOwn vec l) := by
  have h := putOwn_frame s vec l
  unfold putFrame at h
  unfold State.accessOnly
  rw [h]

/-- A result over a state whose acting hart has not changed. -/
theorem gotX_result (s u : State) (d : Reg) (v : Word) (h : u.hart = s.hart) : s.gotX (u.result d v) d v := by
  unfold State.gotX
  rw [State.result_hart, h]

end Sys2Proof.Machine
end

