-- ==== Sys2Proof/Laws/Vector.lean ====
section
/-! SUPPORT. What posting does on an idle V hart, and what a loop over elements leaves: later proofs cite these and unfold neither the
queue nor the loops. -/
namespace Sys2Proof.Machine
open Sys2Proof

/-! ## One instruction through an idle queue -/

/-- An instruction that is neither a loop nor a convoy. -/
def plainPost (i : Instr) : Bool :=
  match i with
  | .vloop .. | .convoy _ => false
  | _ => true

theorem entryAt_op (h : Hart) (i : Instr) (pc : Word) : (entryAt h i pc).op = .ok i := rfl
theorem entryAt_refilled (h : Hart) (i : Instr) (pc : Word) : (entryAt h i pc).refilled = false := rfl
theorem bodyOf_plain {q : QEntry} {t : List QEntry} {i : Instr} (hq : q.op = .ok i) (hp : plainPost i = true) : bodyOf q t = none := by
  unfold bodyOf; rw [hq]; cases i <;> first | rfl | exact absurd hp Bool.false_ne_true
theorem isConvoy_plain {q : QEntry} {i : Instr} (hq : q.op = .ok i) (hp : plainPost i = true) : q.isConvoy = false := by
  unfold QEntry.isConvoy; rw [hq]; cases i <;> first | rfl | exact absurd hp Bool.false_ne_true
theorem holdsHeader_plain {h : Hart} {q : QEntry} {t : List QEntry} {i : Instr} (hq : q.op = .ok i) (hp : plainPost i = true) :
    h.holdsHeader q t = false := by
  simp [Hart.holdsHeader, isConvoy_plain hq hp]
theorem usable_of_nres {s : State} (i : Instr) (hn : s.hart.nres = 0) : s.usable i := by
  unfold State.usable Hart.lazyMask; split <;> simp [hn]
theorem rests_none {h : Hart} (hr : h.rest = none) : h.rests = false := by simp [Hart.rests, hr]
theorem restLess_none {h : Hart} (hr : h.rest = none) : h.restLess = h := by simp [Hart.restLess, hr]
theorem takePace_nil {s : State} (hp : s.pace = []) : takePace s = s := by simp [takePace, hp]

/-- No register in error stops an instruction. -/
theorem inError_none {h : Hart} (l : List (Nat × Nat)) (hb : h.badRegs = []) : h.inError l = none := by simp [Hart.inError, hb]
theorem cleanse_none {h : Hart} (l : List (Nat × Nat)) (hb : h.badRegs = []) : h.cleanse l = h := by simp [Hart.cleanse, hb]
theorem runM_checkRegs {s : State} (i : Instr) (hb : s.hart.badRegs = []) : runM (checkRegs i) s = (.ok (), s) := by
  simp only [checkRegs, runM_bind, runM_getHart, inError_none _ hb, runM_pure]
/-- Where no register is in error and none is bound, an instruction at VCP is its meaning alone. -/
theorem runM_runBound {s : State} {i : Instr} {q : QEntry} (he : s.hart.badRegs = []) (hb : s.hart.bindings = []) :
    runM (runBound i q) s = runM (vop i q) s := by
  simp only [runBound, runM_bind, runM_checkRegs i he, runM_getHart, hb, List.isEmpty_nil, if_true]
/-- Marking a section twice is marking it once. -/
theorem mark_mark (h : Hart) (m : BitVec 12) : (h.mark m).mark m = h.mark m := by
  simp only [Hart.mark, BitVec.or_assoc, BitVec.or_self]

/-- The only entry leaves the queue completed. -/
def Hart.retireOne (h : Hart) (a : BitVec 54) : Hart :=
  { h with vq := [], ves := 0, lix := ⟨false, 0, 0⟩, vcp := a, waitV := h.waitV.over (a.setWidth 64 <<< 2) }

/-- Posting an entry whose instruction captures no more than registers. -/
theorem runM_post (s : State) (n : Nat) (i : Instr) (h : s.vIdle) (hl : s.usable i) :
    runM (post n i asCaptured) s = (.ok (), s.vPosted n i) := by
  obtain ⟨hc, hq, hb, hr, he, hp⟩ := h
  have hl : s.hart.lazyMask s.hart.pcfg.vt i = 0 := hl
  have hs : (entryAt s.hart i s.hart.pc).slots ≤ 2 := by unfold QEntry.slots; split <;> omega
  have hs2 : (queueSlotsUsed ([] : List QEntry) + (entryAt s.hart i s.hart.pc).slots ≤ Config.queueSlots) := by
    simp only [queueSlotsUsed, List.map_nil, List.sum_nil, Config.queueSlots]; omega
  simp only [post, needV, lazyAtPost, needSlots, asCaptured, runM_bind, runM_getHart, hc, runM_pure, hl, runM_checkM, beq_self_eq_true,
    if_true, hq, hs2, decide_true, Bool.true_or, Bool.not_true, Bool.false_eq_true, if_false, runM_modHart, runM_modify]
  simp only [State.vPosted, State.advance, State.setPc, Hart.push, hq, List.isEmpty_nil, if_true, List.nil_append]

/-- The vector side of a hart whose queue holds one entry that completes. -/
theorem runM_drainAll_ok {s t : State} {q : QEntry} {i : Instr} (hq : s.hart.vq = [q]) (ho : q.op = .ok i) (hp : plainPost i = true)
    (hf : q.refilled = false) (hr : s.hart.rest = none) (hc : s.pace = []) (hb : s.hart.bindings = [])
    (he : s.hart.badRegs = []) (hv : runM (vop i q) s = (.ok (), t)) (htq : t.hart.vq = [q]) (htr : t.hart.rest = none)
    (hte : t.hart.badRegs = []) :
    runM drainAll s = (.ok (), { t with hart := t.hart.retireOne q.addr }) := by
  have hbo : bodyOf q [] = none := bodyOf_plain ho hp
  have e1 : runM (runEntry q) s = (.ok (), { t with hart := { t.hart with waitV := t.hart.waitV.over q.at } }) := by
    simp only [runEntry, runWhole, ho, lazyAtVcp, hf, runM_bind, runM_getHart, rests_none hr, Bool.false_eq_true, if_false,
      Bool.not_false, Bool.true_or, runM_checkM, if_true, runM_tryM, runM_runBound he hb, hv, runM_modHart, cleanse_none _ hte,
      restLess_none htr]
  have e2 : runM (drain ([q].length + 1)) s = (.ok (), { t with hart := t.hart.retireOne q.addr }) := by
    simp only [List.length_singleton, drain, runM_bind, runM_getHart, hq, holdsHeader_plain ho hp, Bool.false_eq_true, if_false, hbo,
      runM_tryM, e1, runM_modHart, runM_pure, Hart.pop, htq, Option.getD_none, List.length_nil, List.drop_succ_cons, List.drop_zero, Hart.retireOne, QEntry.at, Nat.add_zero]
  simp only [drainAll, runM_bind, runM_getHart, hq, List.isEmpty_cons, Bool.false_eq_true, if_false, runM_modify, takePace_nil hc,
    runM_tryM, e2, runM_modHart, Hart.retireOne, htr, runM_pure]

/-- Likewise, with an entry that stops. -/
theorem runM_drainAll_trap {s t : State} {q : QEntry} {i : Instr} {c : Cause} {v : Word} (hq : s.hart.vq = [q]) (ho : q.op = .ok i)
    (hp : plainPost i = true) (hf : q.refilled = false) (hr : s.hart.rest = none) (hc : s.pace = []) (hb : s.hart.bindings = [])
    (he : s.hart.badRegs = []) (hv : runM (vop i q) s = (.error (.trap c v), t)) (htr : t.hart.rest = none) :
    runM drainAll s = (.error (.trap c v), { t with hart := t.hart.stoppedBy i }) := by
  have hbo : bodyOf q [] = none := bodyOf_plain ho hp
  have e1 : runM (runEntry q) s = (.error (.trap c v), { t with hart := t.hart.stoppedBy i }) := by
    simp only [runEntry, runWhole, ho, lazyAtVcp, hf, runM_bind, runM_getHart, rests_none hr, Bool.false_eq_true, if_false,
      Bool.not_false, Bool.true_or, runM_checkM, if_true, runM_tryM, runM_runBound he hb, hv, runM_modHart, runM_trap, Hart.stoppedBy]
  have e2 : runM (drain ([q].length + 1)) s = (.error (.trap c v), { t with hart := t.hart.stoppedBy i }) := by
    simp only [List.length_singleton, drain, runM_bind, runM_getHart, hq, holdsHeader_plain ho hp, Bool.false_eq_true, if_false, hbo,
      runM_tryM, e1, runM_throw]
  have e3 : { t.hart.stoppedBy i with rest := none } = t.hart.stoppedBy i := by rw [← htr]; rfl
  simp only [drainAll, runM_bind, runM_getHart, hq, List.isEmpty_cons, Bool.false_eq_true, if_false, runM_modify, takePace_nil hc,
    runM_tryM, e2, runM_modHart, runM_throw, e3]

/-- An instruction of two parcels on an idle V hart completes with its effect at VCP. -/
theorem postInstr_ok {s t : State} {i : Instr} (h : s.vIdle) (hl : s.usable i) (hp : plainPost i = true)
    (hv : runM (vop i (entryAt s.hart i s.hart.pc)) (s.vPosted 2 i) = (.ok (), t))
    (htq : t.hart.vq = [entryAt s.hart i s.hart.pc]) (htr : t.hart.rest = none) (hte : t.hart.badRegs = []) :
    postInstr i s = .next { t with hart := t.hart.retireOne (BitVec.ofNat 54 (s.hart.pc.toNat / 4)) } := by
  have hr := runM_post s 2 i h hl
  obtain ⟨hc, hq, hb, hrr, he, hpp⟩ := h
  simp only [postInstr, thenDrain, hr]
  rw [runM_drainAll_ok (s := s.vPosted 2 i) (q := entryAt s.hart i s.hart.pc) rfl rfl hp rfl hrr hpp hb he hv htq htr hte, finish_ok]
  rfl
/-- Likewise, with a trap at VCP: TRAPPC is the next instruction (12:R332). -/
theorem postInstr_trap {s t : State} {i : Instr} {c : Cause} {v : Word} (h : s.vIdle) (hl : s.usable i) (hp : plainPost i = true)
    (hv : runM (vop i (entryAt s.hart i s.hart.pc)) (s.vPosted 2 i) = (.error (.trap c v), t)) (htr : t.hart.rest = none) :
    postInstr i s = takeTrap { t with hart := t.hart.stoppedBy i } c v (s.hart.pc + 8) := by
  have hr := runM_post s 2 i h hl
  obtain ⟨hc, hq, hb, hrr, he, hpp⟩ := h
  simp only [postInstr, thenDrain, hr]
  rw [runM_drainAll_trap (s := s.vPosted 2 i) (q := entryAt s.hart i s.hart.pc) rfl rfl hp rfl hrr hpp hb he hv htr]
  rfl

end Sys2Proof.Machine
end

