-- ==== Sys2Proof/Laws/Elements.lean ====
section
/-! SUPPORT. Elements of registers, and what a loop over them leaves. -/
namespace Sys2Proof.Machine
open Sys2Proof

theorem getE_def (w v i : Nat) : getE w v i = v / 2 ^ (w * i) % 2 ^ w := by
  rw [getE, Nat.shiftRight_eq_div_pow]
theorem putE_form (w v i x : Nat) :
    putE w v i x = (v / 2 ^ (w * i) / 2 ^ w * 2 ^ w + x % 2 ^ w) * 2 ^ (w * i) + v % 2 ^ (w * i) := by
  have h1 := Nat.div_add_mod v (2 ^ (w * i))
  have h2 := Nat.div_add_mod (v / 2 ^ (w * i)) (2 ^ w)
  rw [putE, getE_def, Nat.shiftLeft_eq, Nat.shiftLeft_eq]
  generalize v / 2 ^ (w * i) / 2 ^ w = q at *
  generalize hg : v / 2 ^ (w * i) % 2 ^ w = g at *
  generalize hy : v / 2 ^ (w * i) = y at *
  generalize hr : v % 2 ^ (w * i) = r at *
  generalize 2 ^ (w * i) = B at *
  generalize 2 ^ w = C at *
  generalize x % C = z at *
  have : v = (C * q) * B + g * B + r := by rw [← h1, ← h2]; ring
  rw [this]
  have : C * q * B + g * B + r - g * B = C * q * B + r := by omega
  rw [this]; ring
theorem getE_lt (w v i : Nat) : getE w v i < 2 ^ w := Nat.mod_lt _ (Nat.two_pow_pos _)
theorem getE_putE_self (w v i x : Nat) : getE w (putE w v i x) i = x % 2 ^ w := by
  rw [getE_def, putE_form, Nat.add_comm, Nat.add_mul_div_right _ _ (Nat.two_pow_pos _), Nat.div_eq_of_lt (Nat.mod_lt _ (Nat.two_pow_pos _)),
    Nat.zero_add, Nat.add_comm, Nat.add_mul_mod_self_right, Nat.mod_mod]
/-- Numbers that agree above bit n, or below it, have the same elements there. -/
theorem getE_of_div {w u v n j : Nat} (h : u / 2 ^ n = v / 2 ^ n) (hn : n ≤ w * j) : getE w u j = getE w v j := by
  rw [getE_def, getE_def]
  have e : w * j = n + (w * j - n) := by omega
  rw [e, pow_add, ← Nat.div_div_eq_div_mul, ← Nat.div_div_eq_div_mul, h]
theorem getE_of_mod {w u v n j : Nat} (h : u % 2 ^ n = v % 2 ^ n) (hn : w * (j + 1) ≤ n) : getE w u j = getE w v j := by
  have key : ∀ x : Nat, getE w x j = getE w (x % 2 ^ n) j := by
    intro x
    rw [getE_def, getE_def]
    apply Nat.eq_of_testBit_eq
    intro k
    rw [Nat.testBit_mod_two_pow, Nat.testBit_mod_two_pow, Nat.testBit_div_two_pow, Nat.testBit_div_two_pow, Nat.testBit_mod_two_pow]
    by_cases hk : k < w
    · have : k + w * j < n := by rw [Nat.mul_add] at hn; omega
      simp [hk, this]
    · simp [hk]
  rw [key u, key v, h]
theorem getE_putE_ne {w v i j x : Nat} (h : j ≠ i) : getE w (putE w v i x) j = getE w v j := by
  by_cases hj : j < i
  · apply getE_of_mod (n := w * i)
    · rw [putE_form, Nat.add_comm, Nat.add_mul_mod_self_right, Nat.mod_mod]
    · exact Nat.mul_le_mul_left _ hj
  · have hi : i + 1 ≤ j := by omega
    apply getE_of_div (n := w * i + w)
    · rw [pow_add, ← Nat.div_div_eq_div_mul, ← Nat.div_div_eq_div_mul, putE_form, Nat.add_comm (_ * _), Nat.add_mul_div_right _ _ (Nat.two_pow_pos _), Nat.div_eq_of_lt (Nat.mod_lt _ (Nat.two_pow_pos _)), Nat.zero_add, Nat.add_comm (_ * _), Nat.add_mul_div_right _ _ (Nat.two_pow_pos _), Nat.div_eq_of_lt (Nat.mod_lt _ (Nat.two_pow_pos _)), Nat.zero_add]
    · calc w * i + w = w * (i + 1) := by ring
        _ ≤ w * j := Nat.mul_le_mul_left _ hi
theorem getE_ofNat {w v j n : Nat} (h : w * (j + 1) ≤ n) : getE w (BitVec.ofNat n v).toNat j = getE w v j :=
  getE_of_mod (n := n) (by simp) h

theorem foldl_or {α : Type} (g : α → Flags) : ∀ (l : List α) (x y : Flags), l.foldl (fun a j => a ||| g j) (x ||| y) = x ||| l.foldl (fun a j => a ||| g j) y
  | [], _, _ => rfl
  | a :: t, x, y => by rw [List.foldl_cons, List.foldl_cons, BitVec.or_assoc]; exact foldl_or g t x _

section Elems
variable {w : Nat} {act : Nat → Bool} {kz : Bool} {en : Flags} {f : Nat → Nat → Word → Nat × Flags × Word} {old : Nat}
  {F : Nat → Word → Nat × Flags × Word} {σ : Nat → Word}

/-- Elements i to i + n - 1, none of which traps: f works on each element of the destination as it stood. -/
theorem elemGo_quiet (hf : ∀ i cur seed, getE w cur i = getE w old i → f i cur seed = F i seed)
    (hs : ∀ i, σ (i + 1) = if act i then (F i (σ i)).2.2 else σ i) :
    ∀ (n i v : Nat) (fl : Flags), (∀ j, i ≤ j → j < i + n → getE w v j = getE w old j) →
      (∀ j, i ≤ j → j < i + n → act j = true → trapping en (F j (σ j)).2.1 = 0) →
      ∃ v', elemGo w act kz en f n i ⟨v, fl, σ i⟩ =
          (⟨v', ((List.range' i n).filter act).foldl (fun a j => a ||| (F j (σ j)).2.1) fl, σ (i + n)⟩, none) ∧
        ∀ j, getE w v' j = if i ≤ j ∧ j < i + n then (if act j then (F j (σ j)).1 % 2 ^ w else if kz then 0 else getE w v j)
          else getE w v j
  | 0, i, v, fl, _, _ => ⟨v, rfl, fun j => by rw [if_neg (by omega)]⟩
  | n + 1, i, v, fl, hv, hq => by
    have hi : f i v (σ i) = F i (σ i) := hf i v _ (hv i (Nat.le_refl _) (by omega))
    by_cases ha : act i = true
    · have ht := hq i (Nat.le_refl _) (by omega) ha
      obtain ⟨v', h1, h2⟩ := elemGo_quiet hf hs n (i + 1) (putE w v i (F i (σ i)).1) (fl ||| (F i (σ i)).2.1)
        (fun j h1 h2 => by rw [getE_putE_ne (by omega)]; exact hv j (by omega) (by omega))
        (fun j h1 h2 h3 => hq j (by omega) (by omega) h3)
      refine ⟨v', ?_, fun j => ?_⟩
      · have hσ : (F i (σ i)).2.2 = σ (i + 1) := by rw [hs i, if_pos ha]
        rw [elemGo, if_pos ha]
        simp only [hi, ht, bne_self_eq_false, Bool.false_eq_true, if_false]
        rw [hσ, h1, List.range'_succ, List.filter_cons_of_pos ha, List.foldl_cons]
        rw [show i + 1 + n = i + (n + 1) by omega]
      · rw [h2 j]
        by_cases hj : j = i
        · subst hj
          have h3 : ¬ (j + 1 ≤ j ∧ j < j + 1 + n) := by omega
          have h4 : j ≤ j ∧ j < j + (n + 1) := by omega
          rw [if_neg h3, if_pos h4, if_pos ha, getE_putE_self]
        · rw [getE_putE_ne hj]
          by_cases hr : i + 1 ≤ j ∧ j < i + 1 + n
          · have hr2 : i ≤ j ∧ j < i + (n + 1) := by omega
            rw [if_pos hr, if_pos hr2]
          · have hr2 : ¬ (i ≤ j ∧ j < i + (n + 1)) := by omega
            rw [if_neg hr, if_neg hr2]
    · have hz : ∃ u, (if kz = true then ({ v := v, fl := fl, seed := σ i } : ElemAcc).1 = v else True) ∧
          (if kz then ({ ({ v := v, fl := fl, seed := σ i } : ElemAcc) with v := putE w v i 0 } : ElemAcc) else ⟨v, fl, σ i⟩) = ⟨u, fl, σ i⟩ ∧
          (∀ j, getE w u j = if j = i ∧ kz then 0 else getE w v j) := by
        cases kz
        · exact ⟨v, by simp, rfl, fun j => by simp⟩
        · refine ⟨putE w v i 0, by simp, rfl, fun j => ?_⟩
          by_cases hj : j = i
          · subst hj; rw [getE_putE_self]; simp
          · rw [getE_putE_ne hj]; simp [hj]
      obtain ⟨u, -, hu, hg⟩ := hz
      have hσ : σ i = σ (i + 1) := by rw [hs i, if_neg ha]
      obtain ⟨v', h1, h2⟩ := elemGo_quiet hf hs n (i + 1) u fl
        (fun j h1 h2 => by rw [hg, if_neg (by omega)]; exact hv j (by omega) (by omega))
        (fun j h1 h2 h3 => hq j (by omega) (by omega) h3)
      refine ⟨v', ?_, fun j => ?_⟩
      · rw [elemGo, if_neg ha, hu, List.range'_succ, List.filter_cons_of_neg ha, hσ, h1]
        rw [show i + 1 + n = i + (n + 1) by omega]
      · rw [h2 j, hg j]
        by_cases hj : j = i
        · subst hj
          have h3 : ¬ (j + 1 ≤ j ∧ j < j + 1 + n) := by omega
          have h4 : j ≤ j ∧ j < j + (n + 1) := by omega
          rw [if_neg h3, if_pos h4, if_neg ha]; simp
        · have : ¬ (j = i ∧ kz = true) := fun h => hj h.1
          rw [if_neg this]
          by_cases hr : i + 1 ≤ j ∧ j < i + 1 + n
          · have hr2 : i ≤ j ∧ j < i + (n + 1) := by omega
            rw [if_pos hr, if_pos hr2]
          · have hr2 : ¬ (i ≤ j ∧ j < i + (n + 1)) := by omega
            rw [if_neg hr, if_neg hr2]

/-- The loop is one part after another. -/
theorem elemGo_add : ∀ (n m i : Nat) (a b : ElemAcc), elemGo w act kz en f n i a = (b, none) →
    elemGo w act kz en f (n + m) i a = elemGo w act kz en f m (i + n) b
  | 0, m, i, a, b, h => by
    have : a = b := by simpa [elemGo] using h
    rw [this, Nat.zero_add, Nat.add_zero]
  | n + 1, m, i, a, b, h => by
    rw [show n + 1 + m = n + m + 1 by omega, elemGo]
    rw [elemGo] at h
    rw [show i + (n + 1) = i + 1 + n by omega]
    split at h
    · rename_i ha
      rw [if_pos ha]
      dsimp only at h ⊢
      split at h
      · simp at h
      · rename_i ht
        rw [if_neg ht]
        exact elemGo_add n m (i + 1) _ b h
    · rename_i ha
      rw [if_neg ha]
      exact elemGo_add n m (i + 1) _ b h
end Elems

theorem activeBelow_succ (h : Hart) (k : BitVec 3) (j : Nat) :
    h.activeBelow k (j + 1) = h.activeBelow k j + (if h.active k j then 1 else 0) := by
  unfold Hart.activeBelow
  rw [List.range_succ, List.filter_append, List.length_append]
  congr 1
  by_cases ha : h.active k j = true <;> simp [ha]

/-- An element-wise write that runs to its end. -/
theorem runM_elementwise {i : Instr} {d : Reg} {w : Nat} {m : Pred} {f : Nat → Nat → Word → Nat × Flags × Word} {s : State} {r : ElemAcc}
    (hv : s.hart.ves = 0) (hr : s.hart.rest = none)
    (he : elemGo w (s.hart.active m.k) m.kz s.hart.fen f s.hart.vlN 0 ⟨(s.hart.getV d).toNat, 0, s.hart.srseed⟩ = (r, none)) :
    runM (elementwise i d w m f) s = (.ok (), { s with hart := { (s.hart.setV d (BitVec.ofNat 16384 r.v)).mark (marks i) with fflags := s.hart.fflags ||| r.fl, srseed := r.seed } }) := by
  have hz : s.hart.ves.toNat = 0 := by rw [hv]; rfl
  have hu : ∀ g t, s.hart.unitEnd g t = t := by intro g t; unfold Hart.unitEnd; rw [hr]
  simp only [elementwise, runM_bind, runM_getHart, hz, hu, Nat.sub_zero, he, runM_modHart, restAt, Nat.lt_irrefl, if_false, runM_pure]
/-- An element-wise write that stops. -/
theorem runM_elementwise_trap {i : Instr} {d : Reg} {w : Nat} {m : Pred} {f : Nat → Nat → Word → Nat × Flags × Word} {s : State}
    {r : ElemAcc} {e : Nat} {fl : Flags} (hv : s.hart.ves = 0) (hr : s.hart.rest = none)
    (he : elemGo w (s.hart.active m.k) m.kz s.hart.fen f s.hart.vlN 0 ⟨(s.hart.getV d).toNat, 0, s.hart.srseed⟩ = (r, some (e, fl))) :
    runM (elementwise i d w m f) s = (.error (.trap .fptrap (BitVec.ofNat 64 (e * 2 ^ 32 + fl.toNat))), { s with hart := { (s.hart.setV d (BitVec.ofNat 16384 r.v)).mark (marks i) with fflags := s.hart.fflags ||| r.fl, srseed := r.seed, ves := BitVec.ofNat 32 e } }) := by
  have hz : s.hart.ves.toNat = 0 := by rw [hv]; rfl
  have hu : ∀ g t, s.hart.unitEnd g t = t := by intro g t; unfold Hart.unitEnd; rw [hr]
  simp only [elementwise, runM_bind, runM_getHart, hz, hu, Nat.sub_zero, he, runM_modHart, fpStop, runM_trap]

/-- The loop of a rounded operation, up to n elements none of which traps. -/
theorem elemGo_rounded {h : Hart} {w : Nat} {m : Pred} {mode : Rm} {f : Nat → Nat → Nat → Nat × Flags} {g : Nat → Nat → Nat × Flags} {old : VReg}
    (hf : ∀ i cur dr, getE w cur i = getE w old.toNat i → f i cur dr = g i dr) (n : Nat) (hq : h.quietBelow mode m.k g n) :
    ∃ v : Nat, elemGo w (h.active m.k) m.kz h.fen (roundedF mode f) n 0 ⟨old.toNat, 0, h.srseed⟩ =
        (⟨v, h.flagsBelow m.k n (fun j => (h.eltResult mode m.k g j).2), seedAfter mode h.srseed (h.activeBelow m.k n)⟩, none) ∧
      h.eltsAre n w m (fun j => (h.eltResult mode m.k g j).1) old (BitVec.ofNat 16384 v) := by
  obtain ⟨v, h1, h2⟩ := elemGo_quiet (w := w) (act := h.active m.k) (kz := m.kz) (en := h.fen) (f := roundedF mode f) (old := old.toNat)
    (F := fun i seed => ((g i (drawFor mode seed).1).1, (g i (drawFor mode seed).1).2, (drawFor mode seed).2))
    (σ := fun j => seedAfter mode h.srseed (h.activeBelow m.k j))
    (fun i cur seed hc => by simp only [roundedF, hf i cur _ hc])
    (fun i => by
      simp only [activeBelow_succ]
      by_cases ha : h.active m.k i = true
      · simp only [ha, if_true, seedAfter]
      · simp only [ha, Bool.false_eq_true, if_false, Nat.add_zero])
    n 0 old.toNat 0 (fun _ _ _ => rfl) (fun j _ hj ha => hq j (by omega) ha)
  refine ⟨v, ?_, fun j hj => ?_⟩
  · have e0 : h.activeBelow m.k 0 = 0 := rfl
    simp only [e0, seedAfter, Nat.zero_add] at h1
    rw [h1, ← List.range_eq_range']
    rfl
  · rw [getE_ofNat hj, h2 j]
    simp only [Nat.zero_le, true_and, Nat.zero_add]
    rfl

/-- A rounded element-wise instruction on an idle V hart, no active element of which raises an enabled flag. -/
theorem postInstr_rounded {s : State} {i : Instr} {d : Reg} {w : Nat} {m : Pred} {mode : Rm} {f : Nat → Nat → Nat → Nat × Flags}
    {g : Nat → Nat → Nat × Flags} (h : s.vIdle) (hl : s.usable i) (hp : plainPost i = true)
    (hv : runM (vop i (entryAt s.hart i s.hart.pc)) (s.vPosted 2 i) = runM (elementwise i d w m (roundedF mode f)) (s.vPosted 2 i))
    (hf : ∀ i cur dr, getE w cur i = getE w (s.hart.getV d).toNat i → f i cur dr = g i dr) (hq : s.hart.quietBelow mode m.k g s.hart.vlN) :
    ∃ t, postInstr i s = .next t ∧ s.rounded t i d w m mode g := by
  obtain ⟨v, h1, h2⟩ := elemGo_rounded hf s.hart.vlN hq
  have hr := h.2.2.2.1
  have e := runM_elementwise (i := i) (d := d) (w := w) (m := m) (s := s.vPosted 2 i) rfl hr h1
  refine ⟨_, postInstr_ok h hl hp (hv.trans e) rfl hr h.2.2.2.2.1, BitVec.ofNat 16384 v, ?_, h2⟩
  have ho : ∀ x : Flags, x ||| 0 = x := fun x => by simp
  simp only [State.vDone, State.vPosted, Hart.retireOne, Hart.afterElts, Hart.setV, Hart.mark, h.2.1, ho]
  rfl

/-- The loop of a plain operation. -/
theorem elemGo_plain {h : Hart} {w : Nat} {m : Pred} {en : Flags} {f : Nat → Nat → Nat} {g : Nat → Nat} {old : VReg} {seed : Word}
    (hf : ∀ i cur, getE w cur i = getE w old.toNat i → f i cur = g i) (n : Nat) :
    ∃ v : Nat, elemGo w (h.active m.k) m.kz en (plainF f) n 0 ⟨old.toNat, 0, seed⟩ = (⟨v, 0, seed⟩, none) ∧
      h.eltsAre n w m g old (BitVec.ofNat 16384 v) := by
  have ht : ∀ en : Flags, trapping en 0 = 0 := fun en => by simp [trapping]
  obtain ⟨v, h1, h2⟩ := elemGo_quiet (w := w) (act := h.active m.k) (kz := m.kz) (en := en) (f := plainF f) (old := old.toNat)
    (F := fun i seed => (g i, 0, seed)) (σ := fun _ => seed)
    (fun i cur seed hc => by simp only [plainF, hf i cur hc]) (fun i => by split <;> rfl)
    n 0 old.toNat 0 (fun _ _ _ => rfl) (fun j _ _ _ => ht en)
  have h0 : ∀ l : List Nat, l.foldl (fun (a : Flags) _ => a ||| 0) 0 = 0 := by
    intro l; induction l with
    | nil => rfl
    | cons a t ih => rw [List.foldl_cons]; exact ih
  refine ⟨v, ?_, fun j hj => ?_⟩
  · rw [h1]; simp only [h0]
  · rw [getE_ofNat hj, h2 j]
    simp only [Nat.zero_le, true_and, Nat.zero_add]

/-- A plain element-wise instruction on an idle V hart. -/
theorem postInstr_plain {s : State} {i : Instr} {d : Reg} {w : Nat} {m : Pred} {f : Nat → Nat → Nat}
    {g : Nat → Nat} (h : s.vIdle) (hl : s.usable i) (hp : plainPost i = true)
    (hv : runM (vop i (entryAt s.hart i s.hart.pc)) (s.vPosted 2 i) = runM (elementwise i d w m (plainF f)) (s.vPosted 2 i))
    (hf : ∀ i cur, getE w cur i = getE w (s.hart.getV d).toNat i → f i cur = g i) :
    ∃ t, postInstr i s = .next t ∧ s.wroteV t i d w m g := by
  obtain ⟨v, h1, h2⟩ := elemGo_plain (h := s.hart) (en := s.hart.fen) (seed := s.hart.srseed) hf s.hart.vlN
  have hr := h.2.2.2.1
  have e := runM_elementwise (i := i) (d := d) (w := w) (m := m) (s := s.vPosted 2 i) rfl hr h1
  refine ⟨_, postInstr_ok h hl hp (hv.trans e) rfl hr h.2.2.2.2.1, BitVec.ofNat 16384 v, ?_, h2⟩
  have ho : ∀ x : Flags, x ||| 0 = x := fun x => by simp
  simp only [State.vDone, State.vPosted, Hart.retireOne, Hart.setV, Hart.mark, h.2.1, ho]

/-- The loop of a rounded operation whose first trap is at element e. -/
theorem elemGo_rounded_trap {h : Hart} {w : Nat} {m : Pred} {mode : Rm} {f : Nat → Nat → Nat → Nat × Flags} {g : Nat → Nat → Nat × Flags}
    {old : VReg} (hf : ∀ i cur dr, getE w cur i = getE w old.toNat i → f i cur dr = g i dr) (n e : Nat) (he : e < n)
    (hq : h.quietBelow mode m.k g e) (ha : h.active m.k e = true) (ht : trapping h.fen (h.eltResult mode m.k g e).2 ≠ 0) :
    ∃ v : Nat, elemGo w (h.active m.k) m.kz h.fen (roundedF mode f) n 0 ⟨old.toNat, 0, h.srseed⟩ =
        (⟨v, h.flagsBelow m.k e (fun j => (h.eltResult mode m.k g j).2) ||| (h.eltResult mode m.k g e).2,
          seedAfter mode h.srseed (h.activeBelow m.k e)⟩, some (e, trapping h.fen (h.eltResult mode m.k g e).2)) ∧
      h.eltsAre e w m (fun j => (h.eltResult mode m.k g j).1) old (BitVec.ofNat 16384 v) := by
  obtain ⟨v, h1, h2⟩ := elemGo_quiet (w := w) (act := h.active m.k) (kz := m.kz) (en := h.fen) (f := roundedF mode f) (old := old.toNat)
    (F := fun i seed => ((g i (drawFor mode seed).1).1, (g i (drawFor mode seed).1).2, (drawFor mode seed).2))
    (σ := fun j => seedAfter mode h.srseed (h.activeBelow m.k j))
    (fun i cur seed hc => by simp only [roundedF, hf i cur _ hc])
    (fun i => by
      simp only [activeBelow_succ]
      by_cases ha : h.active m.k i = true
      · simp only [ha, if_true, seedAfter]
      · simp only [ha, Bool.false_eq_true, if_false, Nat.add_zero])
    e 0 old.toNat 0 (fun _ _ _ => rfl) (fun j _ hj ha => hq j (by omega) ha)
  have e0 : h.activeBelow m.k 0 = 0 := rfl
  simp only [e0, seedAfter, Nat.zero_add] at h1
  rw [← List.range_eq_range'] at h1
  refine ⟨v, ?_, fun j hj => ?_⟩
  · obtain ⟨k, rfl⟩ : ∃ k, n = e + (k + 1) := ⟨n - e - 1, by omega⟩
    rw [elemGo_add e (k + 1) 0 _ _ h1, Nat.zero_add, elemGo, if_pos ha]
    have hx : getE w v e = getE w old.toNat e := by rw [h2 e]; simp
    simp only [roundedF, hf e v _ hx]
    have hb : (trapping h.fen (g e (drawFor mode (seedAfter mode h.srseed (h.activeBelow m.k e))).1).2 != 0) = true := by
      simpa [Hart.eltResult, Hart.drawAt] using ht
    rw [if_pos hb]
    rfl
  · rw [getE_ofNat hj, h2 j]
    simp only [Nat.zero_le, true_and, Nat.zero_add]
    rfl

/-- A rounded element-wise instruction on an idle V hart that takes FPTRAP at element e. -/
theorem postInstr_fpStops {s : State} {i : Instr} {d : Reg} {w : Nat} {m : Pred} {mode : Rm} {f : Nat → Nat → Nat → Nat × Flags}
    {g : Nat → Nat → Nat × Flags} (h : s.vIdle) (hl : s.usable i) (hp : plainPost i = true)
    (hv : runM (vop i (entryAt s.hart i s.hart.pc)) (s.vPosted 2 i) = runM (elementwise i d w m (roundedF mode f)) (s.vPosted 2 i))
    (hf : ∀ i cur dr, getE w cur i = getE w (s.hart.getV d).toNat i → f i cur dr = g i dr) (e : Nat) (he : e < s.hart.vlN)
    (hq : s.hart.quietBelow mode m.k g e) (ha : s.hart.active m.k e = true)
    (ht : trapping s.hart.fen (s.hart.eltResult mode m.k g e).2 ≠ 0) :
    s.fpStopsAt (postInstr i s) i d w m mode g e := by
  obtain ⟨v, h1, h2⟩ := elemGo_rounded_trap hf s.hart.vlN e he hq ha ht
  have hr := h.2.2.2.1
  have e := runM_elementwise_trap (i := i) (d := d) (w := w) (m := m) (s := s.vPosted 2 i) rfl hr h1
  refine ⟨BitVec.ofNat 16384 v, ?_, h2⟩
  rw [postInstr_trap h hl hp (hv.trans e) hr]
  simp only [Hart.stoppedBy, State.vPosted, Hart.afterElts, Hart.setV, Hart.mark, BitVec.or_assoc, BitVec.or_self]
  rfl
end Sys2Proof.Machine
end

