-- ==== Sys2Proof/Laws/PerInstr.lean ====
section
/-! SUPPORT. Families of statements made for every instruction, one lemma for each. -/

/-- 04:R103, R107: an instruction is one parcel or two; an event of the package has no encoding. -/
def Sys2Proof.Laws.Parcels.Statement (i : Sys2Proof.Instr) : Prop :=
  (Sys2Proof.isEvent i = true ∧ Sys2Proof.encode i = []) ∨
  (Sys2Proof.isEvent i = false ∧ ((Sys2Proof.encode i).length = 1 ∨ (Sys2Proof.encode i).length = 2))

namespace Sys2Proof.Laws

theorem Parcels.add : ∀ x1 x2 x3 x4, Parcels.Statement (.add x1 x2 x3 x4) := fun _ _ _ _ => Or.inr ⟨rfl, Or.inl rfl⟩
theorem Parcels.addImm : ∀ x1 x2 x3, Parcels.Statement (.addImm x1 x2 x3) := fun _ _ _ => Or.inr ⟨rfl, Or.inl rfl⟩
theorem Parcels.sub : ∀ x1 x2 x3 x4, Parcels.Statement (.sub x1 x2 x3 x4) := fun _ _ _ _ => Or.inr ⟨rfl, Or.inl rfl⟩
theorem Parcels.mul : ∀ x1 x2 x3 x4, Parcels.Statement (.mul x1 x2 x3 x4) := fun _ _ _ _ => Or.inr ⟨rfl, Or.inl rfl⟩
theorem Parcels.mulh : ∀ x1 x2 x3 x4 x5, Parcels.Statement (.mulh x1 x2 x3 x4 x5) := fun _ _ _ _ _ => Or.inr ⟨rfl, Or.inl rfl⟩
theorem Parcels.div : ∀ x1 x2 x3 x4 x5, Parcels.Statement (.div x1 x2 x3 x4 x5) := fun _ _ _ _ _ => Or.inr ⟨rfl, Or.inl rfl⟩
theorem Parcels.rem : ∀ x1 x2 x3 x4 x5, Parcels.Statement (.rem x1 x2 x3 x4 x5) := fun _ _ _ _ _ => Or.inr ⟨rfl, Or.inl rfl⟩
theorem Parcels.and : ∀ x1 x2 x3, Parcels.Statement (.and x1 x2 x3) := fun _ _ _ => Or.inr ⟨rfl, Or.inl rfl⟩
theorem Parcels.andImm : ∀ x1 x2 x3, Parcels.Statement (.andImm x1 x2 x3) := fun _ _ _ => Or.inr ⟨rfl, Or.inl rfl⟩
theorem Parcels.or : ∀ x1 x2 x3, Parcels.Statement (.or x1 x2 x3) := fun _ _ _ => Or.inr ⟨rfl, Or.inl rfl⟩
theorem Parcels.orImm : ∀ x1 x2 x3, Parcels.Statement (.orImm x1 x2 x3) := fun _ _ _ => Or.inr ⟨rfl, Or.inl rfl⟩
theorem Parcels.xor : ∀ x1 x2 x3, Parcels.Statement (.xor x1 x2 x3) := fun _ _ _ => Or.inr ⟨rfl, Or.inl rfl⟩
theorem Parcels.xorImm : ∀ x1 x2 x3, Parcels.Statement (.xorImm x1 x2 x3) := fun _ _ _ => Or.inr ⟨rfl, Or.inl rfl⟩
theorem Parcels.andn : ∀ x1 x2 x3, Parcels.Statement (.andn x1 x2 x3) := fun _ _ _ => Or.inr ⟨rfl, Or.inl rfl⟩
theorem Parcels.shl : ∀ x1 x2 x3 x4, Parcels.Statement (.shl x1 x2 x3 x4) := fun _ _ _ _ => Or.inr ⟨rfl, Or.inl rfl⟩
theorem Parcels.shr : ∀ x1 x2 x3 x4, Parcels.Statement (.shr x1 x2 x3 x4) := fun _ _ _ _ => Or.inr ⟨rfl, Or.inl rfl⟩
theorem Parcels.sar : ∀ x1 x2 x3 x4, Parcels.Statement (.sar x1 x2 x3 x4) := fun _ _ _ _ => Or.inr ⟨rfl, Or.inl rfl⟩
theorem Parcels.ror : ∀ x1 x2 x3 x4, Parcels.Statement (.ror x1 x2 x3 x4) := fun _ _ _ _ => Or.inr ⟨rfl, Or.inl rfl⟩
theorem Parcels.shlImm : ∀ x1 x2 x3 x4, Parcels.Statement (.shlImm x1 x2 x3 x4) := fun _ _ _ _ => Or.inr ⟨rfl, Or.inl rfl⟩
theorem Parcels.shrImm : ∀ x1 x2 x3 x4, Parcels.Statement (.shrImm x1 x2 x3 x4) := fun _ _ _ _ => Or.inr ⟨rfl, Or.inl rfl⟩
theorem Parcels.sarImm : ∀ x1 x2 x3 x4, Parcels.Statement (.sarImm x1 x2 x3 x4) := fun _ _ _ _ => Or.inr ⟨rfl, Or.inl rfl⟩
theorem Parcels.rorImm : ∀ x1 x2 x3 x4, Parcels.Statement (.rorImm x1 x2 x3 x4) := fun _ _ _ _ => Or.inr ⟨rfl, Or.inl rfl⟩
theorem Parcels.min : ∀ x1 x2 x3 x4, Parcels.Statement (.min x1 x2 x3 x4) := fun _ _ _ _ => Or.inr ⟨rfl, Or.inl rfl⟩
theorem Parcels.max : ∀ x1 x2 x3 x4, Parcels.Statement (.max x1 x2 x3 x4) := fun _ _ _ _ => Or.inr ⟨rfl, Or.inl rfl⟩
theorem Parcels.set : ∀ x1 x2 x3 x4, Parcels.Statement (.set x1 x2 x3 x4) := fun _ _ _ _ => Or.inr ⟨rfl, Or.inl rfl⟩
theorem Parcels.setImm : ∀ x1 x2 x3 x4, Parcels.Statement (.setImm x1 x2 x3 x4) := fun _ _ _ _ => Or.inr ⟨rfl, Or.inl rfl⟩
theorem Parcels.sel : ∀ x1 x2 x3, Parcels.Statement (.sel x1 x2 x3) := fun _ _ _ => Or.inr ⟨rfl, Or.inl rfl⟩
theorem Parcels.clz : ∀ x1 x2 x3, Parcels.Statement (.clz x1 x2 x3) := fun _ _ _ => Or.inr ⟨rfl, Or.inl rfl⟩
theorem Parcels.ctz : ∀ x1 x2 x3, Parcels.Statement (.ctz x1 x2 x3) := fun _ _ _ => Or.inr ⟨rfl, Or.inl rfl⟩
theorem Parcels.popc : ∀ x1 x2 x3, Parcels.Statement (.popc x1 x2 x3) := fun _ _ _ => Or.inr ⟨rfl, Or.inl rfl⟩
theorem Parcels.bswap : ∀ x1 x2, Parcels.Statement (.bswap x1 x2) := fun _ _ => Or.inr ⟨rfl, Or.inl rfl⟩
theorem Parcels.ext : ∀ x1 x2 x3 x4, Parcels.Statement (.ext x1 x2 x3 x4) := fun _ _ _ _ => Or.inr ⟨rfl, Or.inl rfl⟩
theorem Parcels.ins : ∀ x1 x2 x3, Parcels.Statement (.ins x1 x2 x3) := fun _ _ _ => Or.inr ⟨rfl, Or.inl rfl⟩
theorem Parcels.extImm : ∀ x1 x2 x3 x4 x5, Parcels.Statement (.extImm x1 x2 x3 x4 x5) := fun _ _ _ _ _ => Or.inr ⟨rfl, Or.inl rfl⟩
theorem Parcels.insImm : ∀ x1 x2 x3 x4, Parcels.Statement (.insImm x1 x2 x3 x4) := fun _ _ _ _ => Or.inr ⟨rfl, Or.inl rfl⟩
theorem Parcels.lim : ∀ x1 x2, Parcels.Statement (.lim x1 x2) := fun _ _ => Or.inr ⟨rfl, Or.inl rfl⟩
theorem Parcels.addpc : ∀ x1 x2, Parcels.Statement (.addpc x1 x2) := fun _ _ => Or.inr ⟨rfl, Or.inl rfl⟩
theorem Parcels.lea : ∀ x1 x2 x3 x4, Parcels.Statement (.lea x1 x2 x3 x4) := fun _ _ _ _ => Or.inr ⟨rfl, Or.inl rfl⟩
theorem Parcels.ld : ∀ x1 x2 x3 x4, Parcels.Statement (.ld x1 x2 x3 x4) := fun _ _ _ _ => Or.inr ⟨rfl, Or.inl rfl⟩
theorem Parcels.st : ∀ x1 x2 x3 x4, Parcels.Statement (.st x1 x2 x3 x4) := fun _ _ _ _ => Or.inr ⟨rfl, Or.inl rfl⟩
theorem Parcels.ldaq : ∀ x1 x2 x3 x4, Parcels.Statement (.ldaq x1 x2 x3 x4) := fun _ _ _ _ => Or.inr ⟨rfl, Or.inl rfl⟩
theorem Parcels.strl : ∀ x1 x2 x3 x4, Parcels.Statement (.strl x1 x2 x3 x4) := fun _ _ _ _ => Or.inr ⟨rfl, Or.inl rfl⟩
theorem Parcels.amo : ∀ x1 x2 x3 x4 x5 x6, Parcels.Statement (.amo x1 x2 x3 x4 x5 x6) :=
  fun _ _ _ _ _ _ => Or.inr ⟨rfl, Or.inl rfl⟩
theorem Parcels.cas : ∀ x1 x2 x3 x4 x5, Parcels.Statement (.cas x1 x2 x3 x4 x5) := fun _ _ _ _ _ => Or.inr ⟨rfl, Or.inl rfl⟩
theorem Parcels.fence : ∀ x1 x2 x3, Parcels.Statement (.fence x1 x2 x3) := fun _ _ _ => Or.inr ⟨rfl, Or.inl rfl⟩
theorem Parcels.ifence : ∀ x1, Parcels.Statement (.ifence x1) := fun _ => Or.inr ⟨rfl, Or.inl rfl⟩
theorem Parcels.vfence : ∀ x1, Parcels.Statement (.vfence x1) := fun _ => Or.inr ⟨rfl, Or.inl rfl⟩
theorem Parcels.b : ∀ x1 x2 x3 x4, Parcels.Statement (.b x1 x2 x3 x4) := fun _ _ _ _ => Or.inr ⟨rfl, Or.inl rfl⟩
theorem Parcels.j : ∀ x1, Parcels.Statement (.j x1) := fun _ => Or.inr ⟨rfl, Or.inl rfl⟩
theorem Parcels.call : ∀ x1, Parcels.Statement (.call x1) := fun _ => Or.inr ⟨rfl, Or.inl rfl⟩
theorem Parcels.jr : ∀ x1 x2, Parcels.Statement (.jr x1 x2) := fun _ _ => Or.inr ⟨rfl, Or.inl rfl⟩
theorem Parcels.btab : ∀ x1 x2 x3, Parcels.Statement (.btab x1 x2 x3) := fun _ _ _ => Or.inr ⟨rfl, Or.inl rfl⟩
theorem Parcels.bvany : ∀ x1 x2, Parcels.Statement (.bvany x1 x2) := fun _ _ => Or.inr ⟨rfl, Or.inl rfl⟩
theorem Parcels.bvall : ∀ x1 x2, Parcels.Statement (.bvall x1 x2) := fun _ _ => Or.inr ⟨rfl, Or.inl rfl⟩
theorem Parcels.fadd : ∀ x1 x2 x3 x4 x5, Parcels.Statement (.fadd x1 x2 x3 x4 x5) := fun _ _ _ _ _ => Or.inr ⟨rfl, Or.inl rfl⟩
theorem Parcels.fsub : ∀ x1 x2 x3 x4 x5, Parcels.Statement (.fsub x1 x2 x3 x4 x5) := fun _ _ _ _ _ => Or.inr ⟨rfl, Or.inl rfl⟩
theorem Parcels.fmul : ∀ x1 x2 x3 x4 x5, Parcels.Statement (.fmul x1 x2 x3 x4 x5) := fun _ _ _ _ _ => Or.inr ⟨rfl, Or.inl rfl⟩
theorem Parcels.fdiv : ∀ x1 x2 x3 x4 x5, Parcels.Statement (.fdiv x1 x2 x3 x4 x5) := fun _ _ _ _ _ => Or.inr ⟨rfl, Or.inl rfl⟩
theorem Parcels.fsqrt : ∀ x1 x2 x3 x4, Parcels.Statement (.fsqrt x1 x2 x3 x4) := fun _ _ _ _ => Or.inr ⟨rfl, Or.inl rfl⟩
theorem Parcels.fmin : ∀ x1 x2 x3 x4, Parcels.Statement (.fmin x1 x2 x3 x4) := fun _ _ _ _ => Or.inr ⟨rfl, Or.inl rfl⟩
theorem Parcels.fmax : ∀ x1 x2 x3 x4, Parcels.Statement (.fmax x1 x2 x3 x4) := fun _ _ _ _ => Or.inr ⟨rfl, Or.inl rfl⟩
theorem Parcels.fcmp : ∀ x1 x2 x3 x4 x5, Parcels.Statement (.fcmp x1 x2 x3 x4 x5) := fun _ _ _ _ _ => Or.inr ⟨rfl, Or.inl rfl⟩
theorem Parcels.fcvt : ∀ x1 x2 x3 x4 x5, Parcels.Statement (.fcvt x1 x2 x3 x4 x5) := fun _ _ _ _ _ => Or.inr ⟨rfl, Or.inl rfl⟩
theorem Parcels.fmov : ∀ x1 x2 x3 x4, Parcels.Statement (.fmov x1 x2 x3 x4) := fun _ _ _ _ => Or.inr ⟨rfl, Or.inl rfl⟩
theorem Parcels.fclass : ∀ x1 x2 x3, Parcels.Statement (.fclass x1 x2 x3) := fun _ _ _ => Or.inr ⟨rfl, Or.inl rfl⟩
theorem Parcels.fma : ∀ x1 x2 x3 x4 x5 x6, Parcels.Statement (.fma x1 x2 x3 x4 x5 x6) :=
  fun _ _ _ _ _ _ => Or.inr ⟨rfl, Or.inl rfl⟩
theorem Parcels.crld : ∀ x1 x2, Parcels.Statement (.crld x1 x2) := fun _ _ => Or.inr ⟨rfl, Or.inl rfl⟩
theorem Parcels.crst : ∀ x1 x2, Parcels.Statement (.crst x1 x2) := fun _ _ => Or.inr ⟨rfl, Or.inl rfl⟩
theorem Parcels.semts : ∀ x1, Parcels.Statement (.semts x1) := fun _ => Or.inr ⟨rfl, Or.inl rfl⟩
theorem Parcels.semtry : ∀ x1 x2, Parcels.Statement (.semtry x1 x2) := fun _ _ => Or.inr ⟨rfl, Or.inl rfl⟩
theorem Parcels.semclr : ∀ x1, Parcels.Statement (.semclr x1) := fun _ => Or.inr ⟨rfl, Or.inl rfl⟩
theorem Parcels.sysc : ∀ x1, Parcels.Statement (.sysc x1) := fun _ => Or.inr ⟨rfl, Or.inl rfl⟩
theorem Parcels.trap : ∀ x1 x2, Parcels.Statement (.trap x1 x2) := fun _ _ => Or.inr ⟨rfl, Or.inl rfl⟩
theorem Parcels.tret : Parcels.Statement (.tret) := Or.inr ⟨rfl, Or.inl rfl⟩
theorem Parcels.idle : Parcels.Statement (.idle) := Or.inr ⟨rfl, Or.inl rfl⟩
theorem Parcels.idleX : Parcels.Statement (.idleX) := Or.inr ⟨rfl, Or.inl rfl⟩
theorem Parcels.brk : ∀ x1, Parcels.Statement (.brk x1) := fun _ => Or.inr ⟨rfl, Or.inl rfl⟩
theorem Parcels.migrC : Parcels.Statement (.migrC) := Or.inr ⟨rfl, Or.inl rfl⟩
theorem Parcels.migrV : Parcels.Statement (.migrV) := Or.inr ⟨rfl, Or.inl rfl⟩
theorem Parcels.csrr : ∀ x1 x2, Parcels.Statement (.csrr x1 x2) := fun _ _ => Or.inr ⟨rfl, Or.inl rfl⟩
theorem Parcels.csrw : ∀ x1 x2, Parcels.Statement (.csrw x1 x2) := fun _ _ => Or.inr ⟨rfl, Or.inl rfl⟩
theorem Parcels.csrx : ∀ x1 x2 x3, Parcels.Statement (.csrx x1 x2 x3) := fun _ _ _ => Or.inr ⟨rfl, Or.inl rfl⟩
theorem Parcels.launch : ∀ x1 x2 x3, Parcels.Statement (.launch x1 x2 x3) := fun _ _ _ => Or.inr ⟨rfl, Or.inl rfl⟩
theorem Parcels.signal : ∀ x1 x2 x3, Parcels.Statement (.signal x1 x2 x3) := fun _ _ _ => Or.inr ⟨rfl, Or.inl rfl⟩
theorem Parcels.waitsig : ∀ x1 x2 x3, Parcels.Statement (.waitsig x1 x2 x3) := fun _ _ _ => Or.inr ⟨rfl, Or.inl rfl⟩
theorem Parcels.gbar : Parcels.Statement (.gbar) := Or.inr ⟨rfl, Or.inl rfl⟩
theorem Parcels.blind : ∀ x1, Parcels.Statement (.blind x1) := fun _ => Or.inr ⟨rfl, Or.inl rfl⟩
theorem Parcels.setvl : ∀ x1 x2, Parcels.Statement (.setvl x1 x2) := fun _ _ => Or.inr ⟨rfl, Or.inl rfl⟩
theorem Parcels.setvt : ∀ x1 x2, Parcels.Statement (.setvt x1 x2) := fun _ _ => Or.inr ⟨rfl, Or.inl rfl⟩
theorem Parcels.setmr : ∀ x1 x2, Parcels.Statement (.setmr x1 x2) := fun _ _ => Or.inr ⟨rfl, Or.inl rfl⟩
theorem Parcels.tld : ∀ x1 x2 x3, Parcels.Statement (.tld x1 x2 x3) := fun _ _ _ => Or.inr ⟨rfl, Or.inl rfl⟩
theorem Parcels.tst : ∀ x1 x2 x3, Parcels.Statement (.tst x1 x2 x3) := fun _ _ _ => Or.inr ⟨rfl, Or.inl rfl⟩
theorem Parcels.tcvt : ∀ x1 x2 x3 x4, Parcels.Statement (.tcvt x1 x2 x3 x4) := fun _ _ _ _ => Or.inr ⟨rfl, Or.inl rfl⟩
theorem Parcels.tmma : ∀ x1 x2 x3 x4 x5, Parcels.Statement (.tmma x1 x2 x3 x4 x5) := fun _ _ _ _ _ => Or.inr ⟨rfl, Or.inl rfl⟩
theorem Parcels.tmmaS : ∀ x1 x2 x3 x4 x5 x6 x7, Parcels.Statement (.tmmaS x1 x2 x3 x4 x5 x6 x7) :=
  fun _ _ _ _ _ _ _ => Or.inr ⟨rfl, Or.inl rfl⟩
theorem Parcels.tsend : ∀ x1 x2 x3, Parcels.Statement (.tsend x1 x2 x3) := fun _ _ _ => Or.inr ⟨rfl, Or.inl rfl⟩
theorem Parcels.tsync : Parcels.Statement (.tsync) := Or.inr ⟨rfl, Or.inl rfl⟩
theorem Parcels.convoy : ∀ x1, Parcels.Statement (.convoy x1) := fun _ => Or.inr ⟨rfl, Or.inl rfl⟩
theorem Parcels.vld : ∀ x1 x2 x3 x4 x5, Parcels.Statement (.vld x1 x2 x3 x4 x5) := fun _ _ _ _ _ => Or.inr ⟨rfl, Or.inr rfl⟩
theorem Parcels.vlds : ∀ x1 x2 x3 x4 x5 x6, Parcels.Statement (.vlds x1 x2 x3 x4 x5 x6) :=
  fun _ _ _ _ _ _ => Or.inr ⟨rfl, Or.inr rfl⟩
theorem Parcels.vldx : ∀ x1 x2 x3 x4 x5 x6, Parcels.Statement (.vldx x1 x2 x3 x4 x5 x6) :=
  fun _ _ _ _ _ _ => Or.inr ⟨rfl, Or.inr rfl⟩
theorem Parcels.vst : ∀ x1 x2 x3 x4, Parcels.Statement (.vst x1 x2 x3 x4) := fun _ _ _ _ => Or.inr ⟨rfl, Or.inr rfl⟩
theorem Parcels.vsts : ∀ x1 x2 x3 x4 x5, Parcels.Statement (.vsts x1 x2 x3 x4 x5) := fun _ _ _ _ _ => Or.inr ⟨rfl, Or.inr rfl⟩
theorem Parcels.vstx : ∀ x1 x2 x3 x4 x5, Parcels.Statement (.vstx x1 x2 x3 x4 x5) := fun _ _ _ _ _ => Or.inr ⟨rfl, Or.inr rfl⟩
theorem Parcels.vsave : ∀ x1 x2, Parcels.Statement (.vsave x1 x2) := fun _ _ => Or.inr ⟨rfl, Or.inr rfl⟩
theorem Parcels.vrstr : ∀ x1 x2, Parcels.Statement (.vrstr x1 x2) := fun _ _ => Or.inr ⟨rfl, Or.inr rfl⟩
theorem Parcels.vadd : ∀ x1 x2 x3 x4, Parcels.Statement (.vadd x1 x2 x3 x4) := by
  intro x1 x2 x3 x4; cases x3 <;> exact Or.inr ⟨rfl, Or.inr rfl⟩
theorem Parcels.vsub : ∀ x1 x2 x3 x4, Parcels.Statement (.vsub x1 x2 x3 x4) := by
  intro x1 x2 x3 x4; cases x3 <;> exact Or.inr ⟨rfl, Or.inr rfl⟩
theorem Parcels.vmul : ∀ x1 x2 x3 x4, Parcels.Statement (.vmul x1 x2 x3 x4) := by
  intro x1 x2 x3 x4; cases x3 <;> exact Or.inr ⟨rfl, Or.inr rfl⟩
theorem Parcels.vmulh : ∀ x1 x2 x3 x4, Parcels.Statement (.vmulh x1 x2 x3 x4) := by
  intro x1 x2 x3 x4; cases x3 <;> exact Or.inr ⟨rfl, Or.inr rfl⟩
theorem Parcels.vand : ∀ x1 x2 x3 x4, Parcels.Statement (.vand x1 x2 x3 x4) := by
  intro x1 x2 x3 x4; cases x3 <;> exact Or.inr ⟨rfl, Or.inr rfl⟩
theorem Parcels.vor : ∀ x1 x2 x3 x4, Parcels.Statement (.vor x1 x2 x3 x4) := by
  intro x1 x2 x3 x4; cases x3 <;> exact Or.inr ⟨rfl, Or.inr rfl⟩
theorem Parcels.vxor : ∀ x1 x2 x3 x4, Parcels.Statement (.vxor x1 x2 x3 x4) := by
  intro x1 x2 x3 x4; cases x3 <;> exact Or.inr ⟨rfl, Or.inr rfl⟩
theorem Parcels.vshl : ∀ x1 x2 x3 x4, Parcels.Statement (.vshl x1 x2 x3 x4) := by
  intro x1 x2 x3 x4; cases x3 <;> exact Or.inr ⟨rfl, Or.inr rfl⟩
theorem Parcels.vshr : ∀ x1 x2 x3 x4, Parcels.Statement (.vshr x1 x2 x3 x4) := by
  intro x1 x2 x3 x4; cases x3 <;> exact Or.inr ⟨rfl, Or.inr rfl⟩
theorem Parcels.vsar : ∀ x1 x2 x3 x4, Parcels.Statement (.vsar x1 x2 x3 x4) := by
  intro x1 x2 x3 x4; cases x3 <;> exact Or.inr ⟨rfl, Or.inr rfl⟩
theorem Parcels.vmin : ∀ x1 x2 x3 x4, Parcels.Statement (.vmin x1 x2 x3 x4) := by
  intro x1 x2 x3 x4; cases x3 <;> exact Or.inr ⟨rfl, Or.inr rfl⟩
theorem Parcels.vmax : ∀ x1 x2 x3 x4, Parcels.Statement (.vmax x1 x2 x3 x4) := by
  intro x1 x2 x3 x4; cases x3 <;> exact Or.inr ⟨rfl, Or.inr rfl⟩
theorem Parcels.vsadd : ∀ x1 x2 x3 x4, Parcels.Statement (.vsadd x1 x2 x3 x4) := by
  intro x1 x2 x3 x4; cases x3 <;> exact Or.inr ⟨rfl, Or.inr rfl⟩
theorem Parcels.vssub : ∀ x1 x2 x3 x4, Parcels.Statement (.vssub x1 x2 x3 x4) := by
  intro x1 x2 x3 x4; cases x3 <;> exact Or.inr ⟨rfl, Or.inr rfl⟩
theorem Parcels.vfadd : ∀ x1 x2 x3 x4 x5, Parcels.Statement (.vfadd x1 x2 x3 x4 x5) := by
  intro x1 x2 x3 x4 x5; cases x3 <;> exact Or.inr ⟨rfl, Or.inr rfl⟩
theorem Parcels.vfsub : ∀ x1 x2 x3 x4 x5, Parcels.Statement (.vfsub x1 x2 x3 x4 x5) := by
  intro x1 x2 x3 x4 x5; cases x3 <;> exact Or.inr ⟨rfl, Or.inr rfl⟩
theorem Parcels.vfmul : ∀ x1 x2 x3 x4 x5, Parcels.Statement (.vfmul x1 x2 x3 x4 x5) := by
  intro x1 x2 x3 x4 x5; cases x3 <;> exact Or.inr ⟨rfl, Or.inr rfl⟩
theorem Parcels.vfdiv : ∀ x1 x2 x3 x4 x5, Parcels.Statement (.vfdiv x1 x2 x3 x4 x5) := by
  intro x1 x2 x3 x4 x5; cases x3 <;> exact Or.inr ⟨rfl, Or.inr rfl⟩
theorem Parcels.vfma : ∀ x1 x2 x3 x4 x5, Parcels.Statement (.vfma x1 x2 x3 x4 x5) := by
  intro x1 x2 x3 x4 x5; cases x3 <;> exact Or.inr ⟨rfl, Or.inr rfl⟩
theorem Parcels.vfsqrt : ∀ x1 x2 x3 x4, Parcels.Statement (.vfsqrt x1 x2 x3 x4) := fun _ _ _ _ => Or.inr ⟨rfl, Or.inr rfl⟩
theorem Parcels.vfmin : ∀ x1 x2 x3 x4, Parcels.Statement (.vfmin x1 x2 x3 x4) := by
  intro x1 x2 x3 x4; cases x3 <;> exact Or.inr ⟨rfl, Or.inr rfl⟩
theorem Parcels.vfmax : ∀ x1 x2 x3 x4, Parcels.Statement (.vfmax x1 x2 x3 x4) := by
  intro x1 x2 x3 x4; cases x3 <;> exact Or.inr ⟨rfl, Or.inr rfl⟩
theorem Parcels.vfexp2 : ∀ x1 x2 x3 x4, Parcels.Statement (.vfexp2 x1 x2 x3 x4) := fun _ _ _ _ => Or.inr ⟨rfl, Or.inr rfl⟩
theorem Parcels.vfrcp : ∀ x1 x2 x3 x4, Parcels.Statement (.vfrcp x1 x2 x3 x4) := fun _ _ _ _ => Or.inr ⟨rfl, Or.inr rfl⟩
theorem Parcels.vcvt : ∀ x1 x2 x3 x4 x5, Parcels.Statement (.vcvt x1 x2 x3 x4 x5) := fun _ _ _ _ _ => Or.inr ⟨rfl, Or.inr rfl⟩
theorem Parcels.vqenc : ∀ x1 x2 x3, Parcels.Statement (.vqenc x1 x2 x3) := fun _ _ _ => Or.inr ⟨rfl, Or.inr rfl⟩
theorem Parcels.vqdec : ∀ x1 x2 x3, Parcels.Statement (.vqdec x1 x2 x3) := fun _ _ _ => Or.inr ⟨rfl, Or.inr rfl⟩
theorem Parcels.vhbfly : ∀ x1 x2 x3 x4 x5, Parcels.Statement (.vhbfly x1 x2 x3 x4 x5) := fun _ _ _ _ _ => Or.inr ⟨rfl, Or.inr rfl⟩
theorem Parcels.vscale : ∀ x1 x2 x3 x4 x5, Parcels.Statement (.vscale x1 x2 x3 x4 x5) := fun _ _ _ _ _ => Or.inr ⟨rfl, Or.inr rfl⟩
theorem Parcels.vperm : ∀ x1 x2 x3 x4, Parcels.Statement (.vperm x1 x2 x3 x4) := fun _ _ _ _ => Or.inr ⟨rfl, Or.inr rfl⟩
theorem Parcels.vslide : ∀ x1 x2 x3 x4 x5, Parcels.Statement (.vslide x1 x2 x3 x4 x5) := fun _ _ _ _ _ => Or.inr ⟨rfl, Or.inr rfl⟩
theorem Parcels.vsplat : ∀ x1 x2 x3, Parcels.Statement (.vsplat x1 x2 x3) := fun _ _ _ => Or.inr ⟨rfl, Or.inr rfl⟩
theorem Parcels.vmerge : ∀ x1 x2 x3 x4, Parcels.Statement (.vmerge x1 x2 x3 x4) := fun _ _ _ _ => Or.inr ⟨rfl, Or.inr rfl⟩
theorem Parcels.vcompr : ∀ x1 x2 x3, Parcels.Statement (.vcompr x1 x2 x3) := fun _ _ _ => Or.inr ⟨rfl, Or.inr rfl⟩
theorem Parcels.vidx : ∀ x1 x2, Parcels.Statement (.vidx x1 x2) := fun _ _ => Or.inr ⟨rfl, Or.inr rfl⟩
theorem Parcels.vmvx : ∀ x1 x2 x3, Parcels.Statement (.vmvx x1 x2 x3) := fun _ _ _ => Or.inr ⟨rfl, Or.inr rfl⟩
theorem Parcels.vmxv : ∀ x1 x2 x3, Parcels.Statement (.vmxv x1 x2 x3) := fun _ _ _ => Or.inr ⟨rfl, Or.inr rfl⟩
theorem Parcels.vcmp : ∀ x1 x2 x3 x4 x5, Parcels.Statement (.vcmp x1 x2 x3 x4 x5) := by
  intro x1 x2 x3 x4 x5; cases x3 <;> exact Or.inr ⟨rfl, Or.inr rfl⟩
theorem Parcels.kop : ∀ x1 x2 x3 x4 x5, Parcels.Statement (.kop x1 x2 x3 x4 x5) := fun _ _ _ _ _ => Or.inr ⟨rfl, Or.inr rfl⟩
theorem Parcels.kpopc : ∀ x1 x2 x3, Parcels.Statement (.kpopc x1 x2 x3) := fun _ _ _ => Or.inr ⟨rfl, Or.inr rfl⟩
theorem Parcels.kfirst : ∀ x1 x2 x3, Parcels.Statement (.kfirst x1 x2 x3) := fun _ _ _ => Or.inr ⟨rfl, Or.inr rfl⟩
theorem Parcels.kmov : ∀ x1 x2 x3, Parcels.Statement (.kmov x1 x2 x3) := fun _ _ _ => Or.inr ⟨rfl, Or.inr rfl⟩
theorem Parcels.vred : ∀ x1 x2 x3 x4 x5 x6 x7, Parcels.Statement (.vred x1 x2 x3 x4 x5 x6 x7) :=
  fun _ _ _ _ _ _ _ => Or.inr ⟨rfl, Or.inr rfl⟩
theorem Parcels.vscan : ∀ x1 x2 x3 x4 x5 x6 x7, Parcels.Statement (.vscan x1 x2 x3 x4 x5 x6 x7) :=
  fun _ _ _ _ _ _ _ => Or.inr ⟨rfl, Or.inr rfl⟩
theorem Parcels.vamo : ∀ x1 x2 x3 x4 x5 x6 x7 x8 x9, Parcels.Statement (.vamo x1 x2 x3 x4 x5 x6 x7 x8 x9) :=
  fun _ _ _ _ _ _ _ _ _ => Or.inr ⟨rfl, Or.inr rfl⟩
theorem Parcels.vamom : ∀ x1 x2 x3 x4 x5 x6 x7 x8 x9, Parcels.Statement (.vamom x1 x2 x3 x4 x5 x6 x7 x8 x9) :=
  fun _ _ _ _ _ _ _ _ _ => Or.inr ⟨rfl, Or.inr rfl⟩
theorem Parcels.mzero : ∀ x1, Parcels.Statement (.mzero x1) := fun _ => Or.inr ⟨rfl, Or.inr rfl⟩
theorem Parcels.mma : ∀ x1 x2 x3 x4 x5, Parcels.Statement (.mma x1 x2 x3 x4 x5) := fun _ _ _ _ _ => Or.inr ⟨rfl, Or.inr rfl⟩
theorem Parcels.mrd : ∀ x1 x2 x3 x4 x5, Parcels.Statement (.mrd x1 x2 x3 x4 x5) := fun _ _ _ _ _ => Or.inr ⟨rfl, Or.inr rfl⟩
theorem Parcels.mwr : ∀ x1 x2 x3, Parcels.Statement (.mwr x1 x2 x3) := fun _ _ _ => Or.inr ⟨rfl, Or.inr rfl⟩
theorem Parcels.xproj : ∀ x1 x2 x3 x4, Parcels.Statement (.xproj x1 x2 x3 x4) := fun _ _ _ _ => Or.inr ⟨rfl, Or.inr rfl⟩
theorem Parcels.xprojb : ∀ x1 x2 x3 x4 x5, Parcels.Statement (.xprojb x1 x2 x3 x4 x5) := fun _ _ _ _ _ => Or.inr ⟨rfl, Or.inr rfl⟩
theorem Parcels.xmerge : ∀ x1 x2, Parcels.Statement (.xmerge x1 x2) := fun _ _ => Or.inr ⟨rfl, Or.inr rfl⟩
theorem Parcels.xhload : ∀ x1 x2 x3, Parcels.Statement (.xhload x1 x2 x3) := fun _ _ _ => Or.inr ⟨rfl, Or.inr rfl⟩
theorem Parcels.xhstore : ∀ x1 x2 x3, Parcels.Statement (.xhstore x1 x2 x3) := fun _ _ _ => Or.inr ⟨rfl, Or.inr rfl⟩
theorem Parcels.scld : ∀ x1 x2 x3 x4, Parcels.Statement (.scld x1 x2 x3 x4) := fun _ _ _ _ => Or.inr ⟨rfl, Or.inr rfl⟩
theorem Parcels.scst : ∀ x1 x2 x3 x4, Parcels.Statement (.scst x1 x2 x3 x4) := fun _ _ _ _ => Or.inr ⟨rfl, Or.inr rfl⟩
theorem Parcels.ctld : ∀ x1 x2, Parcels.Statement (.ctld x1 x2) := fun _ _ => Or.inr ⟨rfl, Or.inr rfl⟩
theorem Parcels.ctst : ∀ x1 x2, Parcels.Statement (.ctst x1 x2) := fun _ _ => Or.inr ⟨rfl, Or.inr rfl⟩
theorem Parcels.cpy : ∀ x1 x2 x3 x4, Parcels.Statement (.cpy x1 x2 x3 x4) := by
  intro x1 x2 x3 x4; cases x4 <;> exact Or.inr ⟨rfl, Or.inr rfl⟩
theorem Parcels.cpywt : ∀ x1, Parcels.Statement (.cpywt x1) := fun _ => Or.inr ⟨rfl, Or.inr rfl⟩
theorem Parcels.cpycan : ∀ x1, Parcels.Statement (.cpycan x1) := fun _ => Or.inr ⟨rfl, Or.inr rfl⟩
theorem Parcels.colbind : ∀ x1 x2, Parcels.Statement (.colbind x1 x2) := fun _ _ => Or.inr ⟨rfl, Or.inr rfl⟩
theorem Parcels.colfree : ∀ x1, Parcels.Statement (.colfree x1) := fun _ => Or.inr ⟨rfl, Or.inr rfl⟩
theorem Parcels.colwait : ∀ x1, Parcels.Statement (.colwait x1) := fun _ => Or.inr ⟨rfl, Or.inr rfl⟩
theorem Parcels.nput : ∀ x1 x2 x3 x4, Parcels.Statement (.nput x1 x2 x3 x4) := fun _ _ _ _ => Or.inr ⟨rfl, Or.inr rfl⟩
theorem Parcels.nget : ∀ x1 x2 x3 x4, Parcels.Statement (.nget x1 x2 x3 x4) := fun _ _ _ _ => Or.inr ⟨rfl, Or.inr rfl⟩
theorem Parcels.namo : ∀ x1 x2 x3 x4 x5 x6, Parcels.Statement (.namo x1 x2 x3 x4 x5 x6) :=
  fun _ _ _ _ _ _ => Or.inr ⟨rfl, Or.inr rfl⟩
theorem Parcels.nflush : ∀ x1 x2, Parcels.Statement (.nflush x1 x2) := fun _ _ => Or.inr ⟨rfl, Or.inr rfl⟩
theorem Parcels.vloop : ∀ x1 x2, Parcels.Statement (.vloop x1 x2) := fun _ _ => Or.inr ⟨rfl, Or.inr rfl⟩
theorem Parcels.powerUp : Parcels.Statement (.powerUp) := Or.inl ⟨rfl, rfl⟩
theorem Parcels.stringRailReady : Parcels.Statement (.stringRailReady) := Or.inl ⟨rfl, rfl⟩
theorem Parcels.systemFirmwareLoad : Parcels.Statement (.systemFirmwareLoad) := Or.inl ⟨rfl, rfl⟩
theorem Parcels.configRequestRetry : Parcels.Statement (.configRequestRetry) := Or.inl ⟨rfl, rfl⟩
theorem Parcels.fundamentalReset : Parcels.Statement (.fundamentalReset) := Or.inl ⟨rfl, rfl⟩
theorem Parcels.powerRemoval : Parcels.Statement (.powerRemoval) := Or.inl ⟨rfl, rfl⟩
theorem Parcels.railFault : ∀ x1, Parcels.Statement (.railFault x1) := fun _ => Or.inl ⟨rfl, rfl⟩
theorem Parcels.stringMeasurement : ∀ x1 x2 x3 x4, Parcels.Statement (.stringMeasurement x1 x2 x3 x4) :=
  fun _ _ _ _ => Or.inl ⟨rfl, rfl⟩
theorem Parcels.blindPeriodEnd : ∀ x1, Parcels.Statement (.blindPeriodEnd x1) := fun _ => Or.inl ⟨rfl, rfl⟩
theorem Parcels.temperatureSample : ∀ x1, Parcels.Statement (.temperatureSample x1) := fun _ => Or.inl ⟨rfl, rfl⟩
theorem Parcels.bellowsAllocation : ∀ x1 x2 x3 x4, Parcels.Statement (.bellowsAllocation x1 x2 x3 x4) :=
  fun _ _ _ _ => Or.inl ⟨rfl, rfl⟩
theorem Parcels.portPointChangeDone : ∀ x1, Parcels.Statement (.portPointChangeDone x1) := fun _ => Or.inl ⟨rfl, rfl⟩
theorem Parcels.mctpSetPowerLimit : ∀ x1, Parcels.Statement (.mctpSetPowerLimit x1) := fun _ => Or.inl ⟨rfl, rfl⟩
theorem Parcels.mctpRemoveStringPower : Parcels.Statement (.mctpRemoveStringPower) := Or.inl ⟨rfl, rfl⟩
theorem Parcels.mctpTelemetryRead : Parcels.Statement (.mctpTelemetryRead) := Or.inl ⟨rfl, rfl⟩
theorem Parcels.queueDoorbell : ∀ x1, Parcels.Statement (.queueDoorbell x1) := fun _ => Or.inl ⟨rfl, rfl⟩
theorem Parcels.queueDisableObserved : ∀ x1, Parcels.Statement (.queueDisableObserved x1) := fun _ => Or.inl ⟨rfl, rfl⟩
theorem Parcels.recordCheck : ∀ x1, Parcels.Statement (.recordCheck x1) := fun _ => Or.inl ⟨rfl, rfl⟩
theorem Parcels.recordReady : ∀ x1, Parcels.Statement (.recordReady x1) := fun _ => Or.inl ⟨rfl, rfl⟩
theorem Parcels.gangDispatch : ∀ x1, Parcels.Statement (.gangDispatch x1) := fun _ => Or.inl ⟨rfl, rfl⟩
theorem Parcels.priorityPromotion : ∀ x1, Parcels.Statement (.priorityPromotion x1) := fun _ => Or.inl ⟨rfl, rfl⟩
theorem Parcels.headPin : ∀ x1, Parcels.Statement (.headPin x1) := fun _ => Or.inl ⟨rfl, rfl⟩
theorem Parcels.preemptDecision : Parcels.Statement (.preemptDecision) := Or.inl ⟨rfl, rfl⟩
theorem Parcels.gangDeschedule : ∀ x1, Parcels.Statement (.gangDeschedule x1) := fun _ => Or.inl ⟨rfl, rfl⟩
theorem Parcels.gangRestore : ∀ x1, Parcels.Statement (.gangRestore x1) := fun _ => Or.inl ⟨rfl, rfl⟩
theorem Parcels.gangSave : ∀ x1, Parcels.Statement (.gangSave x1) := fun _ => Or.inl ⟨rfl, rfl⟩
theorem Parcels.gangResume : ∀ x1, Parcels.Statement (.gangResume x1) := fun _ => Or.inl ⟨rfl, rfl⟩
theorem Parcels.gangRetire : ∀ x1, Parcels.Statement (.gangRetire x1) := fun _ => Or.inl ⟨rfl, rfl⟩
theorem Parcels.mixWindowEnd : ∀ x1, Parcels.Statement (.mixWindowEnd x1) := fun _ => Or.inl ⟨rfl, rfl⟩
theorem Parcels.peelArrival : ∀ x1, Parcels.Statement (.peelArrival x1) := fun _ => Or.inl ⟨rfl, rfl⟩
theorem Parcels.asyncTrapTake : Parcels.Statement (.asyncTrapTake) := Or.inl ⟨rfl, rfl⟩
theorem Parcels.timerMatch : Parcels.Statement (.timerMatch) := Or.inl ⟨rfl, rfl⟩
theorem Parcels.deadlockDetect : ∀ x1, Parcels.Statement (.deadlockDetect x1) := fun _ => Or.inl ⟨rfl, rfl⟩
theorem Parcels.waitTimeout : Parcels.Statement (.waitTimeout) := Or.inl ⟨rfl, rfl⟩
theorem Parcels.waitsigSatisfied : Parcels.Statement (.waitsigSatisfied) := Or.inl ⟨rfl, rfl⟩
theorem Parcels.exchangeStepBegin : ∀ x1, Parcels.Statement (.exchangeStepBegin x1) := fun _ => Or.inl ⟨rfl, rfl⟩
theorem Parcels.exchangeStepComplete : ∀ x1, Parcels.Statement (.exchangeStepComplete x1) := fun _ => Or.inl ⟨rfl, rfl⟩
theorem Parcels.computeStepBegin : ∀ x1, Parcels.Statement (.computeStepBegin x1) := fun _ => Or.inl ⟨rfl, rfl⟩
theorem Parcels.tmmaComplete : Parcels.Statement (.tmmaComplete) := Or.inl ⟨rfl, rfl⟩
theorem Parcels.copyChunkComplete : ∀ x1, Parcels.Statement (.copyChunkComplete x1) := fun _ => Or.inl ⟨rfl, rfl⟩
theorem Parcels.acqLoadWaitEnd : Parcels.Statement (.acqLoadWaitEnd) := Or.inl ⟨rfl, rfl⟩
theorem Parcels.collectiveChunkReduced : ∀ x1 x2 x3 x4, Parcels.Statement (.collectiveChunkReduced x1 x2 x3 x4) :=
  fun _ _ _ _ => Or.inl ⟨rfl, rfl⟩
theorem Parcels.remotePacketArrival : ∀ x1, Parcels.Statement (.remotePacketArrival x1) := fun _ => Or.inl ⟨rfl, rfl⟩
theorem Parcels.adapterResume : ∀ x1, Parcels.Statement (.adapterResume x1) := fun _ => Or.inl ⟨rfl, rfl⟩
theorem Parcels.remotePageFaultTimeout : ∀ x1, Parcels.Statement (.remotePageFaultTimeout x1) := fun _ => Or.inl ⟨rfl, rfl⟩
theorem Parcels.remoteAckTimeout : ∀ x1, Parcels.Statement (.remoteAckTimeout x1) := fun _ => Or.inl ⟨rfl, rfl⟩
theorem Parcels.remoteRefusalArrival : ∀ x1 x2, Parcels.Statement (.remoteRefusalArrival x1 x2) := fun _ _ => Or.inl ⟨rfl, rfl⟩
theorem Parcels.namoResponseArrival : ∀ x1 x2, Parcels.Statement (.namoResponseArrival x1 x2) := fun _ _ => Or.inl ⟨rfl, rfl⟩
theorem Parcels.regionRevokeAccept : ∀ x1, Parcels.Statement (.regionRevokeAccept x1) := fun _ => Or.inl ⟨rfl, rfl⟩
theorem Parcels.regionRevokeComplete : ∀ x1, Parcels.Statement (.regionRevokeComplete x1) := fun _ => Or.inl ⟨rfl, rfl⟩
theorem Parcels.invalidateRange : ∀ x1, Parcels.Statement (.invalidateRange x1) := fun _ => Or.inl ⟨rfl, rfl⟩
theorem Parcels.invalidateAsid : ∀ x1, Parcels.Statement (.invalidateAsid x1) := fun _ => Or.inl ⟨rfl, rfl⟩
theorem Parcels.invalidateAll : ∀ x1, Parcels.Statement (.invalidateAll x1) := fun _ => Or.inl ⟨rfl, rfl⟩
theorem Parcels.invalidationComplete : ∀ x1, Parcels.Statement (.invalidationComplete x1) := fun _ => Or.inl ⟨rfl, rfl⟩
theorem Parcels.rebeicaMapObject : Parcels.Statement (.rebeicaMapObject) := Or.inl ⟨rfl, rfl⟩
theorem Parcels.rebeicaMapPatch : Parcels.Statement (.rebeicaMapPatch) := Or.inl ⟨rfl, rfl⟩
theorem Parcels.rebeicaUnmap : Parcels.Statement (.rebeicaUnmap) := Or.inl ⟨rfl, rfl⟩
theorem Parcels.rebeicaRequestDone : Parcels.Statement (.rebeicaRequestDone) := Or.inl ⟨rfl, rfl⟩
theorem Parcels.hostDoorbell : Parcels.Statement (.hostDoorbell) := Or.inl ⟨rfl, rfl⟩
theorem Parcels.mailboxPendClear : Parcels.Statement (.mailboxPendClear) := Or.inl ⟨rfl, rfl⟩
theorem Parcels.deviceDoorbell : Parcels.Statement (.deviceDoorbell) := Or.inl ⟨rfl, rfl⟩
theorem Parcels.hostDpendClear : Parcels.Statement (.hostDpendClear) := Or.inl ⟨rfl, rfl⟩
theorem Parcels.hostSnpData : ∀ x1, Parcels.Statement (.hostSnpData x1) := fun _ => Or.inl ⟨rfl, rfl⟩
theorem Parcels.hostSnpInv : ∀ x1, Parcels.Statement (.hostSnpInv x1) := fun _ => Or.inl ⟨rfl, rfl⟩
theorem Parcels.hostSnpCur : ∀ x1, Parcels.Statement (.hostSnpCur x1) := fun _ => Or.inl ⟨rfl, rfl⟩
theorem Parcels.hostHdmRequest : ∀ x1, Parcels.Statement (.hostHdmRequest x1) := fun _ => Or.inl ⟨rfl, rfl⟩
theorem Parcels.poolBackInvalidate : ∀ x1, Parcels.Statement (.poolBackInvalidate x1) := fun _ => Or.inl ⟨rfl, rfl⟩
theorem Parcels.poolPortDown : Parcels.Statement (.poolPortDown) := Or.inl ⟨rfl, rfl⟩
theorem Parcels.debugNonceRequest : Parcels.Statement (.debugNonceRequest) := Or.inl ⟨rfl, rfl⟩
theorem Parcels.debugGrant : ∀ x1 x2 x3 x4, Parcels.Statement (.debugGrant x1 x2 x3 x4) := fun _ _ _ _ => Or.inl ⟨rfl, rfl⟩
theorem Parcels.debugRevoke : Parcels.Statement (.debugRevoke) := Or.inl ⟨rfl, rfl⟩
theorem Parcels.debugHalt : ∀ x1, Parcels.Statement (.debugHalt x1) := fun _ => Or.inl ⟨rfl, rfl⟩
theorem Parcels.debugResume : ∀ x1, Parcels.Statement (.debugResume x1) := fun _ => Or.inl ⟨rfl, rfl⟩
theorem Parcels.debugSingleStep : ∀ x1, Parcels.Statement (.debugSingleStep x1) := fun _ => Or.inl ⟨rfl, rfl⟩
theorem Parcels.debugRegisterAccess : ∀ x1 x2 x3, Parcels.Statement (.debugRegisterAccess x1 x2 x3) :=
  fun _ _ _ => Or.inl ⟨rfl, rfl⟩
theorem Parcels.debugMemoryAccess : ∀ x1 x2 x3 x4, Parcels.Statement (.debugMemoryAccess x1 x2 x3 x4) :=
  fun _ _ _ _ => Or.inl ⟨rfl, rfl⟩
theorem Parcels.registerWrite : ∀ x1 x2 x3, Parcels.Statement (.registerWrite x1 x2 x3) := fun _ _ _ => Or.inl ⟨rfl, rfl⟩
theorem Parcels.queueEnableObserved : ∀ x1, Parcels.Statement (.queueEnableObserved x1) := fun _ => Or.inl ⟨rfl, rfl⟩
theorem Parcels.poolPortUp : Parcels.Statement (.poolPortUp) := Or.inl ⟨rfl, rfl⟩
theorem Parcels.managementControllerInterrupt : Parcels.Statement (.managementControllerInterrupt) := Or.inl ⟨rfl, rfl⟩
theorem Parcels.refillBoundary : ∀ x1 x2, Parcels.Statement (.refillBoundary x1 x2) := fun _ _ => Or.inl ⟨rfl, rfl⟩
theorem Parcels.collectivePeerFreed : ∀ x1 x2, Parcels.Statement (.collectivePeerFreed x1 x2) := fun _ _ => Or.inl ⟨rfl, rfl⟩
theorem Parcels.collectivePeerUnreachable : ∀ x1 x2, Parcels.Statement (.collectivePeerUnreachable x1 x2) :=
  fun _ _ => Or.inl ⟨rfl, rfl⟩

end Sys2Proof.Laws
end

