-- ==== Sys2Proof/Laws/Tables.lean ====
section
/-! SUPPORT. Consecutive addresses, bytes that pass every check, and bytes that hold no table entry. -/
namespace Sys2Proof.Machine
open Sys2Proof

theorem mem_run : ∀ {n a p : Nat}, p ∈ run a n ↔ a ≤ p ∧ p < a + n
  | 0, a, p => by simp [run]
  | n + 1, a, p => by
    rw [run, List.mem_cons, mem_run]
    omega
theorem run_nodup : ∀ (n a : Nat), (run a n).Nodup
  | 0, _ => List.nodup_nil
  | n + 1, a => by
    rw [run, List.nodup_cons]
    exact ⟨fun h => by rw [mem_run] at h; omega, run_nodup n (a + 1)⟩
theorem run_drop : ∀ (k n a : Nat), (run a n).drop k = run (a + k) (n - k)
  | 0, n, a => by simp
  | k + 1, 0, a => by simp [run]
  | k + 1, n + 1, a => by
    rw [run, List.drop_succ_cons, run_drop k n (a + 1)]
    congr 1 <;> omega
theorem run_take : ∀ (k n a : Nat), k ≤ n → (run a n).take k = run a k
  | 0, _, _, _ => by simp [run]
  | k + 1, 0, _, h => by omega
  | k + 1, n + 1, a, h => by
    rw [run, List.take_succ_cons, run_take k n (a + 1) (by omega), run]
/-- Below the Device range nothing is of the Device or the Pool class. -/
theorem paClass_low {p : Nat} (hp : p < Config.device) : paClass p ≠ some .device ∧ paClass p ≠ some .pool := by
  unfold paClass Config.device Config.hbmEnd at *
  simp only [Bool.and_eq_true, decide_eq_true_eq]
  split_ifs <;> simp_all <;> omega
/-- Between the end of HBM and the control block nothing is of the Coherent class. -/
theorem paCoherent_scratch {p : Nat} (h1 : Config.hbmEnd ≤ p) (h2 : p < Config.scb) : paCoherent p = false := by
  have e : paClass p = some .vspad ∨ paClass p = some .tspad ∨ paClass p = none := by
    unfold paClass Config.scb Config.hbmEnd at *
    simp only [Bool.and_eq_true, decide_eq_true_eq]
    split_ifs <;> simp_all <;> omega
  unfold paCoherent
  rcases e with e | e | e <;> rw [e]
/-- Bytes of HBM, a scratchpad or the control block pass every check while no granule is uncorrectable. -/
theorem physCheck_plain {s : State} {k : AccKind} {va : Word} {pas : List Nat} {d : Bool} (hb : s.bad = [])
    (h : ∀ p, p ∈ pas → p < Config.device) : physCheck s k va pas d = .ok () := by
  rw [physCheck_ok]
  intro p hp
  obtain ⟨h1, h2⟩ := paClass_low (h p hp)
  simp [byteFault, h1, h2, hb]

theorem readEntry_congr {s : State} {m : List Host.Cell} {pas : List Nat} (h : ∀ a, a ∉ pas → memRead m a = memRead s.mem a)
    (hp : ∀ p, p ∈ pas → Config.hbmEnd ≤ p ∧ p < Config.scb) {pa n : Nat} (hn : pa % 8 = 0 ∧ n = 8 ∨ Config.scb ≤ pa) :
    readEntry { s with mem := m } pa n = readEntry s pa n := by
  unfold readEntry
  by_cases c : paCoherent pa = true
  · have e : memReadN m pa n = memReadN s.mem pa n := by
      have far : Config.scb ≤ pa ∨ pa + n ≤ Config.hbmEnd := by
        rcases hn with ⟨h8, rfl⟩ | h
        · by_contra far
          simp only [not_or, Nat.not_le] at far
          rw [paCoherent_scratch (by unfold Config.hbmEnd at *; omega) far.1] at c
          cases c
        · exact Or.inl h
      have g : ∀ (n a : Nat), (∀ q, a ≤ q → q < a + n → q ∉ pas) → memReadN m a n = memReadN s.mem a n := by
        intro n
        induction n with
        | zero => intro a _; rfl
        | succ n ih =>
          intro a ha
          rw [memReadN, memReadN, h a (ha a (by omega) (by omega)), ih (a + 1) fun q h1 h2 => ha q (by omega) (by omega)]
      refine g n pa fun q h1 h2 hq => ?_
      have := hp q hq
      omega
    simp only [e]
  · simp only [Bool.not_eq_true] at c
    simp only [c, Bool.not_false, if_true]

theorem walkFrom_congr {s : State} {m : List Host.Cell} {pas : List Nat} (h : ∀ a, a ∉ pas → memRead m a = memRead s.mem a)
    (hp : ∀ p, p ∈ pas → Config.hbmEnd ≤ p ∧ p < Config.scb) (asid : BitVec 16) (va : Nat) :
    ∀ (l : List (Nat × Nat)) (t : Nat), t % 8 = 0 → walkFrom { s with mem := m } asid va l t = walkFrom s asid va l t
  | [], _, _ => rfl
  | (lo, n) :: rest, t, ht => by
    rw [walkFrom, walkFrom, readEntry_congr h hp (Or.inl ⟨by omega, rfl⟩)]
    split
    · rfl
    · split
      · rfl
      · split
        · rfl
        · cases rest with
          | nil => rfl
          | cons r rs =>
            simp only
            split
            · rfl
            · split
              · rfl
              · next a =>
                rw [walkFrom_congr h hp asid va (r :: rs) _ ?_]
                simp only [bne_iff_ne, ne_eq, Decidable.not_not] at a
                rw [Nat.pow_add] at a
                exact Nat.mod_eq_zero_of_dvd (Nat.dvd_trans (Dvd.intro_left _ rfl) (Nat.dvd_of_mod_eq_zero a))
/-- Bytes of the scratchpads hold no table entry. -/
theorem apart_scratchpad {s : State} {pas : List Nat} (hp : ∀ p, p ∈ pas → Config.hbmEnd ≤ p ∧ p < Config.scb) : s.apart pas := by
  intro m h asid va
  unfold walk
  rw [readEntry_congr h hp (Or.inr (by unfold Config.scb; omega))]
  split
  · rfl
  · split
    · rfl
    · simp only
      rw [walkFrom_congr h hp asid va _ _ (by omega)]

end Sys2Proof.Machine
end

