-- ==== Sys2Proof/Tests/Slice0.lean ====
section
/-! SUPPORT. The model's own tests: words of the spec's encodings decoded, ill-formed terms refused, single steps, and for each
statement with hypotheses a state and operands that meet them. -/
namespace Sys2Proof.Tests
open Sys2Proof Sys2Proof.Machine
set_option Elab.async false

/-- The words decode to the instruction. -/
def reads (h t : Parcel) (i : Instr) : Bool :=
  match decode h t with
  | .ok j => decide (j = i)
  | .error _ => false
def readAll (l : List (Parcel × Parcel × Instr)) : Bool := l.all fun w => reads w.1 w.2.1 w.2.2

/-- Words of 04:R115: in hexadecimal those the spec prints, in binary written out field by field. -/
theorem test_decode_alu : readAll [
  (0b000000_00101_00110_00111_00000_1_000_0_0, 0, .add 5 6 7 true),
  (0b000000_00101_00110_00111_00001_1_000_0_0, 0, .sub 5 6 7 true),
  (0b000000_00101_00110_00111_00010_1_000_0_0, 0, .mul 5 6 7 true),
  (0b000000_00101_00110_00111_00011_1_000_1_0, 0, .mulh 5 6 7 true true),
  (0b000000_00101_00110_00111_00100_1_000_1_0, 0, .div 5 6 7 true true),
  (0b000000_00101_00110_00111_00101_1_000_1_0, 0, .rem 5 6 7 true true),
  (0x00A63800, 0, .add 5 6 7 false),
  (0x00A63900, 0, .div 5 6 7 false false),
  (0x00A63902, 0, .div 5 6 7 false true),
  (0x00A63880, 0, .mul 5 6 7 false),
  (0b000000_00101_00110_00111_00110_0_000_0_0, 0, .and 5 6 7),
  (0b000000_00101_00110_00111_00111_0_000_0_0, 0, .or 5 6 7),
  (0x00A63A00, 0, .xor 5 6 7),
  (0b000000_00101_00110_00111_01001_0_000_0_0, 0, .andn 5 6 7)] = true := by decide

/-- Words of 04:R115: in hexadecimal those the spec prints, in binary written out field by field. -/
theorem test_decode_alu2 : readAll [
  (0b000000_00101_00110_00111_01010_1_000_0_0, 0, .shl 5 6 7 true),
  (0b000000_00101_00110_00111_01011_1_000_0_0, 0, .shr 5 6 7 true),
  (0b000000_00101_00110_00111_01100_1_000_0_0, 0, .sar 5 6 7 true),
  (0b000000_00101_00110_00111_01101_1_000_0_0, 0, .ror 5 6 7 true),
  (0x00A63B80, 0, .min 5 6 7 false),
  (0x00A63BC2, 0, .max 5 6 7 true),
  (0b000000_00101_00110_00111_10000_0_101_0_0, 0, .set 5 6 7 .geu),
  (0b000000_00101_00110_00111_10001_0_000_0_0, 0, .sel 5 6 7),
  (0b000000_00101_00110_00000_10010_1_000_0_0, 0, .clz 5 6 true),
  (0b000000_00101_00110_00000_10011_1_000_0_0, 0, .ctz 5 6 true),
  (0b000000_00101_00110_00000_10100_1_000_0_0, 0, .popc 5 6 true),
  (0b000000_00101_00110_00000_10101_0_000_0_0, 0, .bswap 5 6),
  (0b000000_00101_00110_00111_10110_0_000_1_0, 0, .ext 5 6 7 true),
  (0b000000_00101_00110_00111_10111_0_000_0_0, 0, .ins 5 6 7)] = true := by decide

/-- Words of 04:R115, R116: in hexadecimal those the spec prints, in binary written out field by field. -/
theorem test_decode_imm : readAll [
  (0b000001_00101_00110_1111111111111111, 0, .addImm 5 6 0xFFFF),
  (0b000010_00101_00110_1000000000000001, 0, .andImm 5 6 0x8001),
  (0b000011_00101_00110_0000000000000001, 0, .orImm 5 6 1),
  (0x10A6FFFF, 0, .xorImm 5 6 0xFFFF),
  (0b000101_00101_00110_0000_1_00000_011111, 0, .shlImm 5 6 true 31),
  (0b000101_00101_00110_0001_1_00000_011111, 0, .shrImm 5 6 true 31),
  (0b000101_00101_00110_0010_1_00000_011111, 0, .sarImm 5 6 true 31),
  (0b000101_00101_00110_0011_1_00000_011111, 0, .rorImm 5 6 true 31),
  (0b000110_00101_00110_100_1111111111111, 0, .setImm 5 6 .ltu 0x1FFF),
  (0x1CA6420F, 0, .extImm 5 6 true 8 15),
  (0x1CA6820F, 0, .insImm 5 6 8 15),
  (0x21800200, 0, .lim 12 512),
  (0x24A00003, 0, .addpc 5 3),
  (0x28A63803, 0, .lea 5 6 7 3)] = true := by decide

/-- Words of 04:R117, R118: in hexadecimal those the spec prints, in binary written out field by field. -/
theorem test_decode_mem : readAll [
  (0x40A66010, 0, .ld 5 6 .d 16),
  (0b010000_00101_00110_110_1111111111111, 0, .ld 5 6 .wu 0x1FFF),
  (0x44A66010, 0, .st 5 6 .d 16),
  (0x48A60130, 0, .ldaq 5 6 .s .d),
  (0x48063B30, 0, .strl 6 7 .s .d),
  (0b010010_00101_00110_00111_10_010_10_0111, 0, .amo 5 6 7 .cl .w .maxu),
  (0b010010_00101_00110_00111_11_011_11_0000, 0, .cas 5 6 7 .p .d),
  (0x4C0000E4, 0, .fence .p .s .l),
  (0x4C0002C0, 0, .ifence .p),
  (0b010011_00000_00000_00000_10_00000_10_00, 0, .vfence .vv)] = true := by decide

/-- Words of 04:R119, R120: in hexadecimal those the spec prints, in binary written out field by field. -/
theorem test_decode_control : readAll [
  (0x60A03FFE, 0, .b 5 0 .ne 0x1FFE),
  (0x64000040, 0, .j 0x40),
  (0x68001000, 0, .call 0x1000),
  (0x6FEA0000, 0, .jr 31 10),
  (0b011100_00000_01010_01011_00000000011, 0, .btab 10 11 3),
  (0x74600002, 0, .bvany 3 2),
  (0b011101_00111_00000_001_1111111111111, 0, .bvall 7 0x1FFF)] = true := by decide

/-- Words of 04:R121, R122: in hexadecimal those the spec prints, in binary written out field by field. -/
theorem test_decode_fp : readAll [
  (0x80221808, 0, .fadd 1 2 3 .fp32 .rne),
  (0x808530C1, 0, .fdiv 4 5 6 .fp64 .rtz),
  (0b100000_00001_00010_00011_00001_011_010, 0, .fsub 1 2 3 .bf16 .rup),
  (0b100000_00001_00010_00011_00010_010_101, 0, .fmul 1 2 3 .fp16 .sr),
  (0b100000_00001_00010_00000_00100_001_011, 0, .fsqrt 1 2 .fp32 .rdn),
  (0b100000_00001_00010_00011_00101_001_000, 0, .fmin 1 2 3 .fp32),
  (0b100000_00001_00010_00011_00110_011_000, 0, .fmax 1 2 3 .bf16),
  (0x80A111C2, 0, .fcmp 5 1 2 .fp64 .lt),
  (0b100000_00001_00010_00001_01000_000_000, 0, .fcvt 1 2 (.toF .fp32) .fp64 .rne),
  (0x80A22A09, 0, .fcvt 5 2 (.toI .i32) .fp32 .rtz),
  (0b100000_00101_00010_01010_01000_011_100, 0, .fcvt 5 2 (.ofI .ui64) .bf16 .rna),
  (0x80A21248, 0, .fmov 5 2 .fx .fp32),
  (0b100000_00101_00010_00000_01010_010_000, 0, .fclass 5 2 .fp16),
  (0x84221908, 0, .fma 1 2 3 4 .fp32 .rne)] = true := by decide

/-- Words of 04:R123-R126: in hexadecimal those the spec prints, in binary written out field by field. -/
theorem test_decode_system_1 : readAll [
  (0x88A0000C, 0, .crld 5 12),
  (0x8806200C, 0, .crst 6 12),
  (0x88004028, 0, .semts 40),
  (0x88A06028, 0, .semtry 5 40),
  (0x88008028, 0, .semclr 40),
  (0x8C000011, 0, .sysc 17),
  (0x8C061013, 0, .trap 6 19),
  (0x8C002000, 0, .tret),
  (0x8C003000, 0, .idle),
  (0b100011_00000_00000_0011_000000000001, 0, .idleX),
  (0x8C004005, 0, .brk 5),
  (0b100011_00000_00000_0101_000000000000, 0, .migrC),
  (0b100011_00000_00000_0101_000000000001, 0, .migrV),
  (0b100100_00101_00000_00_00_000000010000, 0, .csrr 5 0x10)] = true := by decide

/-- Words of 04:R123-R126: in hexadecimal those the spec prints, in binary written out field by field. -/
theorem test_decode_system_2 : readAll [
  (0b100100_00000_00110_01_00_000000010010, 0, .csrw 6 0x12),
  (0b100100_00101_00110_10_00_000100000110, 0, .csrx 5 6 0x106)] = true := by decide

/-- Words of 04:R127-R130: in hexadecimal those the spec prints, in binary written out field by field. -/
theorem test_decode_task_1 : readAll [
  (0x94A63800, 0, .launch 5 6 7),
  (0x94063960, 0, .signal 6 7 .p),
  (0x94063A0C, 0, .waitsig 6 7 .ge),
  (0x94000300, 0, .gbar),
  (0x980007D0, 0, .blind 2000),
  (0b100111_00101_00110_0000000000000000, 0, .setvl 5 6),
  (0x9C0042A0, 0, .setvt 0 ⟨.fp32, .b32, false, true, .fp32, .rne⟩),
  (0b100111_00101_00110_1000000000000000, 0, .setmr 5 6),
  (0xA06A0000, 0, .tld (.w 3) 10 0),
  (0xA12A2400, 0, .tst (.ta 1) 10 1024),
  (0xA0484400, 0, .tcvt 2 0 .e4m3 .rne),
  (0xA4001024, 0, .tmma 0 0 2 true .e4m3),
  (0xA42433C8, 0, .tmmaS 1 4 6 .n16 7 false .e2m1),
  (0xA80A483F, 0, .tsend 10 9 63)] = true := by decide

/-- Words of 04:R127-R130: in hexadecimal those the spec prints, in binary written out field by field. -/
theorem test_decode_task_2 : readAll [
  (0xA8000200, 0, .tsync)] = true := by decide

/-- Words of 04:R131: in hexadecimal those the spec prints, in binary written out field by field. -/
theorem test_decode_vmem : readAll [
  (0b110000_00000000_01010_00000_00000_000, 0b00110_0_000_00_000000000000001000000, .vld 10 6 64 false ⟨0, false⟩),
  (0b110000_00000001_00100_00000_00111_010, 0b01100_1_000_01_111111111111111111000, .vlds 4 12 7 0x1FFFF8 true ⟨2, true⟩),
  (0xC0088030, 0x60000000, .vldx 4 12 6 0 false ⟨0, false⟩),
  (0b110000_00000011_01010_00000_00000_011, 0b00110_0_000_00_000000000000001000000, .vst 10 6 64 3),
  (0b110000_00000100_00100_00000_00111_000, 0b01100_0_000_00_000000000000000001000, .vsts 4 12 7 8 0),
  (0xC0142010, 0x50000003, .vstx 1 10 2 3 0),
  (0xC0180000, 0xA0000225, .vsave 20 0x225),
  (0xC01C0000, 0xA0000006, .vrstr 20 6)] = true := by decide

/-- Words of 04:R131: in hexadecimal those the spec prints, in binary written out field by field. -/
theorem test_decode_vint_1 : readAll [
  (0b110001_00000000_00100_00101_00111_000, 0, .vadd 4 5 (.vv 7) ⟨0, false⟩),
  (0b110001_01000001_00100_00101_00000_010, 0b00111_1_000_00_000000000000000000000, .vsub 4 5 (.vx 7) ⟨2, true⟩),
  (0b110001_10000010_00100_00101_00000_011, 0b00000_0_000_00_000001111111111111110, .vmul 4 5 (.vi 0xFFFE) ⟨3, false⟩),
  (0b110001_00000011_00100_00101_00111_000, 0, .vmulh 4 5 (.vv 7) ⟨0, false⟩),
  (0b110001_01000100_00100_00101_00000_010, 0b00111_1_000_00_000000000000000000000, .vand 4 5 (.vx 7) ⟨2, true⟩),
  (0b110001_10000101_00100_00101_00000_011, 0b00000_0_000_00_000001111111111111110, .vor 4 5 (.vi 0xFFFE) ⟨3, false⟩),
  (0b110001_00000110_00100_00101_00111_000, 0, .vxor 4 5 (.vv 7) ⟨0, false⟩),
  (0b110001_01000111_00100_00101_00000_010, 0b00111_1_000_00_000000000000000000000, .vshl 4 5 (.vx 7) ⟨2, true⟩),
  (0b110001_10001000_00100_00101_00000_011, 0b00000_0_000_00_000001111111111111110, .vshr 4 5 (.vi 0xFFFE) ⟨3, false⟩),
  (0b110001_00001001_00100_00101_00111_000, 0, .vsar 4 5 (.vv 7) ⟨0, false⟩),
  (0b110001_01001010_00100_00101_00000_010, 0b00111_1_000_00_000000000000000000000, .vmin 4 5 (.vx 7) ⟨2, true⟩),
  (0b110001_10001011_00100_00101_00000_011, 0b00000_0_000_00_000001111111111111110, .vmax 4 5 (.vi 0xFFFE) ⟨3, false⟩),
  (0b110001_00001100_00100_00101_00111_000, 0, .vsadd 4 5 (.vv 7) ⟨0, false⟩),
  (0b110001_01001101_00100_00101_00000_010, 0b00111_1_000_00_000000000000000000000, .vssub 4 5 (.vx 7) ⟨2, true⟩)] = true := by decide

/-- Words of 04:R131: in hexadecimal those the spec prints, in binary written out field by field. -/
theorem test_decode_vint_2 : readAll [
  (0xC5308500, 0x38000000, .vsadd 4 5 (.vx 7) ⟨0, false⟩)] = true := by decide

/-- Words of 04:R131: in hexadecimal those the spec prints, in binary written out field by field. -/
theorem test_decode_vfp : readAll [
  (0b110010_00000000_00110_00111_01000_010, 0b00000_1_001_00_000000000000000000000, .vfadd 6 7 (.vv 8) (.st .rtz) ⟨2, true⟩),
  (0b110010_01000001_00110_00111_00000_010, 0b01000_1_001_00_000000000000000000000, .vfsub 6 7 (.vf 8) (.st .rtz) ⟨2, true⟩),
  (0b110010_00000010_00110_00111_01000_010, 0b00000_1_001_00_000000000000000000000, .vfmul 6 7 (.vv 8) (.st .rtz) ⟨2, true⟩),
  (0b110010_01000011_00110_00111_00000_010, 0b01000_1_001_00_000000000000000000000, .vfdiv 6 7 (.vf 8) (.st .rtz) ⟨2, true⟩),
  (0b110010_00000100_00110_00111_01000_000, 0b01001_0_111_00_000000000000000000000, .vfma 6 7 (.vv 8 9) .dyn ⟨0, false⟩),
  (0b110010_01000100_00110_00111_01000_000, 0b01001_0_111_00_000000000000000000000, .vfma 6 7 (.vf 9 8) .dyn ⟨0, false⟩),
  (0b110010_00000101_00110_00111_00000_000, 0b00000_0_111_00_000000000000000000000, .vfsqrt 6 7 .dyn ⟨0, false⟩),
  (0b110010_01000110_00110_00111_00000_000, 0b00010_0_000_00_000000000000000000000, .vfmin 6 7 (.vf 2) ⟨0, false⟩),
  (0b110010_00000111_00110_00111_01000_000, 0, .vfmax 6 7 (.vv 8) ⟨0, false⟩),
  (0b110010_00001000_00110_00111_00000_000, 0b00000_0_101_00_000000000000000000000, .vfexp2 6 7 (.st .sr) ⟨0, false⟩),
  (0b110010_00001001_00110_00111_00000_100, 0b00000_1_010_00_000000000000000000000, .vfrcp 6 7 (.st .rup) ⟨4, true⟩),
  (0xC80CC740, 0x03800000, .vfdiv 6 7 (.vv 8) .dyn ⟨0, false⟩),
  (0xC900C700, 0x13800000, .vfadd 6 7 (.vf 2) .dyn ⟨0, false⟩)] = true := by decide

/-- Words of 04:R131: in hexadecimal those the spec prints, in binary written out field by field. -/
theorem test_decode_vcv : readAll [
  (0xCC004100, 0x00000004, .vcvt 2 1 .e4m3 (.st .rne) ⟨0, false⟩),
  (0xCC044100, 0, .vqenc 2 1 ⟨0, false⟩),
  (0xCC086200, 0, .vqdec 3 2 ⟨0, false⟩),
  (0xCC0C6300, 0x03800001, .vhbfly 3 3 1 .dyn ⟨0, false⟩),
  (0xCC10A500, 0x00000002, .vscale 5 5 2 (.st .rne) ⟨0, false⟩),
  (0xD0008530, 0, .vperm 4 5 6 ⟨0, false⟩),
  (0xD0048500, 0x38000000, .vslide 4 5 7 false ⟨0, false⟩),
  (0b110100_00000001_00100_00101_00000_010, 0b00111_1_000_00_000000000000000000001, .vslide 4 5 7 true ⟨2, true⟩),
  (0xD0088000, 0x38000000, .vsplat 4 7 ⟨0, false⟩),
  (0xD00C8532, 0, .vmerge 4 5 6 2),
  (0xD010A602, 0, .vcompr 5 6 ⟨2, false⟩),
  (0xD014E000, 0, .vidx 7 ⟨0, false⟩),
  (0xD0180300, 0x28000007, .vmvx 5 3 7),
  (0xD01C8000, 0x38000009, .vmxv 4 7 9)] = true := by decide

/-- Words of 04:R131: in hexadecimal those the spec prints, in binary written out field by field. -/
theorem test_decode_vmask : readAll [
  (0xD4006110, 0x00020000, .vcmp 3 1 (.vv 2) .lt ⟨0, false⟩),
  (0b110101_10000000_00011_00001_00000_000, 0b00000_0_000_00_001100000000000001001, .vcmp 3 1 (.vi 9) .un ⟨0, false⟩),
  (0xD4046110, 0x00000008, .kop 3 1 2 8 ⟨0, false⟩),
  (0xD4080300, 0x28000000, .kpopc 5 3 0),
  (0xD40C0300, 0x30000000, .kfirst 6 3 0),
  (0xD4108300, 0, .kmov 4 3 ⟨0, false⟩),
  (0b110110_00000000_00010_00011_00000_000, 0b00000_0_000_01_000000000000000000000, .vred 2 3 .sum true 0 (.st .rne) 0),
  (0b110110_00000001_00010_00011_00000_101, 0b00000_1_111_00_000000000000000010001, .vscan 2 3 .max false 1 .dyn ⟨5, true⟩),
  (0xD8044300, 0x00200000, .vscan 2 3 .sum true 0 (.st .rne) ⟨0, false⟩),
  (0b110111_00110000_00000_00011_00100_010, 0b01010_0_000_00_000000000000000010010, .vamo 0 3 4 10 .xor .cl false 1 2),
  (0b110111_10000000_00010_00011_00100_000, 0b01010_0_000_00_000000000000000111100, .vamo 2 3 4 10 .swap .s true 3 0),
  (0b110111_01110001_00101_00011_00100_000, 0b01010_0_000_00_000000000000000001000, .vamom 5 3 4 10 .maxu .h true 0 0)] = true := by decide

/-- Words of 04:R131: in hexadecimal those the spec prints, in binary written out field by field. -/
theorem test_decode_vtile : readAll [
  (0xE0002000, 0, .mzero 1),
  (0xE0042440, 0, .mma 1 4 8 0 0),
  (0xE008A100, 0x03800000, .mrd 5 1 0 .dyn 0),
  (0xE00C2500, 0x00000003, .mwr 5 1 3),
  (0xE4000800, 0xB000003C, .xproj 0 8 22 60),
  (0xE4044430, 0xA0000002, .xprojb 2 4 6 20 2),
  (0xE4084300, 0, .xmerge 2 3),
  (0xE40C2000, 0x48000040, .xhload 1 9 64),
  (0xE4102000, 0x48000040, .xhstore 1 9 64),
  (0xE80020B8, 0xB0000000, .scld 1 22 23 0),
  (0b111010_00000001_00001_00000_10111_000, 0b10110_0_000_00_111111111111111111111, .scst 1 22 23 0x1FFFFF),
  (0xE8080000, 0xB0000000, .ctld 22 0),
  (0xE80C0000, 0xB0000000, .ctst 22 0)] = true := by decide

/-- Words of 04:R131, R135: in hexadecimal those the spec prints, in binary written out field by field. -/
theorem test_decode_vengine : readAll [
  (0b111011_00000000_00101_00000_00000_011, 0b10100_0_000_00_000000000000000000000, .cpy 5 20 3 none),
  (0b111011_00000000_00101_00000_00000_011, 0b10100_0_000_01_000000000000000000011, .cpy 5 20 3 (some .p)),
  (0b111011_00000001_00000_00101_00000_000, 0, .cpywt 5),
  (0b111011_00000010_00000_00101_00000_000, 0, .cpycan 5),
  (0xF0010000, 0xA0000000, .colbind 8 20),
  (0b111100_00000001_01000_00000_00000_000, 0, .colfree 8),
  (0b111100_00000010_01000_00000_00000_000, 0, .colwait 8),
  (0xF401AC58, 0x50000000, .nput 13 12 11 10),
  (0b111101_00000001_01101_01010_01011_000, 0b01100_0_000_00_000000000000000000000, .nget 13 10 11 12),
  (0xF408AF70, 0x50000030, .namo 5 15 14 10 .add .d),
  (0xF40C0000, 0x00000003, .nflush 0 .p),
  (0xF8000000, 0x70000002, .vloop 14 2),
  (0xBCA08000, 0, .convoy [.ls, .a, .ls])] = true := by decide

/-! ## Ill-formed terms, one for each check -/

/-- 04:R116: a shift amount above 31 with W set. -/
theorem test_ill_shift : wellFormed (.shlImm 1 2 true 32) = false ∧ wellFormed (.rorImm 1 2 true 63) = false := by decide
/-- 04:R116: a field that runs past bit 63. -/
theorem test_ill_field : wellFormed (.extImm 1 2 false 60 4) = false ∧ wellFormed (.insImm 1 2 60 4) = false := by decide
/-- 04:R126: a number that names no CSR. -/
theorem test_ill_csr : wellFormed (.csrr 1 0x203) = false ∧ wellFormed (.csrw 1 0x008) = false ∧
    wellFormed (.csrx 1 2 0xFFF) = false := by decide
/-- 15:R452: TCVT to a type it has not. -/
theorem test_ill_tcvt : wellFormed (.tcvt 1 0 .fp64 .rne) = false := by decide
/-- 04:R130: TMMA of a type it has not, and of 16-bit elements in odd registers. -/
theorem test_ill_tmma : wellFormed (.tmma 0 0 2 false .fp32) = false ∧ wellFormed (.tmma 0 1 2 false .fp16) = false ∧
    wellFormed (.tmmaS 0 0 3 .n16 5 false .bf16) = false := by decide
/-- 04:R135: a convoy of one member, and of seven. -/
theorem test_ill_convoy : wellFormed (.convoy [.a]) = false ∧ wellFormed (.convoy [.a, .b, .a, .b, .a, .b, .a]) = false := by decide
/-- 04:R108: zeroing without a mask. -/
theorem test_ill_zeroing : wellFormed (.vadd 1 2 (.vv 3) ⟨0, true⟩) = false ∧ wellFormed (.vcvt 1 2 .e4m3 .dyn ⟨0, true⟩) = false ∧
    wellFormed (.vfma 1 2 (.vv 3 4) .dyn ⟨0, true⟩) = false ∧ wellFormed (.kmov 1 2 ⟨0, true⟩) = false ∧
    wellFormed (.vscan 1 2 .sum true 0 .dyn ⟨0, true⟩) = false ∧ wellFormed (.vperm 1 2 3 ⟨0, true⟩) = false := by decide
/-- 04:R131; 11:R305: an .acq load without a mask. -/
theorem test_ill_acq : wellFormed (.vld 1 2 0 true ⟨0, false⟩) = false := by decide
/-- 04:R131: a vector atomic that returns nothing names no register. -/
theorem test_ill_vamo : wellFormed (.vamo 1 2 3 4 .add .cl false 0 0) = false ∧
    wellFormed (.vamom 1 2 3 4 .add .cl false 0 0) = false := by decide
/-- 04:R131; 14:R424: eight operand registers of MMA from v25. -/
theorem test_ill_mma : wellFormed (.mma 1 4 25 0 0) = false := by decide
/-- 04:R131; 11:R307: CPY.rel without a mask. -/
theorem test_ill_cpy : wellFormed (.cpy 1 2 0 (some .p)) = false := by decide
/-- 00:R2; 01:R22, R26, R28: events of a string, sensor, port, limit or queue the part has not. -/
theorem test_ill_events : wellFormed (.stringMeasurement 768 [] [0, 0, 0, 0] ⟨[], [], false⟩) = false ∧ wellFormed (.temperatureSample [(782, 0)]) = false ∧
    wellFormed (.portPointChangeDone 16) = false ∧ wellFormed (.refillBoundary 3104 []) = false ∧
    wellFormed (.mctpSetPowerLimit 1199) = false ∧ wellFormed (.mctpSetPowerLimit 4801) = false ∧
    wellFormed (.queueDoorbell 1024) = false ∧ wellFormed (.gangDispatch 1024) = false ∧ wellFormed (.deadlockDetect 66) = false ∧
    wellFormed (.invalidateRange 64) = false := by decide
/-- 04:R132-R134: words that are refused: a reserved bit, an unassigned operation, an unassigned major, zeroing without a mask. -/
theorem test_ill_words : (match decode 0x00A63801 0, decode 0x00A63E00 0, decode 0x2C000000 0, decode 0xC4008500 0x04000000 with
    | .error _, .error _, .error _, .error _ => true
    | _, _, _, _ => false) = true := by decide

/-! ## Single steps, with the values of the spec's examples -/

/-- x register r after an instruction that goes on. -/
def xAfter (i : Instr) (s : State) (r : Reg) : Option Word := match exec i s with | .next t => some (t.getX r) | _ => none
/-- What f sees of the hart after it. -/
def hartAfter {α : Type} (i : Instr) (s : State) (f : Hart → α) : Option α := match exec i s with | .next t => some (f t.hart) | _ => none
/-- State.reset with x registers set. -/
def withX (s : State) (l : List (Reg × Word)) : State := l.foldl (fun s p => s.setX p.1 p.2) s
/-- A hart on a core: the one hart of gang 1, with a scratchpad share in the gang window. -/
def onCore (cl : Machine.Class) (h : Hart) : State :=
  { State.reset with hart := { h with id := ⟨1, 0⟩, cls := cl }
                     gangs := [{ Gang.firmware with id := 1, cls := cl, shares := [(0, ⟨0, 0, 262144⟩)], cslots := [] }] }
/-- A V hart with one lane group. -/
def onV (e : ET) (vl : Nat) : State :=
  let c : VCfg := ⟨BitVec.ofNat 32 vl, ⟨e, .b32, false, false, .fp32, .rne⟩, 16⟩
  onCore .v { Hart.reset with lg := 1, vc := c, pcfg := c }
/-- A T hart. -/
def onT : State := onCore .t Hart.reset
/-- v register r set to elements of w bits. -/
def withV (s : State) (r : Reg) (w : Nat) (l : List Nat) : State := { s with hart := s.hart.setV r (BitVec.ofNat 16384 (packE w l)) }
/-- The first n elements of w bits of v register r after an instruction. -/
def eltsAfter (i : Instr) (s : State) (r : Reg) (w n : Nat) : Option (List Nat) := hartAfter i s fun h => elems w (h.getV r).toNat n

/-- 13:R362: ADD wraps, and ADD.w sign-extends 32 bits. -/
theorem test_add_wraps : xAfter (.add 5 6 7 false) (withX .reset [(6, 0xFFFFFFFFFFFFFFFF), (7, 2)]) 5 = some 1 ∧
    xAfter (.add 5 6 7 true) (withX .reset [(6, 0x7FFFFFFF), (7, 1)]) 5 = some 0xFFFFFFFF80000000 := by decide
/-- 14, the example under DIV. -/
theorem test_div_edges :
    let s := withX .reset [(6, 0x8000000000000000), (7, 0xFFFFFFFFFFFFFFFF)]
    xAfter (.div 5 6 7 false false) s 5 = some 0x8000000000000000 ∧ xAfter (.div 5 6 7 false true) s 5 = some 0 ∧
    xAfter (.div 5 6 0 false false) (withX s [(6, 7)]) 5 = some 0xFFFFFFFFFFFFFFFF ∧
    xAfter (.rem 5 6 0 false false) (withX s [(6, 7)]) 5 = some 7 := by decide
/-- 14, the example under EXT; INS by R396. -/
theorem test_ext_ins :
    let s := withX .reset [(6, 0x00ABCD00), (5, 0xFFFFFFFFFFFFFFFF)]
    xAfter (.extImm 5 6 true 8 15) s 5 = some 0xABCD ∧ xAfter (.extImm 5 6 false 8 15) s 5 = some 0xFFFFFFFFFFFFABCD ∧
    xAfter (.insImm 5 6 8 15) s 5 = some 0xFFFFFFFFFFCD00FF := by decide
/-- 15, the example under OR. -/
theorem test_logic_and_shifts :
    let s := withX .reset [(6, 0xFFFFFFFF80000001), (7, 1)]
    xAfter (.orImm 5 6 0xFF) s 5 = some 0xFFFFFFFF800000FF ∧ xAfter (.setImm 5 6 .ltu 100) s 5 = some 0 ∧
    xAfter (.shlImm 5 6 false 4) s 5 = some 0xFFFFFFF800000010 ∧ xAfter (.sarImm 5 6 true 31) s 5 = some 0xFFFFFFFFFFFFFFFF ∧
    xAfter (.popc 5 6 true) s 5 = some 2 ∧ xAfter (.ror 5 6 7 false) s 5 = some 0xFFFFFFFFC0000000 := by decide
/-- 13, the examples under ADDPC, B and CALL. -/
theorem test_pc_relative :
    xAfter (.addpc 5 3) (State.setPc .reset 0x100F3C) 5 = some 0x103000 ∧
    hartAfter (.b 5 0 .ne 0x1FFE) (withX (State.setPc .reset 0x100008) [(5, 1)]) (·.pc) = some 0x100000 ∧
    hartAfter (.call 0x1000) (State.setPc .reset 0x100000) (fun h => (h.pc, h.getX 31)) = some (0x104000, 0x100004) := by decide
/-- 05:R147: x0 discards a write. -/
theorem test_x0 : xAfter (.lim 0 5) .reset 0 = some 0 := by decide
/-- 14, the example under FADD: overflow by mode, with OF and NX (06:R176). -/
theorem test_fadd_overflow :
    let s : State := { State.reset with hart := State.reset.hart.setF 2 0x7F7FFFFF }
    hartAfter (.fadd 1 2 2 .fp32 .rne) s (fun h => (h.getF 1, h.fflags)) = some (0x7F800000, flagOF ||| flagNX) ∧
    hartAfter (.fadd 1 2 2 .fp32 .rtz) s (fun h => (h.getF 1, h.fflags)) = some (0x7F7FFFFF, flagOF ||| flagNX) := by decide
/-- 14, the examples under FCLASS and FCVT. -/
theorem test_fclass_fcvt :
    let s (v : Word) : State := { State.reset with hart := State.reset.hart.setF 2 v }
    xAfter (.fclass 5 2 .fp32) (s 0x80000001) 5 = some 9 ∧ xAfter (.fclass 5 2 .fp32) (s 0x7FA00000) 5 = some 5 ∧
    hartAfter (.fcvt 5 2 (.toI .i32) .fp32 .rtz) (s 0x4F000000) (fun h => (h.getX 5, h.fflags)) =
      some (0x7FFFFFFF, flagNV ||| flagNX) := by decide
/-- 13:R390, the example under CSRR: CSRX returns the flags and clears them. -/
theorem test_csrx : hartAfter (.csrx 7 0 0x010) { State.reset with hart := { State.reset.hart with fflags := 5 } }
    (fun h => (h.getX 7, h.fflags)) = some (5, 0) := by decide
/-- 16, the example under VADD: one saturating add, read two ways. -/
theorem test_vsadd :
    let s (e : ET) := withX (withV (onV e 4) 5 8 [0x64, 0x9C, 0x14, 0x7F]) [(7, 30)]
    eltsAfter (.vsadd 4 5 (.vx 7) ⟨0, false⟩) (s .int8) 4 8 4 = some [0x7F, 0xBA, 0x32, 0x7F] ∧
    eltsAfter (.vsadd 4 5 (.vx 7) ⟨0, false⟩) (s .uint8) 4 8 4 = some [0x82, 0xBA, 0x32, 0x9D] := by decide +kernel
/-- 16, the example under VHBFLY: the first stage. -/
theorem test_vhbfly : eltsAfter (.vhbfly 3 3 0 .dyn ⟨0, false⟩) (withV (onV .int32 4) 3 32 [1, 2, 3, 4]) 3 32 4 =
    some [3, 0xFFFFFFFF, 7, 0xFFFFFFFF] := by decide +kernel
/-- 17, the example under VQENC. -/
theorem test_vqenc : eltsAfter (.vqenc 2 1 ⟨0, false⟩) (withV (onV .fp32 4) 1 32 [0x3F880000, 0x3F980000, 0x43FA0000, 0x80000000]) 2 8 4 =
    some [0x38, 0x39, 0x7E, 0] := by decide +kernel
/-- 17, the example under VRED: the two orders. -/
theorem test_vred :
    let s := withV (onV .fp32 4) 3 32 [0x4B800000, 0x3F800000, 0x3F800000, 0xCB800000]
    eltsAfter (.vred 2 3 .sum false 0 (.st .rne) 0) s 2 32 1 = some [0x3F800000] ∧
    eltsAfter (.vred 2 3 .sum true 0 (.st .rne) 0) s 2 32 1 = some [0] := by decide +kernel
/-- 16, the example under VFDIV: a trap part-way. -/
theorem test_vfdiv_trap :
    let s := withV (withV (onV .fp32 8) 7 32 (List.replicate 8 0x40000000)) 8 32 [0x3F800000, 0x3F800000, 0x3F800000, 0]
    let s : State := { s with hart := { s.hart with fen := flagDZ, lv := .m, ctxb := BitVec.ofNat 50 (0xFE000000000000 / 64) } }
    hartAfter (.vfdiv 6 7 (.vv 8) .dyn ⟨0, false⟩) s
        (fun h => (h.mb.trapv, h.ves, elems 32 (h.getV 6).toNat 4, h.fflags)) =
      some (0x300000008, 3, [0x40000000, 0x40000000, 0x40000000, 0], flagDZ) := by decide +kernel
/-- 17, the example under VST: the highest element remains. -/
theorem test_vstx :
    let s := withX (withV (withV (onV .uint64 3) 2 64 [4, 4, 9]) 1 64 [0xA, 0xB, 0xC]) [(10, 0xFE000000000000)]
    (match exec (.vstx 1 10 2 3 0) s with
      | .next t => some (memReadN t.mem 0x8000000020 1, memReadN t.mem 0x8000000048 1)
      | _ => none) = some ([0xB], [0xC]) := by decide +kernel
/-- 14, the example under KOP: AND of two masks below VL. -/
theorem test_kop :
    let s := onV .int8 8
    let s : State := { s with hart := (s.hart.setK 1 0xB6).setK 2 0x63 }
    hartAfter (.kop 3 1 2 8 ⟨0, false⟩) s (fun h => h.getK 3) = some 0x22 := by decide +kernel
/-- 15:R449; 14:R416: little-endian, sign-extended, in the gang window. -/
theorem test_store_load :
    let s := withX onT [(6, 0xFE000000000000), (7, 0x1234567880)]
    (match exec (.st 7 6 .w 8) s with
      | .next t => some (t.mem.map (fun c => c.1 % 256), xAfter (.ld 5 6 .b 8) t 5)
      | _ => none) = some ([8, 9, 10, 11], some 0xFFFFFFFFFFFFFF80) := by decide
/-- 12:R330; 13:R371: BRK at level M: the M bank, and the vector. -/
theorem test_brk : hartAfter (.brk 5) { State.reset with hart := { State.reset.hart with pc := 0x100, mtvec := 0x40 } }
    (fun h => (h.mb.trapc, h.mb.trapv, h.mb.trappc, h.pc)) = some (BitVec.ofNat _ Cause.brk.code, 5, 0x100, 0x100) := by decide
/-- An instruction placed at the pc runs as the first after reset. -/
theorem test_first_instruction : (match step (State.reset.withFetchWord 32 0x21800005) with
    | .next t => some (t.getX 12, t.hart.pc)
    | _ => none) = some (5, 4) := by decide

/-! ## Witnesses: for each statement with hypotheses, a state and operands that meet them -/

/-- A state in which no agent holds a translation. -/
theorem fresh_empty {s : State} (h : s.tlb = []) (g : s.walks = []) : s.tlbFresh :=
  ⟨(by rw [h]; intro _ x; nomatch x), (by rw [g]; intro _ x; nomatch x)⟩
/-- Bytes below the control block are plain. -/
theorem plain_low {p : Nat} (h : p < Config.scb) : plainPa p = true := by
  unfold plainPa inInv
  unfold Config.scb at *
  simp only [Bool.and_eq_true, Bool.not_eq_true', Bool.and_eq_false_iff, decide_eq_false_iff_not]
  omega
/-- The gang window (09:R253). -/
def win : Word := 0xFE000000000000
/-- A T hart whose x6 names byte 16 of its scratchpad, and where that lies. -/
def tHart : State := withX onT [(6, win + 16), (7, 0x1122334455667788)]
def tPas (n : Nat) : List Nat := run 0x8100000010 n

theorem wit_DivRemResults :
    let s := withX .reset [(6, 0x8000000000000000), (7, 0xFFFFFFFFFFFFFFFF), (8, 7)]
    operand false true (s.getX 0) = 0 ∧
    (operand false false (s.getX 6) = -2 ^ (opWidth false - 1) ∧ operand false false (s.getX 7) = -1) ∧
    (operand false false (s.getX 8) ≠ 0 ∧ ¬ (operand false false (s.getX 6) = -2 ^ (opWidth false - 1) ∧
      operand false false (s.getX 8) = -1)) := by decide
theorem wit_LogicAndShiftResults : 63 < 64 ∧ (true = true → (31 : BitVec 6).toNat < 32) := by decide
theorem wit_CompareCountFieldResults : (63 : BitVec 6).toNat + (0 : BitVec 6).toNat + 1 ≤ 64 ∧
    (withX .reset [(5, 1)]).getX 5 ≠ 0 ∧ State.reset.getX 5 = 0 := by decide
theorem wit_MinMaxAndXor : (1 : BitVec 1) = 1 ∨ (0 : BitVec 1) = 1 := by decide
theorem wit_ScalarIntegerFrame : xDest (.add 5 6 7 true) = some 5 ∧ xDest (.lim 0 1) = some 0 := by decide
theorem wit_LoadsReadMemory :
    tHart.reaches .read (tHart.getX 6 + BitVec.signExtend 64 (8 : BitVec 13)) (ldBytes .d) (run 0x8100000018 8) ∧
    (tHart.getX 6).toNat % sizeBytes .d = 0 ∧ tHart.reaches .read (tHart.getX 6) (sizeBytes .d) (tPas 8) :=
  ⟨⟨rfl, rfl⟩, by decide, ⟨rfl, rfl⟩⟩
theorem wit_StoresWriteMemory :
    tHart.memOk ∧ tHart.reaches .write (tHart.getX 6 + BitVec.signExtend 64 (0x1FFF : BitVec 13)) (sizeBytes .w) (run 0x810000000F 4) ∧
    (tHart.getX 6).toNat % sizeBytes .h = 0 ∧ tHart.reaches .write (tHart.getX 6) (sizeBytes .h) (tPas 2) :=
  ⟨rfl, ⟨rfl, rfl⟩, by decide, ⟨rfl, rfl⟩⟩
theorem wit_AtomicsReadModifyWrite :
    tHart.memOk ∧ (tHart.getX 6).toNat % asizeBytes .d = 0 ∧ tHart.reaches .write (tHart.getX 6) (asizeBytes .d) (tPas 8) ∧
    physCheck tHart .read (tHart.getX 6) (tPas 8) false = .ok () ∧
    leNat (tHart.scalarSees (tPas 8)) = (tHart.getX 5).toNat % 2 ^ 64 ∧ leNat (tHart.scalarSees (tPas 8)) ≠ (tHart.getX 7).toNat % 2 ^ 64 :=
  ⟨rfl, by decide, ⟨rfl, rfl⟩, rfl, by decide, by decide⟩
/-- A page without a table; a misaligned address; an uncorrectable granule. -/
theorem wit_ScalarAccessTraps :
    let bad : State := { tHart with bad := [0x8100000010] }
    xlatN .reset (State.ctx .reset) .read 0x10 8 = .error (.page, 0x10) ∧ xlatN .reset (State.ctx .reset) .write 0x10 8 = .error (.page, 0x10) ∧
    (withX .reset [(6, 0x11)]).getX 6 % 8 ≠ 0 ∧
    (xlatN bad bad.ctx .read (win + 16) 8 = .ok (tPas 8) ∧ (match physCheck bad .read (win + 16) (tPas 8) true with
      | .error (.dataerr, _) => True | _ => False)) ∧
    (xlatN bad bad.ctx .write (win + 16) 4 = .ok (tPas 4) ∧ (match physCheck bad .write (win + 16) (tPas 4) true with
      | .error (.dataerr, _) => True | _ => False)) :=
  ⟨rfl, rfl, by decide, ⟨rfl, trivial⟩, ⟨rfl, trivial⟩⟩
/-- BTAB below and beyond its bound, misaligned, unreadable, and readable; a mask tested, not resident, and awaited. -/
theorem wit_BranchesAndTables :
    let s := withX tHart [(8, 2), (9, 1)]
    let v := onV .int8 8
    ((1 : BitVec 11).toNat < (s.getX 8).toNat) ∧ ((s.getX 8).toNat ≤ (2 : BitVec 11).toNat ∧ (s.getX 9 + 4 * s.getX 8).toNat % 4 ≠ 0) ∧
    ((s.getX 8).toNat ≤ (2 : BitVec 11).toNat ∧ (s.getX 0 + 4 * s.getX 8).toNat % 4 = 0 ∧
      xlatN s s.ctx .read (s.getX 0 + 4 * s.getX 8) 4 = .error (.page, 8)) ∧
    s.reaches .read (s.getX 6 + 4 * s.getX 8) 4 (run 0x8100000018 4) ∧
    (v.hart.cls = .v ∧ v.hart.nres.getLsbD 8 = false ∧ v.hart.queued (writesK 3) = false) ∧
    (({ v.hart with nres := 0x100 } : Hart).nres.getLsbD 8 = true) ∧
    ({ v.hart with vq := [entryAt v.hart (.kmov 3 1 ⟨0, false⟩) 0] } : Hart).queued (writesK 3) = true ∧ onT.hart.cls = .t :=
  ⟨by decide, by decide, ⟨by decide, by decide, rfl⟩, ⟨rfl, rfl⟩, ⟨rfl, rfl, rfl⟩, rfl, rfl, rfl⟩
/-- A sum on a C hart without and with an enabled flag, behind a queue, and one a T hart has not. -/
theorem wit_ScalarFpResults :
    let s : State := { State.reset with hart := State.reset.hart.setF 2 0x7F7FFFFF }
    let i : Instr := .fadd 1 2 2 .fp32 .rne
    (∃ v, s.fpExact i = some (1, .fp32, .rne, v) ∧
      ((roundTo (Machine.ffmtOf .fp32) .rne s.hart.ftz (drawFor .rne s.hart.srseed).1 v.1).2 ||| v.2) &&& s.hart.fen = 0 ∧
      ((roundTo (Machine.ffmtOf .fp32) .rne s.hart.ftz (drawFor .rne s.hart.srseed).1 v.1).2 ||| v.2) &&& 0x1F ≠ 0) ∧
    s.hart.cls ≠ .t ∧ (onT.hart.cls = .t ∧ tHasFmt .fp64 = false) ∧
    ({ (onV .fp32 1).hart with vq := [entryAt (onV .fp32 1).hart (.mzero 0) 0] } : Hart).vq ≠ [] := by
  refine ⟨⟨_, rfl, by decide +kernel, by decide +kernel⟩, by decide, by decide, by decide⟩
theorem wit_ExactArithmetic : 0x7F7FFFFF < 2 ^ ffmtW FFmt.fp32 ∧ fvIsNan (decodeF (Machine.ffmtOf .fp32) false 0x7F7FFFFF) = false ∧
    1 < 2 ^ ffmtW FFmt.fp32 ∧ fvIsNan (decodeF (Machine.ffmtOf .fp32) false 1) = false := by decide +kernel

/-- An idle V hart of four FP32 elements: v1 = [1, 2, 3, 0], division by zero enabled. -/
def vHart : State :=
  let s := withX (withV (onV .fp32 4) 1 32 [0x3F800000, 0x40000000, 0x40400000, 0]) [(6, win), (7, 4), (8, 1)]
  { s with hart := { s.hart with fen := flagDZ } }
theorem vHart_idle : vHart.vIdle := ⟨rfl, rfl, rfl, rfl, rfl, rfl⟩
/-- The same under an integer type, with nothing enabled. -/
def uHart : State := withX (withV (onV .uint32 4) 1 32 [4, 4, 9, 16]) [(6, win), (7, 4), (8, 1)]
theorem uHart_idle : uHart.vIdle := ⟨rfl, rfl, rfl, rfl, rfl, rfl⟩

theorem eltOk_at {s : State} {i : Instr} {k : AccKind} {j : Nat} {pas : List Nat} (va : Word) (h : s.vAddr i j = va)
    (a : va.toNat % s.hart.cellBytes = 0) (r : s.reaches k va s.hart.cellBytes pas) : s.eltOk i k j pas := by
  subst h; exact ⟨Or.inr a, r⟩

theorem wit_VectorIntegerResults : uHart.vIdle ∧ etIsInt uHart.hart.et = true := ⟨uHart_idle, rfl⟩
/-- 1 / v1 stops at its third element: 0; v1 + v1 does not. -/
theorem wit_VectorFpResults :
    (∃ v, vHart.vfExact (.vfadd 2 1 (.vv 1) (.st .rne) ⟨0, false⟩) = some (2, ⟨0, false⟩, .rne, v) ∧
      vHart.hart.quietBelow .rne 0 (fun j => roundedInto (etFmt vHart.hart.et) .rne vHart.hart.ftz (v j)) vHart.hart.vlN) ∧
    (∃ v, vHart.vfExact (.vfrcp 2 1 (.st .rne) ⟨0, false⟩) = some (2, ⟨0, false⟩, .rne, v) ∧
      let g (j : Nat) := roundedInto (etFmt vHart.hart.et) .rne vHart.hart.ftz (v j)
      3 < vHart.hart.vlN ∧ vHart.hart.active 0 3 = true ∧ vHart.hart.quietBelow .rne 0 g 3 ∧
      trapping vHart.hart.fen (vHart.hart.eltResult .rne 0 g 3).2 ≠ 0) ∧
    vfTypeOk vHart.hart.et (.vfadd 2 1 (.vv 1) (.st .rne) ⟨0, false⟩) = true ∧ vfTypeOk .int8 (.vfmin 2 1 (.vv 1) ⟨0, false⟩) = false :=
  ⟨⟨_, rfl, by unfold Hart.quietBelow; decide +kernel⟩,
   ⟨_, rfl, by decide, by decide, by unfold Hart.quietBelow; decide +kernel, by decide +kernel⟩, rfl, rfl⟩
/-- A narrowing conversion, a widening one of a register onto itself, one that does not fit, a butterfly within VLEN and one beyond. -/
theorem wit_ConverterResults :
    vHart.convForm (.vcvt 2 1 .e4m3 (.st .rne) ⟨0, false⟩) = some (2, 1, ⟨0, false⟩, .fp32, .e4m3, .rne) ∧
    vHart.hart.vlN * etSew .fp32 ≤ vHart.hart.vlen ∧ vHart.hart.vlN * etSew .e4m3 ≤ vHart.hart.vlen ∧
    ((2 : Reg) ≠ 1 ∨ etSew .e4m3 ≤ etSew .fp32) ∧
    uHart.convForm (.vcvt 1 1 .fp64 (.st .rne) ⟨0, false⟩) = some (1, 1, ⟨0, false⟩, .uint32, .fp64, .rne) ∧
    (uHart.hart.vlN * etSew .fp64 ≤ uHart.hart.vlen ∧ uHart.hart.vlen ≤ 16384 ∧ etSew .uint32 < etSew .fp64 ∧ uHart.hart.fen = 0) ∧
    (onV .int8 512).hart.vlen < (onV .int8 512).hart.vlN * etSew .fp64 ∧
    (etIsIeee vHart.hart.et = true ∧ 2 ^ (1 : BitVec 5).toNat * vHart.hart.sew < vHart.hart.vlen) ∧
    ¬ 2 ^ (31 : BitVec 5).toNat * vHart.hart.sew < vHart.hart.vlen :=
  ⟨rfl, by decide, by decide, by decide, rfl, by decide, by decide, by decide, by decide⟩
theorem wit_VectorPermutations : uHart.vIdle ∧ etIsInt uHart.hart.et = true ∧ etIsInt vHart.hart.et = false ∧
    (3 : BitVec 16).toNat < uHart.hart.vlN ∧ uHart.hart.vlN ≤ (4 : BitVec 16).toNat := ⟨uHart_idle, rfl, rfl, by decide, by decide⟩
/-- A quiet compare, and one of a NaN with NV enabled that stops at element 1. -/
theorem wit_CompareAndMaskResults :
    let n : State := withV vHart 2 32 [0, 0x7FC00000]
    let n : State := { n with hart := { n.hart with fen := flagNV } }
    let cf (j : Nat) := cmpF .lt (decodeF (etFmt n.hart.et) n.hart.ftz (getE 32 (n.hart.getV 2).toNat j)) (.fin false 1 0)
    n.vIdle ∧ etIsIeee n.hart.et = true ∧ (etIsInt uHart.hart.et = true ∧ Cmp.lt ≠ .un) ∧
    (∀ j, j < 1 → n.hart.active 0 j = true → trapping n.hart.fen (cf j).2 = 0) ∧ trapping n.hart.fen (cf 1).2 ≠ 0 :=
  ⟨⟨rfl, rfl, rfl, rfl, rfl, rfl⟩, rfl, by decide, by decide +kernel, by decide +kernel⟩
theorem wit_ReductionsAndScans :
    vHart.vIdle ∧ vHart.hart.redAllowed .sum (.st .rne) ∧ vHart.hart.vlN ≤ 4096 ∧ vHart.hart.redMode (.st .rne) ≠ .sr ∧
    vHart.hart.redMode (.st .sr) = .sr ∧ uHart.hart.fen = 0 ∧
    (redLinear (vHart.hart.redStep .sum .rne) .rne (vHart.hart.redElts 1 0 4) (some 0, 0, vHart.hart.srseed)).2.1 &&& vHart.hart.fen = 0 ∧
    (redNode (vHart.hart.redStep .sum .rne 0) (vHart.hart.redLeaf 1 0) 3 0).2 &&& vHart.hart.fen = 0 ∧
    ¬ uHart.hart.redAllowed .sum .dyn :=
  ⟨vHart_idle, Or.inr ⟨rfl, Or.inl rfl⟩, by decide, by decide, rfl, rfl, by decide +kernel, by decide +kernel, by
    rintro (⟨-, h⟩ | ⟨h, -⟩) <;> cases h⟩
/-- A unit-stride load of four words, one whose third element is uncorrectable, and an .acq load with a bit expected. -/
theorem wit_VectorLoads :
    let i : Instr := .vld 2 6 0 false ⟨0, false⟩
    let bad : State := { uHart with bad := [0x8000000008] }
    let e : Hart := uHart.hart.expect 3 true 1
    loadForm i = some (2, false, ⟨0, false⟩) ∧ uHart.nibblesOk i ∧ uHart.tlbFresh ∧
    (∀ j, j < uHart.hart.vlN → uHart.eltOk i .read j (run (0x8000000000 + 4 * j) 4)) ∧
    ((∀ j, j < 2 → bad.eltOk i .read j (run (0x8000000000 + 4 * j) 4)) ∧ ∃ c f, bad.eltFails i .read 2 c f) ∧
    ¬ (onV .e2m1 3).nibblesOk i ∧ (∃ j, j < e.vlN ∧ (e.expected[3]).getLsbD j = true) := by
  refine ⟨rfl, Or.inl (by decide), (fresh_empty rfl rfl), ?_,
    ⟨?_, .dataerr, _, Or.inr ⟨by decide, Or.inl ⟨[], 0x8000000008, run 0x8000000009 3, rfl, nofun, rfl, rfl⟩⟩⟩, ?_, 0, by decide, by decide +kernel⟩
  · intro j hj
    have hj : j < 4 := hj
    interval_cases j <;> exact ⟨Or.inr (by decide), rfl, rfl⟩
  · intro j hj
    interval_cases j <;> exact ⟨Or.inr (by decide), rfl, rfl⟩
  · rintro (h | ⟨h, -⟩)
    · exact h rfl
    · exact absurd h (by decide)
theorem wit_VectorStores :
    let i : Instr := .vstx 1 6 1 2 0
    let at_ (j : Nat) : Nat := [16, 16, 36, 64].getD j 0
    storeForm i = some (1, 0) ∧ uHart.nibblesOk i ∧ uHart.memOk ∧
    (∀ j, j < uHart.hart.vlN → uHart.eltOk i .write j (run (0x8000000000 + at_ j) 4)) ∧
    uHart.eltFails (.vsts 1 6 8 0 0) .write 1 .misalign (win + 1) := by
  refine ⟨rfl, Or.inl (by decide), rfl, ?_, Or.inl ⟨⟨by decide, by decide⟩, rfl, by decide⟩⟩
  intro j hj
  have hj : j < 4 := hj
  interval_cases j
  · exact eltOk_at (win + 16) (by decide +kernel) (by decide) ⟨rfl, rfl⟩
  · exact eltOk_at (win + 16) (by decide +kernel) (by decide) ⟨rfl, rfl⟩
  · exact eltOk_at (win + 36) (by decide +kernel) (by decide) ⟨rfl, rfl⟩
  · exact eltOk_at (win + 64) (by decide +kernel) (by decide) ⟨rfl, rfl⟩
/-- Words 4, 4, 9, 16: VAMO finds the second twice; VAMO.m does not mind. -/
theorem wit_VectorAtomics :
    let one : Instr := .vamo 2 1 1 6 .add .s true 2 0
    let pas (j : Nat) : List Nat := run (0x8000000000 + ([16, 16, 36, 64].getD j 0)) 4
    let distinct := withV uHart 1 32 [4, 5, 9, 16]
    let pas' (j : Nat) : List Nat := run (0x8000000000 + ([16, 20, 36, 64].getD j 0)) 4
    (etIsInt uHart.hart.et = true ∧ (uHart.hart.sew = 32 ∨ uHart.hart.sew = 64)) ∧ uHart.vAddr one 0 = uHart.vAddr one 1 ∧
    (∀ p, p < 4 → ∀ q, q < 4 → pas p = pas q ∨ ∀ b, b ∈ pas p → b ∉ pas q) ∧
    (∀ p, p < 4 → ∀ q, q < p → distinct.vAddr one q ≠ distinct.vAddr one p) ∧
    (∀ j, j < 4 → distinct.eltOk one .write j (pas' j)) ∧
    uHart.eltFails (.vamom 2 1 0 8 .add .s true 0 0) .write 0 .misalign 1 := by
  refine ⟨by decide, by decide +kernel, by decide +kernel, by decide +kernel, ?_, Or.inl ⟨⟨by decide, by decide +kernel⟩, rfl, by decide +kernel⟩⟩
  intro j hj
  interval_cases j
  · exact eltOk_at (win + 16) (by decide +kernel) (by decide) ⟨rfl, rfl⟩
  · exact eltOk_at (win + 20) (by decide +kernel) (by decide) ⟨rfl, rfl⟩
  · exact eltOk_at (win + 36) (by decide +kernel) (by decide) ⟨rfl, rfl⟩
  · exact eltOk_at (win + 64) (by decide +kernel) (by decide) ⟨rfl, rfl⟩

/-- Whether an operation of the model completes in a state. -/
def okM {α : Type} (m : M α) (s : State) : Bool := match (runM m s).1 with | .ok _ => true | .error _ => false
theorem okM_spec {α : Type} {m : M α} {s : State} (h : okM m s = true) : ∃ a t, runM m s = (.ok a, t) := by
  unfold okM at h
  match e : runM m s with
  | (.ok a, t) => exact ⟨a, t, rfl⟩
  | (.error _, _) => rw [e] at h; cases h
/-- A V hart at level M, at the bottom of its stack of levels A, with its context block at the start of its scratchpad. -/
def kHart : State := { uHart with hart := { uHart.hart with lv := .m, ctxb := BitVec.ofNat 50 (0xFE000000000000 / 64) } }
theorem kHart_idle : kHart.vIdle := ⟨rfl, rfl, rfl, rfl, rfl, rfl⟩
/-- The same with a header of an empty image in its trap area: V, VL 1, VTYPE 0, MR 16, VLEN 4,096 (12:R336). -/
def kArea : State := kHart.pokeN (0x8000000000 + 56000) (leBytes 64 (1 + 2 ^ 192 + 16 * 2 ^ 256 + 4096 * 2 ^ 320))

theorem wit_TrapsByInstruction :
    State.reset.hart.namoPend = [] ∧ causeOf Cause.timer.code = some .timer ∧ causeOf 0 = none ∧
    (∃ g, g ∈ ({ State.reset.rebeica with grants := [⟨none, true⟩] } : Rebeica).grants ∧ g.haltOnBrk = true ∧ g.tenant = none) ∧
    ({ Hart.reset with namoPend := [3] } : Hart).namoPend ≠ [] ∧ Hart.reset.lv = .a ∧
    (kHart.hart.cls = .v ∧ kHart.hart.ctxb ≠ 0 ∧
      ∃ s1, runM (writeParts (kHart.ctxAt false) (kHart.hart.areaVa .m) (areaParts kHart.hart)) kHart = (.ok (), s1)) ∧
    (uHart.hart.cls = .v ∧ uHart.hart.ctxb = 0) ∧ (127 < 128 ∧ kHart.hart.lg ≤ 4) :=
  ⟨rfl, rfl, rfl, ⟨⟨none, true⟩, by decide, rfl, rfl⟩, by decide, rfl,
   ⟨rfl, by decide, (okM_spec (m := writeParts (kHart.ctxAt false) (kHart.hart.areaVa .m) (areaParts kHart.hart)) (s := kHart)
      (by decide +kernel)).elim fun _ h => h⟩,
   ⟨rfl, rfl⟩, by decide⟩
/-- Without an image, and with one of no entries. -/
theorem wit_TrapReturn :
    let b := kHart.hart.mb
    let pas := run (0x8000000000 + 56000) 64
    let hd := leNat (memReadAt kArea.mem pas)
    (kHart.hart.lv ≠ .a ∧ b.plv.code ≤ kHart.hart.lv.code) ∧ kHart.hart.vq = [] ∧ State.reset.hart.cls ≠ .v ∧
    ¬ (Hart.reset.lv ≠ .a) ∧ kHart.reaches .read (kHart.hart.areaVa .m) 64 pas ∧ leNat (memReadAt kHart.mem pas) % 2 = 0 ∧
    kArea.reaches .read (kArea.hart.areaVa .m) 64 pas ∧
    (hd % 2 = 1 ∧ bitsOf hd 7 1 = 0 ∧ bitsOf hd 31 8 = 0 ∧ bitsOf hd 255 238 = 0 ∧ bitsOf hd 319 261 = 0 ∧ bitsOf hd 511 352 = 0 ∧
      bitsOf hd 351 320 = kArea.hart.vlen ∧ vtypeOf (BitVec.ofNat 14 (bitsOf hd 237 224)) = some VCfg.reset.vt ∧
      1 ≤ bitsOf hd 223 192 ∧ bitsOf hd 223 192 ≤ kArea.hart.vlen / 64 ∧ bitsOf hd 260 256 = 16) ∧
    kArea.tlbFresh ∧ kArea.memOk ∧ kArea.reaches .write (kArea.hart.areaVa .m) 1 [0x8000000000 + 56000] :=
  ⟨by decide, rfl, by decide, by decide, ⟨rfl, rfl⟩, by decide +kernel, ⟨rfl, rfl⟩, by decide +kernel, (fresh_empty rfl rfl),
   by unfold State.memOk; decide +kernel, ⟨rfl, rfl⟩⟩
/-- A C hart of a gang with room on V, and a V hart with room on C. -/
def mover (cl : Machine.Class) : State :=
  { State.reset with
    hart := { Hart.reset with id := ⟨1, 0⟩, cls := cl, lg := 1, migMix := true, mixCount := 2 ^ 16 }
    gangs := [{ Gang.firmware with id := 1, cls := .c, cslots := [(1, 0), (1, 1)], reserve := [(0, 0)], mresv := 1, mlg := 0 }] }
theorem wit_IdleAndMigrate :
    ({ Hart.reset with mcheck := [0] } : Hart).mcheck ≠ [] ∧ Hart.reset.mcheck = [] ∧ State.reset.hart.preempt = none ∧
    (Level.m ≠ .a ∧ ({ Hart.reset with preempt := some false } : Hart).preempt ≠ none) ∧ State.reset.hart.id.gang = 0 ∧
    onT.hart.id.gang ≠ 0 ∧ ((mover .c).hart.migTrap = true ∧ (mover .c).canArrive .v = true) ∧
    ((mover .v).hart.migTrap = true ∧ (mover .v).mayLeaveV = true ∧ (mover .v).hart.vdirty &&& ~~~(mover .v).hart.nres = 0) ∧
    (∃ s1, runM peelImage (mover .v) = (.ok (), s1)) ∧ State.reset.canArrive .v = false ∧ uHart.mayLeaveV = false :=
  ⟨by decide, rfl, rfl, by decide, rfl, by decide, by decide, by decide,
   (okM_spec (m := peelImage) (s := mover .v) (by decide +kernel)).elim fun _ h => h, by decide, by decide⟩
theorem wit_CsrInstructions :
    let s := withX .reset [(6, 0x15)]
    csrName 0x010 = some .fflags ∧ (csrReadLevel .fflags).code ≤ s.hart.lv.code ∧
    (∃ l, csrWriteLevel .fflags = some l ∧ l.code ≤ s.hart.lv.code) ∧ s.hart.stopped = none ∧
    s.csrValueOk .fflags (s.getX 6).toNat = true ∧ s.csrValueOk .fflags (s.getX 6 + 0x20).toNat = false ∧ csrName 0xFFF = none ∧
    (csrName 0x200 = some .mtvec ∧ Hart.reset.lv.code < (csrReadLevel .mtvec).code) ∧ csrWriteLevel .time = none ∧
    (csrWaits .vl = true ∧ s.hart.vq = []) ∧ (0x15 < 2 ^ 64 ∧ s.hart.lg ≤ 4) := by
  refine ⟨rfl, by decide, ⟨_, rfl, by decide⟩, rfl, by decide, by decide, rfl, ⟨rfl, by decide⟩, rfl, ⟨rfl, rfl⟩, by decide⟩
/-- A V hart; a C hart of a gang with CRF and of one without; a semaphore held and awaited. -/
theorem wit_ClusterFileOperations :
    let g : Gang := { Gang.firmware with crf := true }
    let s : State := { State.reset with gangs := [g] }
    let held : ClusterFile := ⟨1, Vector.replicate 64 0, 2, [(1, ⟨1, 1⟩)]⟩
    uHart.hart.cls = .v ∧ (s.hart.cls = .c ∧ ∃ g, s.gang s.hart.id.gang = some g ∧ g.crf = true) ∧
    (State.reset.hart.cls = .c ∧ ¬ ∃ g, State.reset.gang State.reset.hart.id.gang = some g ∧ g.crf = true) ∧
    (uHart.file uHart.hart).sem.getLsbD 1 = false ∧
    (let t := uHart.setFile uHart.hart.fileNo held
     (t.file t.hart).sem.getLsbD 1 = true ∧ (t.file t.hart).waiters.find? (fun w => w.1 == 1) = some (1, ⟨1, 1⟩)) ∧ onT.hart.cls = .t :=
  ⟨rfl, ⟨rfl, _, rfl, rfl⟩, ⟨rfl, fun ⟨_, h, k⟩ => by cases h; cases k⟩, by decide, ⟨by decide, by decide⟩, rfl⟩
theorem wit_ClassAndSectionChecks : onT.hart.cls = .t ∧ vOnly (.mzero 0) = true ∧ State.reset.hart.cls ≠ .t ∧ isPosted (.mzero 0) = true ∧
    State.reset.canArrive .v = false ∧ ((mover .c).hart.cls = .c ∧ (mover .c).hart.migTrap = true ∧ (mover .c).canArrive .v = true) := by
  decide
/-- An idle V hart; a VFENCE.vs behind a queued load; a T hart. -/
theorem wit_MarkersAndFences :
    let q : Hart := { uHart.hart with vq := [entryAt uHart.hart (.vld 2 6 0 false ⟨0, false⟩) 0] }
    uHart.vIdle ∧ (q.cls = .v ∧ (VfKind.vs = .vs ∨ VfKind.vs = .all) ∧ q.queued isVAccess = true) ∧ onT.hart.cls = .t :=
  ⟨uHart_idle, ⟨rfl, Or.inl rfl, rfl⟩, rfl⟩

/-- What an operation answers meets p. -/
theorem okM_that {α : Type} {m : M α} {s : State} {p : α → Bool}
    (h : (match (runM m s).1 with | .ok a => p a | .error _ => false) = true) : ∃ a t, runM m s = (.ok a, t) ∧ p a = true := by
  match e : runM m s with
  | (.ok a, t) => rw [e] at h; exact ⟨a, t, rfl, h⟩
  | (.error _, _) => rw [e] at h; cases h
/-- The instructions fetched ahead decode to these. -/
def aheadAre (body : List Instr) (l : List Ahead) : Bool :=
  decide (l.length = body.length) && (l.zip body).all fun p => reads p.1.head p.1.tail p.2
/-- The idle V hart with two additions after its first word or two words. -/
def cHart (at_ : Nat) : State :=
  placeCode { uHart with hart := { uHart.hart with lv := .m } } at_ (leBytes 4 0xC4008500 ++ leBytes 4 0 ++ leBytes 4 0xC4008500 ++ leBytes 4 0)
theorem wit_ConvoyChecksMembers : (cHart 4).vIdle ∧ [VUnit.a, VUnit.b] ≠ [] ∧
    (∃ l s1, runM (fetchAhead 2 ((cHart 4).hart.pc + 4)) (cHart 4) = (.ok l, s1) ∧
      aheadAre [.vadd 4 5 (.vv 0) ⟨0, false⟩, .vadd 4 5 (.vv 0) ⟨0, false⟩] l = true) ∧
    VUnit.a ∈ memberUnits (.vadd 4 5 (.vv 0) ⟨0, false⟩) ∧ VUnit.ls ∉ memberUnits (.vadd 4 5 (.vv 0) ⟨0, false⟩) :=
  ⟨⟨rfl, rfl, rfl, rfl, rfl, rfl⟩, by decide, okM_that (by decide +kernel), by decide, by decide⟩
theorem wit_CapturedLoopRepeatsBody : (cHart 8).vIdle ∧ etIsInt (cHart 8).hart.et = true ∧
    (∃ l s1, runM (fetchAhead ((1 : BitVec 5).toNat + 1) ((cHart 8).hart.pc + 8)) (cHart 8) = (.ok l, s1) ∧
      aheadAre [.vadd 4 5 (.vv 0) ⟨0, false⟩, .vadd 4 5 (.vv 0) ⟨0, false⟩] l = true) ∧
    loopInt (.vadd 4 5 (.vv 0) ⟨0, false⟩) = some (4, 5, .vv 0, ⟨0, false⟩) ∧ loopRegs [.vadd 4 5 (.vv 0) ⟨0, false⟩] = [] :=
  ⟨⟨rfl, rfl, rfl, rfl, rfl, rfl⟩, rfl, okM_that (by decide +kernel), rfl, rfl⟩
/-- A state with one page for ASID 0: 64 KiB from 0x10000, readable and writable at every level, at 0x50000. -/
def paged (s : State) : State :=
  ((((s.poke (Config.scb + 0x100000) 16 (1 + 2 ^ 21)).poke 0x200000 8 (1 + 0x400000)).poke 0x400000 8 (1 + 0x401000)).poke
    0x401000 8 (1 + 0x402000)).poke 0x402008 8 (0x17 + 0x50000)
/-- A tile at an aligned address; a conversion that overflows, with OF enabled, at its first element. -/
theorem wit_TileInstructions :
    let s := withX onT [(10, win)]
    let t : State := { onT with hart := { onT.hart.setTa 0 (BitVec.ofNat 8192 0x7F7FFFFF) with fen := flagOF } }
    let res (n : Nat) : Nat × Flags := writeElt .fp16 t.hart.ct .rne false (drawFor .rne t.hart.srseed).1
      (decodeF fmt32 false (getE 32 (t.hart.getTa 0).toNat n))
    s.hart.cls = .t ∧ (s.getX 10 + BitVec.signExtend 64 (1024 : BitVec 13)).toNat % 64 = 0 ∧
    s.reaches .read (win + 1024) 1024 (run 0x8100000400 1024) ∧ s.memOk ∧ s.reaches .write (win + 1024) 1024 (run 0x8100000400 1024) ∧
    (∃ f : TmmaFly, 3 ∈ f.reads) ∧ t.hart.tmma = none ∧ trapping t.hart.fen (res 0).2 ≠ 0 ∧ trapping t.hart.fen (res 1).2 = 0 ∧
    (ET.code8 = .code8 ∧ ({ t.hart with nres := 0x400 } : Hart).nres.getLsbD 10 = true) :=
  ⟨rfl, by decide, ⟨by decide +kernel, by decide +kernel⟩, rfl, ⟨by decide +kernel, by decide +kernel⟩, ⟨⟨0, [3], 0, 0⟩, by decide⟩, rfl, by decide +kernel, by decide +kernel, rfl, by decide⟩
/-- Zero tiles: nothing raised; an infinity against a zero with NV enabled. -/
theorem wit_TensorProducts :
    let h := onT.hart.finishTmma
    let t : State := { onT with hart := { onT.hart.setW 0 0x7C with fen := flagNV } }
    (onT.hart.cls = .t) ∧ h.nres &&& 0x200 = 0 ∧ h.fen = 0 ∧ trapping t.hart.fen (t.hart.finishTmma.tmmaCell 0 0 2 none false .e5m2 0).2 ≠ 0 ∧
    trapping t.hart.fen (t.hart.finishTmma.tmmaCell 0 0 2 none false .e5m2 255).2 = 0 ∧
    ({ h with nres := 0x200 } : Hart).nres &&& 0x200 ≠ 0 := by
  refine ⟨rfl, by decide, rfl, by decide +kernel, by decide +kernel, by decide⟩
/-- A T gang in an exchange step of its plan: 16 bytes are to come. -/
def xGang : Gang :=
  { Gang.firmware with id := 1, cls := .t, shares := [(0, ⟨0, 0, 16384⟩)], cslots := [], plan := 0x10000, stepKind := .exchange }
def xHart : State :=
  let s : State := { onT with gangs := [xGang] }
  (paged (withX s [(10, win + 256), (9, win + 512)])).pokeN 0x50000 (leBytes 64 1 ++ leBytes 4 16)
theorem wit_ExchangeInstructions :
    xHart.hart.cls = .t ∧ xHart.gang xHart.hart.id.gang = some xGang ∧ onT.gang 1 ≠ none ∧ Gang.firmware.stepKind ≠ .exchange ∧
    (xHart.getX 10).toNat % 8 = 0 ∧ planCount xHart xGang 0 = .ok 16 ∧
    ((win + 256).toNat = Config.window + 16384 * 0 + 256 ∧ 256 + 8 ≤ 16384 ∧ 0 < xGang.harts ∧
      (win + 256).toNat < Config.window + Config.windowSize) ∧
    16 < 0 + 24 ∧ 0 + 16 ≤ 16 ∧ xHart.memOk ∧ xHart.reaches .read (xHart.getX 9) 16 (run 0x8100000200 16) ∧
    xHart.reaches .write (xHart.getX 10) 16 (run 0x8100000100 16) ∧ planCounts xHart xGang = .ok [16] ∧
    (∃ c v, planCounts xHart { xGang with plan := 0 } = .error (c, v)) := by
  refine ⟨rfl, rfl, by decide, by decide, by decide, ?_, by decide, by decide, by decide, ?_, ⟨rfl, rfl⟩, ⟨rfl, rfl⟩, ?_, ?_⟩
  · decide +kernel
  · unfold State.memOk; decide +kernel
  · decide +kernel
  · exact ⟨.page, _, rfl⟩
/-- Queue 9 with room, and its ring and the caller's record in scratchpad; a word to signal. -/
def qHart : State :=
  let s := withX onT [(6, 9), (7, win + 64), (8, win + 128), (9, 1)]
  s.pokeN (Config.scb + 64 * 9) (leBytes 32 (2 ^ 156 + 2 ^ 157))
theorem wit_LaunchSignalsBarrier :
    let d (s : State) := leNat (memReadN s.mem (Config.scb + 64 * 9) 64)
    let full : State := qHart.pokeN (Config.scb + 64 * 9 + 28) (leBytes 4 16)
    ((qHart.getX 7).toNat % 8 = 0 ∧ qHart.reaches .read (qHart.getX 7) 64 (run 0x8100000040 64)) ∧
    (1024 ≤ 1024) ∧ ((d onT).testBit 156 = false) ∧
    ((d qHart).testBit 156 = true ∧ bitsOf (d qHart) 162 160 < 2 ∧ qHart.hart.lv ≠ .a ∨ (d qHart).testBit 157 = true) ∧
    (bitsOf (d qHart) 255 224 + 2 ^ 32 - bitsOf (d qHart) 223 192) % 2 ^ 32 ≠ 2 ^ (bitsOf (d qHart) 155 152 + 4) ∧
    (bitsOf (d full) 255 224 + 2 ^ 32 - bitsOf (d full) 223 192) % 2 ^ 32 = 2 ^ (bitsOf (d full) 155 152 + 4) ∧
    qHart.tlbFresh ∧ qHart.memOk ∧ (∃ e, xlatN qHart (devCtx 0) .write 0 64 = .error e) ∧
    ((qHart.getX 8).toNat % 4 = 0 ∧ qHart.reaches .write (qHart.getX 8) 4 (run 0x8100000080 4) ∧
      physCheck qHart .read (qHart.getX 8) (run 0x8100000080 4) false = .ok () ∧ qHart.hart.storesPending = false ∧
      qHart.reaches .read (qHart.getX 8) 4 (run 0x8100000080 4)) ∧
    (BitVec.ofNat 32 (leNat (qHart.scalarSees (run 0x8100000080 4))) ≠ (qHart.getX 9).setWidth 32) ∧
    (∀ o, o ∈ qHart.others → o.id.gang = qHart.hart.id.gang → o.ended = true ∨ o.gbarHere = true) ∧
    (∃ o, o ∈ [{ Hart.reset with id := ⟨1, 1⟩ }] ∧ o.id.gang = qHart.hart.id.gang ∧ o.ended = false ∧ o.gbarHere = false) := by
  refine ⟨⟨by decide, rfl, rfl⟩, by decide, by decide, by decide +kernel, by decide +kernel, by decide +kernel, (fresh_empty rfl rfl), ?_, ?_,
    ⟨by decide, ⟨rfl, rfl⟩, rfl, by decide, rfl, rfl⟩, by decide +kernel, (fun _ h => nomatch h), _, List.mem_singleton.2 rfl, by decide⟩
  · unfold State.memOk; decide +kernel
  · exact ⟨_, rfl⟩
theorem wit_LaunchAppends :
    xlatN (paged .reset) (devCtx 0) .write 0x10000 64 = .ok (run 0x50000 64) ∧
    physCheck (paged .reset) .write 0x10000 (run 0x50000 64) false = .ok () ∧ (run 0x50000 64).Nodup ∧
    ∀ p, p ∈ run 0x50000 64 → plainPa p = true :=
  ⟨by decide +kernel, by decide +kernel, by decide +kernel, by decide +kernel⟩

/-- Bytes of the one share of a V gang, from an offset on, lie in one row of the scratchpad. -/
theorem window_reaches (k : AccKind) (hk : k ≠ .fetch) (o n : Nat) (h1 : 1 < n) (h2 : o % 16384 + n ≤ 16384) (h3 : o < 262144) :
    uHart.reaches k (win + BitVec.ofNat 64 o) n (run (0x8000000000 + o) n) := by
  have e : (win + BitVec.ofNat 64 o).toNat = 0xFE000000000000 + o := by
    rw [BitVec.toNat_add, BitVec.toNat_ofNat, show win.toNat = 0xFE000000000000 from rfl]; omega
  have w : windowPa uHart uHart.ctx k o = .ok (0x8000000000 + o) := by
    have f : uHart.gangs.find? (fun g => g.id == uHart.ctx.gang) = uHart.gangs.head? := rfl
    have d : o / 1048576 = 0 := Nat.div_eq_of_lt (by omega)
    have m : o % 1048576 = o := Nat.mod_eq_of_lt (by omega)
    unfold windowPa
    rw [f, show uHart.ctx.noWindow = false from rfl]
    simp only [uHart, withX, withV, onV, onCore, List.head?_cons, Bool.false_eq_true, if_false, List.foldl, State.setX,
      show (Machine.Class.v == Machine.Class.t) = false from rfl, d, m, List.lookup_cons, beq_self_eq_true, Gang.firmware]
    have hk' : (k == AccKind.fetch) = false := by cases k <;> first | rfl | exact absurd rfl hk
    rw [if_neg (by simp; omega), hk']
    simp
  refine ⟨?_, physCheck_plain rfl fun p hp => ?_⟩
  · unfold xlatN
    rw [if_neg (by rw [e]; simp; omega)]
    unfold xlat
    simp only [e, Config.window, Config.windowSize]
    rw [if_neg (by simp; omega), if_pos (by omega), if_pos (by omega), Nat.add_sub_cancel_left, w]
  · rw [mem_run] at hp; unfold Config.device; omega
/-- The image of an idle V hart at the start of its scratchpad, and one with a header that holds every section. -/
def imaged : State := uHart.pokeN 0x8000000000 (leBytes 64 (imageHeader 4096 0xFFF))
theorem wit_VectorImages :
    uHart.vIdle ∧ (uHart.getX 7).toNat % 64 ≠ 0 ∧ uHart.imageAt win (run 0x8000000000 54336) ∧
    (let hd := leNat (memReadAt imaged.mem (run 0x8000000000 64))
     headerFits hd = true ∧ bitsOf hd 95 64 = imaged.hart.vlen ∧ 0xFFF &&& (2 ^ 12 - 1 - bitsOf hd 107 96) = 0) ∧
    (imaged.hart.pendClr = Vector.replicate 8 0 ∧ imaged.hart.pendSet = Vector.replicate 8 0) ∧
    headerFits (leNat (memReadAt uHart.mem (run 0x8000000000 64))) = false := by
  refine ⟨uHart_idle, by decide, ⟨?_, run_nodup _ _, by decide, by decide, by decide, rfl, rfl, rfl, (fresh_empty rfl rfl), ?_, ?_, ?_⟩,
    by decide +kernel, ⟨rfl, rfl⟩, by decide +kernel⟩
  · rw [run_length]; decide
  · exact apart_scratchpad fun p hp => by rw [mem_run] at hp; unfold Config.hbmEnd Config.scb; omega
  · intro p hp
    rw [mem_run] at hp
    exact plain_low (by unfold Config.scb; omega)
  · intro o h1 h2
    have h2 : o + 64 ≤ 54336 := h2
    rw [run_drop, run_take _ _ _ (by omega)]
    exact ⟨window_reaches .read (by decide) o 64 (by decide) (by omega) (by omega),
      window_reaches .write (by decide) o 64 (by decide) (by omega) (by omega)⟩
/-- An accumulator of FP32 with room, a product of E4M3 elements that fits, a row that raises NV under its enable, one of INT8
elements read as FP32 that is no product, and a row wider than the register. -/
def mmaHart (e : ET) (vl : Nat) : State :=
  let s := onV e vl
  { s with hart := { s.hart with vc := { s.hart.vc with mr := 1 }, fen := flagNV } }
theorem wit_AccumulatorTiles :
    let s := mmaHart .e4m3 4
    let t := withV (withV s 4 8 [0x7F]) 8 8 [0x38]
    s.vIdle ∧ s.hart.vc.mr.toNat ≤ 16 ∧ s.hart.vlN * accW s.hart.vc.vt.acc ≤ s.hart.vlen ∧ s.hart.mmaLegal ∧
    (∀ j, j < 4 → trapping s.hart.fen (s.hart.mmaVal 1 4 8 0 0 0 j 0).2 = 0) ∧
    (∃ u : State, u.hart.mmaLegal ∧ u.hart.fen = flagNV ∧ trapping u.hart.fen (u.hart.mmaVal 1 4 8 0 0 0 0 0).2 ≠ 0) ∧
    (∀ u, u = t → u.vIdle) ∧ ¬ (mmaHart .int8 4).hart.mmaLegal ∧
    (mmaHart .e4m3 512).hart.vlen < (mmaHart .e4m3 512).hart.vlN * accW (mmaHart .e4m3 512).hart.vc.vt.acc := by
  refine ⟨⟨rfl, rfl, rfl, rfl, rfl, rfl⟩, by decide, by decide, by unfold Hart.mmaLegal; decide, by decide +kernel, ⟨withV (withV (mmaHart .fp16 4) 4 16 [0x7C00]) 8 16 [0],
    by unfold Hart.mmaLegal; decide, rfl, by decide +kernel⟩, fun u h => h ▸ ⟨rfl, rfl, rfl, rfl, rfl, rfl⟩,
    by unfold Hart.mmaLegal; decide, by decide⟩

/-- An idle V hart with one record (of one entry), a descriptor at byte 64 of one row of one FP32 element at byte 4,096 with its
gradient at byte 12,288, and one token whose hidden vector stands at byte 8,192 and its gradient at byte 16,384. -/
def pHart : State :=
  let s := withV (withV uHart 1 64 [0xFE000000002000]) 2 64 [0xFE000000004000]
  let s := withX s [(9, win + 64)]
  ({ s with hart := { s.hart with vc := { s.hart.vc with mr := 1 },
                                  m := Vector.replicate 4 (Vector.replicate 16 (BitVec.ofNat 16384 (2 ^ 176))) } }).pokeN 0x8000000040
    (leBytes 64 (0xFE000000001000 + 4 * 2 ^ 64 + 1 * 2 ^ 112 + 2 ^ 117 + 0xFE000000003000 * 2 ^ 192 + 4 * 2 ^ 256))
def pDesc : XDesc :=
  { wbase := 0xFE000000001000, wstride := 4, d := 1, ty := .fp32, init := true, spl := false, lo := 0, hi := 0,
    gbase := 0xFE000000003000, gstride := 4 }
def zero1 : List FV := [decodeF (etFmt .fp32) false 0]
/-- Whatever else memory holds, the descriptor and vectors read so where these bytes are as they were. -/
theorem pHart_projects (bwd : Bool) (m : List Host.Cell)
    (h : ∀ p, p ∉ run 0x8000003000 4 ++ run 0x8000004000 4 → memRead m p = memRead pHart.mem p) :
    ({ pHart with mem := m } : State).projects 1 (pHart.getX 9) bwd pDesc (fun _ => zero1) (fun _ => zero1) := by
  have same (l : List Nat) (d : ∀ p, p ∈ l → p < 0x8000003000) : memReadAt m l = memReadAt pHart.mem l := by
    unfold memReadAt
    refine List.map_congr_left fun p hp => h p ?_
    have := d p hp
    simp only [List.mem_append, mem_run]; omega
  have low (a n : Nat) (ha : a + n ≤ 0x8000003000) : ∀ p, p ∈ run a n → p < 0x8000003000 := fun p hp => by
    rw [mem_run] at hp; omega
  refine ⟨rfl, (fresh_empty rfl rfl), (show (pHart.getX 9).toNat % 64 = 0 by decide),
    (show pHart.hart.vc.mr.toNat ≤ 16 by decide), ⟨run 0x8000000040 64, ⟨rfl, rfl⟩, ?_⟩, ?_, ?_⟩
  · show XDesc.parse (leNat (memReadAt m _)) bwd = _
    rw [same _ (low _ _ (by omega))]
    cases bwd <;> decide +kernel
  · intro t ht
    have ht : t = 0 := by have : t < 1 := ht; omega
    subst ht
    have e : Hart.xslot ({ pHart with mem := m } : State).hart 1 0 = win + 0x2000 := by
      show Hart.xslot pHart.hart 1 0 = _
      decide +kernel
    refine ⟨by rw [e]; decide, run 0x8000002000 4, ⟨by rw [e]; rfl, by rw [e]; rfl⟩, ?_⟩
    show zero1 = (elems _ (leNat (memReadAt m _)) 1).map _
    rw [same _ (low _ _ (by omega))]
    decide +kernel
  · intro v _ hv
    have hv : v = 0 := by have : v ≤ 0 := hv; omega
    subst hv
    refine ⟨run 0x8000001000 4, ⟨rfl, rfl⟩, ?_⟩
    show zero1 = (elems _ (leNat (memReadAt m _)) 1).map _
    rw [same _ (low _ _ (by omega))]
    decide +kernel
theorem withMem_self {P : State → Prop} (s : State) (m : List Host.Cell) (h : m = s.mem) (q : P { s with mem := m }) : P s := by
  subst h; exact q
theorem pHart_reads (bwd : Bool) : pHart.projects 1 (pHart.getX 9) bwd pDesc (fun _ => zero1) (fun _ => zero1) :=
  withMem_self (P := fun s => s.projects 1 (pHart.getX 9) bwd pDesc (fun _ => zero1) (fun _ => zero1)) pHart pHart.mem rfl
    (pHart_projects bwd pHart.mem fun _ _ => rfl)
theorem pHart_idle : pHart.vIdle := ⟨rfl, rfl, rfl, rfl, rfl, rfl⟩
theorem wit_ProjectionFeedsRecords :
    pHart.vIdle ∧ pHart.hart.continues false = false ∧ pHart.hart.kMax < (255 : BitVec 8).toNat ∧ (1 : BitVec 8).toNat ≤ pHart.hart.kMax ∧
    pHart.projects 1 (pHart.getX 9) false pDesc (fun _ => zero1) (fun _ => zero1) ∧ pDesc.init = true :=
  ⟨pHart_idle, rfl, by decide, by decide, pHart_reads false, rfl⟩
theorem wit_ProjectionGradients :
    let pw (_ : Nat) := run 0x8000003000 4
    let ph (_ : Nat) := run 0x8000004000 4
    let all : List Nat := ((List.range (pDesc.hi + 1)).filter (pDesc.lo ≤ ·)).flatMap pw ++ (List.range pHart.hart.vc.mr.toNat).flatMap ph
    pHart.vIdle ∧ pHart.hart.continues true = false ∧ pHart.projects 1 (pHart.getX 9) true pDesc (fun _ => zero1) (fun _ => zero1) ∧
    ((1 : BitVec 8).toNat ≤ (XRec.ofRow (pHart.hart.getM 0 0).toNat).k ∧
      (XRec.ofRow (pHart.hart.getM 0 0).toNat).label = pHart.hart.xlabel 1 0) ∧
    pHart.bad = [] ∧ pHart.memOk ∧ pHart.apart all ∧ all.Nodup ∧ (∀ p, p ∈ all → plainPa p = true) ∧
    (∀ m, (∀ p, p ∉ all → memRead m p = memRead pHart.mem p) →
      ({ pHart with mem := m } : State).projects 1 (pHart.getX 9) true pDesc (fun _ => zero1) (fun _ => zero1)) ∧
    (pHart.reaches .read (pDesc.gAddr 0) 4 (pw 0) ∧ pHart.reaches .write (pDesc.gAddr 0) 4 (pw 0) ∧
      pHart.holdsVec .fp32 (pDesc.gAddr 0) 1 zero1) ∧
    (let a := pHart.hart.xslot 2 0
     a = win + 0x4000 ∧ a.toNat % 4 = 0 ∧ pHart.reaches .read (win + 0x4000) 4 (ph 0) ∧ pHart.reaches .write (win + 0x4000) 4 (ph 0) ∧
     pHart.holdsVec .fp32 (win + 0x4000) 1 zero1) := by
  have e : ((List.range (pDesc.hi + 1)).filter (pDesc.lo ≤ ·)).flatMap (fun _ => run 0x8000003000 4) ++
      (List.range pHart.hart.vc.mr.toNat).flatMap (fun _ => run 0x8000004000 4) = run 0x8000003000 4 ++ run 0x8000004000 4 := by decide
  have range : ∀ p, p ∈ run 0x8000003000 4 ++ run 0x8000004000 4 → Config.hbmEnd ≤ p ∧ p < Config.scb := by decide
  refine ⟨pHart_idle, rfl, pHart_reads true, by decide +kernel, rfl, ?_, ?_, ?_, ?_, ?_,
    ⟨⟨rfl, rfl⟩, ⟨rfl, rfl⟩, run 0x8000003000 4, ⟨rfl, rfl⟩, by decide +kernel⟩,
    ⟨by decide +kernel, by decide +kernel, ⟨rfl, rfl⟩, ⟨rfl, rfl⟩, run 0x8000004000 4, ⟨rfl, rfl⟩, by decide +kernel⟩⟩
  · unfold State.memOk; decide +kernel
  · rw [e]; exact apart_scratchpad range
  · rw [e]; decide
  · rw [e]; exact fun p hp => plain_low (range p hp).2
  · rw [e]; exact fun m hm => pHart_projects true m hm
/-- Two tiles of one record each: rows 0 to 0 before rows 1 to 1; a record at byte 64. -/
def rHart : State :=
  let row (lo hi : Nat) : VReg := BitVec.ofNat 16384 (lo * 2 ^ 128 + hi * 2 ^ 152 + 2 ^ 176)
  let s := withX uHart [(9, win + 64), (10, win + 4)]
  ({ s with hart := { s.hart with vc := { s.hart.vc with mr := 1 },
                                  m := #v[Vector.replicate 16 (row 0 0), Vector.replicate 16 (row 1 1), Vector.replicate 16 (row 5 5),
                                          Vector.replicate 16 (BitVec.ofNat 16384 (255 * 2 ^ 176))] } }).pokeN 0x8000000040
    (leBytes 40 (2 ^ 176))
theorem wit_RecordsMergeAndMove :
    let x (md : BitVec 2) := XRec.ofRow (rHart.hart.getM md 0).toNat
    rHart.vIdle ∧ rHart.hart.vc.mr.toNat ≤ 16 ∧ 1 ≤ rHart.hart.vc.mr.toNat ∧
    ((x 0).k ≤ rHart.hart.kMax ∧ (x 0).hi + 1 = (x 1).lo ∧ (x 0).k = (x 1).k ∧ (x 0).label = (x 1).label) ∧
    (x 1).hi + 1 ≠ (x 2).lo ∧ rHart.hart.kMax < (x 3).k ∧ (rHart.getX 10 + BitVec.signExtend 64 (0 : BitVec 21)).toNat % 8 ≠ 0 ∧
    (rHart.getX 9 + BitVec.signExtend 64 (0 : BitVec 21)).toNat % 8 = 0 ∧ rHart.memOk ∧ rHart.tlbFresh ∧
    rHart.reaches .write (win + 64) 40 (run 0x8000000040 40) ∧ rHart.reaches .read (win + 64) 32 (run 0x8000000040 32) ∧
    bitsOf (leNat (rHart.closeStrip.seesElts 0 8 (run 0x8000000040 32))) 183 176 = 1 ∧ rHart.reaches .read (win + 64) 40 (run 0x8000000040 40) ∧
    (let r := getE 320 (leNat (rHart.closeStrip.seesElts 0 8 (run 0x8000000040 40))) 0
     bitsOf r 255 189 = 0 ∧ bitsOf r 151 128 ≤ bitsOf r 175 152 ∧ bitsOf r 183 176 = 1) := by
  refine ⟨⟨rfl, rfl, rfl, rfl, rfl, rfl⟩, by decide, by decide, by decide +kernel, by decide +kernel, by decide +kernel, by decide, by decide, ?_,
    (fresh_empty rfl rfl), ⟨rfl, rfl⟩, ⟨rfl, rfl⟩, by decide +kernel, ⟨rfl, rfl⟩, by decide +kernel⟩
  unfold State.memOk; decide +kernel
/-- Scales by a stride of 4 bytes, and a table at an aligned and a misaligned address, on a V and a T hart. -/
theorem wit_ScalesAndTable :
    let t := withX onT [(6, win), (7, 4), (8, 1)]
    uHart.hart.nres = 0 ∧ uHart.tlbFresh ∧ uHart.memOk ∧ uHart.vIdle ∧ t.hart.cls = .t ∧
    (∀ j, j < 256 → uHart.reaches .read (uHart.getX 6 + BitVec.ofNat 64 j * uHart.getX 7) 1 [0x8000000000 + 4 * j]) ∧
    (∀ j, j < 256 → t.reaches .write (t.getX 6 + BitVec.ofNat 64 j * t.getX 7) 1 [0x8100000000 + 4 * j]) ∧
    ((uHart.getX 6).toNat % 4 = 0 ∧ uHart.reaches .read (uHart.getX 6) 1024 (run 0x8000000000 1024)) ∧
    ((t.getX 6).toNat % 4 = 0 ∧ t.reaches .write (t.getX 6) 1024 (run 0x8100000000 1024)) ∧ (t.getX 8).toNat % 4 ≠ 0 := by
  refine ⟨rfl, (fresh_empty rfl rfl), rfl, uHart_idle, rfl, ?_, ?_, ⟨by decide, by decide +kernel, by decide +kernel⟩,
    ⟨by decide, by decide +kernel, by decide +kernel⟩, by decide⟩
  · unfold State.reaches; decide +kernel
  · unfold State.reaches; decide +kernel

/-- A hart with a copy descriptor of one 64-byte chunk at byte 64 of its scratchpad, and copies of three tags: in progress, in
error, and of the chunks of a mask. -/
def dDesc : Nat := 0xFE000000001000 + 0xFE000000002000 * 2 ^ 64 + 64 * 2 ^ 128 + 1 * 2 ^ 160 + 64 * 2 ^ 192 + 64 * 2 ^ 224 + 6 * 2 ^ 256
def dCopy : Copy := { copyOf dDesc 0 none true with tag := 1 }
def dHart : State :=
  let s := withX uHart [(9, win + 64), (10, win + 8), (11, 1), (12, 2), (13, 3), (14, 4)]
  ({ s with hart := { s.hart with
    copies := [dCopy, { dCopy with tag := 2, err := some (.page, 8) }, { dCopy with tag := 3, k := 3 }] } }).pokeN 0x8000000040 (leBytes 64 dDesc)
theorem wit_CopyInstructions :
    let h := dHart.hart
    let b := leNat (dHart.seesElts 0 1 (run 0x8000000040 64))
    dHart.vIdle ∧ h.copies.length < 16 ∧ (dHart.getX 9).toNat % 64 = 0 ∧ dHart.reaches .read (dHart.getX 9) 64 (run 0x8000000040 64) ∧
    copyLegal dHart b (copyOf b 0 none (h.lv == .a)) = true ∧ copyLegal dHart b (copyOf b 3 (some .p) (h.lv == .a)) = true ∧
    onT.hart.cls = .t ∧ (h.copies.find? (fun d => d.tag.setWidth 64 == dHart.getX 14)) = none ∧
    (∃ d, h.copies.find? (fun d => d.tag.setWidth 64 == dHart.getX 11) = some d ∧ d.err = none ∧ d.k = 0) ∧
    (∃ d, h.copies.find? (fun d => d.tag.setWidth 64 == dHart.getX 12) = some d ∧ d.err = some (.page, 8)) ∧
    (∃ d, h.copies.find? (fun d => d.tag.setWidth 64 == dHart.getX 13) = some d ∧ d.err = none ∧ d.k ≠ 0) := by
  refine ⟨⟨rfl, rfl, rfl, rfl, rfl, rfl⟩, by decide, by decide, ⟨rfl, rfl⟩, by decide +kernel, by decide +kernel, rfl, by decide +kernel,
    ⟨_, rfl, rfl, rfl⟩, ⟨_, rfl, rfl⟩, ⟨_, rfl, rfl, by decide⟩⟩
/-- A stream of one rank: a sum of one chunk of four UINT32 elements, its record at byte 64 and its group table at byte 256. -/
def collRecord : Nat := 0xFE000000000100 + 2 ^ 128 + 18 * 2 ^ 174 + 4 * 2 ^ 192 + 1 * 2 ^ 224
def collBinding : Binding := (bindingOf 4096 8 (win + 64) true collRecord).getD
  ⟨0, 0, 0, 0, 0, false, .fp32, .rne, 0, 0, 0, 0, 0, [], [], 0, 0, [], 0, none, 0, 0, 0, [], false, false, none⟩
def collHart : State := (withX uHart [(9, win + 64)]).pokeN 0x8000000040 (leBytes 64 collRecord)
theorem wit_CollectiveStreams :
    let b := leNat (collHart.seesElts 0 1 (run 0x8000000040 64))
    collHart.vEmpty ∧ (collHart.getX 9).toNat % 64 = 0 ∧ collHart.tlbFresh ∧ collHart.memOk ∧
    collHart.reaches .read (collHart.getX 9) 64 (run 0x8000000040 64) ∧ bitsOf b 55 0 % 8 = 0 ∧
    collHart.hart.bindings.find? (fun b => b.vd == 8) = none ∧
    bindingOf collHart.hart.vlen 8 (collHart.getX 9) (collHart.hart.lv == .a) b = some collBinding ∧
    bindingOf collHart.hart.vlen 8 (collHart.getX 9) true 0 = none ∧
    collHart.reaches .read (win + 256) (8 * collBinding.nranks) (run 0x8000000100 8) ∧
    collHart.reaches .write (collHart.getX 9 + 32) 10 (run 0x8000000060 10) ∧
    ([collBinding].find? (fun b => b.vd == 8) = some collBinding ∧ collBinding.recFault = none ∧ collBinding.recDirty = false ∧
      collBinding.mergeBad = [] ∧ collBinding.reduced.length < collBinding.count ∧ collBinding.err = 0 ∧ collBinding.dest = 0) ∧
    (∀ o, o ∈ collHart.others → o.id ≠ collHart.hart.id) ∧ (∃ c : Binding, c.err = 1) ∧
    (∃ c : Binding, c.count ≤ c.reduced.length ∧ c.destFault = none ∧ c.dest = 0) ∧ ∃ c : Binding, c.mergeBad = (0, 8) :: [] := by
  refine ⟨⟨rfl, rfl, rfl, rfl, rfl⟩, by decide, (fresh_empty rfl rfl), ?_, ⟨rfl, rfl⟩, by decide +kernel, rfl, by decide +kernel,
    by decide +kernel, ⟨by decide +kernel, by decide +kernel⟩, ⟨rfl, rfl⟩, by decide +kernel, (fun _ h => nomatch h),
    ⟨{ collBinding with err := 1 }, rfl⟩, ⟨{ collBinding with reduced := [0], count := 1, dest := 0, destFault := none }, by decide, rfl, rfl⟩,
    ⟨{ collBinding with mergeBad := [(0, 8)] }, rfl⟩⟩
  unfold State.memOk; decide +kernel
/-- A hart with connection 10 open to region 3, and one operation outstanding there. -/
def nOp (k : PacketKind) : RemoteOp := ⟨10, 0, k, 3, 64, win + 64, [], [], 5, [], [0], [0]⟩
def nHart (l : List RemoteOp) : State :=
  let s := withX uHart [(10, 10), (11, 100), (12, 64), (13, win), (14, 2 ^ 30 + 1), (15, 11)]
  let s : State := { s with adapter := { s.adapter with ctab := 0x100000, cnum := 16 }, hart := { s.hart with remote := l } }
  s.pokeN (0x100000 + 640) (leBytes 64 (3 * 2 ^ 32 + 2 ^ 88))
theorem wit_RemoteMemory :
    let s := nHart []
    let conn (c : Nat) := leNat (memReadN s.mem (s.adapter.ctab.toNat + 64 * c) 64)
    s.hart.cls ≠ .t ∧
    (10 < 2 ^ 24 ∧ 10 < s.adapter.cnum.toNat ∧ bitsOf (conn 10) 79 64 = (s.asidOf s.hart).toNat ∧ bitsOf (conn 10) 89 88 = 1) ∧
    bitsOf (conn 11) 89 88 ≠ 1 ∧ ¬ 16 < s.adapter.cnum.toNat ∧ 2 ^ 30 < (s.getX 14).toNat ∧ (s.getX 0).toNat = 0 ∧
    (0 < (s.getX 11).toNat ∧ (s.getX 11).toNat ≤ 2 ^ 30 ∧
      (∃ pas s1, runM (rangeAddrs .read (100 / 16384 + 2) (s.getX 13) 100) s = (.ok pas, s1)) ∧
      ∃ pas s1, runM (rangeAddrs .write (100 / 16384 + 2) (s.getX 13) 100) s = (.ok pas, s1)) ∧
    ((s.getX 12).toNat % asizeBytes .d = 0 ∧ (s.getX 11).toNat % asizeBytes .d ≠ 0) ∧
    (∃ p, p ∈ ((nHart [nOp (.getReq 64)]).hart.remote.filter fun p => p.conn == 10) ∧ p.kind ≠ .put) ∧
    (∃ r, r ∈ ({ s.hart with reports := [(10, 5)] } : Hart).reports ∧ r.1 = 10) :=
  ⟨by decide, by decide +kernel, by decide +kernel, by decide, by decide, rfl,
   ⟨by decide, by decide, okM_spec (by decide +kernel), okM_spec (by decide +kernel)⟩, by decide, ⟨nOp (.getReq 64), by decide, by decide⟩,
   ⟨(10, 5), by decide, rfl⟩⟩

/-- Bring-up phase by phase, and what ends it; the outcome of each check of a firmware object is an opaque constant of Config, and
the clauses cover both. -/
theorem wit_BringUpAndResets :
    ({ State.reset with phase := .off } : State).phase = .off ∧ ({ State.reset with phase := .step 5 } : State).phase = .step 5 ∧
    ({ State.reset with phase := .step 6 } : State).phase = .step 6 ∧ State.reset.memOk ∧ State.reset.phase = .running ∧
    (∃ q, Phase.railFault .c = .railFault q) ∧ (State.reset.phase ≠ .off ∧ ∀ q, State.reset.phase ≠ .railFault q) :=
  ⟨rfl, rfl, rfl, rfl, rfl, ⟨.c, rfl⟩, by decide, fun q h => by cases h⟩
/-- Sensor 781 rises to 105 degrees; limits at both ends; port 15 moves; string 767 is measured; a hart is blind. -/
def calm (mv : Nat) : Window := ⟨[[0], [0], [0], [0]], [], mv == 299⟩
def four (n : Nat) : List Nat := [n, n, n, n]
theorem wit_HeatBudgetsAndStrings :
    State.reset.up = true ∧ 781 < 782 ∧ ((State.reset.thermal.lookup 781).getD 0 < 1050 ∧ 1050 ≤ 1050) ∧
    (∃ p, p ∈ [(0, 1100)] ∧ 1100 ≤ p.2) ∧ (1200 ≤ 1200 ∧ 4800 ≤ 4800) ∧
    (∃ s : State, (s.bellows.ports[15]).point ≠ (s.bellows.ports[15]).target) ∧ 3103 < 3104 ∧
    (767 < 768 ∧ (State.reset.str 767).tripped = false) ∧ State.reset.memOk ∧
    (spendable .reset 3103 [] = true ∧ measurable .reset 767 (four 350) (four 0) (calm 350) = true ∧ (four 350).all inProtection = true ∧
      measurable .reset 767 (four 299) (four 0) (calm 299) = true ∧ (four 299).all inProtection = false ∧ State.reset.bad = []) ∧
    (∃ (s : State) (h : Hart), s.hartOf ⟨0, 0⟩ = some h ∧ h.blind ≠ 0) := by
  refine ⟨rfl, by decide, by decide, ⟨(0, 1100), by decide, by decide⟩, by decide,
    ⟨{ State.reset with bellows := { Bellows.reset with ports := Vector.replicate 16 ⟨0, 1, 0⟩ } }, by decide⟩, by decide, by decide, rfl,
    by decide +kernel,
    { State.reset with hart := { State.reset.hart with blind := 5 } }, _, rfl, by decide⟩
/-- Queue 9 with one record of a C gang of one hart in its ring, and the queue as its flaws make it. -/
def ringDesc : Nat := 0x10000 + 2 ^ 156 + 2 ^ 158 + 1 * 2 ^ 224
def ringRecord (cls harts : Nat) : Nat := 0x20000 + cls * 2 ^ 128 + 7 * 2 ^ 130 + harts * 2 ^ 144
def ringOf (desc cls harts : Nat) : State :=
  ((paged .reset).pokeN (Config.scb + 64 * 9) (leBytes 64 desc)).pokeN 0x50000 (leBytes 64 (ringRecord cls harts))
def ring : State := ringOf ringDesc 0 1
def headOf9 (ready pinned : Bool) (harts : Nat) : Head := ⟨9, 0, BitVec.ofNat 512 (ringRecord 0 harts), ready, 0, 0, pinned⟩
def withHead (s : State) (h : Head) : State := { s with sched := { s.sched with heads := [h] } }
theorem wit_QueueEvents :
    let d := ring.desc 9
    ring.up = true ∧ 9 < 1024 ∧ ring.memOk ∧ descEn d = true ∧ descStat d < 2 ∧ descMalformed d = false ∧ descUsed d ≤ descSlots d ∧
    canCheck ring 9 = true ∧ schedRead ring (descAsid d) (slotVa d (descHead d)) 64 = some (ringRecord 0 1) ∧
    recordErr ring (descAsid d) (ringRecord 0 1) = 0 ∧ recordErr ring (descAsid d) (ringRecord 3 1) ≠ 0 ∧
    descMalformed ((ringOf (ringDesc + 1) 0 1).desc 9) = true ∧
    (let o := (ringOf (ringDesc + 16 * 2 ^ 224) 0 1).desc 9
     descMalformed o = false ∧ descSlots o < descUsed o) ∧
    (let u := (ringOf (ringDesc + 0x10000) 0 1)
     schedRead u (descAsid (u.desc 9)) (slotVa (u.desc 9) 0) 64 = none) ∧
    descEn (State.reset.desc 9) = false ∧ bitsOf d 383 320 = 0 ∧ ring.bad = [] ∧
    xlatN ring (devCtx (descAsid d)) .write (slotVa d (descHead d) + 28) 2 = .ok [0x5001C, 0x5001C + 1] ∧
    (0x5001C + 1 < Config.scb ∧ paClass 0x5001C ≠ some .device) ∧
    (let w := withHead ring (headOf9 false false 1)
     w.sched.head 9 = some (headOf9 false false 1) ∧ headReady w (headOf9 false false 1) = some true) ∧
    (let w := withHead ring (headOf9 true false 1)
     w.sched.head 9 = some (headOf9 true false 1) ∧ (headOf9 true false 1).ready = true ∧ (headOf9 true false 1).pinned = false) ∧
    ({ headOf9 true false 1 with record := 0 } : Head).eff < 7 := by
  refine ⟨rfl, by decide, ?_, ?_⟩
  · unfold State.memOk; decide +kernel
  · decide +kernel
/-- A C gang of queue 9 with ten slots, whose harts wait, yield, have ended, or are saved. -/
def gangOf (run : GangRun) (n : Nat) : Gang :=
  { Gang.firmware with id := 5, queue := 9, run := run, harts := 1, cslots := (List.range n).map (fun k => (1 + k / 4, k % 4)) }
def gangHart (f : Hart → Hart) : Hart := f { Hart.reset with id := ⟨5, 0⟩, core := 1 }
def gangState (run : GangRun) (f : Hart → Hart) : State :=
  { ring with gangs := [Gang.firmware, gangOf run 10], others := [gangHart f] }
/-- A state whose harts of gang 5 have left their strings' windows. -/
def leftOf (s : State) : State :=
  let f (h : Hart) : Hart := if h.id.gang = 5 then h.leaveWindow s else h
  { s with hart := f s.hart, others := s.others.map f }
/-- The gang that can be saved. -/
def saving : State := gangState (.preempting false) fun h => { h with yielded := true, ctxb := BitVec.ofNat 50 (0x10000 / 64) }
theorem wit_GangEvents :
    (∃ h s1 p, schedNext (withHead ring (headOf9 true false 1)) = some (h, s1) ∧ place s1 h.record.toNat = some p ∧
      planErr s1 (descAsid (s1.desc h.queue)) h.record.toNat = 0) ∧
    victims (withHead (gangState .resident id) (headOf9 true true 60)) ≠ [] ∧
    (gangState .resident id).gang 5 = some (gangOf .resident 10) ∧
    canDeschedule (gangState .resident fun h => { h.setX 6 0x10000 with waitOn := some (.waitsig 6 7 .eq) }) (gangOf .resident 10) = true ∧
    (let g := { gangOf (.saved true) 10 with watch := [(0x50000, 1)] }
     g.run = .saved true ∧ wakes (gangState (.saved true) id) g = true) ∧
    (let s := saving
     let g := gangOf (.preempting false) 10
     canSave s g = true ∧ ∃ w, saveHarts g ((leftOf s).sorted.filter fun h => h.id.gang == 5) (leftOf s) = .ok w) ∧
    (resumeTurn (gangState (.saved false) id) (gangOf (.saved false) 10) = true ∧
      (resumePlace (gangState (.saved false) id) (gangOf (.saved false) 10)).isSome = true) ∧
    (let s := gangState .resident fun h => { h with ended := true }
     canRetire s (gangOf .resident 10) = true ∧ (∃ h, h ∈ s.harts ∧ h.id.gang ≠ 5) ∧ (gangOf .resident 10).sig0 = 0 ∧
     xlatN s (devCtx (descAsid (s.desc 9))) .write (slotVa (s.desc 9) 0 + 28) 1 = .ok [0x5001C] ∧
     physCheck s .write (slotVa (s.desc 9) 0 + 28) [0x5001C] false = .ok ()) ∧
    ((mover .c).hart.mixReady = true ∧
      4 ≤ 3 + 1 ∧ ({ (mover .c).hart with mixMoves := 2 ^ 14 } : Hart).mixCalls = true ∧ (mover .c).canArrive .v = true) ∧
    (∃ (s : State) (h : Hart), s.hartOf ⟨0, 0⟩ = some h ∧ h.flying = some .v ∧ h.goal = some (1, 0, 1) ∧
      s.memOk ∧ ∀ o, o ∈ s.harts → o.id = ⟨0, 0⟩ → o.peelErr = false) := by
  refine ⟨?_, by decide +kernel, by decide +kernel, by decide +kernel, by decide +kernel, ⟨by decide +kernel, ?_⟩, by decide +kernel,
    ⟨by decide +kernel, ⟨State.reset.hart, List.mem_cons_self, by decide⟩, rfl, by decide +kernel, by decide +kernel⟩, by decide +kernel,
    { State.reset with hart := { State.reset.hart with flying := some .v, goal := some (1, 0, 1) } }, _, rfl, rfl, rfl, rfl, by decide⟩
  · have h : (match schedNext (withHead ring (headOf9 true false 1)) with
        | some (h, s1) => (place s1 h.record.toNat).isSome && decide (planErr s1 (descAsid (s1.desc h.queue)) h.record.toNat = 0)
        | none => false) = true := by decide +kernel
    split at h
    · next h1 s1 e =>
      rw [Bool.and_eq_true, decide_eq_true_eq, Option.isSome_iff_exists] at h
      exact ⟨h1, s1, h.1.choose, e, h.1.choose_spec, h.2⟩
    · cases h
  · have h : (match saveHarts (gangOf (.preempting false) 10) ((leftOf saving).sorted.filter fun h => h.id.gang == 5) (leftOf saving) with
      | .ok _ => true
      | .error _ => false) = true := by decide +kernel
    split at h
    · next w e => exact ⟨w, e⟩
    · cases h

/-- A T gang of one hart in each of its steps; a semaphore one hart waits on; a TMMA in flight. -/
def semHart : State :=
  { State.reset with
    hart := { Hart.reset with id := ⟨1, 0⟩, lv := .m, waitOn := some (.semts 4), waitmax := 7 }
    gangs := [{ Gang.firmware with id := 1, crf := true }]
    files := [(64, { ClusterFile.fresh 1 with sem := 16, waiters := [(4, ⟨1, 0⟩)] })] }
theorem wit_WaitEvents :
    (∃ (s : State) (c : Cause) (v : Word), s.asyncNow = some (c, v)) ∧
    (State.reset.up = true ∧ State.reset.time.ult State.reset.hart.timecmp = true) ∧
    (∃ (h : Hart) (f : TmmaFly), h.tmma = some f) ∧
    (semHart.hart.waitmax ≠ 0 ∧ semHart.hart.live' = true ∧ semHart.hart.namoPend = [] ∧ scalarTimeout semHart = some (.waittimeout, 4) ∧
      vectorTimeout semHart.hart = none) ∧
    (let q : Hart := ({ dHart.hart with waitmax := 7, vq := [{ entryAt dHart.hart (.cpywt 11) 0 with opnd := 1 }] } : Hart)
     q.live' = true ∧ vectorTimeout q = some 1) ∧
    (let s : State := { tHart with hart := { tHart.hart with waitOn := some (.waitsig 6 0 .eq) } }
     s.hart.live' = true ∧ (s.getX 6).toNat % 4 = 0 ∧ s.reaches .read (s.getX 6) 4 (tPas 4) ∧
     condHolds32 .eq (BitVec.ofNat 32 (leNat (s.scalarSees (tPas 4)))) ((s.getX 0).setWidth 32) = true) ∧
    (uHart.vIdle ∧ uHart.hart.live' = true ∧ loadForm (.vld 2 6 0 true ⟨3, false⟩) = some (2, true, ⟨3, false⟩) ∧
      uHart.hart.expectedBelow 3 = 0 ∧
      uHart.nibblesOk (.vld 2 6 0 true ⟨3, false⟩) ∧ uHart.tlbFresh ∧
      ∀ j, j < 4 → uHart.eltOk (.vld 2 6 0 true ⟨3, false⟩) .read j (run (0x8000000000 + 4 * j) 4)) ∧
    (let due : State := { xHart with hart := { xHart.hart with waitOn := some .tsync, stepDone := true, incoming := 16 } }
     due.up = true ∧ due.gang 1 = some xGang ∧ xGang.cls = .t ∧ exchangeDue due xGang = true ∧ planCounts due xGang = .ok [16]) ∧
    (semHart.up = true ∧ deadlocked semHart 64 = true ∧ sharers semHart 64 = [semHart.hart] ∧ semHart.hart.cls = .c ∧ semHart.memOk) := by
  refine ⟨⟨{ State.reset with hart := { State.reset.hart with ie := true, mcheck := [5] } }, .mcheck, 5, by decide⟩, ⟨rfl, by decide⟩,
    ⟨{ Hart.reset with tmma := some ⟨0, [3], 0, 0⟩ }, _, rfl⟩, ⟨by decide, rfl, rfl, rfl, rfl⟩, ⟨rfl, by decide⟩,
    ⟨rfl, by decide, ⟨rfl, rfl⟩, by decide⟩, ⟨uHart_idle, rfl, rfl, by decide +kernel, Or.inl (by decide), fresh_empty rfl rfl, ?_⟩,
    ⟨rfl, rfl, rfl, by decide +kernel, by decide +kernel⟩, ⟨rfl, by decide, rfl, rfl, rfl⟩⟩
  intro j hj
  interval_cases j <;> exact ⟨Or.inr (by decide), rfl, rfl⟩
/-- A copy in progress, one whose source cannot be read, and a stream of one rank with its contribution held. -/
def sumHart : State :=
  { collHart with hart := { collHart.hart with bindings := [collBinding] }
                  contributions := [⟨collBinding.cid, 0, 0, BitVec.ofNat 16384 (packE 32 [1, 2, 3, 4])⟩] }
/-- A stream whose rank 1 is a hart of the gang with that rank in another stream. -/
def twoHart : State :=
  { sumHart with
    hart := { sumHart.hart with bindings := [{ collBinding with sent := 1, nranks := 2, group := [0, 2 ^ 19] }] }
    others := [{ Hart.reset with id := ⟨1, 1⟩, bindings := [{ collBinding with cid := 5, rank := 1, sent := 1, nranks := 2 }] }] }
theorem wit_EngineEvents :
    let c := dCopy
    let hi := min ((c.next + 1) * 2 ^ c.chlog) c.total
    let bad : State := { dHart with bad := [0x8000001000] }
    (dHart.running[0]? = some (dHart.hart, c) ∧ dHart.memOk ∧
      okM (gatherRuns (dHart.engineCtx dHart.hart c.user) c (c.runs (hi - 0) 0 hi)) dHart = true) ∧
    okM (gatherRuns (bad.engineCtx bad.hart c.user) c (c.runs (hi - 0) 0 hi)) bad = false ∧
    getBinding sumHart ⟨1, 0⟩ 8 = some (sumHart.hart, collBinding) ∧ collBinding.err ≠ 1 ∧
    (collBinding.reduced.length < collBinding.count ∧ collBinding.nranks = 1 ∧ etIsInt collBinding.ty = true ∧ collBinding.op = 0 ∧
      collBinding.exact = false ∧ collBinding.chunk * etSew collBinding.ty ≤ 16384 ∧ 3 < collBinding.chunk) ∧
    (sumHart.stream collBinding.cid).filter (fun p => p.2.reduced.length == collBinding.reduced.length) = [(sumHart.hart, collBinding)] ∧
    (chunkValues sumHart collBinding 0 [] 1).isSome = true ∧
    (∃ h b, getBinding twoHart ⟨1, 0⟩ 8 = some (h, b) ∧ b.err = 0 ∧ b.reduced.length < b.count ∧ strangers twoHart h b ≠ []) ∧
    (∃ d : Copy, d.moved = true ∧ d.k ≠ 0 ∧ dHart.hart.id = ⟨dHart.hart.id.gang, d.cons⟩ ∧ dHart.hart.masksHere = true ∧
      d.first + d.next < 4096) := by
  refine ⟨⟨rfl, ?_, by decide +kernel⟩, by decide +kernel, rfl, by decide +kernel, by decide +kernel, rfl, by decide +kernel,
    ⟨_, _, rfl, by decide +kernel⟩, ⟨{ dCopy with moved := true, k := 3 }, by decide +kernel⟩⟩
  unfold State.memOk; decide +kernel
/-- Region 3 at 0x10000 in ASID 0, granting puts, with room; a put of four bytes on connection 10; what its operation awaits. -/
def rHartA : State :=
  let s := paged .reset
  let s : State := { s with
    adapter := { s.adapter with rtab := 0x200000 + 0x100000, rnum := 8, ctab := 0x100000, cnum := 16 }
    portsOn := [0, 16]
    poolUp := true }
  s.pokeN (0x300000 + 192) (leBytes 64 (0x10000 + 0x100 * 2 ^ 64 + 2 ^ 121 + 2 ^ 124))
def putPacket (off : Nat) : Packet := ⟨10, 0, .put, 3, off, 4, 0, [1, 2, 3, 4]⟩
theorem wit_AdapterEvents :
    let s := rHartA
    let p := putPacket 8
    s.memOk ∧ s.up = true ∧ s.etherUp = true ∧ (p.kind = .put ∧ p.msg = numOf s.adapter.heads p.conn ∧ s.adapter.incoming = [] ∧ s.adapter.stalled = [] ∧ p.pktOff = 0 ∧
      p.bytes.length = p.msgLen ∧ 0 < p.msgLen ∧ p.msgLen ≤ 4096) ∧
    regionReason s (putPacket 0x200) = some 3 ∧ regionReason s p = none ∧
    xlatN s (devCtx 0) .write 0x10008 4 = .ok (run 0x50008 4) ∧ physCheck s .write 0x10008 (run 0x50008 4) false = .ok () ∧
    (let o : RemoteOp := ⟨10, 0, .getReq 4, 3, 0, win, run 0x50000 4, [], 0, [], [], []⟩
     let t : State := { s with hart := { s.hart with remote := [o] } }
     t.onConn 10 = [o] ∧ o ∈ t.hart.remote ∧ o.begun = true ∧ t.sentOn 10 ≠ [] ∧ o.kind = .getReq o.pas.length ∧ t.adapter.resp = [] ∧
       t.adapter.orphans = [] ∧ (∀ x, x ∈ o.pas → permitted t x = false) ∧ t.bad = [] ∧ t.poolUp = true) ∧
    (let o : RemoteOp := ⟨10, 0, .amo .add .d 1, 3, 0, 0, [], [], 5, [], [], []⟩
     let t : State := { s with hart := { s.hart with remote := [o], namoPend := [5] } }
     t.onConn 10 = [o] ∧ o ∈ t.hart.remote ∧ o.begun = true) ∧
    (∃ r : State, r.adapter.stalled.lookup 10 = some (putPacket 8) ∧
      (leNat (memReadN r.mem (r.adapter.rtab.toNat + 64 * 3) 64)).testBit 123 = true ∧
      ∃ i, r.msg 10 (numOf r.adapter.heads 10) = some i ∧ i.accepted = true ∧ i.held = []) ∧
    ((0x100000 + 64 * 10 + 8) + 8 ≤ Config.scb ∧ ∀ x, x ∈ run (0x100000 + 64 * 10 + 8) 8 → permitted s x = false) ∧
    s.adapter.stalled.lookup 10 = none ∧ [(10, putPacket 8)].lookup 10 ≠ none ∧ 10 < s.adapter.cnum.toNat ∧
    (let r := s.pokeN (0x300000 + 192) (leBytes 64 (0x10000 + 2 * 2 ^ 124))
     bitsOf (leNat (memReadN r.mem (r.adapter.rtab.toNat + 64 * 3) 64)) 125 124 = 2 ∧ 3 ∉ r.adapter.revoking) ∧
    (∃ a : Adapter, 3 ∈ a.revoking ∧ ∀ i, i ∈ a.incoming → i.accepted = true → i.head.region ≠ 3) := by
  refine ⟨?_, rfl, by decide +kernel, by decide, by decide +kernel, by decide +kernel, by decide +kernel, by decide +kernel, by decide +kernel,
    by decide +kernel, ⟨{ rHartA.pokeN (0x300000 + 192) (leBytes 64 (0x10000 + 2 ^ 123)) with
      adapter := { rHartA.adapter with stalled := [(10, putPacket 8)], incoming := [⟨10, 0, putPacket 8, [], [], true, []⟩] } },
      by decide +kernel, by decide +kernel, ⟨10, 0, putPacket 8, [], [], true, []⟩, by decide +kernel⟩, by decide +kernel, rfl,
    by decide, by decide, by decide +kernel, ⟨{ State.reset.adapter with revoking := [3] }, by decide, fun _ h => nomatch h⟩⟩
  unfold State.memOk; decide +kernel
/-- Invalidation block 63 with a request of each kind. -/
theorem wit_InvalidationEvents :
    let ask (v : Nat) : State := State.reset.pokeN (invPa 63) (leBytes 64 v)
    let b (v : Nat) := leNat (memReadN (ask v).mem (invPa 63) 64)
    (ask (1 + 2 ^ 160)).memOk ∧ State.reset.up = true ∧ State.reset.bad = [] ∧
    (63 < 64 ∧ (b (1 + 2 ^ 160)).testBit 0 = true ∧ 63 ∉ (ask 1).invRunning) ∧
    (invMalformed (b (1 + 2 ^ 160)) = false ∧ bitsOf (b (1 + 2 ^ 160)) 129 128 = 0) ∧
    (invMalformed (b (1 + 2 ^ 128)) = false ∧ bitsOf (b (1 + 2 ^ 128)) 129 128 = 1) ∧
    (invMalformed (b (1 + 2 ^ 129)) = false ∧ bitsOf (b (1 + 2 ^ 129)) 129 128 = 2) ∧ invMalformed (b (5 + 2 ^ 160)) = true ∧
    (∃ s : State, 63 ∈ s.invRunning) ∧ (getInRange State.reset (b (1 + 2 ^ 129)) = false ∧ bitsOf (b (1 + 2 ^ 129)) 307 256 = 0) := by
  refine ⟨?_, rfl, rfl, ⟨by decide, by decide +kernel, by decide⟩, by decide +kernel, by decide +kernel, by decide +kernel, by decide +kernel,
    ⟨{ State.reset with invRunning := [63] }, by decide⟩, by decide +kernel⟩
  unfold State.memOk; decide +kernel
/-- A request block of each operation, well formed and not; slots of pages. The outcome of a signature is an opaque constant of
Config, and the clauses cover both. -/
theorem wit_CodeRequests :
    let req (v : Nat) : Rebeica := { State.reset.rebeica with block := BitVec.ofNat 512 v }
    State.reset.memOk ∧ State.reset.up = true ∧
    ((req 1).block.toNat.testBit 0 = true ∧ (req 1).pending = none ∧ bitsOf (req 1).block.toNat 280 279 = 0) ∧
    bitsOf (req (1 + 2 ^ 279)).block.toNat 280 279 = 1 ∧ bitsOf (req (1 + 2 ^ 280)).block.toNat 280 279 = 2 ∧
    (reqMalformed (req 1).block.toNat = false ∧ reqMalformed (req 5).block.toNat = true) ∧
    (∃ o : ObjHead, o.ok 0 (0x20000 + 512) = true ∧ framesFree .reset (o.frames 0) = true ∧ o.ok 1 (0x20000 + 512) = false) ∧
    (∃ o : ObjHead, o.ok 1 (0x20000 + 512) = true) ∧ allSlots .reset 0 (pages 0x10000 1) = none ∧
    (allSlots (paged .reset) 0 (pages 0x10000 1) = some [0x402008] ∧ (paged .reset).takes (run 0x402008 8) = true ∧
      (permit (paged .reset) [5]).takes (run 0x402008 8) = true) ∧ (∃ r : Rebeica, r.pending = some 5) := by
  refine ⟨rfl, rfl, by decide +kernel, by decide +kernel, by decide +kernel, by decide +kernel,
    ⟨⟨0x4F435353 + 2 ^ 32 + 0x10000 * 2 ^ 128 + 0x10000 * 2 ^ 192⟩, by decide +kernel⟩,
    ⟨⟨0x4F435353 + 2 ^ 32 + 2 ^ 48 + 0x10000 * 2 ^ 128 + 0x10000 * 2 ^ 192⟩, by decide +kernel⟩, by decide +kernel, by decide +kernel,
    ⟨{ State.reset.rebeica with pending := some 5 }, rfl⟩⟩
/-- Lines of the Host range not held and held; HDM bytes in HBM, good, uncorrectable and permitted. -/
theorem wit_HostPortEvents :
    State.reset.up = true ∧ (0x1000000000000 ≤ 64 * 0x40000000000 ∧ 64 * 0x40000000000 < 0x2000000000000) ∧
    State.reset.hostLines.lookup 0x40000000000 = none ∧ [(0x40000000000, Mesi.m)].lookup 0x40000000000 = some .m ∧
    (0 < 64 ∧ 0x7FFFFFFFC0 + 64 ≤ ({ State.reset with hdm := 0x8000000000 } : State).hdm ∧ 0x7FFFFFFFC0 + 64 ≤ 0x8000000000) ∧ firstBad State.reset.bad (run 0x7FFFFFFFC0 64) 0 = none ∧
    firstBad [0x7FFFFFFFE0] (run 0x7FFFFFFFC0 64) 0 ≠ none ∧ (∃ a, a ∈ run 0 1 ∧ frameOf a ∈ [0]) ∧
    (∀ a, a ∈ run 0 1 → frameOf a ∉ State.reset.rebeica.permits) ∧ firstPartial State.reset.bad (run 0 1) (run 0 1) 0 = none ∧
    State.reset.memOk ∧ 5 ∈ [5] ∧ State.reset.poolUp = false ∧ 16 ∈ ({ State.reset with portsOn := [16] } : State).portsOn :=
  ⟨rfl, by decide, rfl, rfl, by decide, rfl, by decide, ⟨0, by decide, by decide⟩, by decide, rfl, rfl, by decide, rfl, by decide⟩
/-- An outstanding nonce, a grant over every tenant, a hart that runs and one that has halted, and its memory. -/
theorem wit_DebugEvents :
    (∃ r : Rebeica, r.nonce = some 7) ∧
    (let s : State := { tHart with rebeica := { tHart.rebeica with grants := [⟨none, false⟩] } }
     let ctx : Ctx := { devCtx (s.asidOf s.hart) with gang := s.hart.id.gang, noWindow := s.hart.cls == .c }
     s.up = true ∧ (∃ g, g ∈ s.rebeica.grants ∧ g.tenant = none) ∧ (∀ o, o ∈ s.others → o.id ≠ s.hart.id) ∧
     (s.hart.resident = true ∧ s.hart.dead = false ∧ s.hart.ended = false ∧ s.hart.halted = false ∧ s.hart.convoyLeft = 0) ∧
     xlatN s ctx .read win 8 = .ok (run 0x8100000000 8) ∧ physCheck s .read win (run 0x8100000000 8) false = .ok () ∧
     (∃ c w, xlatN s ctx .read 0 8 = .error (c, w)) ∧ xlatN s ctx .write win 4 = .ok (run 0x8100000000 4) ∧
     physCheck s .write win (run 0x8100000000 4) false = .ok () ∧ s.memOk) ∧
    (∃ h : Hart, h.halted = true ∧ h.dead = false) :=
  ⟨⟨{ State.reset.rebeica with nonce := some 7 }, rfl⟩,
   ⟨rfl, ⟨⟨none, false⟩, by decide, rfl⟩, (fun _ h => nomatch h), by decide, rfl, rfl, ⟨.page, 0, rfl⟩, rfl, rfl, rfl⟩,
   ⟨{ Hart.reset with halted := true }, rfl, rfl⟩⟩
theorem wit_RoundTrip : wellFormed (.add 5 6 7 true) = true ∧ isEvent (.add 5 6 7 true) = false := by decide
theorem wit_DecodeExact : reads 0x00A63800 0 (.add 5 6 7 false) = true := by decide
theorem wit_SpecWords : 11 ≤ (0x2C000000 : Parcel).toNat / 2 ^ 26 ∧ (0x2C000000 : Parcel).toNat / 2 ^ 26 ≤ 15 := by decide
/-- The first step after LIM x12, 5 is placed at the pc. -/
theorem wit_StepRunsDecoded :
    let s := State.reset.withFetchWord 32 0x21800005
    s.due = none ∧ s.phase = .running ∧ s.stimuli = [] ∧ s.toSend = [] ∧ s.takeTurn.rotate = s ∧ deviceEvents s = [] ∧ s.hart.acts = true ∧ s.asyncNow = none ∧
    vectorGoes s = (.ok (), s) ∧ s.hart.halted = false ∧ s.hart.live' = true ∧ s.hart.mixFull = false ∧ s.tlbFresh ∧
    (∀ l, l ∈ s.icache → l.bytes = memReadN s.mem (64 * l.line) 64) ∧ s.reaches .fetch s.hart.pc 4 (run 0 4) ∧
    BitVec.ofNat 32 (leNat (memReadAt s.mem (run 0 4))) = 0x21800005 ∧ isLong 0x21800005 = false ∧
    decode 0x21800005 0 = .ok (.lim 12 5) ∧ s.hart.mustWait (.lim 12 5) = false ∧ s.hart.inError (issueReads (.lim 12 5)) = none ∧
    (s.hart.badRegs = [] ∧ ({ s.hart with badRegs := [(0, 6)] } : Hart).inError (issueReads (.add 5 6 7 false)) ≠ none) :=
  ⟨rfl, rfl, rfl, rfl, rfl, by decide +kernel, rfl, rfl, rfl, rfl, rfl, rfl, fresh_empty rfl rfl, (fun _ h => nomatch h), ⟨by decide +kernel, by decide +kernel⟩,
   by decide +kernel, rfl, rfl, rfl, rfl, rfl, by decide⟩
theorem wit_StepKeepsMemOk : State.reset.memOk ∧ (match step (State.reset.withFetchWord 32 0x21800005) with
    | .next _ => true
    | _ => false) = true := ⟨rfl, by decide +kernel⟩

/-! ## Witnesses of the clauses on faults, sections, stops and the package -/

/-- A granule in error under an access, a page without a table, and an access that meets the end of the share past one in error. -/
theorem wit_Faults :
    let bad (l : List Nat) : State := { tHart with bad := l }
    let cut (s : State) : Prop := s.faults .read (win + 16380) 8 true .page (win + 16384)
    (bad [0x8100000010]).faults .read (win + 16) 8 true .dataerr (win + 16) ∧
    (bad [0x8100000010]).faults .write (win + 16) 4 true .dataerr (win + 16) ∧
    (bad [0x8100000018]).faults .read (win + 20) 8 true .dataerr (win + 24) ∧
    State.reset.faults .write 0x10 8 false .page 0x10 ∧ cut tHart ∧ 
    (bad [0x8100000000 + 16376]).faults .read (win + 16380) 8 true .dataerr (win + 16380) ∧
    (let s := bad [0x8100000010]
     xlatN s s.ctx .write (s.getX 6) 8 = .ok (0x8100000010 :: run 0x8100000011 7) ∧ granuleOf 0x8100000010 ∈ s.bad ∧
     ∀ q, q ∈ run 0x8100000010 8 → paClass q ≠ some .device ∧ (s.poolUp = true ∨ paClass q ≠ some .pool) ∧
       granuleOf q = granuleOf 0x8100000010 ∧ granuleSize q = granuleSize 0x8100000010) :=
  ⟨Or.inl ⟨[], 0x8100000010, run 0x8100000011 7, by decide +kernel, nofun, rfl, rfl⟩, Or.inl ⟨[], 0x8100000010, run 0x8100000011 3, by decide +kernel, nofun, rfl, rfl⟩,
   Or.inl ⟨run 0x8100000014 4, 0x8100000018, run 0x8100000019 3, by decide +kernel, by decide, rfl, rfl⟩,
   Or.inr ⟨.page, 0x10, [], by decide +kernel, by decide +kernel, Or.inl ⟨nofun, rfl, rfl⟩⟩,
   Or.inr ⟨.page, win + 16384, run (0x8100000000 + 16380) 4, by decide +kernel, by decide +kernel, Or.inl ⟨by decide, rfl, rfl⟩⟩,
   Or.inr ⟨.page, win + 16384, run (0x8100000000 + 16380) 4, by decide +kernel, by decide +kernel, Or.inr ⟨[], 0x8100000000 + 16380, run (0x8100000000 + 16381) 3, rfl, nofun, rfl, rfl⟩⟩,
   rfl, by decide, by decide⟩
/-- A draw and a significand at the ends of what a rounding takes, and the range that holds a value. -/
theorem wit_Rounding : 0 < 2 ^ 16 ∧ 2 ^ 16 - 1 < 2 ^ 16 ∧ (1 : Nat) ≠ 0 ∧ (2 : ℝ) ^ (0 : Int) ≤ |(1 : ℝ)| ∧ |(1 : ℝ)| < (2 : ℝ) ^ ((0 : Int) + 1) := by
  norm_num
/-- A V hart on which v0 to v7 and the code table are not resident. -/
def lazyHart : State := { uHart with hart := { uHart.hart with nres := 0x401 } }
theorem wit_Sections :
    uHart.usable (.vadd 2 1 (.vv 1) ⟨0, false⟩) ∧ lazyHart.usable (.vadd 10 9 (.vv 9) ⟨0, false⟩) ∧
    ¬ lazyHart.usable (.vadd 2 1 (.vv 1) ⟨0, false⟩) ∧ ¬ lazyHart.usable (.ctld 6 0) ∧ lazyHart.usable (.scld 0 6 7 0) ∧
    (lazyHart.hart.cls = .v ∧ isPosted (.vadd 2 1 (.vv 1) ⟨0, false⟩) = true ∧
      lazyHart.hart.lazyMask lazyHart.hart.pcfg.vt (.vadd 2 1 (.vv 1) ⟨0, false⟩) ≠ 0) ∧
    (let t : State := { onT with hart := { onT.hart with nres := 0x400 } }
     t.hart.cls = .t ∧ ¬ t.usable (.ctst 6 0)) ∧
    (let c : State := { cHart 8 with hart := { (cHart 8).hart with nres := 1 } }
     orAll ([.vadd 4 5 (.vv 0) ⟨0, false⟩].map (c.hart.lazyMask c.hart.pcfg.vt)) ≠ 0) ∧
    orAll ([.vadd 4 5 (.vv 0) ⟨0, false⟩].map ((cHart 8).hart.lazyMask (cHart 8).hart.pcfg.vt)) = 0 ∧
    (({ (mover .c) with hart := { (mover .c).hart with namoPend := [3] } } : State).hart.namoPend ≠ [] ∧ (mover .c).hart.namoPend = []) := by
  unfold State.usable; decide
/-- Values that HSTAT, VDIRTY, VLAZY, SIMB, QOSSH take, on V, T and C, and the reserved ones of FFLAGS, FENABLE and SRSEED. -/
theorem wit_CsrWrites :
    uHart.csrValueOk .hstat 63 = false ∧ uHart.csrValueOk .hstat 0x2B = true ∧ uHart.csrValueOk .vdirty 0xFFF = true ∧
    onT.csrValueOk .vdirty 0xFFF = true ∧ lazyHart.csrValueOk .vlazy 0x0400 = true ∧
    lazyHart.hart.pendSet = Vector.replicate 8 0 ∧ lazyHart.hart.pendClr = Vector.replicate 8 0 ∧
    (lazyHart.hart.nres.getLsbD 0 && !(0x0400 : Nat).testBit 0) = true ∧ uHart.hart.cls ≠ .c ∧ State.reset.hart.cls = .c ∧
    uHart.csrValueOk .qossh 0x40000 = true ∧ uHart.csrValueOk .qossh 0x40100 = false ∧
    (csrName 0x010 = some .fflags ∧ 32 ≤ 32 ∧ bitsOf 0x20 7 5 ≠ 0 ∧ (withX .reset [(6, 0)]).getX 6 = 0 ∧ State.reset.hart.vq = []) := by
  decide +kernel
/-- Sums of an infinity and its negative under NV's enable trap at element 1, in each of the four forms. -/
theorem wit_ReductionTraps :
    let s : State := withV { vHart with hart := { vHart.hart with fen := flagNV } } 1 32 [0x7F800000, 0xFF800000, 0, 0]
    let h := s.hart
    let leaf := h.redLeaf 1 0
    let r0 : RedRun := ⟨h.redStep .sum .rne, .rne, h.fen, fun _ _ => none, 0, h.srseed, none⟩
    let w := (r0.formed leaf h.vlN).whole h.vlN
    s.vIdle ∧ h.redAllowed .sum (.st .rne) ∧ 512 ≤ h.vlen ∧ h.vlen ≤ 16384 ∧ h.vlN ≤ 4096 ∧
    (r0.linear leaf (some 0) h.vlN).2.stop = some flagNV ∧ (r0.linear leaf none h.vlN).2.stop = some flagNV ∧
    (w.2.join (some 0) w.1).2.stop = some flagNV ∧ (r0.scan leaf 4).2.stop = some flagNV ∧
    (let z : RedRun := { r0 with en := 0 }
     (z.scan leaf 4).2.stop = none) :=
  ⟨⟨rfl, rfl, rfl, rfl, rfl, rfl⟩, Or.inr ⟨rfl, Or.inl rfl⟩, by decide, by decide, by decide, by decide +kernel, by decide +kernel,
   by decide +kernel, by decide +kernel, by decide +kernel⟩
/-- 14:R413; 02:R39: of an image of ones STATE, ERR (bytes 28, 29) and GANGID (56 to 59) are cleared; the reserved 60 to 63 are not. -/
theorem test_launch_image :
    let b := leBytes 64 (cleanImage (2 ^ 512 - 1))
    [27, 28, 29, 30, 55, 56, 59, 60, 63].map (b.getD · 1) = [0xFF, 0, 0, 0xFF, 0xFF, 0, 0, 0xFF, 0xFF] := by decide +kernel
/-- A granule in error at the start, at the last bytes, and before a page without a table, under a tile and the code table; a scale
that cannot be reached after 255 that can; entry 255 of the code table. -/
theorem wit_TileAndTableFaults :
    let s := withX onT [(10, win), (6, win), (7, 1), (11, win + 16384 - 64), (12, win + 16384 - 255), (13, win + 16384 - 1020)]
    let bad : State := { s with bad := [0x8100000000 + 8] }
    s.hart.cls = .t ∧ s.usable (.scld 0 6 7 0) ∧ s.usable (.ctst 6 0) ∧ (s.getX 10 + BitVec.signExtend 64 (1 : BitVec 13)).toNat % 64 ≠ 0 ∧
    bad.faults .read (bad.getX 10) 1024 false .dataerr (win + 8) ∧ s.faults .write (s.getX 11) 1024 false .page (win + 16384) ∧
    (∀ j, j < 255 → s.reaches .read (s.getX 12 + BitVec.ofNat 64 j * s.getX 7) 1 [0x8100000000 + 16384 - 255 + j]) ∧
    s.faults .read (s.getX 12 + BitVec.ofNat 64 255 * s.getX 7) 1 false .page (win + 16384) ∧
    (∀ e, e < 256 → s.reaches .write (s.getX 6 + BitVec.ofNat 64 (4 * e)) 4 (run (0x8100000000 + 4 * e) 4)) ∧
    (∀ e, e < 255 → s.reaches .write (s.getX 13 + BitVec.ofNat 64 (4 * e)) 4 (run (0x8100000000 + 16384 - 1020 + 4 * e) 4)) ∧
    s.faults .write (s.getX 13 + BitVec.ofNat 64 (4 * 255)) 4 false .page (win + 16384) := by
  refine ⟨rfl, rfl, rfl, by decide, Or.inl ⟨run 0x8100000000 8, 0x8100000000 + 8, run (0x8100000000 + 9) 1015, by decide +kernel, by decide +kernel, by decide +kernel, by decide +kernel⟩,
    Or.inr ⟨.page, win + 16384, run (0x8100000000 + 16384 - 64) 64, by decide +kernel, by decide +kernel, Or.inl ⟨by decide +kernel, rfl, rfl⟩⟩,
    ?_, Or.inr ⟨.page, win + 16384, [], by decide +kernel, by decide +kernel, Or.inl ⟨nofun, rfl, rfl⟩⟩, ?_, ?_,
    Or.inr ⟨.page, win + 16384, [], by decide +kernel, by decide +kernel, Or.inl ⟨nofun, rfl, rfl⟩⟩⟩ <;>
  · unfold State.reaches; decide +kernel
/-- An element whose old value is in error while its write would heal the granule: eight bytes of a granule of eight. -/
theorem wit_AtomicOldValue :
    let s : State := { withV (withX (onV .uint64 1) [(6, win)]) 1 64 [8] with bad := [0x8000000008] }
    let i : Instr := .vamo 2 1 1 6 .add .s true 0 0
    s.vIdle ∧ s.usable i ∧ s.eltOk i .write 0 (run 0x8000000008 8) ∧
    physCheck s .read (s.vAddr i 0) (run 0x8000000008 8) false = .error (.dataerr, win + 8) :=
  ⟨⟨rfl, rfl, rfl, rfl, rfl, rfl⟩, rfl, eltOk_at (win + 8) (by decide +kernel) (by decide) ⟨by decide +kernel, by decide +kernel⟩, by decide +kernel⟩
/-- A sender of an exchange step whose source is in error, and one whose plan cannot be read, noted for it before or not. -/
theorem wit_ExchangeFaults :
    let bad : State := { xHart with bad := [0x8100000200] }
    let lost : Gang := { xGang with plan := 0 }
    let off (s : State) : State := { s with gangs := [lost] }
    planCount bad xGang 0 = .ok 16 ∧ 0 + 8 ≤ 16 ∧ bad.faults .read (bad.getX 9) 8 false .dataerr (win + 512) ∧
    (∃ p, planCount (off xHart) lost 0 = .error p) ∧ (∃ p, planCounts (off xHart) lost = .error p) ∧ xHart.hart.planFault = none ∧
    (∀ o, o ∈ (off xHart).harts → o.waitOn ≠ some .tsync) ∧ ({ xHart.hart with planFault := some (.page, 0) } : Hart).planFault ≠ none := by
  refine ⟨by decide +kernel, by decide, Or.inl ⟨[], 0x8100000200, run 0x8100000201 7, by decide +kernel, nofun, by decide +kernel, rfl⟩,
    ⟨_, rfl⟩, ⟨_, rfl⟩, rfl, by decide, by decide⟩
/-- A stream's contribution that waits for an Ultra Ethernet port, one that does not, and a group with a rank abroad. -/
theorem wit_StreamLeaves :
    let kept : State := { sumHart with adapter := { sumHart.adapter with kept := [.contribution collBinding.cid collBinding.rank 0 0] } }
    kept.unsent collBinding = true ∧ sumHart.unsent collBinding = false ∧ (∀ o, o ∈ sumHart.others → o.id ≠ sumHart.hart.id) ∧
    (collBinding.dest = 0 ∨ collBinding.reduced.length ≤ collBinding.written) ∧ sumHart.abroad [1] = true ∧
    sumHart.etherUp = false ∧ rHartA.etherUp = true ∧ kept.vEmpty := by
  refine ⟨by decide, by decide, (fun _ h => nomatch h), Or.inl rfl, by decide, by decide, by decide +kernel, rfl, rfl, rfl, rfl, rfl⟩
/-- A T hart on string 0, measured with its cycles of the window named; outside the protection window as well. -/
theorem wit_Measurement :
    let w (f : Bool) : Window := ⟨[[0], [0], [0], [0]], [(⟨1, 0⟩, 64, 0)], f⟩
    onT.hart ∈ onT.onString 0 ∧ (onT.hart.id, 64, 0) ∈ (w false).harts ∧ measurable onT 0 (four 350) (four 0) (w false) = true ∧
    (four 350).all inProtection = true ∧ measurable onT 0 (four 299) (four 0) (w true) = true ∧ (∀ o, o ∈ onT.harts → o.id = onT.hart.id → o = onT.hart) ∧
    measurable onT 0 (four 350) (four 0) ⟨[[0], [0], [0], [0]], [(⟨1, 0⟩, 64, 1)], false⟩ = false := by
  refine ⟨List.mem_filter.2 ⟨List.mem_cons_self, by decide +kernel⟩, List.mem_singleton.2 rfl, by decide +kernel, by decide +kernel,
    by decide +kernel, fun o h _ => List.mem_singleton.1 h, by decide +kernel⟩
/-- A V hart of a mixed gang whose fourth window has ended: with room on C and without, and with a queue. -/
def fourth : State := { mover .v with hart := { (mover .v).hart with mixRun := 3 } }
theorem wit_MixWindowsOnV :
    let full : State := { fourth with gangs := (fourth.gangs.map fun g => { g with cslots := [(1, 0)] }) }
    let busy : State := { fourth with hart := { fourth.hart with vq := [entryAt fourth.hart (.mzero 0) 0] } }
    (fourth.hart.mixReady = true ∧ fourth.hart.mixCalls = true ∧ 4 ≤ fourth.hart.mixRun + 1 ∧ fourth.hart.mixHold = 0 ∧ fourth.hart.cls = .v) ∧
    (fourth.hart.vq = [] ∧ fourth.canArrive .c = true ∧ fourth.mayLeaveV = true) ∧ full.canArrive .c = false ∧
    (busy.hart.mixReady = true ∧ busy.hart.vq ≠ []) ∧ (∃ r v, runM peelImage fourth = (r, v)) ∧ ∃ h : Hart, h.peelErr = true := by
  refine ⟨by decide, by decide, by decide, by decide, ⟨_, _, rfl⟩, { Hart.reset with peelErr := true }, rfl⟩
/-- Power for a T string. -/
def funds : State := { State.reset with sched := { State.reset.sched with freePool := 10 } }
/-- A T head of one string that can be paid for and one that cannot, a C head, a pinned head that pre-emption helps, and
one that it does not. -/
theorem wit_SchedulerChoices :
    (∃ p, place funds (ringRecord 2 1024) = some p) ∧ recClass (ringRecord 2 1024) = 2 ∧ place .reset (ringRecord 2 1024) = none ∧
    (∃ p, place .reset (ringRecord 0 1) = some p) ∧ recClass (ringRecord 0 1) ≠ 2 ∧
    (let s := withHead (gangState .resident id) (headOf9 true true 60)
     pinnedHeads s = [headOf9 true true 60] ∧ (∃ ids, victimsFor s (headOf9 true true 60) = some ids) ∧
     victimOk s (headOf9 true true 60) (gangOf .resident 10) = true) ∧
    (let s := withHead ring (headOf9 true true 1)
     pinnedHeads s = [headOf9 true true 1] ∧ victimsFor s (headOf9 true true 1) = none) :=
  ⟨Option.isSome_iff_exists.1 (by decide +kernel), by decide, Option.isNone_iff_eq_none.1 (by decide +kernel), Option.isSome_iff_exists.1 (by decide +kernel), by decide,
   ⟨by decide +kernel, Option.isSome_iff_exists.1 (by decide +kernel), by decide +kernel⟩, by decide +kernel, by decide +kernel⟩
/-- A T gang whose plan cannot be read at its exchange step's TSYNC, and gangs whose TSYNC has completed. -/
theorem wit_PlanLost :
    let lost : Gang := { xGang with plan := 0 }
    let due : State := { onT with gangs := [lost], hart := { onT.hart with waitOn := some .tsync, stepDone := true, waitmax := 7 } }
    let passed : State := { due with gangs := [{ xGang with stepKind := .toExchange }], rebeica := { due.rebeica with grants := [⟨none, false⟩] } }
    (due.hart.waitmax ≠ 0 ∧ due.hart.live' = true ∧ due.hart.namoPend = [] ∧ vectorTimeout due.hart = none ∧
      ∃ c v, scalarTimeout due = some (c, v) ∧ c ≠ .waittimeout) ∧
    (due.harts.map (·.id)).Nodup ∧ due.hart.cls = .t ∧ due.gang 1 = some lost ∧ exchangeDue due lost = true ∧
    (∃ p, planCounts due lost = .error p) ∧ passed.syncPassed = true ∧ onT.syncPassed = false ∧
    ({ xGang with stepKind := .toExchange } : Gang).stepKind = .toExchange ∧ ({ xGang with stepKind := .toCompute } : Gang).stepKind = .toCompute :=
  ⟨⟨by decide, by decide, rfl, rfl, ⟨.page, _, rfl, by decide⟩⟩, by decide, rfl, rfl, by decide +kernel, ⟨_, rfl⟩, by decide, by decide, rfl, rfl⟩
/-- A get of 100 bytes from a region that grants gets; an answer of 5,000 bytes has two packets. -/
theorem wit_GetAnswered :
    let s := rHartA.pokeN (0x300000 + 192) (leBytes 64 (0x10000 + 0x10000 * 2 ^ 64 + 2 ^ 120 + 2 ^ 124))
    let p : Packet := ⟨10, 0, .getReq 100, 3, 8, 100, 0, []⟩
    s.memOk ∧ s.etherUp = true ∧ p.msg = numOf s.adapter.heads p.conn ∧ s.adapter.incoming = [] ∧ s.adapter.stalled = [] ∧
    regionReason s p = none ∧ xlatN s (devCtx 0) .read 0x10008 100 = .ok (run 0x50008 100) ∧
    physCheck s .read 0x10008 (run 0x50008 100) false = .ok () ∧ packetOffs 5000 = [0, 4096] := by
  refine ⟨?_, by decide +kernel, by decide, by decide, by decide, by decide +kernel, by decide +kernel, physCheck_plain rfl fun p hp => ?_,
    by decide +kernel⟩
  · unfold State.memOk; decide +kernel
  · rw [mem_run] at hp; unfold Config.device; omega
/-- A patch of one page over a mapped object at 0x10000, its header at 5 MiB; and a chunk of a stream with a rank abroad. -/
theorem wit_PatchOverBase :
    let q : Nat := 1 + 2 ^ 279 + 0x20200 * 2 ^ 128 + 0x500000 * 2 ^ 192 + 0x10000 * 2 ^ 320
    let s := (paged .reset).pokeN 0x500000 (leBytes 256 (0x4F435353 + 2 ^ 32 + 2 ^ 48 + 0x10000 * 2 ^ 128 + 0x10000 * 2 ^ 192))
    let o : ObjHead := ⟨leNat (memReadN s.mem 0x500000 256)⟩
    s.memOk ∧ (q.testBit 0 = true ∧ bitsOf q 280 279 = 1 ∧ reqMalformed q = false ∧ bitsOf q 243 192 = 0x500000 ∧ bitsOf q 167 128 = 0x20200 ∧
      bitsOf q 375 320 = 0x10000) ∧
    o.ok 1 0x20200 = true ∧ framesFree s (o.frames 0x500000) = true ∧ o.frames 0x500000 = [0x51] ∧
    framesFree (permit s [0x51]) (o.frames 0x500000) = false ∧
    allSlots s 0 (pages (0x10000 + o.patchOff) 1) = some [0x402008] ∧ (permit s [0x51]).takes (run 0x402008 8) = true ∧
    o.patchOff + o.textLen ≤ 0x10000 ∧ o.baseHash = 0 ∧ ¬ o.patchOff + o.textLen ≤ 0x8000 ∧
    ((∃ x, x ∈ [(1 : BitVec 64)] ∧ entryHere rHartA x = false) ∧ rHartA.etherUp = true) := by
  refine ⟨?_, by decide +kernel, by decide +kernel, by decide +kernel, by decide +kernel, by decide +kernel, by decide +kernel, by decide +kernel,
    by decide +kernel, by decide +kernel, by decide +kernel, ⟨1, by decide, by decide +kernel⟩, by decide +kernel⟩
  unfold State.memOk; decide +kernel
/-- A register that an earlier member of the convoy will write, and the descriptor of a connection that can be read. -/
theorem wit_HeldRegisterAndDescriptor :
    let q : Hart := { vHart.hart with vq := [entryAt vHart.hart (.kpopc 5 1 0) 0] }
    let s := nHart []
    q.mustWait (.add 6 5 5 false) = true ∧ vHart.hart.mustWait (.add 6 5 5 false) = false ∧
    s.badAt (s.adapter.ctab.toNat + 64 * 10) 64 = false ∧
    (∃ pas s1, runM (rangeAddrs .read (100 / 16384 + 2) (s.getX 13) 100) (s.lookAt (s.adapter.ctab.toNat + 64 * 10) 64) = (.ok pas, s1)) ∧
    ∃ pas s1, runM (rangeAddrs .write (100 / 16384 + 2) (s.getX 13) 100) (s.lookAt (s.adapter.ctab.toNat + 64 * 10) 64) = (.ok pas, s1) :=
  ⟨by decide, by decide, by decide +kernel, okM_spec (by decide +kernel), okM_spec (by decide +kernel)⟩

end Sys2Proof.Tests
end

section
/-! SUPPORT. What keeps memory in its canonical form (log 1): states, actions and outcomes, one lemma per operation of the model.
A state with another's listed bytes has the form where that one has it, by unfolding; so only operations that write memory, or that choose
between states, have a lemma here. A proof follows the operation's text: `.bind` where it runs one action after another, `.get` and
`.getHart` where it reads the state, `.guard` where it does something only under a condition and goes on in either case, `split` where
it matches. -/
namespace Sys2Proof.Machine
open Sys2Proof

/-- An action leaves memory in its canonical form, wherever it stops. -/
def KeepsMem {α : Type} (m : M α) : Prop := ∀ s : State, s.memOk → (runM m s).2.memOk
/-- The state that an outcome goes on with, if any, has memory in its canonical form. -/
def LeavesMem (o : Host.Outcome State Fault Refusal) : Prop := ∀ t, o = .next t → t.memOk

section
variable {s t : State} {α β : Type}

/-! ## Choices and repetitions -/

/-- Memory is all that the form is about. -/
theorem State.memOk.of_mem (e : t.mem = s.mem) (h : s.memOk) : t.memOk := by
  unfold State.memOk; rwa [e]
theorem State.memOk.ite {c : Prop} [Decidable c] (h : s.memOk) (k : t.memOk) : (if c then s else t).memOk := by
  split
  · exact h
  · exact k
theorem State.memOk.foldl {f : State → β → State} (hf : ∀ s b, s.memOk → (f s b).memOk) {l : List β} (h : s.memOk) :
    (l.foldl f s).memOk := by
  induction l generalizing s with
  | nil => exact h
  | cons b l ih => exact ih (hf _ b h)

theorem KeepsMem.pure {a : α} : KeepsMem (pure a) := fun _ h => h
theorem KeepsMem.throw {e : Stop} : KeepsMem (throw e : M α) := fun _ h => h
theorem KeepsMem.modify {f : State → State} (hf : ∀ s, s.memOk → (f s).memOk) : KeepsMem (modify f : M PUnit) := hf
theorem KeepsMem.set (h : t.memOk) : KeepsMem (set t : M PUnit) := fun _ _ => h
theorem KeepsMem.bind {m : M α} {f : α → M β} (hm : KeepsMem m) (hf : ∀ a, KeepsMem (f a)) : KeepsMem (m >>= f) := by
  intro s h
  have k := hm s h
  rw [runM_bind]
  split
  · next e => rw [e] at k; exact hf _ _ k
  · next e => rw [e] at k; exact k
/-- The state that an action reads has the form. -/
theorem KeepsMem.get {f : State → M β} (hf : ∀ s, s.memOk → KeepsMem (f s)) : KeepsMem (get >>= f) := fun s h => by
  rw [runM_bind, runM_get]; exact hf s h s h
theorem KeepsMem.getHart {f : Hart → M β} (hf : ∀ h, KeepsMem (f h)) : KeepsMem (getHart >>= f) := fun s h => by
  rw [runM_bind, runM_getHart]; exact hf s.hart s h
theorem KeepsMem.ite {c : Prop} [Decidable c] {m n : M α} (hm : KeepsMem m) (hn : KeepsMem n) : KeepsMem (if c then m else n) := by
  split
  · exact hm
  · exact hn
/-- What goes on in either case, after what is done only under a condition. -/
theorem KeepsMem.guard {c : Prop} [Decidable c] {m : M PUnit} {k : PUnit → M β} (hm : KeepsMem m) (hk : ∀ a, KeepsMem (k a)) :
    KeepsMem (if c then m >>= k else k ⟨⟩) := .ite (.bind hm hk) (hk _)
theorem KeepsMem.run {m : M α} {r : Except Stop α} (hm : KeepsMem m) (e : runM m s = (r, t)) (h : s.memOk) : t.memOk := by
  have k := hm s h
  rwa [e] at k
/-- Nothing goes on after a stop. -/
theorem KeepsMem.throwBind {e : Stop} {f : α → M β} : KeepsMem ((MonadExcept.throw e : M α) >>= f) := fun _ h => h
theorem runM_tryCatch {α : Type} (m : M α) (f : Stop → M α) (s : State) :
    runM (tryCatch m f) s =
      match runM m s with
      | (.ok a, t) => (.ok a, t)
      | (.error e, t) => runM (f e) t := by
  show (tryCatch m f : M α) s = _
  simp only [tryCatch, tryCatchThe, MonadExceptOf.tryCatch, ExceptT.tryCatch, ExceptT.mk]
  show (StateT.bind _ _) s = _
  simp only [StateT.bind, runM, ExceptT.run]
  rcases h : m s with ⟨r, t⟩
  cases r <;> rfl
theorem KeepsMem.tryCatch {m : M α} {f : Stop → M α} (hm : KeepsMem m) (hf : ∀ e, KeepsMem (f e)) : KeepsMem (tryCatch m f) := by
  intro s h
  have k := hm s h
  rw [runM_tryCatch]
  split
  · next e => rw [e] at k; exact k
  · next e => rw [e] at k; exact hf _ _ k
theorem KeepsMem.tryM {m : M α} (hm : KeepsMem m) : KeepsMem (tryM m) := by
  intro s h
  have k := hm s h
  rw [runM_tryM]
  split
  · next e => rw [e] at k; exact k
  · next e => rw [e] at k; exact k
theorem KeepsMem.modHart {f : Hart → Hart} : KeepsMem (modHart f) := fun _ h => h
theorem KeepsMem.checkM {ok : Bool} {c : Cause} {v : Word} : KeepsMem (checkM ok c v) := .ite .pure .throw
theorem KeepsMem.liftX {e : Except (Cause × Word) α} : KeepsMem (liftX e) := by
  unfold Machine.liftX
  split
  · exact .pure
  · exact .throw

theorem LeavesMem.next (h : s.memOk) : LeavesMem (.next s) := by
  rintro _ ⟨⟩; exact h
theorem LeavesMem.refused {r : Refusal} : LeavesMem (.refused r) := by rintro _ ⟨⟩
theorem LeavesMem.fault {r : Fault} : LeavesMem (.fault r) := by rintro _ ⟨⟩
theorem LeavesMem.ite {c : Prop} [Decidable c] {o p : Host.Outcome State Fault Refusal} (ho : LeavesMem o) (hp : LeavesMem p) :
    LeavesMem (if c then o else p) := by
  split
  · exact ho
  · exact hp


/-! ## Memory, translation and single accesses -/

theorem State.memOk.noteXlat {c va n} (h : s.memOk) : (noteXlat s c va n).memOk := h.of_mem (noteXlat_mem s c va n)
/-- An action done in another hart's place. -/
theorem State.memOk.asHart {id} {f : State → State} (h : s.memOk) (hf : ∀ s, s.memOk → (f s).memOk) : (s.asHart id f).memOk := by
  unfold State.asHart
  split
  · exact hf s h
  · split
    · exact h
    · dsimp only
      split <;> exact hf _ (h :)
/-- Bytes may leave the list. -/
theorem Memory.wfFrom_filter (p : Host.Cell → Bool) : ∀ {m : List Host.Cell} {lo : Nat}, Memory.wfFrom lo m = true →
    Memory.wfFrom lo (m.filter p) = true
  | [], _, _ => rfl
  | (a, b) :: t, lo, w => by
    simp only [Memory.wfFrom, Bool.and_eq_true, decide_eq_true_eq] at w
    obtain ⟨⟨hlo, hb⟩, ht⟩ := w
    have k := wfFrom_filter p ht
    rw [List.filter_cons]
    split
    · simp only [Memory.wfFrom, Bool.and_eq_true, decide_eq_true_eq]; exact ⟨⟨hlo, hb⟩, k⟩
    · exact Memory.wfFrom_le (by omega) k
theorem State.memOk.bindShare {g ix sh} (h : s.memOk) : (s.bindShare g ix sh).memOk := Memory.wfFrom_filter _ h
theorem State.memOk.startMove {dst} (h : s.memOk) : (startMove s dst).memOk := by
  unfold Machine.startMove
  split
  · exact h
  · dsimp only
    split
    · split
      · exact h
      · split <;> exact h
    · split <;> exact h
    · exact h
theorem State.memOk.captureTail {b} (h : s.memOk) : (captureTail s b).memOk := by
  unfold Machine.captureTail
  split <;> exact h
theorem State.memOk.rebeicaStore {off v} (h : s.memOk) : (rebeicaStore s off v).memOk := .ite h (.ite (.captureTail h) h)
theorem State.memOk.devStore {off v} (h : s.memOk) (e : devStore s off v = some t) : t.memOk := by
  -- numerals this large would be counted down where terms are compared
  obtain ⟨i, hi⟩ : ∃ i, i = (off - 0x100000) / 8 := exists_eq
  obtain ⟨j, hj⟩ : ∃ j, j = (off - 0x200000) / 8 := exists_eq
  unfold Machine.devStore at e
  rw [← hi, ← hj] at e
  split at e
  · cases e; exact h.rebeicaStore
  · dsimp only at e
    split at e
    · cases e; split <;> exact h
    · split at e
      · cases e
        split
        · exact .ite h h
        all_goals exact h
      · cases e
theorem KeepsMem.devRead {pa n} : KeepsMem (devRead pa n) := by
  intro s h
  unfold Machine.devRead
  rw [runM_bind, runM_get]
  dsimp only
  generalize devReg s _ = o
  cases o <;> exact h
theorem KeepsMem.devWrite {pa b} : KeepsMem (devWrite pa b) := by
  -- comparing terms would run these two
  obtain ⟨reg, hr⟩ : ∃ f, f = devReg := exists_eq
  obtain ⟨store, hs⟩ : ∃ f, f = Machine.devStore := exists_eq
  unfold Machine.devWrite
  rw [← hr, ← hs]
  exact .get fun s h => by
    dsimp only
    split
    · exact .throw
    · split
      · exact .throw
      · next e =>
        rw [hs] at e
        have k := h.devStore e
        exact .set k
theorem State.memOk.touchHost {w pa} (h : s.memOk) : (touchHost s w pa).memOk := by
  rw [touchHost_form]; exact h
theorem State.memOk.touchLines {w l} (h : s.memOk) : (touchLines s w l).memOk := h.of_mem (touchLines_mem s w l)
theorem State.memOk.lookAt {pa n} (h : s.memOk) : (State.lookAt s pa n).memOk := .foldl (fun _ _ k => k.touchHost) h
theorem State.memOk.writeAt {pas b} (h : s.memOk) : (s.writeAt pas b).memOk := .touchLines (memWriteAt_wf pas b h)
theorem State.memOk.putAt {pas b} (h : s.memOk) : (s.putAt pas b).memOk := putAt_wf s pas b h
theorem State.memOk.putN {pa b} (h : s.memOk) : (s.putN pa b).memOk := putN_wf s pa b h
theorem State.memOk.pokeN {pa b} (h : s.memOk) : (s.pokeN pa b).memOk := pokeN_wf s pa b h
theorem State.memOk.poke {pa n v} (h : s.memOk) : (State.poke s pa n v).memOk := h.pokeN
theorem KeepsMem.addresses {c k va n devOk} : KeepsMem (addresses c k va n devOk) :=
  .get fun _ _ => .bind (.modify fun _ l => l.noteXlat) fun _ => .liftX
theorem State.memOk.glance {asid va n} (h : s.memOk) : (State.glance s asid va n).memOk := by
  unfold State.glance
  split
  · exact h.touchLines
  · exact h
theorem KeepsMem.readMem {c va n} : KeepsMem (readMem c va n) :=
  .bind .addresses fun _ => .bind (.modify fun _ h => h.touchLines) fun _ => .get fun _ _ => .pure
theorem KeepsMem.writeMem {c va b} : KeepsMem (writeMem c va b) := .bind .addresses fun _ => .modify fun _ h => h.putAt
theorem State.memOk.putAs {vec kind p l} (h : s.memOk) : (s.putAs vec kind p l).memOk := putAs_wf s vec kind p l h
theorem State.memOk.putOwn {vec l} (h : s.memOk) : (State.putOwn s vec l).memOk := h.putAs
theorem State.memOk.putAtomic {vec l} (h : s.memOk) : (State.putAtomic s vec l).memOk := h.putAs
theorem KeepsMem.scalarBytes {pas} : KeepsMem (scalarBytes pas) :=
  .bind (.modify fun _ h => h.touchLines) fun _ => .get fun _ _ => .pure
theorem KeepsMem.scalarPut {pas b} : KeepsMem (scalarPut pas b) := .modify fun _ h => h.putOwn
theorem State.memOk.noteSaw {site n pas} (h : s.memOk) : (s.noteSaw site n pas).memOk := by
  rw [noteSaw_form]; exact h
theorem KeepsMem.vectorBytes {site n pas} : KeepsMem (vectorBytes site n pas) :=
  .bind (.modify fun _ h => h.touchLines) fun _ => .get fun _ _ => .bind (.modify fun _ l => l.noteSaw) fun _ => .pure
theorem KeepsMem.vectorPut {l} : KeepsMem (vectorPut l) := .modify fun _ h => h.putOwn
theorem State.memOk.orderAll {f} (h : s.memOk) : (s.orderAll f).memOk := by
  rw [orderAll_form]; exact h
theorem State.memOk.seeCopies {p} (h : s.memOk) : (State.seeCopies s p).memOk := h.orderAll
theorem State.memOk.bring {ids o l} (h : s.memOk) : (s.bring ids o l).memOk := .of_mem (bring_mem s ids o l) h.putAt
theorem State.memOk.acquire {id} (h : s.memOk) : (s.acquire id).memOk := by
  rw [acquire_form]; exact h
theorem KeepsMem.acquireM : KeepsMem (acquireM) := .modify fun _ h => h.acquire
theorem State.memOk.acquireGang {g} (h : s.memOk) : (s.acquireGang g).memOk := by
  rw [acquireGang_form]; exact h
theorem State.memOk.closeStrip (h : s.memOk) : s.closeStrip.memOk := by
  rw [closeStrip_form]; exact h
theorem KeepsMem.loadScalar {va n} : KeepsMem (loadScalar va n) :=
  .get fun _ _ => .bind .addresses fun _ => .ite (.bind .checkM fun _ => .bind .devRead fun _ =>
    .pure) (.bind .scalarBytes fun _ => .pure)
theorem KeepsMem.storeScalar {va b} : KeepsMem (storeScalar va b) :=
  .get fun _ _ => .bind .addresses fun _ => .ite (.bind .checkM fun _ => .devWrite) .scalarPut
theorem KeepsMem.atomicScalar {va n f} : KeepsMem (atomicScalar va n f) :=
  .bind .checkM fun _ => .get fun _ _ => .bind .addresses fun _ => .get fun _ _ => .bind .liftX fun _ =>
    .bind (.modify fun _ k2 => k2.touchLines) fun _ => .bind (.modify fun _ k2 => k2.touchLines) fun _ => .get fun _ _ => by
    dsimp only
    split
    · exact .bind (.modify fun _ k3 => k3.putAtomic) fun _ => .bind .acquireM fun _ => .pure
    · exact .bind .acquireM fun _ => .pure
theorem State.memOk.addWord {pa v} (h : s.memOk) : (addWord s pa v).memOk := h.putN
theorem State.memOk.signalVa {asid va v} (h : s.memOk) : (signalVa s asid va v).memOk := by
  unfold Machine.signalVa
  split
  · exact h
  · split
    · exact h.addWord
    · exact h
theorem State.memOk.signalPa {pa v} (h : s.memOk) : (signalPa s pa v).memOk := .ite h h.addWord
theorem State.memOk.signalDone {pa v} (h : s.memOk) : (signalDone s pa v).memOk := .ite h h.signalPa
theorem KeepsMem.writeParts {c base} : ∀ {l}, KeepsMem (writeParts c base l)
  | [] => .pure
  | _ :: t => by
    have ih : KeepsMem (Machine.writeParts c base t) := writeParts
    unfold Machine.writeParts
    exact .ite ih (.bind .writeMem fun _ => ih)
theorem State.memOk.enterTrapAt {l c v retPc} (h : s.memOk) : (enterTrapAt s l c v retPc).memOk := by
  unfold Machine.enterTrapAt
  dsimp only
  split
  · exact h
  · split
    · exact h
    · split
      all_goals next e => exact (KeepsMem.writeParts.run e h :)
theorem State.memOk.enterTrap {c v retPc} (h : s.memOk) : (enterTrap s c v retPc).memOk := h.enterTrapAt
theorem LeavesMem.takeTrap {c v retPc} (h : s.memOk) : LeavesMem (takeTrap s c v retPc) := .ite (.next h.enterTrap) (.next h)
theorem LeavesMem.finish {pc} {r : Except Stop Unit × State} (h : r.2.memOk) : LeavesMem (finish pc r) := by
  unfold Machine.finish
  split
  · exact .next h
  · exact .takeTrap h
  · exact .next h
  · exact .next (.ite (.startMove h) h)
  · exact .ite (.next h) (.ite (.next h) (.next (.enterTrapAt h)))
  · exact .refused
theorem LeavesMem.given {ok name} (h : s.memOk) : LeavesMem (given ok name s) := .ite (.next h) .refused
theorem LeavesMem.runInstr {m} (hm : KeepsMem m) (h : s.memOk) : LeavesMem (runInstr m s) := .finish (hm s h)

/-! ## Traps, and an instruction's outcome -/

theorem KeepsMem.fetchParcel {va} : KeepsMem (fetchParcel va) :=
  .get fun _ _ => .bind .addresses fun _ => .get fun _ _ => .bind (.modify fun _ k => .foldl (f := State.holdLine)
    (fun _ _ l => l) k) fun _ => .pure
theorem KeepsMem.fetchParcels {pc} : KeepsMem (fetchParcels pc) :=
  .bind .fetchParcel fun _ => .ite (.bind .fetchParcel fun _ => .pure) .pure

/-! ## Scalar loads and stores -/

theorem KeepsMem.doneX {d v} : KeepsMem (doneX d v) := .modify fun _ h => h
theorem KeepsMem.done1 : KeepsMem (done1) := .modify fun _ h => h
theorem LeavesMem.execLdaq {d a _sc z} (h : s.memOk) : LeavesMem (execLdaq d a _sc z s) :=
  .runInstr (.bind .checkM fun _ => .bind .loadScalar fun _ => .bind .acquireM fun _ => .doneX) h
theorem LeavesMem.execStrl {a b _sc z} (h : s.memOk) : LeavesMem (execStrl a b _sc z s) :=
  .runInstr (.bind .checkM fun _ => .bind .storeScalar fun _ => .done1) h

/-! ## What an instruction waits for -/

theorem KeepsMem.migrateOrClass {i} : KeepsMem (migrateOrClass i) := .get fun _ _ => by split <;> exact .throw
theorem KeepsMem.needV {i} : KeepsMem (needV i) :=
  .getHart fun _ => by
    split
    · exact .pure
    · exact .migrateOrClass
    · exact .throw
theorem KeepsMem.needT {i} : KeepsMem (needT i) := .getHart fun _ => .checkM
theorem KeepsMem.needCV {i} : KeepsMem (needCV i) := .getHart fun _ => .checkM
theorem KeepsMem.waitAt {i} : KeepsMem (waitAt i : M α) := .bind .modHart fun _ => .throw
theorem KeepsMem.doneWait : KeepsMem (doneWait) := .bind .modHart fun _ => .done1
theorem State.memOk.gbarCheck {g} (h : s.memOk) : (gbarCheck s g).memOk := .ite (.acquireGang h) h
theorem State.memOk.passSync {g} (h : s.memOk) : (State.passSync s g).memOk := .acquireGang h
theorem State.memOk.tsyncCheck {id} (h : s.memOk) : (tsyncCheck s id).memOk := by
  unfold Machine.tsyncCheck
  split
  · exact h
  · split <;> exact h

/-! ## Tiles -/

theorem KeepsMem.settleTmmaIf {p} : KeepsMem (settleTmmaIf p) :=
  .getHart fun _ => by
    split
    · exact .ite .modHart .pure
    · exact .pure
theorem LeavesMem.execTld {t a i} (h : s.memOk) : LeavesMem (execTld t a i s) :=
  .runInstr (.bind .needT fun _ => .bind .settleTmmaIf fun _ => .bind .checkM fun _ => .bind .addresses fun _ =>
    .bind .scalarBytes fun _ => .bind .modHart fun _ => .done1) h
theorem LeavesMem.execTst {t a i} (h : s.memOk) : LeavesMem (execTst t a i s) :=
  .runInstr (.bind .needT fun _ => .bind .settleTmmaIf fun _ => .bind .checkM fun _ => .bind .addresses fun _ =>
    .getHart fun _ => .bind .scalarPut fun _ => .done1) h
theorem LeavesMem.execTcvt {t a e r} (h : s.memOk) : LeavesMem (execTcvt t a e r s) :=
  .runInstr (.bind .needT fun _ => .bind .checkM fun _ => .bind .settleTmmaIf fun _ => .getHart fun _ => by
    dsimp only
    split
    · exact .bind .modHart fun _ => .throw
    · exact .bind .modHart fun _ => .done1) h
theorem KeepsMem.tmmaAct {i d a b sp sc e} : KeepsMem (tmmaAct i d a b sp sc e) :=
  .bind .needT fun _ => .getHart fun _ => .bind .checkM fun _ => .bind .modHart fun _ => .getHart fun _ => by
    dsimp only
    split
    · exact .bind .modHart fun _ => .done1
    · split
      · exact .bind .modHart fun _ => .throw
      · exact .bind .modHart fun _ => .done1
theorem State.memOk.seePlan {g h n} (k : s.memOk) : (State.seePlan s g h n).memOk := k.glance.glance
theorem LeavesMem.execTsend {a b l} (h : s.memOk) : LeavesMem (execTsend a b l s) :=
  .runInstr (.bind .needT fun _ => by
    split
    · exact .throw
    · exact .bind .checkM fun _ => .bind .checkM fun _ => .bind .checkM fun _ => by
        split
        · exact .throw
        · exact .bind .checkM fun _ => .bind .checkM fun _ => .bind (.modify fun _ k => k.seePlan) fun _ => .bind .liftX fun _ =>
            .bind .checkM fun _ => .bind .addresses fun _ => .bind .scalarBytes fun _ => .bind .addresses fun _ =>
            .bind (.modify fun _ k => k.bring) fun _ => .done1) h
theorem State.memOk.planFails {g p} (h : s.memOk) : (planFails s g p).memOk :=
  .foldl (fun _ _ k => .asHart k (fun _ k2 => k2.enterTrap)) h
theorem KeepsMem.planCheck {g} : KeepsMem (planCheck g) :=
  .getHart fun _ => by
    split
    · exact .bind .modHart fun _ => .throw
    · exact .get fun _ h => .bind (.set h.seePlan) fun _ => by
        split
        · exact .pure
        · exact .bind (.modify fun _ l => l.planFails) fun _ => .bind .modHart fun _ => .throw
theorem LeavesMem.execTsync (h : s.memOk) : LeavesMem (execTsync s) :=
  .runInstr (.bind .needT fun _ => by
    split
    · exact .done1
    · exact .guard .planCheck fun _ => .bind .modHart fun _ => .modify fun _ k => k.tsyncCheck) h

/-! ## Vector operations -/

theorem KeepsMem.needVcp {q ok} : KeepsMem (needVcp q ok) := .ite (.bind .modHart fun _ => .throw) .pure
theorem KeepsMem.restAt {e total} : KeepsMem (restAt e total) := .ite (.bind .modHart fun _ => .throw) .pure
theorem KeepsMem.fpStop {e fl} : KeepsMem (fpStop e fl : M α) := .bind .modHart fun _ => .throw
theorem KeepsMem.elementwise {i d w m f} : KeepsMem (elementwise i d w m f) :=
  .getHart fun _ => .bind .modHart fun _ => by
    split
    · exact .restAt
    · exact .fpStop
theorem KeepsMem.elementwiseK {i d m f} : KeepsMem (elementwiseK i d m f) :=
  .getHart fun _ => .bind .modHart fun _ => by
    split
    · exact .restAt
    · exact .fpStop
theorem KeepsMem.fpOp {ins types d mode m q v} : KeepsMem (fpOp ins types d mode m q v) :=
  .getHart fun _ => .bind .needVcp fun _ => .elementwise
theorem KeepsMem.intOp {ins op d a b m q} : KeepsMem (intOp ins op d a b m q) := .getHart fun _ => .bind .needVcp fun _ => .elementwise
theorem KeepsMem.convOp {ins src dst mode d a m q} : KeepsMem (convOp ins src dst mode d a m q) :=
  .getHart fun _ => .bind .needVcp fun _ => .elementwise
theorem KeepsMem.vopVcvt {d a e r m q} : KeepsMem (vopVcvt d a e r m q) := .getHart fun _ => .convOp
theorem KeepsMem.vopVqenc {d a m q} : KeepsMem (vopVqenc d a m q) := .getHart fun _ => .bind .needVcp fun _ => .convOp
theorem KeepsMem.vopVqdec {d a m q} : KeepsMem (vopVqdec d a m q) := .getHart fun _ => .bind .needVcp fun _ => .convOp
theorem KeepsMem.vopVscale {d a sc r m q} : KeepsMem (vopVscale d a sc r m q) := .getHart fun _ => .bind .needVcp fun _ => .elementwise
theorem KeepsMem.vopVhbfly {d a l r m q} : KeepsMem (vopVhbfly d a l r m q) :=
  .getHart fun _ => .bind .needVcp fun _ => .bind .modHart fun _ => by
    split
    · exact .modHart
    · split
      exact .bind .modHart fun _ => .throw

/-! ## Matrices -/

theorem KeepsMem.vopMzero {md x} : KeepsMem (vopMzero md x) := .getHart fun _ => .bind .modHart fun _ => .restAt
theorem KeepsMem.mmaGo {md a b scA scB} : ∀ {n i}, KeepsMem (mmaGo md a b scA scB n i)
  | 0, _ => .pure
  | _ + 1, _ => .getHart fun _ => by
    dsimp only
    split
    · exact .bind .modHart fun _ => mmaGo
    · exact .bind .modHart fun _ => .fpStop
theorem KeepsMem.vopMma {md a b scA scB q} : KeepsMem (vopMma md a b scA scB q) :=
  .getHart fun _ => .bind .needVcp fun _ => .bind .modHart fun _ => .bind .mmaGo fun _ => .restAt
theorem KeepsMem.vopMrd {d ms row r k q} : KeepsMem (vopMrd d ms row r k q) :=
  .getHart fun _ => .bind .needVcp fun _ => .bind .modHart fun _ => by
    split
    · exact .modHart
    · exact .bind .modHart fun _ => .throw
theorem KeepsMem.vopMwr {a md row q} : KeepsMem (vopMwr a md row q) := .getHart fun _ => .bind .needVcp fun _ => .modHart

/-! ## Vector loads and stores -/

theorem KeepsMem.atUnit {i} {m : M α} (hm : KeepsMem m) : KeepsMem (atUnit i m) :=
  .tryCatch hm fun _ => by
    split
    · exact .bind .modHart fun _ => .throw
    · exact .throw
theorem KeepsMem.loadElt {h q m i} : KeepsMem (loadElt h q m i) :=
  .get fun _ _ => .bind .checkM fun _ => .bind .addresses fun _ => .bind .vectorBytes fun _ => .pure
theorem KeepsMem.loadGo {q m d p} : ∀ {n i}, KeepsMem (loadGo q m d p n i)
  | 0, _ => .pure
  | _ + 1, _ => .getHart fun _ =>
    .ite (.bind (.atUnit .loadElt) fun _ => .bind .modHart fun _ => loadGo) (.guard .modHart fun _ => loadGo)
theorem State.memOk.shareChunks {k} (h : s.memOk) : (State.shareChunks s k).memOk := by
  unfold State.shareChunks
  dsimp only
  split <;> exact h
theorem KeepsMem.vload {ins m d acq p q} : KeepsMem (vload ins m d acq p q) :=
  .getHart fun _ => .bind .needVcp fun _ => .guard .throw fun _ => .guard (.modify fun _ h => h.shareChunks) fun _ =>
    .bind .modHart fun _ => .bind .loadGo fun _ => .restAt
theorem KeepsMem.storeCheck {h q m i} : KeepsMem (storeCheck h q m i) := .get fun _ _ => .bind .checkM fun _ => .addresses
theorem KeepsMem.storeChecks {h q m k} : ∀ {n i}, KeepsMem (storeChecks h q m k n i)
  | 0, _ => .pure
  | _ + 1, _ => .ite (.bind (.tryM .storeCheck) fun _ => by
      split
      · exact .pure
      · exact .bind storeChecks fun _ => .pure) storeChecks
theorem KeepsMem.nibbleBytes {src} : ∀ {l}, KeepsMem (nibbleBytes src l)
  | [] => .pure
  | [_] => .bind .vectorBytes fun _ => .pure
  | _ :: _ :: _ => .ite (.bind nibbleBytes fun _ => .pure) (.bind .vectorBytes fun _ => .bind nibbleBytes fun _ => .pure)
theorem KeepsMem.storeBytes {h src l} : KeepsMem (storeBytes h src l) := .ite .nibbleBytes .pure
theorem KeepsMem.vstore {m d k q} : KeepsMem (vstore m d k q) :=
  .getHart fun _ => .bind .needVcp fun _ => .bind .storeChecks fun _ => .bind .storeBytes fun _ => by
    dsimp only
    exact .guard .vectorPut fun _ => .guard (.modify fun _ h => h) fun _ => by
        split
        · exact .restAt
        · exact .atUnit .throw
theorem KeepsMem.imageRead {dev va n} : KeepsMem (imageRead dev va n) :=
  .get fun _ _ => .ite .readMem (.bind .addresses fun _ => .bind (.modify fun _ l => l.touchLines) fun _ => .get fun _ _ => .pure)
theorem KeepsMem.imageWrite {dev va b} : KeepsMem (imageWrite dev va b) :=
  .get fun _ _ => .ite .writeMem (.bind .addresses fun _ => .modify fun _ l => l.putAs)
theorem KeepsMem.imageRest {stop o} : KeepsMem (imageRest stop o) := by
  unfold Machine.imageRest
  split
  · exact .ite (.bind .modHart fun _ => .throw) .pure
  · exact .pure
theorem KeepsMem.saveBlocks {dev base stop start off v} : ∀ {n j}, KeepsMem (saveBlocks dev base stop start off v n j)
  | 0, _ => .pure
  | _ + 1, _ => .ite (.bind .imageRest fun _ => .bind (.atUnit .imageWrite) fun _ => saveBlocks) saveBlocks
theorem KeepsMem.saveSpans {dev base mask stop start b} : ∀ {l}, KeepsMem (saveSpans dev base mask stop start b l)
  | [] => .pure
  | _ :: _ => .ite (.getHart fun _ => .bind .saveBlocks fun _ => saveSpans) saveSpans
theorem KeepsMem.saveImage {dev base mask} : KeepsMem (saveImage dev base mask) :=
  .getHart fun _ => .bind .imageRead fun _ => .bind .saveSpans fun _ => .bind .imageRest fun _ => .atUnit .imageWrite
theorem KeepsMem.imageChecks {mask q} : KeepsMem (imageChecks mask q) :=
  .getHart fun _ => by
    split
    · exact .throw
    · exact .checkM
theorem KeepsMem.vopVsave {_s mask q} : KeepsMem (vopVsave _s mask q) := .bind .imageChecks fun _ => .saveImage
theorem KeepsMem.loadBlocks {base stop start b sec off} : ∀ {n j}, KeepsMem (loadBlocks base stop start b sec off n j)
  | 0, _ => .pure
  | _ + 1, _ => .ite (.bind .imageRest fun _ => .bind (.atUnit .imageRead) fun _ => .bind .modHart fun _ => loadBlocks) loadBlocks
theorem KeepsMem.loadSpans {base mask stop start b} : ∀ {l}, KeepsMem (loadSpans base mask stop start b l)
  | [] => .pure
  | _ :: _ => .guard .loadBlocks fun _ => loadSpans
theorem KeepsMem.vopVrstr {_s mask q} : KeepsMem (vopVrstr _s mask q) :=
  .bind .imageChecks fun _ => .getHart fun _ => .bind .imageRead fun _ => .bind .checkM fun _ => .bind .checkM fun _ =>
    .bind .checkM fun _ => .bind .loadSpans fun _ => .bind .modHart fun _ => .ite .modHart .pure

/-! ## Scaling -/

theorem KeepsMem.classBytes {n pas} : KeepsMem (classBytes n pas) := .getHart fun _ => .ite .vectorBytes .scalarBytes
theorem KeepsMem.classPut {n pas b} : KeepsMem (classPut n pas b) := .getHart fun _ => .ite .vectorPut (.modify fun _ h => h.putOwn)
theorem KeepsMem.strideAddrs {k} : ∀ {ea xt n}, KeepsMem (strideAddrs k ea xt n)
  | _, _, 0 => .pure
  | _, _, _ + 1 => .get fun _ _ => .bind .addresses fun _ => .bind strideAddrs fun _ => .pure
theorem KeepsMem.scldAct {i n ea xt} : KeepsMem (scldAct i n ea xt) :=
  .bind .modHart fun _ => .bind .strideAddrs fun _ => .bind .classBytes fun _ => .modHart
theorem KeepsMem.scstAct {n ea xt} : KeepsMem (scstAct n ea xt) := .bind .strideAddrs fun _ => .getHart fun _ => .classPut
theorem KeepsMem.ctldAct {i ea} : KeepsMem (ctldAct i ea) :=
  .bind .modHart fun _ => .bind .checkM fun _ => .get fun _ _ => .bind .addresses fun _ => .bind .classBytes fun _ => .modHart
theorem KeepsMem.entryAddresses : ∀ {n ea}, KeepsMem (entryAddresses n ea)
  | 0, _ => .pure
  | _ + 1, _ => .get fun _ _ => .bind .addresses fun _ => .bind entryAddresses fun _ => .pure
theorem KeepsMem.ctstAct {ea} : KeepsMem (ctstAct ea) :=
  .bind .checkM fun _ => .bind .entryAddresses fun _ => .getHart fun _ => .classPut

/-! ## Copies -/

theorem KeepsMem.readCopy {ill desc k rel} : KeepsMem (readCopy ill desc k rel) :=
  .bind .checkM fun _ => .get fun _ _ => .bind .addresses fun _ => .bind .classBytes fun _ => .get fun _ _ => .bind .checkM fun _ => .pure
theorem KeepsMem.beginCopy {tag c} : KeepsMem (beginCopy tag c) := .bind .modHart fun _ => .ite (.modify fun _ h => h) .pure
theorem KeepsMem.vopCpy {_t _s k rel q} : KeepsMem (vopCpy _t _s k rel q) :=
  .getHart fun _ => .guard .throw fun _ => .bind .readCopy fun _ => .beginCopy
theorem KeepsMem.cpywtAct {tag} : KeepsMem (cpywtAct tag) :=
  .getHart fun _ => by
    split
    · exact .modify fun _ h => h.seeCopies
    · split
      · exact .throw
      · exact .bind .modHart fun _ => .throw
theorem KeepsMem.cpycanAct {tag} : KeepsMem (cpycanAct tag) :=
  .getHart fun _ => by
    split
    · exact .pure
    · exact .ite .modHart (.bind .modHart fun _ => .throw)
theorem KeepsMem.gatherRuns {ctx c} : ∀ {l}, KeepsMem (gatherRuns ctx c l)
  | [] => .pure
  | _ :: _ => .bind .readMem fun _ => .bind .addresses fun _ => .bind gatherRuns fun _ => .pure
theorem State.memOk.strayBytes {ctx c} : ∀ {n i} {s : State}, s.memOk → (strayBytes ctx c n i s).memOk
  | 0, _, _, h => h
  | n + 1, i, s, h => by
    unfold Machine.strayBytes
    refine strayBytes ?_
    split
    · exact .ite h.putAt h
    · exact h
theorem State.memOk.unexpect {h c n} (k : s.memOk) : (unexpect s h c n).memOk := by
  unfold Machine.unexpect
  split <;> exact k
theorem State.memOk.chunkMove {g c} (h : s.memOk) : (chunkMove s g c).memOk := by
  unfold Machine.chunkMove
  dsimp only
  split
  · next e => exact .bring (KeepsMem.gatherRuns.run e h)
  · exact h.strayBytes.unexpect
  · exact h
theorem State.memOk.chunkEnd {h c} (k : s.memOk) : (chunkEnd s h c).memOk := by
  unfold Machine.chunkEnd
  dsimp only
  split
  · split <;> exact k
  · split
    · exact .unexpect (by split <;> exact k)
    · split <;> exact k
theorem LeavesMem.execCopyChunkComplete {n} (h : s.memOk) : LeavesMem (execCopyChunkComplete n s) := by
  unfold Machine.execCopyChunkComplete
  split
  · exact .refused
  · exact .given (.ite h.chunkEnd h.chunkMove)

/-! ## Projection, merging and records -/

theorem KeepsMem.readDesc {q bwd} : KeepsMem (readDesc q bwd) :=
  .bind .checkM fun _ => .get fun _ _ => .bind .addresses fun _ => .bind .vectorBytes fun _ => by
    dsimp only
    split
    · exact .bind .modHart fun _ => .pure
    · exact .throw
theorem KeepsMem.orderVector : KeepsMem (orderVector) := .modify fun _ h => h.closeStrip
theorem KeepsMem.readVec {ty va n} : KeepsMem (readVec ty va n) :=
  .get fun _ _ => .bind .addresses fun _ => .bind .vectorBytes fun _ => .pure
theorem KeepsMem.readHidden {x a} : ∀ {n t}, KeepsMem (readHidden x a n t)
  | 0, _ => .pure
  | _ + 1, _ => .getHart fun _ => .bind .checkM fun _ => .bind .readVec fun _ => .bind readHidden fun _ => .pure
theorem KeepsMem.readRows {x} : ∀ {l}, KeepsMem (readRows x l)
  | [] => .pure
  | _ :: _ => .bind .readVec fun _ => .bind readRows fun _ => .pure
theorem KeepsMem.rowCheck {f} : ∀ {n t}, KeepsMem (rowCheck f n t)
  | 0, _ => .pure
  | _ + 1, _ => by
    unfold Machine.rowCheck
    split
    · exact .throw
    · exact rowCheck
theorem KeepsMem.xprojEnd {e total} : KeepsMem (xprojEnd e total) := .ite .throw (.bind .modHart fun _ => .modHart)
theorem KeepsMem.xprojGo {md a x} : ∀ {n g}, KeepsMem (xprojGo md a x n g)
  | 0, _ => .pure
  | _ + 1, _ => .getHart fun _ => .bind .readHidden fun _ => .bind .readRows fun _ => .bind .modHart fun _ =>
    .bind .modHart fun _ => xprojGo
theorem KeepsMem.xprojStart {md a kk q} : KeepsMem (xprojStart md a kk q) :=
  .getHart fun _ => .guard .modHart fun _ => .bind .checkM fun _ => .bind .readDesc fun _ => .ite (.guard .rowCheck fun _ =>
    .bind .modHart fun _ => .bind .modHart fun _ => .pure) .pure
theorem KeepsMem.vopXproj {md a s kk q} : KeepsMem (vopXproj md a s kk q) :=
  .bind .orderVector fun _ => .bind .modHart fun _ => .getHart fun _ => by
    extract_lets rest
    have ends (x) : KeepsMem (rest x) :=
      .getHart fun _ => .getHart fun _ => .bind .xprojGo fun _ => .bind .orderVector fun _ => .xprojEnd
    split
    · exact .bind .pure ends
    · exact .bind .xprojStart ends
theorem KeepsMem.readDw {x} : ∀ {l}, KeepsMem (readDw x l)
  | [] => .pure
  | _ :: _ => .bind .readVec fun _ => .bind readDw fun _ => .pure
theorem KeepsMem.readDh {x b} : ∀ {n t}, KeepsMem (readDh x b n t)
  | 0, _ => .pure
  | _ + 1, _ => .getHart fun _ => .bind .checkM fun _ => .bind .readVec fun _ => .bind readDh fun _ => .pure
theorem KeepsMem.xTargets {n} : ∀ {l}, KeepsMem (xTargets n l)
  | [] => .pure
  | _ :: _ => .get fun _ _ => .bind .addresses fun _ => .bind xTargets fun _ => .pure
theorem KeepsMem.xWrites : ∀ {l v}, KeepsMem (xWrites l v)
  | [], _ => .pure
  | _ :: _, [] => .pure
  | _ :: _, _ :: _ => .bind .vectorPut fun _ => .bind .orderVector fun _ => xWrites
theorem KeepsMem.xprojbGroup {md a b kk x g} : KeepsMem (xprojbGroup md a b kk x g) :=
  .getHart fun _ => .bind .readHidden fun _ => .bind .readRows fun _ => .bind .readDw fun _ => .bind .readDh fun _ =>
    .bind .xTargets fun _ => .bind .xTargets fun _ => .bind .xWrites fun _ => .bind .xWrites fun _ => .modHart
theorem KeepsMem.xprojbGo {md a b kk x} : ∀ {n g}, KeepsMem (xprojbGo md a b kk x n g)
  | 0, _ => .pure
  | _ + 1, _ => .bind .xprojbGroup fun _ => .bind .modHart fun _ => xprojbGo
theorem KeepsMem.xprojbStart {md a kk q} : KeepsMem (xprojbStart md a kk q) :=
  .getHart fun _ => .ite (.bind .checkM fun _ => .bind .readDesc fun _ => .ite (.bind .rowCheck fun _ => .bind .modHart fun _ =>
    .pure) .pure) (.bind .modHart fun _ => .bind .readDesc fun _ => .ite (.bind .rowCheck fun _ => .bind .modHart fun _ => .pure) .pure)
theorem KeepsMem.vopXprojb {md a b s kk q} : KeepsMem (vopXprojb md a b s kk q) :=
  .bind .orderVector fun _ => .bind .modHart fun _ => .getHart fun _ => by
    extract_lets rest
    have ends (x) : KeepsMem (rest x) :=
      .getHart fun _ => .getHart fun _ => .bind .xprojbGo fun _ => .bind .orderVector fun _ => .xprojEnd
    split
    · exact .bind .pure ends
    · exact .bind .xprojbStart ends
theorem KeepsMem.mergeChecks {kmax same pair} : ∀ {n t}, KeepsMem (mergeChecks kmax same pair n t)
  | 0, _ => .pure
  | _ + 1, _ => by
    unfold Machine.mergeChecks
    exact .bind .checkM fun _ => by
      split
      · exact .throw
      · exact mergeChecks
theorem KeepsMem.vopXmerge {md ma x} : KeepsMem (vopXmerge md ma x) :=
  .bind .orderVector fun _ => .bind .modHart fun _ => .getHart fun _ => .bind .mergeChecks fun _ => .modHart
theorem KeepsMem.vopXhstore {md _s disp q} : KeepsMem (vopXhstore md _s disp q) :=
  .bind .orderVector fun _ => .getHart fun _ => .bind .checkM fun _ => .bind .checkM fun _ => .bind .rowCheck fun _ =>
    .get fun _ _ => .bind .addresses fun _ => .bind .vectorPut fun _ => .orderVector
theorem KeepsMem.vopXhload {md s disp q} : KeepsMem (vopXhload md s disp q) :=
  .bind .orderVector fun _ => .bind .modHart fun _ => .getHart fun _ => .bind .checkM fun _ =>
    .get fun _ _ => .bind .addresses fun _ => .bind .vectorBytes fun _ => .bind .checkM fun _ => .bind .addresses fun _ =>
    .bind .vectorBytes fun _ => .bind .rowCheck fun _ => .bind .modHart fun _ => .orderVector

/-! ## Reductions -/

theorem KeepsMem.redTrap {i d lin scan shr start t f again} : KeepsMem (redTrap i d lin scan shr start t f again) := by
  unfold Machine.redTrap
  dsimp only
  split
  · exact .getHart fun _ => .throw
  · exact .bind .modHart fun _ => .getHart fun _ => .throw
theorem KeepsMem.redRest {i d lin scan shr e a} : KeepsMem (redRest i d lin scan shr e a) := .bind .modHart fun _ => .throw
theorem KeepsMem.vopVred {d a o lin sh r k q} : KeepsMem (vopVred d a o lin sh r k q) :=
  .getHart fun _ => .bind .needVcp fun _ => by
    extract_lets
    split
    extract_lets _ _ _ final last
    clear_value final
    have ends (u) : KeepsMem (last u) := by
      unfold last
      split
      · exact .redTrap
      · exact .modHart
    split
    · split
      · exact .bind .redTrap ends
      · exact .bind .redRest ends
    · exact ends ()
theorem KeepsMem.vopVscan {d a o lin sh r m q} : KeepsMem (vopVscan d a o lin sh r m q) :=
  .getHart fun _ => .bind .needVcp fun _ => by
    extract_lets
    split
    extract_lets _ _ _ last
    have ends (u) : KeepsMem (last u) := by
      unfold last
      split
      · exact .redTrap
      · exact .modHart
    split
    · split
      · exact .bind .redTrap ends
      · exact .bind .redRest ends
    · exact ends ()

/-! ## Collectives -/

theorem State.memOk.writeRecord {g b} (h : s.memOk) : (writeRecord s g b).memOk := by
  unfold Machine.writeRecord
  split
  · next e => exact (KeepsMem.writeMem.run e h :)
  · exact h
  · exact h
theorem KeepsMem.recordCheck {b} : KeepsMem (recordCheck b) := by
  unfold Machine.recordCheck
  split
  · exact .bind (.modify fun _ h => h) fun _ => .throw
  · exact .ite (.bind (.modify fun _ h => h.writeRecord) fun _ => .get fun _ _ => .getHart fun _ => by
      split
      · split
        · exact .bind (.modify fun _ l => l) fun _ => .throw
        · exact .pure
      · exact .pure) .pure
theorem State.memOk.sendPeers {group o} (h : s.memOk) : (State.sendPeers s group o).memOk := by
  unfold State.sendPeers
  split
  · exact h
  · split <;> exact h
theorem State.memOk.enablePort {l} (h : s.memOk) : (State.enablePort s l).memOk := by
  unfold State.enablePort
  split
  · exact h
  · dsimp only
    split <;> exact h
theorem KeepsMem.vopColbind {d _s q} : KeepsMem (vopColbind d _s q) :=
  .bind .checkM fun _ => .get fun _ _ => .bind .addresses fun _ => .bind .vectorBytes fun _ => .bind .checkM fun _ =>
    .getHart fun _ => .bind .checkM fun _ => by
    split
    · exact .throw
    · exact .bind .addresses fun _ => .bind .vectorBytes fun _ => .get fun _ _ => .bind .addresses fun _ =>
        .bind .vectorPut fun _ => .bind .modHart fun _ => .modify fun _ k2 => k2
theorem KeepsMem.checkEach {f} (hf : ∀ b, KeepsMem (f b)) : ∀ {l}, KeepsMem (checkEach f l)
  | [] => .pure
  | b :: _ => .bind (hf b) fun _ => checkEach hf
theorem KeepsMem.readCheck {b} : KeepsMem (readCheck b) :=
  .bind .checkM fun _ => .bind .checkM fun _ => by
    split
    · exact .throw
    · exact .ite .throw .pure
theorem KeepsMem.boundPre {i} : KeepsMem (boundPre i) :=
  .getHart fun _ => .guard (.checkEach (fun _ => .recordCheck)) fun _ => .getHart fun _ => .bind (.checkEach (fun _ =>
    .checkM)) fun _ => .bind (.checkEach (fun _ => .checkM)) fun _ => .bind (.checkEach (fun _ => .readCheck)) fun _ => .modHart
theorem State.memOk.bumpRecv {b} (h : s.memOk) : (bumpRecv s b).memOk := by
  unfold Machine.bumpRecv
  split
  · exact h.writeRecord
  · exact h
theorem State.memOk.contribute {b} (h : s.memOk) : (contribute s b).memOk := by
  unfold Machine.contribute
  split
  · exact .writeRecord (.sendPeers h)
  · exact h
theorem KeepsMem.boundPost {i} : KeepsMem (boundPost i) :=
  .getHart fun _ => .bind (.modify fun _ h => .foldl (fun _ _ k => k.bumpRecv) h) fun _ =>
    .modify fun _ h => .foldl (fun _ _ k => k.contribute) h
theorem State.memOk.writeDest {g u} : ∀ {n b} {s : State}, s.memOk → (writeDest g u b n s).1.memOk
  | 0, _, _, h => h
  | n + 1, b, s, h => by
    unfold Machine.writeDest
    dsimp only
    split
    · exact h
    · split
      · exact writeDest h
      · split
        · next e => exact writeDest (KeepsMem.writeMem.run e h)
        · next e => exact (KeepsMem.writeMem.run e h :)
        · next e => exact (KeepsMem.writeMem.run e h :)
theorem KeepsMem.findBound {d} : KeepsMem (findBound d) :=
  .getHart fun _ => by
    split
    · exact .pure
    · exact .throw
theorem KeepsMem.vopColwait {d x} : KeepsMem (vopColwait d x) :=
  .bind .findBound fun _ => .bind .recordCheck fun _ => .bind .findBound fun b => .bind .checkM fun _ => by
    dsimp only
    split
    · exact .throwBind
    · refine .guard .throw fun _ => ?_
      split
      · exact .bind (.modify fun _ h => h) fun _ => .throw
      · refine .get fun s h => ?_
        have k : (Machine.writeDest s.hart b.user b b.count s).1.memOk := h.writeDest
        refine .bind (.set k) fun _ => ?_
        split
        · exact .throw
        · exact .pure
theorem State.memOk.leaveByte {c base p} (h : s.memOk) : (leaveByte c base s p).memOk := by
  unfold Machine.leaveByte
  split
  · split
    · next e => exact (KeepsMem.writeMem.run e h :)
    · exact h
  · exact h
theorem State.memOk.leaveDest {h b} (k : s.memOk) : (leaveDest s h b).memOk :=
  .ite k (.foldl (fun _ _ l => .foldl (fun _ _ k2 => k2.leaveByte) l) k)
theorem State.memOk.freeBinding {id b} (h : s.memOk) : (freeBinding s id b).memOk := by
  unfold Machine.freeBinding
  dsimp only
  split
  · exact .foldl (fun _ _ k => by split <;> exact k) (.sendPeers (by
      split
      · exact h.leaveDest
      · exact h))
  · split
    · exact h.leaveDest
    · exact h
theorem KeepsMem.vopColfree {d x} : KeepsMem (vopColfree d x) :=
  .bind .findBound fun _ => .bind .recordCheck fun _ => .bind .findBound fun _ => .get fun _ _ => .guard .throw fun _ =>
    .modify fun _ l => l.freeBinding
theorem State.memOk.setErr {id vd e} (h : s.memOk) : (setErr s id vd e).memOk := by
  unfold Machine.setErr
  split
  · exact .ite h.writeRecord h
  · exact h
theorem State.memOk.deliver {j r id vd} (h : s.memOk) : (deliver j r s id vd).memOk := by
  unfold Machine.deliver
  split
  · exact h
  · dsimp only
    refine .writeRecord ?_
    split
    · exact h.writeDest
    · exact h
theorem State.memOk.chunkReduced {id vd peers d} (h : s.memOk) (e : chunkReduced s id vd peers d = some t) : t.memOk := by
  have errs (l : List (Hart × Binding)) : (l.foldl (fun s p => Machine.setErr s p.1.id p.2.vd 1) s).memOk :=
    .foldl (fun _ _ h => h.setErr) h
  unfold Machine.chunkReduced at e
  split at e
  · cases e
  · dsimp only at e
    split at e
    · cases e
    · split at e
      · cases e; exact errs _
      · split at e
        · cases e
        · split at e
          · cases e
          · split at e
            · cases e; exact errs _
            · cases e; exact .foldl (fun _ _ h => h.deliver) h
theorem LeavesMem.execCollectiveChunkReduced {i v peers d} (h : s.memOk) : LeavesMem (execCollectiveChunkReduced i v peers d s) := by
  unfold Machine.execCollectiveChunkReduced
  split
  · next e => exact .given (h.chunkReduced e)
  · exact .refused
theorem LeavesMem.execCollectivePeerFreed {h v} (k : s.memOk) : LeavesMem (execCollectivePeerFreed h v s) := by
  unfold Machine.execCollectivePeerFreed
  split
  · exact .given (.ite k.setErr k)
  · exact .refused
theorem LeavesMem.execCollectivePeerUnreachable {h v} (k : s.memOk) : LeavesMem (execCollectivePeerUnreachable h v s) := by
  unfold Machine.execCollectivePeerUnreachable
  split
  · exact .given k.setErr
  · exact .refused

/-! ## Registers and cluster files -/

theorem KeepsMem.checkRegs {i} : KeepsMem (checkRegs i) :=
  .getHart fun _ => by
    split
    · exact .throw
    · exact .pure

/-! ## Remote operations -/

theorem KeepsMem.checkConn {xc opened} : KeepsMem (checkConn xc opened) :=
  .bind (.modify fun _ h => h.lookAt) fun _ => .get fun _ _ => .checkM
theorem State.memOk.failConn {c reason} (h : s.memOk) : (failConn s c reason).memOk := h.putN
theorem KeepsMem.nextMsg {c} : KeepsMem (nextMsg c) := .get fun _ _ => .bind (.modify fun _ l => l) fun _ => .pure
theorem KeepsMem.rangeAddrs {k} : ∀ {f va n}, KeepsMem (rangeAddrs k f va n)
  | 0, _, _ => .pure
  | _ + 1, _, _ => .ite .pure (.get fun _ _ => .bind .addresses fun _ => .bind rangeAddrs fun _ => .pure)
theorem KeepsMem.issueRemote {kind conn offset va pas xd data offs} : KeepsMem (issueRemote kind conn offset va pas xd data offs) :=
  .bind .nextMsg fun _ => .get fun _ _ => .modHart
theorem KeepsMem.done2 : KeepsMem (done2) := .modify fun _ h => h
theorem LeavesMem.execNput {xn xl xo xc} (h : s.memOk) : LeavesMem (execNput xn xl xo xc s) :=
  .runInstr (.bind .needCV fun _ => .bind .checkConn fun _ => .bind .checkM fun _ => .ite .done2 (.bind .rangeAddrs fun _ =>
    .bind .scalarBytes fun _ => .bind .issueRemote fun _ => .done2)) h
theorem LeavesMem.execNget {xn xl xo xc} (h : s.memOk) : LeavesMem (execNget xn xl xo xc s) :=
  .runInstr (.bind .needCV fun _ => .bind .checkConn fun _ => .bind .checkM fun _ => .ite .done2 (.bind .rangeAddrs fun _ =>
    .bind .issueRemote fun _ => .done2)) h
theorem LeavesMem.execNamo {d xb xo xc o z} (h : s.memOk) : LeavesMem (execNamo d xb xo xc o z s) :=
  .runInstr (.bind .needCV fun _ => .bind .checkConn fun _ => .bind .checkM fun _ => .bind .issueRemote fun _ =>
    .guard .modHart fun _ => .done2) h
theorem LeavesMem.execNflush {xc sc} (h : s.memOk) : LeavesMem (execNflush xc sc s) :=
  .runInstr (.bind .needCV fun _ => by
    dsimp only
    exact .guard .checkConn fun _ => .guard .throw fun _ => .guard .throw fun _ => .bind .modHart fun _ =>
      .bind (.modify fun _ k => k) fun _ => by
          split
          · exact .guard .throw fun _ => .bind .modHart fun _ => .throw
          · exact .done2) h
theorem State.memOk.sendAgain {conn msg first} (h : s.memOk) : (sendAgain s conn msg first).memOk := by
  unfold Machine.sendAgain
  split <;> exact h
theorem LeavesMem.execNamoResponseArrival {c old} (h : s.memOk) : LeavesMem (execNamoResponseArrival c old s) := by
  unfold Machine.execNamoResponseArrival
  split
  · exact .given h
  · exact .refused
theorem State.memOk.placeBytes {ids c l} (h : s.memOk) : (placeBytes s ids c l).memOk := h.bring
theorem State.memOk.placeResp {o p} (h : s.memOk) : (placeResp s o p).memOk := h.placeBytes
theorem State.memOk.drainResp {c} : ∀ {n} {s : State}, s.memOk → (drainResp c n s).memOk
  | 0, _, h => h
  | _ + 1, _, h => by
    unfold Machine.drainResp
    split
    · exact h
    · split
      · exact h
      · exact drainResp (.placeResp h)
theorem State.memOk.refuseOne {c reason} (h : s.memOk) : (refuseOne s c reason).memOk := by
  unfold Machine.refuseOne
  split <;> exact h
theorem State.memOk.connRefused {c reason} (h : s.memOk) : (connRefused s c reason).memOk := by
  unfold Machine.connRefused
  dsimp only
  refine .drainResp (.foldl ?_ ?_)
  · intro _ _ k; exact k
  · exact h.failConn.refuseOne
theorem State.memOk.passHead {c} (h : s.memOk) : (passHead s c).memOk := h
theorem State.memOk.refuseMsg {c reason} (h : s.memOk) : (refuseMsg s c reason).memOk := by
  have put {o pas b} : (({ s with out := o } : State).writeAt pas b).memOk := State.memOk.writeAt h
  unfold Machine.refuseMsg
  exact .passHead put
theorem State.memOk.pageFault {p va} (h : s.memOk) : (pageFault s p va).memOk := by
  unfold Machine.pageFault
  dsimp only
  split <;> exact .signalPa h.putN
/-- The state that an action answers has the form. -/
def GivesMem {β : Type} (m : M (State × β)) : Prop := ∀ s, s.memOk → ∀ p t, runM m s = (.ok p, t) → p.1.memOk
theorem GivesMem.pure {b : β} (h : t.memOk) : GivesMem (pure (t, b)) := by
  rintro s _ p u ⟨⟩; exact h
theorem GivesMem.bind {m : M α} {f : α → M (State × β)} (hm : KeepsMem m) (hf : ∀ a, GivesMem (f a)) : GivesMem (m >>= f) := by
  intro s h p u e
  rw [runM_bind] at e
  split at e
  · next k => exact hf _ _ (hm.run k h) _ _ e
  · cases e
theorem GivesMem.get {f : State → M (State × β)} (hf : ∀ s, s.memOk → GivesMem (f s)) : GivesMem (get >>= f) := fun s h p u e => by
  rw [runM_bind, runM_get] at e; exact hf s h s h p u e
/-- What a packet leaves where it could be placed (15:R432-R434). -/
theorem State.memOk.actPacket {p u} (h : s.memOk) (e : actPacket s p = .ok t u) : t.memOk := by
  unfold Machine.actPacket at e
  extract_lets d ctx ea answer at e
  have given {m : M (State × List (Nat × Byte × Byte))} (hm : GivesMem m) (k : answer (runM m s) = .ok t u) : t.memOk := by
    unfold answer at k
    split at k
    · next r => cases k; exact hm s h _ _ r
    all_goals cases k
  split at e
  · exact given (.bind .addresses fun _ => .get fun _ k => .pure k.putAt) e
  · refine given (.bind .readMem fun _ => .get fun s k => ?_) e
    exact .pure (k :)
  · refine given (.bind .addresses fun _ => .get fun _ _ => .bind .liftX fun _ => .get fun _ k => .pure ?_) e
    exact .putAt k
  · cases e; exact h
theorem State.memOk.placeHead {i p} (h : s.memOk) : (placeHead s i p).memOk := by
  unfold Machine.placeHead
  split
  · exact h.pageFault
  · exact h.refuseMsg
  · next e =>
    have k := h.actPacket e
    exact .ite k k
theorem State.memOk.drainConn {c} : ∀ {n} {s : State}, s.memOk → (drainConn c n s).memOk
  | 0, _, h => h
  | _ + 1, _, h => by
    unfold Machine.drainConn
    split
    · exact h
    · split
      · exact h
      · split
        · exact drainConn h
        · split
          · exact h
          · exact drainConn h.placeHead
theorem State.memOk.requestArrival {p} (h : s.memOk) : (requestArrival s p).memOk := by
  unfold Machine.requestArrival
  refine .ite h ?_
  extract_lets reason s0 i _ s1 s2
  clear_value reason
  have k : s2.memOk := by
    unfold s2
    split
    · exact h
    · split
      · exact h.lookAt
      · exact h.lookAt
  exact .drainConn k
theorem LeavesMem.execRemotePacketArrival {p} (h : s.memOk) : LeavesMem (execRemotePacketArrival p s) :=
  .given (by
    split
    · exact .ite (.drainResp h) h
    · exact h.requestArrival)
theorem LeavesMem.execAdapterResume {c} (h : s.memOk) : LeavesMem (execAdapterResume c s) := by
  unfold Machine.execAdapterResume
  split
  · exact .given h
  · exact .given (.drainConn (by split <;> exact h))
theorem LeavesMem.execRemotePageFaultTimeout {c} (h : s.memOk) : LeavesMem (execRemotePageFaultTimeout c s) := by
  unfold Machine.execRemotePageFaultTimeout
  split
  · exact .refused
  · exact .given h.refuseMsg.drainConn

/-! ## CSRs -/

theorem State.memOk.csrStore {c v} (h : s.memOk) : (State.csrStore s c v).memOk := by
  unfold State.csrStore
  dsimp only
  split
  · exact h.closeStrip
  · split
    · exact h
    · exact h.closeStrip
  · exact h.closeStrip
  iterate 7 · exact h
  · split <;> exact h
  iterate 26 · exact h
theorem KeepsMem.headerWrite {c v} : KeepsMem (headerWrite c v) :=
  .get fun _ h => by
    split
    · refine .ite .pure ?_
      split
      · next e => exact .set (KeepsMem.writeMem.run e h)
      · exact .throw
    · exact .pure
theorem KeepsMem.csrAct {i num rd wr} : KeepsMem (csrAct i num rd wr) := by
  unfold Machine.csrAct
  split
  · exact .throw
  · exact .getHart fun _ => .bind .checkM fun _ => .bind .checkM fun _ => by
      dsimp only
      exact .guard .throw fun _ => .guard .modHart fun _ => .guard (.modify fun _ h => h) fun _ =>
        .guard (.modify fun _ h => h) fun _ => .get fun _ _ => by
              split
              · split
                · exact .doneX
                · exact .done1
              · exact .bind .checkM fun _ => .bind .headerWrite fun _ => .bind (.modify fun _ l => l.csrStore) fun _ => by
                  split
                  · exact .doneX
                  · exact .done1

/-! ## Strings -/

theorem State.memOk.measure {ix cur w} (h : s.memOk) : (measure s ix cur w).memOk := by
  unfold Machine.measure
  dsimp only
  refine .foldl ?_ ?_
  · intro _ _ k; exact k
  · exact h
theorem State.memOk.tripString {ix} (h : s.memOk) : (tripString s ix).memOk := .poke h
theorem State.memOk.foresee {ix cur} (h : s.memOk) : (foresee s ix cur).memOk := by
  unfold Machine.foresee
  dsimp only
  split <;> exact h
theorem State.memOk.blindEffect {h c} (k : s.memOk) : (blindEffect s h c).memOk := .ite k (.ite k.foresee k)
theorem LeavesMem.execBlindPeriodEnd {id} (h : s.memOk) : LeavesMem (execBlindPeriodEnd id s) := by
  unfold Machine.execBlindPeriodEnd
  split
  · exact .given h
  · exact .refused
theorem State.memOk.convoyFill {us} (h : s.memOk) : (convoyFill s us).memOk := .ite (.foresee h) h

/-! ## Vector atomics -/

theorem KeepsMem.amoCheck {h ea} : KeepsMem (amoCheck h ea) :=
  .get fun _ _ => .bind .checkM fun _ => .bind .addresses fun _ => .get fun _ _ => .bind .liftX fun _ => .pure
theorem KeepsMem.amoChecks {g ea} : ∀ {l}, KeepsMem (amoChecks g ea l)
  | [] => .pure
  | _ :: _ => .bind (.tryM .amoCheck) fun _ => by
    split
    · exact .pure
    · exact .bind amoChecks fun _ => .pure
theorem KeepsMem.amoApply {whole op d a ret l} : KeepsMem (amoApply whole op d a ret l) :=
  .ite (.bind (.modify fun _ h => h.touchLines) fun _ => .get fun _ _ => .bind (.modify fun _ l => l.putAtomic) fun _ =>
    .ite .modHart .pure) .pure
theorem KeepsMem.vopVamo {d a i s o sc ret sh k q} : KeepsMem (vopVamo d a i s o sc ret sh k q) :=
  .getHart fun _ => .bind .needVcp fun _ => .bind .modHart fun _ => by
    split
    · exact .throw
    · exact .bind .amoChecks fun _ => .bind .amoApply fun _ => by
        split
        · exact .atUnit .throw
        · exact .restAt
theorem KeepsMem.vopVamom {d a i s o sc ret sh k q} : KeepsMem (vopVamom d a i s o sc ret sh k q) :=
  .getHart fun _ => .bind .needVcp fun _ => .bind .modHart fun _ => .bind .amoChecks fun _ => by
    split
    · exact .atUnit .throw
    · exact .amoApply

/-! ## Masks -/

theorem KeepsMem.vopVcmp {kd a b c m q} : KeepsMem (vopVcmp kd a b c m q) := .getHart fun _ => .bind .needVcp fun _ => .elementwiseK
theorem KeepsMem.maskOp {i kd m f} : KeepsMem (maskOp i kd m f) := .getHart fun _ => .elementwiseK

/-! ## Permutations -/

theorem KeepsMem.vopVperm {d a b m x} : KeepsMem (vopVperm d a b m x) := .getHart fun _ => .modHart
theorem KeepsMem.vopVslide {d a t dn m q} : KeepsMem (vopVslide d a t dn m q) := .getHart fun _ => .modHart
theorem KeepsMem.vopVsplat {d s m q} : KeepsMem (vopVsplat d s m q) := .getHart fun _ => .elementwise
theorem KeepsMem.vopVmerge {d a b k x} : KeepsMem (vopVmerge d a b k x) := .getHart fun _ => .elementwise
theorem KeepsMem.vopVcompr {d a m x} : KeepsMem (vopVcompr d a m x) := .getHart fun _ => .modHart
theorem KeepsMem.vopVidx {d m q} : KeepsMem (vopVidx d m q) := .getHart fun _ => .bind .needVcp fun _ => .elementwise
theorem KeepsMem.vopVmvx {x a i q} : KeepsMem (vopVmvx x a i q) := .getHart fun _ => .bind .needVcp fun _ => .modHart
theorem KeepsMem.vopVmxv {d s i q} : KeepsMem (vopVmxv d s i q) := .getHart fun _ => .bind .needVcp fun _ => .modHart

/-! ## The vector queue -/

theorem KeepsMem.vopSetvl {q} : KeepsMem (vopSetvl q) := .bind (.modify fun _ h => h.closeStrip) fun _ => .modHart
theorem KeepsMem.vopVfence {k q} : KeepsMem (vopVfence k q) :=
  .guard (.modify fun _ h => h) fun _ => .ite (.modify fun _ h => h.closeStrip) .pure
theorem KeepsMem.vopBlind {c x} : KeepsMem (vopBlind c x) := .modify fun _ h => h.blindEffect
theorem KeepsMem.vop {i q} : KeepsMem (vop i q) := by
  unfold Machine.vop
  split
  · exact .vload
  · exact .vload
  · exact .vload
  · exact .vstore
  · exact .vstore
  · exact .vstore
  · exact .vopVsave
  · exact .vopVrstr
  iterate 14 · exact .intOp
  iterate 10 · exact .fpOp
  · exact .vopVcvt
  · exact .vopVqenc
  · exact .vopVqdec
  · exact .vopVhbfly
  · exact .vopVscale
  · exact .vopVperm
  · exact .vopVslide
  · exact .vopVsplat
  · exact .vopVmerge
  · exact .vopVcompr
  · exact .vopVidx
  · exact .vopVmvx
  · exact .vopVmxv
  · exact .vopVcmp
  · exact .maskOp
  · exact .modHart
  · exact .modHart
  · exact .maskOp
  · exact .vopVred
  · exact .vopVscan
  · exact .vopVamo
  · exact .vopVamom
  · exact .vopMzero
  · exact .vopMma
  · exact .vopMrd
  · exact .vopMwr
  · exact .vopXproj
  · exact .vopXprojb
  · exact .vopXmerge
  · exact .vopXhload
  · exact .vopXhstore
  · exact .scldAct
  · exact .scstAct
  · exact .ctldAct
  · exact .ctstAct
  · exact .vopCpy
  · exact .cpywtAct
  · exact .cpycanAct
  · exact .vopColbind
  · exact .vopColfree
  · exact .vopColwait
  · exact .vopSetvl
  · exact .modHart
  · exact .modHart
  · exact .vopVfence
  · exact .vopBlind
  · exact .pure
theorem KeepsMem.lazyAtVcp {q i} : KeepsMem (lazyAtVcp q i) := .getHart fun _ => .checkM
theorem KeepsMem.runBound {i q} : KeepsMem (runBound i q) :=
  .bind .checkRegs fun _ => .getHart fun _ => .ite .vop (.bind .boundPre fun _ => .bind (.tryM .vop) fun _ => by
    split
    · exact .boundPost
    · exact .bind .modHart fun _ => .throw)
theorem KeepsMem.runWhole {q} : KeepsMem (runWhole q) := by
  unfold Machine.runWhole
  split
  · exact .throw
  · exact .bind .lazyAtVcp fun _ => .bind (.tryM .runBound) fun _ => by
      split
      · exact .modHart
      · exact .bind .modHart fun _ => .throw
      · exact .throw
theorem KeepsMem.runEntry {q} : KeepsMem (runEntry q) := .getHart fun _ => .guard .throw fun _ => .bind .runWhole fun _ => .modHart
theorem KeepsMem.loopGo {trip body} : ∀ {n}, KeepsMem (loopGo trip body n)
  | 0 => .pure
  | n + 1 => .getHart fun _ => .ite .pure (by
    have rest (m i : Nat) : KeepsMem (Machine.setLix m i >>= fun _ => Machine.loopGo trip body n) := .bind .modHart fun _ => loopGo
    dsimp only
    split
    · exact .bind .runEntry fun _ => .ite (rest _ _) (.bind (.modify fun _ h => h.closeStrip) fun _ => rest _ _)
    · exact .ite (rest _ _) (.bind (.modify fun _ h => h.closeStrip) fun _ => rest _ _))
theorem KeepsMem.runLoop {q body} : KeepsMem (runLoop q body) :=
  .getHart fun _ => by
    dsimp only
    exact .guard .throw fun _ => by
      split
      · exact .bind .lazyAtVcp fun _ => .getHart fun _ => .guard .modHart fun _ => .bind .loopGo fun _ => .modHart
      · exact .getHart fun _ => .guard .modHart fun _ => .bind .loopGo fun _ => .modHart
theorem KeepsMem.drain : ∀ {n}, KeepsMem (drain n)
  | 0 => .pure
  | n + 1 => .getHart fun h => by
    split
    · exact .pure
    · refine .ite .pure (.bind (.tryM ?_) fun _ => ?_)
      · split
        · exact .runLoop
        · exact .runEntry
      · split
        · exact .bind .modHart fun _ => drain
        · exact .modHart
        · exact .throw
theorem State.memOk.takePace (h : s.memOk) : (takePace s).memOk := by
  unfold Machine.takePace
  split <;> exact h
theorem KeepsMem.drainAll : KeepsMem (drainAll) :=
  .getHart fun _ => .ite .pure (.bind (.modify fun _ h => h.takePace) fun _ => .getHart fun _ => .bind (.tryM .drain) fun _ =>
    .bind .modHart fun _ => by
    split
    · exact .pure
    · exact .throw)
theorem KeepsMem.lazyAtPost {i} : KeepsMem (lazyAtPost i) := .getHart fun _ => .checkM
theorem KeepsMem.needSlots {n} : KeepsMem (needSlots n) := .getHart fun _ => .ite .throw .pure
theorem KeepsMem.post {n i f} : KeepsMem (post n i f) :=
  .bind .needV fun _ => .bind .lazyAtPost fun _ => .getHart fun _ => .bind .needSlots fun _ => .bind .modHart fun _ =>
    .modify fun _ h => h
theorem LeavesMem.thenDrain {m} (hm : KeepsMem m) (h : s.memOk) : LeavesMem (thenDrain m s) := by
  unfold Machine.thenDrain
  split
  · next e => exact .finish (KeepsMem.drainAll _ (hm.run e h))
  · exact .finish (hm s h)
theorem LeavesMem.postInstr {i} (h : s.memOk) : LeavesMem (postInstr i s) := .thenDrain .post h

/-! ## What the scalar side posts -/

theorem LeavesMem.postMarker {i d v} (h : s.memOk) : LeavesMem (postMarker i d v s) := .thenDrain .post h
theorem LeavesMem.execSetvl {d a} (h : s.memOk) : LeavesMem (execSetvl d a s) := .postMarker h
theorem LeavesMem.execSetvt {d t} (h : s.memOk) : LeavesMem (execSetvt d t s) := .postMarker h
theorem LeavesMem.execSetmr {d a} (h : s.memOk) : LeavesMem (execSetmr d a s) := .postMarker h
theorem LeavesMem.execVfence {k} (h : s.memOk) : LeavesMem (execVfence k s) :=
  .thenDrain (.bind .needV fun _ => .guard .throw fun _ => .bind .post fun _ => .ite (.modify fun _ k => k) .pure) h
theorem LeavesMem.execBlind {c} (h : s.memOk) : LeavesMem (execBlind c s) := by
  unfold Machine.execBlind
  split
  · exact .runInstr (.bind (.modify fun _ k => k.blindEffect) fun _ => .done1) h
  · exact .thenDrain .post h
theorem LeavesMem.byClass {i act} (ha : KeepsMem act) (h : s.memOk) : LeavesMem (byClass i act s) := by
  unfold Machine.byClass
  split
  · exact .runInstr (.bind .lazyAtPost fun _ => .bind ha fun _ => .done2) h
  · exact .postInstr h
theorem LeavesMem.execCpy {t xs k rel} (h : s.memOk) : LeavesMem (execCpy t xs k rel s) := by
  unfold Machine.execCpy
  dsimp only
  split
  · exact .runInstr (.guard .throw fun _ => .bind .readCopy fun _ => .getHart fun _ => .bind .modHart fun _ =>
      .bind .beginCopy fun _ => .done2) h
  · exact .thenDrain .post h
theorem LeavesMem.execCpywt {t} (h : s.memOk) : LeavesMem (execCpywt t s) := by
  unfold Machine.execCpywt
  split
  · exact .runInstr (.bind (.tryM .cpywtAct) fun _ => by
      split
      · exact .bind .modHart fun _ => .done2
      · exact .bind .modHart fun _ => .throw
      · exact .throw) h
  · exact .postInstr h
theorem LeavesMem.execCpycan {t} (h : s.memOk) : LeavesMem (execCpycan t s) := by
  unfold Machine.execCpycan
  split
  · exact .runInstr (.bind .cpycanAct fun _ => .done2) h
  · exact .postInstr h
theorem KeepsMem.fetchAhead : ∀ {n va}, KeepsMem (fetchAhead n va)
  | 0, _ => .pure
  | _ + 1, _ => .bind .fetchParcels fun _ => .bind fetchAhead fun _ => .pure
theorem KeepsMem.checkMembers {f} (hf : ∀ a, KeepsMem (f a)) : ∀ {k us l}, KeepsMem (checkMembers f k us l)
  | _, [], _ => .pure
  | _, _ :: _, [] => .throw
  | _, _ :: _, a :: _ => .bind (hf a) fun _ => .bind .checkM fun _ => checkMembers hf
theorem KeepsMem.decodeAhead {a} : KeepsMem (decodeAhead a) := by
  unfold Machine.decodeAhead
  split
  · exact .pure
  · exact .throw
theorem LeavesMem.execConvoy {us} (h : s.memOk) : LeavesMem (execConvoy us s) :=
  .thenDrain (.bind .needV fun _ => .bind .fetchAhead fun _ => .bind (.checkMembers fun _ => .decodeAhead) fun _ => .bind .post fun _ =>
    .bind (.modify fun _ k => k.convoyFill) fun _ => .modHart) h
theorem KeepsMem.decodeBody : ∀ {l}, KeepsMem (decodeBody l)
  | [] => .pure
  | _ :: _ => .bind .decodeAhead fun _ => .bind .checkM fun _ => .bind decodeBody fun _ => .pure
theorem KeepsMem.bodyConvoys : ∀ {k l}, KeepsMem (bodyConvoys k l)
  | 0, [] => .pure
  | _ + 1, [] => .pure
  | _ + 1, _ :: _ => by unfold Machine.bodyConvoys; exact bodyConvoys
  | 0, _ :: _ => by
    unfold Machine.bodyConvoys
    split
    · exact .bind (.checkMembers fun _ => .decodeAhead) fun _ => bodyConvoys
    · exact bodyConvoys
theorem LeavesMem.execVloop {xs n} (h : s.memOk) : LeavesMem (execVloop xs n s) :=
  .thenDrain (.bind .needV fun _ => .bind .fetchAhead fun _ => .bind .decodeBody fun _ => by
    dsimp only
    split
    · exact .throwBind
    · exact .bind .bodyConvoys fun _ => .getHart fun _ => .bind .checkM fun _ => .guard .throw fun _ => .bind .needSlots fun _ =>
        .bind .modHart fun _ => .bind (.modify fun _ k => .foldl (fun _ _ k2 => by
          split
          · exact k2.convoyFill
          · exact k2) k) fun _ => .modify fun _ k => k) h

/-! ## Migration -/

theorem KeepsMem.peelImage : KeepsMem (peelImage) :=
  .getHart fun _ => .ite (.bind .modHart fun _ => .bind (.tryM .saveImage) fun _ => .bind .modHart fun _ => by
    split
    · exact .modHart
    · exact .throw) .pure
theorem LeavesMem.execMigrV (h : s.memOk) : LeavesMem (execMigrV s) :=
  .runInstr (by
    split
    · exact .done1
    · exact .throw
    · exact .bind .checkM fun _ => .guard .throw fun _ => .bind .modHart fun _ => .bind .done1 fun _ => .throw) h
theorem LeavesMem.execMigrC (h : s.memOk) : LeavesMem (execMigrC s) :=
  .runInstr (by
    split
    · exact .done1
    · exact .throw
    · exact .guard .throw fun _ => .bind .checkM fun _ => .guard .throw fun _ => .bind .peelImage fun _ =>
        .bind .modHart fun _ => .bind .done1 fun _ => .throw) h
theorem State.memOk.mixMove (h : s.memOk) : (mixMove s).memOk := by
  unfold Machine.mixMove
  dsimp only
  split
  · exact .ite (.startMove h) h
  · split
    · exact h
    · split
      · exact h
      · split
        · split
          · next e =>
            have k := KeepsMem.peelImage.run e h
            exact .startMove k
          · next e => exact (KeepsMem.peelImage.run e h :)
        · exact h
  · exact h
theorem State.memOk.mixEnd (h : s.memOk) : (mixEnd s).memOk := .ite (.mixMove h) h
theorem LeavesMem.execMixWindowEnd {id} (h : s.memOk) : LeavesMem (execMixWindowEnd id s) := by
  unfold Machine.execMixWindowEnd
  split
  · exact .ite (.next (.asHart h (fun _ k => k.mixEnd))) .refused
  · exact .refused
theorem State.memOk.land {id} (h : s.memOk) : (State.land s id).memOk := by
  unfold State.land
  split
  · exact h.bindShare
  · exact h
theorem LeavesMem.execPeelArrival {id} (h : s.memOk) : LeavesMem (execPeelArrival id s) := by
  unfold Machine.execPeelArrival
  split
  · split
    · exact .given h.land
    · exact .refused
  · exact .refused

/-! ## Rebeica -/

theorem State.memOk.setInv {n err} (h : s.memOk) : (setInv s n err).memOk := h.poke
theorem State.memOk.invalidate {n gone goneP} (h : s.memOk) : (invalidate s n gone goneP).memOk := .ite h.setInv h
theorem State.memOk.writeLeaves : ∀ {l v} {s : State}, s.memOk → (writeLeaves s l v).memOk
  | [], _, _, h => h
  | _ :: _, [], _, h => h
  | _ :: l, _ :: v, _, h => writeLeaves (l := l) (v := v) h.poke
theorem State.memOk.mapText {b o va after} (h : s.memOk) (ha : ∀ l s, s.memOk → (after l s).memOk) :
    (mapText s b o va after).memOk := by
  unfold Machine.mapText
  dsimp only
  split
  · exact h
  · exact .ite h (ha _ _ (.writeLeaves h))
theorem LeavesMem.execRebeicaMapObject (h : s.memOk) : LeavesMem (execRebeicaMapObject s) := by
  unfold Machine.execRebeicaMapObject
  refine .ite (.next ?_) .refused
  dsimp only
  split
  · exact h
  · exact h.mapText fun _ _ k => k
theorem LeavesMem.execRebeicaMapPatch (h : s.memOk) : LeavesMem (execRebeicaMapPatch s) := by
  unfold Machine.execRebeicaMapPatch
  refine .ite (.next ?_) .refused
  dsimp only
  split
  · exact h
  · split
    · exact h
    · exact h
    · exact .ite h (h.mapText fun _ _ k => k)
theorem LeavesMem.execRebeicaUnmap (h : s.memOk) : LeavesMem (execRebeicaUnmap s) :=
  .ite (.next (by
    split
    · exact h
    · dsimp only
      split
      · exact h
      · exact h.writeLeaves)) .refused
theorem LeavesMem.execRebeicaRequestDone (h : s.memOk) : LeavesMem (execRebeicaRequestDone s) := by
  unfold Machine.execRebeicaRequestDone
  split
  · exact .refused
  · exact .given (.signalDone h)

/-! ## The host -/

theorem State.memOk.ringHost (h : s.memOk) : (ringHost s).memOk := by
  unfold Machine.ringHost
  dsimp only
  split <;> exact h
theorem State.memOk.hostStore {off v} (h : s.memOk) : (hostStore s off v).memOk := by
  unfold Machine.hostStore
  split
  · exact h
  · split
    · exact h
    · split
      · exact h.ringHost
      · split
        · split <;> exact h
        · exact h
theorem LeavesMem.execRegisterWrite {off v host} (h : s.memOk) : LeavesMem (execRegisterWrite off v host s) := by
  unfold Machine.execRegisterWrite
  split
  · exact .given h.hostStore
  · split
    · exact .refused
    · split
      · next e => exact .next (h.devStore e)
      · exact .refused
theorem LeavesMem.execHostSnpData {line} (h : s.memOk) : LeavesMem (execHostSnpData line s) :=
  .given (by
    split
    · exact h
    · dsimp only
      split <;> exact h)
theorem LeavesMem.execHostSnpInv {line} (h : s.memOk) : LeavesMem (execHostSnpInv line s) :=
  .given (by
    split
    · exact h
    · split <;> exact h)
theorem State.memOk.hostPut {pa b} (h : s.memOk) : (hostPut s pa b).memOk := h.putN
theorem LeavesMem.execHostHdmRequest {r} (h : s.memOk) : LeavesMem (execHostHdmRequest r s) := by
  unfold Machine.execHostHdmRequest
  split
  · exact .given (by split <;> exact h)
  · exact .given (.ite h h.hostPut)

/-! ## Debugging -/

theorem LeavesMem.execDebugGrant {tenant haltOnBrk key sig} (h : s.memOk) : LeavesMem (execDebugGrant tenant haltOnBrk key sig s) := by
  unfold Machine.execDebugGrant
  split
  · exact .refused
  · exact .given (by split <;> exact h)
theorem LeavesMem.debugEvent {name id p f} (hf : ∀ g, (f g).memOk) : LeavesMem (debugEvent name id p f s) := by
  unfold Machine.debugEvent
  split
  · exact .ite (.next (hf _)) .refused
  · exact .refused
theorem LeavesMem.execDebugHalt {id} (h : s.memOk) : LeavesMem (execDebugHalt id s) :=
  .debugEvent fun _ => h.asHart fun _ k => .ite k k
theorem LeavesMem.execDebugResume {id} (h : s.memOk) : LeavesMem (execDebugResume id s) := .debugEvent fun _ => h
theorem LeavesMem.execDebugSingleStep {id} (h : s.memOk) : LeavesMem (execDebugSingleStep id s) := .debugEvent fun _ => h
theorem State.memOk.writeDbg {r v} (h : s.memOk) : (writeDbg s r v).memOk := by
  unfold Machine.writeDbg
  dsimp only
  split
  · exact h
  · exact h
  · exact h
  · split
    · exact .ite h.csrStore h
    · exact h
  · split <;> exact h
  · split <;> exact h
  · split <;> exact h
  · split <;> exact h
  iterate 4 · exact h
theorem LeavesMem.execDebugRegisterAccess {id r v} (h : s.memOk) : LeavesMem (execDebugRegisterAccess id r v s) :=
  .debugEvent fun _ => h.asHart fun _ k => by
    split
    · exact k.writeDbg
    · split <;> exact k
theorem LeavesMem.execDebugMemoryAccess {id va n v} (h : s.memOk) : LeavesMem (execDebugMemoryAccess id va n v s) :=
  .debugEvent fun _ => by
    dsimp only
    split
    · split
      · next e => exact (KeepsMem.writeMem.run e h :)
      · exact h
      · exact h
    · split
      · next e => exact (KeepsMem.readMem.run e h :)
      · exact h
      · exact h

/-! ## The package -/

theorem State.memOk.fresh {p} : (s.fresh p).memOk := rfl
theorem State.memOk.bringUp (h : s.memOk) : (bringUp s).memOk := by
  unfold Machine.bringUp
  split <;> exact h
theorem LeavesMem.execPowerUp : LeavesMem (execPowerUp s) := .given (State.memOk.bringUp .fresh)
theorem Build.table_wf {b : Build} {entry n : Nat} (h : Memory.wf b.mem = true) : Memory.wf (b.table entry n).2.mem = true := by
  unfold Build.table
  dsimp only
  split
  · exact h
  · exact memWriteN_wf _ _ h
theorem Build.leaf_wf {va pte : Nat} : ∀ {l : List (Nat × Nat)} {table : Nat} {b : Build}, Memory.wf b.mem = true →
    Memory.wf (Build.leaf va pte l table b).mem = true
  | [], _, _, h => h
  | [_], _, _, h => memWriteN_wf _ _ h
  | _ :: p :: l, _, _, h => leaf_wf (l := p :: l) (table_wf h)
theorem Build.leaves_wf : ∀ {l : List (Nat × Nat)} {b : Build}, Memory.wf b.mem = true → Memory.wf (Build.leaves l b).mem = true
  | [], _, h => h
  | _ :: l, _, h => leaves_wf (l := l) (leaf_wf h)
theorem State.memOk.loadFirmware (h : s.memOk) : (loadFirmware s).memOk := by
  have build {l m n} (h : Memory.wf m = true) : Memory.wf (Build.leaves l ⟨m, n⟩).mem = true := Build.leaves_wf h
  -- the pages would be listed where terms are compared
  obtain ⟨pages, hp⟩ : ∃ p, p = bootPages := exists_eq
  unfold Machine.loadFirmware
  rw [← hp]
  extract_lets _ s1
  have k : s1.memOk := h.pokeN
  exact .ite (build (memWriteN_wf _ _ k)) h
theorem State.memOk.resetAll (h : s.memOk) : (resetAll s).memOk := .bringUp (Memory.wfFrom_filter _ h)
theorem LeavesMem.execFundamentalReset (h : s.memOk) : LeavesMem (execFundamentalReset s) := by
  unfold Machine.execFundamentalReset
  split
  · exact .next h.resetAll
  · exact .next h.resetAll
  · exact .next h
  · exact .next h
  · exact .next h
  · exact .refused
theorem LeavesMem.execPowerRemoval : LeavesMem (execPowerRemoval s) := .given .fresh
theorem LeavesMem.execRailFault {r} (h : s.memOk) : LeavesMem (execRailFault r s) := by
  unfold Machine.execRailFault
  split
  · exact .refused
  · exact .refused
  · exact .next h
  · exact .next (by split <;> exact h)
theorem State.memOk.readSensor {i t} (h : s.memOk) : (readSensor s i t).memOk := by
  unfold Machine.readSensor
  dsimp only
  split <;> exact h
theorem State.memOk.readSensors : ∀ {l} {s : State}, s.memOk → (readSensors l s).memOk
  | [], _, h => h
  | _ :: l, _, h => readSensors (l := l) h.readSensor

/-! ## Bellows -/

theorem State.memOk.allocate {f p q r} (h : s.memOk) : (allocate s f p q r).memOk := by
  -- the strings would be listed where terms are compared
  obtain ⟨range, hr⟩ : ∃ f, f = List.range := exists_eq
  unfold Machine.allocate
  rw [← hr]
  exact h
theorem LeavesMem.execBellowsAllocation {f p q r} (h : s.memOk) : LeavesMem (execBellowsAllocation f p q r s) := .given h.allocate
theorem LeavesMem.execPortPointChangeDone {port} (h : s.memOk) : LeavesMem (execPortPointChangeDone port s) := by
  unfold Machine.execPortPointChangeDone
  split
  · exact .given h
  · exact .refused

/-! ## Semaphores -/

theorem KeepsMem.needFile {i n} : KeepsMem (needFile i n) := .bind .needCV fun _ => .get fun _ _ => .ite .checkM .pure
theorem KeepsMem.modFile {f} : KeepsMem (modFile f) := .modify fun _ h => h
theorem LeavesMem.execCrst {a n} (h : s.memOk) : LeavesMem (execCrst a n s) :=
  .runInstr (.bind .needFile fun _ => .bind .modFile fun _ => .done1) h
theorem LeavesMem.execSemts {n} (h : s.memOk) : LeavesMem (execSemts n s) :=
  .runInstr (.bind .needFile fun _ => .ite (.bind .modFile fun _ => .bind .acquireM fun _ => .doneWait) (.guard .modFile fun _ =>
    .waitAt)) h
theorem LeavesMem.execSemtry {d n} (h : s.memOk) : LeavesMem (execSemtry d n s) :=
  .runInstr (.bind .needFile fun _ => .bind .modFile fun _ => .guard .acquireM fun _ => .doneX) h
theorem LeavesMem.execSemclr {n} (h : s.memOk) : LeavesMem (execSemclr n s) :=
  .runInstr (.bind .needFile fun _ => by
    dsimp only
    split
    · exact .bind .modFile fun _ => .bind (.modify fun _ k => .acquire k) fun _ => .done1
    · exact .bind .modFile fun _ => .done1) h

/-! ## Control flow -/

theorem State.memOk.branch {taken d} (h : s.memOk) : (State.branch s taken d).memOk := by
  unfold State.branch
  split <;> exact h
theorem LeavesMem.execBtab {a b n} (h : s.memOk) : LeavesMem (execBtab a b n s) :=
  .runInstr (.ite (.bind .checkM fun _ => .bind .loadScalar fun _ => .modify fun _ k => k) .done1) h
theorem KeepsMem.maskBranch {i k d test} : KeepsMem (maskBranch i k d test) :=
  .bind .needV fun _ => .getHart fun _ => .bind .checkM fun _ => .guard .throw fun _ => .modify fun _ h => h.branch

/-! ## The system -/

theorem LeavesMem.execSysc {n} (h : s.memOk) : LeavesMem (execSysc n s) := .runInstr .throw h
theorem LeavesMem.execTrap {a c} (h : s.memOk) : LeavesMem (execTrap a c s) :=
  .runInstr (by
    split
    · exact .throw
    · split <;> exact .throw) h
theorem KeepsMem.idleWait {i} : KeepsMem (idleWait i) := .get fun _ _ => .ite .waitAt .doneWait
theorem LeavesMem.execIdle (h : s.memOk) : LeavesMem (execIdle s) :=
  .runInstr (.ite (.guard .throw fun _ => .bind .modHart fun _ => .doneWait) .idleWait) h
theorem LeavesMem.execIdleX (h : s.memOk) : LeavesMem (execIdleX s) :=
  .runInstr (.ite .idleWait (.guard .throw fun _ => .bind .modHart fun _ => .bind .doneWait fun _ =>
    .modify fun _ k => k.gbarCheck.tsyncCheck)) h
theorem KeepsMem.readArea {va n} : KeepsMem (readArea va n) :=
  .get fun _ h => by
    split
    · next e => exact .bind (.set (KeepsMem.readMem.run e h)) fun _ => .pure
    · exact .throw
    · exact .throw
theorem KeepsMem.writeArea {va b} : KeepsMem (writeArea va b) :=
  .get fun _ h => by
    split
    · next e => exact .set (KeepsMem.writeMem.run e h)
    · exact .throw
    · exact .throw
theorem KeepsMem.refill {l} : KeepsMem (refill l) :=
  .get fun _ _ => .bind .readArea fun _ => .ite .pure (.bind .checkM fun _ => by
    extract_lets _ _ rest
    have ends (b) : KeepsMem (rest b) := by
      unfold rest
      split
      · exact .throw
      · refine .bind .checkM fun _ => .bind .checkM fun _ => ?_
        split
        · exact .throw
        · exact .bind .checkM fun _ => .bind .writeArea fun _ => .modHart
    exact .ite (.bind .pure ends) (.bind .readArea ends))
theorem KeepsMem.refillHere {l} : KeepsMem (refillHere l) := .getHart fun _ => .ite .refill .pure
theorem LeavesMem.execTret (h : s.memOk) : LeavesMem (execTret s) :=
  .runInstr (.bind .checkM fun _ => .guard .throw fun _ => .bind .refillHere fun _ => .modHart) h

/-! ## Tasks -/

theorem State.memOk.devPut {asid va b} (h : s.memOk) (e : devPut s asid va b = some t) : t.memOk := by
  unfold Machine.devPut at e
  split at e
  · next k => cases e; exact (KeepsMem.writeMem.run k h :)
  · cases e
theorem State.memOk.launchInto {q image} (h : s.memOk) : (launchInto s q image).2.2.memOk := by
  unfold Machine.launchInto
  dsimp only
  split
  · exact h
  · split
    · exact h
    · split
      · exact h
      · split
        · exact h
        · next e => exact (h.devPut e).putN
theorem LeavesMem.execLaunch {d a b} (h : s.memOk) : LeavesMem (execLaunch d a b s) :=
  .runInstr (.bind .checkM fun _ => .bind .addresses fun _ => .bind .scalarBytes fun _ => .get fun _ k =>
    .bind (.set k.launchInto) fun _ => .doneX) h
theorem State.memOk.seeStores (h : s.memOk) : (State.seeStores s).memOk := .seeCopies h
theorem LeavesMem.execSignal {a b _sc} (h : s.memOk) : LeavesMem (execSignal a b _sc s) :=
  .runInstr (.bind .checkM fun _ => .bind .addresses fun _ => .get fun _ _ => .bind .liftX fun _ => .guard .throw fun _ =>
    .get fun _ _ => .bind (.modify fun _ k3 => k3.putAt.seeStores) fun _ => .done1) h
theorem LeavesMem.execWaitsig {a b c} (h : s.memOk) : LeavesMem (execWaitsig a b c s) :=
  .runInstr (.bind .checkM fun _ => .bind .addresses fun _ => .bind .scalarBytes fun _ => .ite (.bind .acquireM fun _ =>
    .doneWait) .waitAt) h

/-! ## Queues -/

theorem State.memOk.descPut {q off n v} (h : s.memOk) : (descPut s q off n v).memOk := h.putN
theorem State.memOk.setStat {q stat} (h : s.memOk) : (setStat s q stat).memOk := h.descPut
theorem State.memOk.setDef {q v} (h : s.memOk) : (setDef s q v).memOk := h.descPut
theorem State.memOk.reportQueue {q} (h : s.memOk) : (reportQueue s q).memOk := h.descPut.signalVa
theorem State.memOk.queueFault {q stat} (h : s.memOk) : (queueFault s q stat).memOk := h.setStat.reportQueue
theorem State.memOk.setActive {q} (h : s.memOk) : (setActive s q).memOk := .ite h h.setStat
theorem State.memOk.serve {q} (h : s.memOk) : (serve s q).memOk := .ite h (.ite h.queueFault (.ite h.queueFault h.setActive))
theorem State.memOk.slotPut {q index off b} (h : s.memOk) : (slotPut s q index off b).memOk := by
  unfold Machine.slotPut
  dsimp only
  rcases e : Machine.devPut s _ _ b with _ | t
  · exact h
  · exact h.devPut e
theorem State.memOk.advanceHead {q} (h : s.memOk) : (advanceHead s q).memOk := .setActive (.ite (.setDef (.descPut h)) (.descPut h))
theorem State.memOk.rejectHead {q err} (h : s.memOk) : (rejectHead s q err).memOk := h.slotPut.advanceHead.reportQueue
theorem State.memOk.checkHead {q} (h : s.memOk) : (checkHead s q).memOk := by
  unfold Machine.checkHead
  dsimp only
  split
  · exact h.queueFault
  · split
    · exact h.queueFault
    · split
      · exact h.queueFault
      · split
        · exact .ite (.ite h.glance.glance h.glance) (.setDef (.ite h.glance.glance h.glance))
        · exact .rejectHead (.ite h.glance.glance h.glance)
theorem LeavesMem.execRecordReady {q} (h : s.memOk) : LeavesMem (execRecordReady q s) := by
  unfold Machine.execRecordReady
  split
  · exact .refused
  · split
    · exact .refused
    · split
      · exact .next h.queueFault
      · exact .next h.glance.slotPut
      · exact .refused
theorem LeavesMem.headEvent {name q p at' f} (h : s.memOk) : LeavesMem (headEvent name q p at' f s) := by
  unfold Machine.headEvent
  split
  · exact .refused
  · exact .ite (.next h) .refused

/-! ## Gangs -/

theorem State.memOk.spend {cls strings} (h : s.memOk) : (spend s cls strings).memOk := by
  unfold Machine.spend
  split <;> exact h
theorem State.memOk.visitAll : ∀ {l} {s : State}, s.memOk → (visitAll l s).2.memOk
  | [], _, h => h
  | _ :: _, _, h => by
    unfold Machine.visitAll
    dsimp only
    split
    · exact h.setDef
    · exact visitAll h.setDef
theorem State.memOk.visitRounds {l} : ∀ {n} {s : State}, s.memOk → (visitRounds n l s).2.memOk
  | 0, _, h => h
  | _ + 1, _, h => by
    have k := h.visitAll (l := l)
    unfold Machine.visitRounds
    split
    · next e => rw [e] at k; exact k
    · next e => rw [e] at k; exact visitRounds k
theorem State.memOk.nextAt {level g} (h : s.memOk) (e : nextAt s level = some (g, t)) : t.memOk := by
  unfold Machine.nextAt at e
  dsimp only at e
  split at e
  · cases e
  · split at e
    · cases e; exact h
    · have k := h.visitRounds (l := visits s level) (n := roundLimit)
      split at e
      · next r => cases e; rw [r] at k; exact k
      · cases e
theorem State.memOk.schedNext {g} (h : s.memOk) (e : schedNext s = some (g, t)) : t.memOk := by
  obtain ⟨_, _, e⟩ := List.exists_of_findSome?_eq_some e
  exact h.nextAt e
theorem State.memOk.dispatch {h p} (k : s.memOk) : (dispatch s h p).memOk := by
  have noted {s : State} {x} (k : s.memOk) : ({ s.syncBuckets with icache := [], sched := x } : State).memOk := k
  have made {s : State} {x y z} (k : s.memOk) : (giveFiles { s with gangs := x, others := y } z).memOk := k
  unfold Machine.dispatch
  exact .advanceHead (noted (.slotPut (.slotPut (.setDef (made k.spend)))))
theorem State.memOk.idleDefs (h : s.memOk) : (idleDefs s).memOk := .foldl (fun _ _ k => k.setDef) h
theorem LeavesMem.execGangDispatch {q} (h : s.memOk) : LeavesMem (execGangDispatch q s) := by
  unfold Machine.execGangDispatch
  split
  · next e =>
    have k := h.idleDefs.schedNext e
    split
    · split
      · exact .next (.ite k.rejectHead k.dispatch)
      · exact .refused
    · exact .refused
  · exact .refused
theorem LeavesMem.execPreemptDecision (h : s.memOk) : LeavesMem (execPreemptDecision s) := by
  refine .given (State.memOk.foldl ?_ h)
  intro _ _ k; exact k
theorem LeavesMem.execGangDeschedule {id} (h : s.memOk) : LeavesMem (execGangDeschedule id s) := by
  unfold Machine.execGangDeschedule
  split
  · exact .refused
  · exact .given h
theorem LeavesMem.execGangRestore {id} (h : s.memOk) : LeavesMem (execGangRestore id s) := by
  unfold Machine.execGangRestore
  split
  · exact .refused
  · exact .given h
theorem State.memOk.saveHarts {g} : ∀ {l} {s : State}, s.memOk → saveHarts g l s = .ok t → t.memOk
  | [], _, h, e => by cases e; exact h
  | _ :: _, _, h, e => by
    unfold Machine.saveHarts at e
    split at e
    · cases e
    · split at e
      · next r => exact saveHarts (KeepsMem.writeParts.run r h) e
      · cases e
      · cases e
theorem State.memOk.saveFault {id a desched} (h : s.memOk) : (saveFault s id a desched).memOk := .asHart h (fun _ k => .enterTrapAt k)
theorem LeavesMem.execGangSave {id} (h : s.memOk) : LeavesMem (execGangSave id s) := by
  unfold Machine.execGangSave
  split
  · exact .refused
  · refine .given ?_
    dsimp only
    split
    · next e =>
      have k := State.memOk.saveHarts (s := s.modHarts _ _) h e
      exact k
    · exact .saveFault h
/-- The state that comes with an answer has the form. -/
def OkMem {ε β : Type} (r : Except ε (β × State)) : Prop := ∀ p, r = .ok p → p.2.memOk
theorem OkMem.pure {ε : Type} {b : β} (h : s.memOk) : OkMem (pure (b, s) : Except ε (β × State)) := by
  rintro _ ⟨⟩; exact h
theorem OkMem.bind {ε : Type} {m : Except ε α} {f : α → Except ε (β × State)} (hf : ∀ a, OkMem (f a)) : OkMem (m >>= f) := by
  cases m with
  | error => rintro _ ⟨⟩
  | ok a => exact hf a
theorem OkMem.reload {old new m files g} (h : s.memOk) : OkMem (reload s old new m files g) :=
  .bind fun _ => by
    extract_lets share common
    clear_value share
    have hcommon (x) : OkMem (common x) := by
      unfold common
      extract_lets given shared
      have hgiven {s : State} (k : s.memOk) : OkMem (given s) := by
        unfold given
        extract_lets last
        split
        · exact .bind fun _ => .pure k.glance
        · exact .pure k.glance
      have hshared {s : State} (k : s.memOk) : OkMem (shared s) := by
        unfold shared
        split
        · exact hgiven k
        · exact .bind fun _ => hgiven k
      split
      · exact .bind fun _ => hshared h.putN
      · exact hshared h
    split
    · exact hcommon _
    · exact .bind hcommon
theorem State.memOk.reload {old new m files g g'} (h : s.memOk) (e : reload s old new m files g = .ok (g', t)) : t.memOk :=
  OkMem.reload h _ e
theorem State.memOk.resumeHart {old new m p} (h : s.memOk) : (resumeHart old new m s p).memOk := by
  unfold Machine.resumeHart
  dsimp only
  split
  · next e =>
    have k := h.reload e
    exact k
  · exact h
theorem LeavesMem.execGangResume {id} (h : s.memOk) : LeavesMem (execGangResume id s) := by
  unfold Machine.execGangResume
  split
  · exact .refused
  · split
    · split
      · exact .refused
      · exact .next (.foldl (fun _ _ k => k.resumeHart) h.spend)
    · exact .refused
theorem State.memOk.dropHarts {p} (h : s.memOk) : (State.dropHarts s p).memOk := by
  unfold State.dropHarts
  dsimp only
  split
  · split <;> exact h
  · exact h
theorem State.memOk.retire {g} (h : s.memOk) : (retire s g).memOk :=
  .dropHarts (.signalVa (.signalVa (.slotPut (.foldl (fun _ _ k => k.freeBinding) h))))
theorem LeavesMem.execGangRetire {id} (h : s.memOk) : LeavesMem (execGangRetire id s) := by
  unfold Machine.execGangRetire
  split
  · exact .refused
  · exact .given h.retire

/-! ## Scalar floating point -/

theorem KeepsMem.fpWrite {i f r d v} : KeepsMem (fpWrite i f r d v) :=
  .getHart fun _ => .bind .checkM fun _ => .guard .throw fun _ => .bind .modHart fun _ => .bind .checkM fun _ =>
    .bind .modHart fun _ => .done1
theorem KeepsMem.fpWriteX {i f d v fl seed} : KeepsMem (fpWriteX i f d v fl seed) :=
  .getHart fun _ => .bind .checkM fun _ => .bind .modHart fun _ => .bind .checkM fun _ => .bind .modHart fun _ => .doneX
theorem LeavesMem.execFcvt {d a t f r} (h : s.memOk) : LeavesMem (execFcvt d a t f r s) := by
  unfold Machine.execFcvt
  dsimp only
  split
  · exact .runInstr (.bind .checkM fun _ => .fpWrite) h
  · exact .runInstr (.bind .checkM fun _ => .guard .throw fun _ => .fpWriteX) h
  · exact .runInstr .fpWrite h
theorem LeavesMem.execFmov {d a t f} (h : s.memOk) : LeavesMem (execFmov d a t f s) :=
  .runInstr (.bind .checkM fun _ => by
    dsimp only
    split
    · exact .bind .modHart fun _ => .done1
    · exact .bind .modHart fun _ => .done1
    · exact .doneX) h

/-! ## Waits -/

theorem LeavesMem.execAsyncTrapTake (h : s.memOk) : LeavesMem (execAsyncTrapTake s) := by
  unfold Machine.execAsyncTrapTake
  split
  · exact .next (.enterTrap h)
  · exact .refused
theorem State.memOk.reportDeadlock {n blocked g} (h : s.memOk) : (reportDeadlock s n blocked g).memOk := by
  have raised {s : State} (k : s.memOk) : (raiseExtint s 3).memOk := k
  unfold Machine.reportDeadlock
  exact raised (.putN (.putN h))
theorem LeavesMem.execDeadlockDetect {n} (h : s.memOk) : LeavesMem (execDeadlockDetect n s) :=
  .given (.reportDeadlock (.foldl (fun _ _ k => .asHart k (fun _ k2 => k2.enterTrap)) h))
theorem State.memOk.scalarRunsOut {p} (h : s.memOk) : (scalarRunsOut s p).memOk := .ite (.enterTrap h) (.planFails h)
theorem State.memOk.vectorRunsOut {v} (h : s.memOk) : (vectorRunsOut s v).memOk := .enterTrap h
theorem LeavesMem.execWaitTimeout (h : s.memOk) : LeavesMem (execWaitTimeout s) := by
  unfold Machine.execWaitTimeout
  split
  · exact .next (.ite h.scalarRunsOut h.vectorRunsOut)
  · exact .next h.scalarRunsOut
  · exact .next h.vectorRunsOut
  · exact .refused
theorem LeavesMem.execWaitsigSatisfied (h : s.memOk) : LeavesMem (execWaitsigSatisfied s) := by
  unfold Machine.execWaitsigSatisfied
  split
  · split
    · next e => exact .given (LeavesMem.execWaitsig h _ e)
    · exact .execWaitsig h
  · exact .refused
theorem LeavesMem.drainStep (h : s.memOk) : LeavesMem (drainStep s) := .finish (KeepsMem.drainAll s h)
theorem LeavesMem.execAcqLoadWaitEnd (h : s.memOk) : LeavesMem (execAcqLoadWaitEnd s) := by
  unfold Machine.execAcqLoadWaitEnd
  split
  · split
    · split
      · exact .ite (.drainStep h) .refused
      · exact .refused
    · exact .refused
  · exact .refused
theorem LeavesMem.stepEvent {name id p f} (hf : ∀ g, (f g).memOk) : LeavesMem (stepEvent name id p f s) := by
  unfold Machine.stepEvent
  split
  · exact .given (hf _)
  · exact .refused
theorem LeavesMem.execExchangeStepBegin {id} (h : s.memOk) : LeavesMem (execExchangeStepBegin id s) := .stepEvent fun _ => h.passSync
theorem State.memOk.seeSent {id} (h : s.memOk) : (State.seeSent s id).memOk := h.orderAll
theorem LeavesMem.execExchangeStepComplete {id} (h : s.memOk) : LeavesMem (execExchangeStepComplete id s) :=
  .stepEvent fun _ => by
    split
    · exact h.seePlan.seeSent
    · exact h.planFails
theorem LeavesMem.execComputeStepBegin {id} (h : s.memOk) : LeavesMem (execComputeStepBegin id s) := .stepEvent fun _ => h.passSync

/-! ## Turns -/

theorem State.memOk.countHold (h : s.memOk) : (State.countHold s).memOk := by
  unfold State.countHold
  split <;> exact h
theorem State.memOk.swap {n} (h : s.memOk) : (State.swap s n).memOk := by
  unfold State.swap
  split <;> exact h
theorem State.memOk.takeTurn (h : s.memOk) : (State.takeTurn s).memOk := by
  unfold State.takeTurn
  split
  · exact .ite h.swap h
  · exact h
  · exact .swap h
theorem State.memOk.rotate (h : s.memOk) : (State.rotate s).memOk := by
  unfold State.rotate
  split
  · exact h
  · split
    · exact h.swap
    · exact h
theorem State.memOk.hostReads {off} (h : s.memOk) : (hostReads s off).memOk := by
  unfold Machine.hostReads
  split <;> exact h
theorem State.memOk.evictLine {line} (h : s.memOk) : (evictLine s line).memOk := by
  unfold Machine.evictLine
  split <;> exact h
theorem LeavesMem.strike {u} (h : s.memOk) : LeavesMem (State.strike s u) := by
  unfold State.strike
  split
  · exact .next h
  · split
    · exact .next (by split <;> exact h)
    · exact .next h
    · exact .next (by split <;> exact h)
    · exact .next h
    · exact .next h.enablePort
    · exact .next (by split <;> exact h)
    · exact .next h.evictLine
    · exact .next h.hostReads
    · exact .next h.sendAgain
theorem State.memOk.leaveConvoy {i} (h : s.memOk) : (State.leaveConvoy s i).memOk := by
  unfold State.leaveConvoy
  split <;> exact h
theorem State.memOk.heldBack (h : s.memOk) : (State.heldBack s).memOk := by
  unfold State.heldBack
  split <;> exact h

/-! ## Every instruction and event -/

theorem LeavesMem.exec {i} (h : s.memOk) : LeavesMem (exec i s) := by
  cases i with
  | add | addImm | sub | mul | mulh | div | rem | and | andImm | or | orImm | xor | xorImm | andn | shl | shr | sar | ror | shlImm |
    shrImm | sarImm | rorImm | min | max | set | setImm | sel | clz | ctz | popc | bswap | ext | ins | extImm | insImm | lim | addpc |
    lea | fence | ifence | jr =>
    exact .next h
  | ld => exact .runInstr (.bind .loadScalar fun _ => .doneX) h
  | st => exact .runInstr (.bind .storeScalar fun _ => .done1) h
  | ldaq _ _ sc => exact .execLdaq (_sc := sc) h
  | strl _ _ sc => exact .execStrl (_sc := sc) h
  | amo | cas => exact .runInstr (.bind .atomicScalar fun _ => .doneX) h
  | vfence => exact .execVfence h
  | b | j => exact .next h.branch
  | call => exact .next (.branch h)
  | btab => exact .execBtab h
  | bvany | bvall => exact .runInstr .maskBranch h
  | fadd | fsub | fmul | fdiv | fsqrt | fmin | fmax | fma => exact .runInstr .fpWrite h
  | fcmp => exact .runInstr .fpWriteX h
  | fcvt => exact .execFcvt h
  | fmov => exact .execFmov h
  | fclass => exact .runInstr (.bind .checkM fun _ => .doneX) h
  | crld => exact .runInstr (.bind .needFile fun _ => .doneX) h
  | crst => exact .execCrst h
  | semts => exact .execSemts h
  | semtry => exact .execSemtry h
  | semclr => exact .execSemclr h
  | sysc => exact .execSysc h
  | trap => exact .execTrap h
  | tret => exact .execTret h
  | idle => exact .execIdle h
  | idleX => exact .execIdleX h
  | brk => exact .ite (.next h) (.runInstr .throw h)
  | migrC => exact .execMigrC h
  | migrV => exact .execMigrV h
  | csrr | csrw | csrx => exact .runInstr .csrAct h
  | launch => exact .execLaunch h
  | signal _ _ sc => exact .execSignal (_sc := sc) h
  | waitsig => exact .execWaitsig h
  | gbar => exact .next (.gbarCheck h)
  | blind => exact .execBlind h
  | setvl => exact .execSetvl h
  | setvt => exact .execSetvt h
  | setmr => exact .execSetmr h
  | tld => exact .execTld h
  | tst => exact .execTst h
  | tcvt => exact .execTcvt h
  | tmma | tmmaS => exact .runInstr .tmmaAct h
  | tsend => exact .execTsend h
  | tsync => exact .execTsync h
  | convoy => exact .execConvoy h
  | vld | vlds | vldx | vst | vsts | vstx | vsave | vrstr | vadd | vsub | vmul | vmulh | vand | vor | vxor | vshl | vshr | vsar | vmin
    | vmax | vsadd | vssub | vfadd | vfsub | vfmul | vfdiv | vfma | vfsqrt | vfmin | vfmax | vfexp2 | vfrcp | vcvt | vqenc | vqdec |
    vhbfly | vscale | vperm | vslide | vsplat | vmerge | vcompr | vidx | vmvx | vmxv | vcmp | kop | kpopc | kfirst | kmov | vred |
    vscan | vamo | vamom | mzero | mma | mrd | mwr | xproj | xprojb | xmerge | xhload | xhstore | colbind | colfree | colwait =>
    exact .postInstr h
  | scld => exact .byClass (.bind .modHart fun _ => .scldAct) h
  | scst => exact .byClass .scstAct h
  | ctld => exact .byClass (.bind .modHart fun _ => .ctldAct) h
  | ctst => exact .byClass .ctstAct h
  | cpy => exact .execCpy h
  | cpywt => exact .execCpywt h
  | cpycan => exact .execCpycan h
  | nput => exact .execNput h
  | nget => exact .execNget h
  | namo => exact .execNamo h
  | nflush => exact .execNflush h
  | vloop => exact .execVloop h
  | powerUp => exact .execPowerUp
  | stringRailReady | configRequestRetry | mctpSetPowerLimit | mctpRemoveStringPower | mctpTelemetryRead | timerMatch | tmmaComplete |
    regionRevokeAccept | mailboxPendClear | deviceDoorbell | hostDpendClear | poolBackInvalidate | poolPortDown | debugNonceRequest |
    debugRevoke | poolPortUp | managementControllerInterrupt | refillBoundary =>
    exact .given h
  | systemFirmwareLoad => exact .given h.loadFirmware
  | fundamentalReset => exact .execFundamentalReset h
  | powerRemoval => exact .execPowerRemoval
  | railFault => exact .execRailFault h
  | stringMeasurement => exact .given (.ite h.measure h.tripString)
  | blindPeriodEnd => exact .execBlindPeriodEnd h
  | temperatureSample => exact .given (by split <;> exact h.readSensors)
  | bellowsAllocation => exact .execBellowsAllocation h
  | portPointChangeDone => exact .execPortPointChangeDone h
  | queueDoorbell | queueEnableObserved => exact .given h.serve
  | queueDisableObserved => exact .given (.ite h h.setStat)
  | recordCheck => exact .given h.checkHead
  | recordReady => exact .execRecordReady h
  | gangDispatch => exact .execGangDispatch h
  | priorityPromotion | headPin => exact .headEvent h
  | preemptDecision => exact .execPreemptDecision h
  | gangDeschedule => exact .execGangDeschedule h
  | gangRestore => exact .execGangRestore h
  | gangSave => exact .execGangSave h
  | gangResume => exact .execGangResume h
  | gangRetire => exact .execGangRetire h
  | mixWindowEnd => exact .execMixWindowEnd h
  | peelArrival => exact .execPeelArrival h
  | asyncTrapTake => exact .execAsyncTrapTake h
  | deadlockDetect => exact .execDeadlockDetect h
  | waitTimeout => exact .execWaitTimeout h
  | waitsigSatisfied => exact .execWaitsigSatisfied h
  | exchangeStepBegin => exact .execExchangeStepBegin h
  | exchangeStepComplete => exact .execExchangeStepComplete h
  | computeStepBegin => exact .execComputeStepBegin h
  | copyChunkComplete => exact .execCopyChunkComplete h
  | acqLoadWaitEnd => exact .execAcqLoadWaitEnd h
  | collectiveChunkReduced => exact .execCollectiveChunkReduced h
  | remotePacketArrival => exact .execRemotePacketArrival h
  | adapterResume => exact .execAdapterResume h
  | remotePageFaultTimeout => exact .execRemotePageFaultTimeout h
  | remoteAckTimeout | remoteRefusalArrival => exact .given h.connRefused
  | namoResponseArrival => exact .execNamoResponseArrival h
  | regionRevokeComplete => exact .given (.signalVa h.putN)
  | invalidateRange | invalidateAsid | invalidateAll => exact .given h.invalidate
  | invalidationComplete => exact .given (.signalDone h.setInv)
  | rebeicaMapObject => exact .execRebeicaMapObject h
  | rebeicaMapPatch => exact .execRebeicaMapPatch h
  | rebeicaUnmap => exact .execRebeicaUnmap h
  | rebeicaRequestDone => exact .execRebeicaRequestDone h
  | hostDoorbell => exact .given h.ringHost
  | hostSnpData => exact .execHostSnpData h
  | hostSnpInv => exact .execHostSnpInv h
  | hostSnpCur => exact .given (by split <;> exact h)
  | hostHdmRequest => exact .execHostHdmRequest h
  | debugGrant => exact .execDebugGrant h
  | debugHalt => exact .execDebugHalt h
  | debugResume => exact .execDebugResume h
  | debugSingleStep => exact .execDebugSingleStep h
  | debugRegisterAccess => exact .execDebugRegisterAccess h
  | debugMemoryAccess => exact .execDebugMemoryAccess h
  | registerWrite => exact .execRegisterWrite h
  | collectivePeerFreed => exact .execCollectivePeerFreed h
  | collectivePeerUnreachable => exact .execCollectivePeerUnreachable h

/-! ## A step -/

/-- What comes next has memory in its canonical form. -/
def Next.memOk : Next → Prop
  | .instr _ s => s.memOk
  | .event _ s => s.memOk
  | .out r => LeavesMem r
theorem LeavesMem.afterInstr {i r} (h : LeavesMem r) : LeavesMem (afterInstr i s r) := by
  cases r with
  | next t =>
    have k : (Machine.stepsEnd s (s.letGo t).count.countHold).memOk := .countHold (.ite (h t rfl) (h t rfl))
    unfold Machine.afterInstr
    exact .ite (.next k) (.ite (.next k) (.ite (.next k) (.next k)))
  | fault r => exact .fault
  | refused r => exact .refused
theorem LeavesMem.afterEvent {r} (h : s.memOk) (hr : LeavesMem r) : LeavesMem (afterEvent s r) := by
  unfold Machine.afterEvent
  split
  · next t => exact .next (hr t rfl :)
  · exact .next h
  · exact hr
/-- What a fetch leaves has memory in its canonical form. -/
def Fetched.memOk : Fetched → Prop
  | .instr _ s => s.memOk
  | .trap _ _ s => s.memOk
theorem State.memOk.fetch (h : s.memOk) : (fetch s).memOk := by
  unfold Machine.fetch
  split
  · next e => exact (KeepsMem.fetchParcels.run e h :)
  · next e => exact (KeepsMem.fetchParcels.run e h :)
  · next e =>
    have k := KeepsMem.fetchParcels.run e h
    split
    · exact k
    · split <;> exact k
theorem State.memOk.hartNext (h : s.memOk) : (hartNext s).memOk := by
  have k := h.fetch
  unfold Machine.hartNext
  split
  · exact LeavesMem.next h
  · split
    · next e => rw [e] at k; exact LeavesMem.takeTrap k
    · next e =>
      rw [e] at k
      split
      · exact LeavesMem.next k
      · split
        · exact LeavesMem.takeTrap k
        · exact k
theorem State.memOk.hartTurn (h : s.memOk) : (hartTurn s).memOk := by
  have k : (vectorGoes s).2.memOk := by
    unfold vectorGoes
    split
    · exact h
    · exact KeepsMem.drainAll s h
  unfold Machine.hartTurn
  split
  · exact h
  · split
    · next e =>
      rw [e] at k
      exact LeavesMem.ite (.next k) (.finish k)
    · next e =>
      rw [e] at k
      split
      · exact LeavesMem.next k
      · split
        · exact k.hartNext
        · exact LeavesMem.next k
theorem State.memOk.mayAct {l} (h : s.memOk) : (mayAct s l).memOk := by
  unfold Machine.mayAct
  split
  · split
    · exact h.hartTurn
    · exact LeavesMem.next h
  · split
    · exact h.hartTurn
    · exact h
theorem State.memOk.maySend (h : s.memOk) (e : maySend s = some t) : t.memOk := by
  unfold Machine.maySend at e
  split at e
  · cases e
  · split at e
    · cases e; exact h
    · cases e
theorem State.memOk.runsNext (h : s.memOk) : s.runsNext.memOk := by
  unfold State.runsNext
  split
  · next e =>
    have k := h.maySend e
    exact LeavesMem.next k
  · exact h.takeTurn.rotate.mayAct
theorem State.memOk.whatNext (h : s.memOk) : s.whatNext.memOk := by
  unfold State.whatNext
  split
  · exact LeavesMem.strike h
  · split
    · exact h
    · split
      · exact h.runsNext
      · exact LeavesMem.fault
theorem LeavesMem.step (h : s.memOk) : LeavesMem (step s) := by
  have k := h.whatNext
  unfold Machine.step
  split
  · next e => rw [e] at k; exact .afterInstr (.exec (.heldBack (.leaveConvoy k)))
  · next e => rw [e] at k; exact .afterEvent k (.exec k)
  · next e => rw [e] at k; exact k
end

/-- Settles O60: what comes next has the form (`whatNext`), and every instruction and event leaves it (`exec`). -/
theorem stepKeepsMemOk : Obligations.StepKeepsMemOk := fun _ t h e => LeavesMem.step h t e

end Sys2Proof.Machine
end

section
/-! SUPPORT. What reset leaves (01:R32; 05:R147-R161). -/
namespace Sys2Proof.Machine
open Sys2Proof

/-- Every code of a scale register is 0x7F, the scale of 1 (05:R147). -/
theorem getE_scReset : ∀ j < 256, getE 8 scReset.toNat j = 0x7F := by decide +kernel
theorem getX_reset (r : Reg) : Hart.reset.getX r = 0 := by simp [Hart.getX, Hart.reset]
theorem getF_reset (r : Reg) : Hart.reset.getF r = 0 := by simp [Hart.getF, Hart.reset]
theorem getV_reset (r : Reg) : Hart.reset.getV r = 0 := by simp [Hart.getV, Hart.reset]
theorem getSc_reset (n : BitVec 2) : Hart.reset.getSc n = scReset := by simp [Hart.getSc, Hart.reset]

/-- Settles O59: the values stand in `State.reset` and `Hart.reset`; those of register files are read entry by entry. -/
theorem resetState : Obligations.ResetState := by
  refine ⟨rfl, fun _ => rfl, rfl, rfl, fun r => ⟨getX_reset r, getF_reset r, getV_reset r⟩, rfl, rfl, rfl, rfl, rfl, rfl, rfl, rfl, rfl,
    rfl, rfl, rfl, rfl, rfl, rfl, fun n j hj => ?_⟩
  rw [getSc_reset]
  exact getE_scReset j hj

end Sys2Proof.Machine
end

section
/-! SUPPORT. Bring-up, resets, rails (01:R27-R34): one equation for each case of an event of the package. -/
namespace Sys2Proof.Machine
open Sys2Proof

/-- An event that can happen gives the state it names. -/
theorem given_next {ok : Bool} (name : String) (s : State) (h : ok = true) : given ok name s = .next s := by
  rw [given, if_pos h]

/-! ## Bytes dropped from the list -/

theorem memRead_filter (p : Nat → Bool) (x : Nat) : ∀ {lo : Nat} {m : List Host.Cell}, Memory.wfFrom lo m = true →
    memRead (m.filter fun c => p c.1) x = if p x then memRead m x else Memory.empty
  | _, [], _ => by simp [memRead]
  | lo, (a, b) :: t, w => by
    simp only [Memory.wfFrom, Bool.and_eq_true, decide_eq_true_eq] at w
    obtain ⟨_, ht⟩ := w
    have ih := memRead_filter p x ht
    have kept := Memory.wfFrom_filter (fun c => p c.1) ht
    rw [List.filter_cons]
    by_cases hx : x = a
    · subst hx
      split
      · simp [memRead]
      · rw [memRead_below (Nat.lt_succ_self x) kept]
    · have n : (x == a) = false := by simpa using hx
      split
      · by_cases hlt : x < a
        · simp [memRead, n, hlt]
        · simp [memRead, n, hlt, ih]
      · by_cases hlt : x < a
        · rw [memRead_below (by omega) kept]; simp [memRead, n, hlt]
        · rw [ih]; simp [memRead, n, hlt]
/-- A fundamental reset keeps the trip map and nothing else of memory (01:R22, R34). -/
theorem memRead_tripBytes {m : List Host.Cell} (a : Nat) (h : Memory.wf m = true) :
    memRead (tripBytes m) a = if tripMap ≤ a ∧ a < tripMap + 96 then memRead m a else 0 := by
  rw [tripBytes, memRead_filter (fun a => decide (tripMap ≤ a) && decide (a < tripMap + 96)) a h]
  simp [Memory.empty]

/-! ## Bring-up -/

/-- Where Rebeica's verification of what is in flash leaves bring-up, and what it says (01:R29 steps 2 to 5). -/
def verifyGoes : Phase := if flashVerifies 0 && flashVerifies 1 then .step 5 else .failed 2
def verifyTells : Out :=
  if flashVerifies 0 && flashVerifies 1 then .stringEnable true else .bootFailure 2 (if flashVerifies 0 then 1 else 0)
theorem bringUp_eq (s : State) : bringUp s = { s with phase := verifyGoes, out := s.out ++ [verifyTells] } := by
  unfold bringUp verifyGoes verifyTells
  split <;> rfl

/-- The system firmware's object passes its checks, placed at physical address 0 (01:R30). -/
def firmwareGood (s : State) : Bool :=
  let loaded := s.pokeN 0 (flashObject 2).1
  let o := firmwareHead loaded
  let len := (flashObject 2).2
  (flashObject 2).1.length == len && o.ok 0 len && Config.keySlot o.key && framesFree loaded (o.frames 0) && objSigned loaded 0 len o
theorem loadFirmware_bad {s : State} (h : firmwareGood s = false) :
    loadFirmware s = { s with phase := .failed 6, out := s.out ++ [.bootFailure 6 2] } := by
  -- the pages would be listed where terms are compared
  obtain ⟨pages, hp⟩ : ∃ p, p = bootPages := exists_eq
  unfold loadFirmware
  rw [← hp]
  exact if_neg fun k => Bool.false_ne_true (h.symm.trans k)
theorem loadFirmware_good {s : State} (h : firmwareGood s = true) :
    let len := (flashObject 2).2
    let loaded := s.pokeN 0 (flashObject 2).1
    let o := firmwareHead loaded
    ∃ m, loadFirmware s = { loaded with
      mem := m, phase := .running, icache := [],
      hart := ({ Hart.reset with lv := .m, pc := BitVec.ofNat 64 o.textOff, mcheck := s.hart.mcheck } : Hart).setX 1 (BitVec.ofNat 64 len),
      rebeica := { loaded.rebeica with
        permits := o.frames 0 ++ loaded.rebeica.permits, mapped := [⟨0, o.textOff, o.textLen, objDigest loaded 0 len⟩] } } := by
  obtain ⟨pages, hp⟩ : ∃ p, p = bootPages := exists_eq
  unfold loadFirmware
  rw [← hp]
  exact ⟨_, if_pos h⟩
/-- The harts, the gangs and Rebeica stay where the firmware's object is placed. -/
theorem pokeN_keeps (s : State) (pa : Nat) (b : List Byte) :
    (s.pokeN pa b).others = s.others ∧ (s.pokeN pa b).gangs = s.gangs ∧ (s.pokeN pa b).rebeica = s.rebeica := by
  unfold State.pokeN
  split
  · rw [writeAt_form]; exact ⟨rfl, rfl, rfl⟩
  · exact ⟨rfl, rfl, rfl⟩

/-! ## Each event -/

theorem exec_powerUp {s : State} (h : s.phase = .off) : exec .powerUp s = .next (bringUp (s.fresh (.step 1))) :=
  given_next _ _ (by rw [h]; rfl)
theorem exec_stringRailReady {s : State} (h : s.phase = .step 5) : exec .stringRailReady s = .next { s with phase := .step 6 } :=
  given_next _ _ (by rw [h]; rfl)
theorem exec_configRequestRetry {s : State} (h : s.phase = .step 6) : exec .configRequestRetry s = .next (s.say .configRetry) :=
  given_next _ _ (by rw [h]; rfl)
theorem exec_systemFirmwareLoad {s : State} (h : s.phase = .step 6) : exec .systemFirmwareLoad s = .next (loadFirmware s) := by
  show execSystemFirmwareLoad s = _
  exact given_next _ _ (by rw [h]; rfl)
theorem exec_fundamentalReset {s : State} (h : s.phase = .running ∨ ∃ n, s.phase = .step n) :
    exec .fundamentalReset s = .next (resetAll s) := by
  show execFundamentalReset s = _
  unfold execFundamentalReset
  obtain h | ⟨n, h⟩ := h <;> rw [h]
theorem exec_fundamentalReset_stopped {s : State}
    (h : (∃ n, s.phase = .failed n) ∨ s.phase = .overheated ∨ ∃ q, s.phase = .railFault q) : exec .fundamentalReset s = .next s := by
  show execFundamentalReset s = _
  unfold execFundamentalReset
  obtain ⟨n, h⟩ | h | ⟨q, h⟩ := h <;> rw [h]
theorem exec_powerRemoval {s : State} (h : s.phase ≠ .off) : exec .powerRemoval s = .next (s.fresh .off) :=
  given_next _ _ (by simpa using h)
theorem exec_railFault_unstarted {s : State} (r : Rail) (h : s.phase = .failed 2) : exec (.railFault r) s = .next s := by
  show execRailFault r s = _
  simp only [execRailFault, h]
theorem exec_railFault {s : State} (r : Rail) (ho : s.phase ≠ .off) (hf : s.phase ≠ .failed 2) (hr : ∀ q, s.phase ≠ .railFault q) :
    exec (.railFault r) s = .next
      { s with phase := .railFault r, poolUp := false, portsOn := [], out := s.out ++ (if r = .c then [] else [.railReport r]) } := by
  show execRailFault r s = _
  unfold execRailFault
  split
  · next h => exact absurd h ho
  · next q h => exact absurd h (hr q)
  · next h => exact absurd h hf
  · cases r <;> simp [State.say]

/-- What a fundamental reset leaves of memory: the trip map, at its addresses. -/
theorem resetAll_mem (s : State) : (resetAll s).mem = tripBytes s.mem := by
  unfold resetAll
  rw [bringUp_eq]

/-- Settles O44, event by event: `bringUp_eq` says where Rebeica's verification leads after power-up and after a reset alike. -/
theorem bringUpAndResets : Obligations.BringUpAndResets := by
  intro s r own verified goes tells object len loaded o good trips
  have tell : tells = [verifyTells] := by
    unfold tells verified verifyTells; rfl
  refine ⟨fun h => ?_, exec_stringRailReady, exec_configRequestRetry, fun h g => ?_, fun h g => ?_, fun hm h => ?_,
    exec_fundamentalReset_stopped, exec_powerRemoval, exec_railFault_unstarted r, exec_railFault r⟩
  · rw [exec_powerUp h, bringUp_eq, tell]
    rfl
  · obtain ⟨m, e⟩ := loadFirmware_good (s := s) g
    obtain ⟨ho, hg, hr⟩ := pokeN_keeps s 0 object
    refine ⟨_, exec_systemFirmwareLoad h, ?_⟩
    rw [e]
    exact ⟨rfl, rfl, by rw [← hr]; rfl, ho, hg⟩
  · rw [exec_systemFirmwareLoad h, loadFirmware_bad g]
  · refine ⟨_, exec_fundamentalReset h, fun a => ?_, ?_⟩
    · rw [resetAll_mem, memRead_tripBytes a hm]
      exact ⟨fun k => if_pos k, fun k => if_neg k⟩
    · unfold resetAll
      rw [bringUp_eq, tell]
      rfl

end Sys2Proof.Machine
end

section
/-! SUPPORT. Strings, and the harts as one list: what is read after each operation on them. -/
namespace Sys2Proof.Machine
open Sys2Proof

/-! ## Strings -/

/-- A string that no list holds is one as reset leaves it, under its number. -/
@[simp] theorem str_ix (s : State) (n : Nat) : (s.str n).ix = n := by
  unfold State.str
  split
  · next e => simpa using List.find?_some e
  · rfl
theorem str_of_strings {s t : State} (h : t.strings = s.strings) (n : Nat) : t.str n = s.str n := by
  unfold State.str; rw [h]
theorem str_setStr (s : State) {x : Str} {ix : Nat} (hx : x.ix = ix) (n : Nat) :
    (s.setStr x).str n = if n = ix then x else s.str n := by
  subst hx
  unfold State.setStr State.str
  by_cases h : n = x.ix
  · simp [h]
  · have e : ((s.strings.filter fun y => y.ix != x.ix).find? fun y => y.ix == n) = s.strings.find? fun y => y.ix == n := by
      rw [List.find?_filter]
      congr 1
      funext y
      by_cases hy : y.ix = n <;> simp [hy, h]
    have e' : (x.ix == n) = false := by simpa using Ne.symm h
    simp only [List.find?_cons, e', e, if_neg h]

/-! ## Harts -/

@[simp] theorem harts_modHarts (s : State) (p : Hart → Bool) (f : Hart → Hart) :
    (s.modHarts p f).harts = s.harts.map fun h => if p h then f h else h := rfl
theorem mem_modHarts_of_not {s : State} {p : Hart → Bool} {f : Hart → Hart} {h : Hart} (hp : p h = false) (hs : h ∈ s.harts) :
    h ∈ (s.modHarts p f).harts := by
  rw [harts_modHarts, List.mem_map]
  exact ⟨h, hs, by simp [hp]⟩
theorem mem_modHarts_of {s : State} {p : Hart → Bool} {f : Hart → Hart} {h : Hart} (hp : p h = true) (hs : h ∈ s.harts) :
    f h ∈ (s.modHarts p f).harts := by
  rw [harts_modHarts, List.mem_map]
  exact ⟨h, hs, by simp [hp]⟩
theorem mem_onString {s : State} {ix : Nat} {h : Hart} :
    h ∈ s.onString ix ↔ h ∈ s.harts ∧ h.resident = true ∧ h.cls ≠ .c ∧ h.stringIx = ix := by
  simp [State.onString, List.mem_filter, and_assoc]
theorem hartOf_id {s : State} {id : HartId} {h : Hart} (e : s.hartOf id = some h) : h.id = id := by
  simpa using List.find?_some e

end Sys2Proof.Machine
end

section
/-! SUPPORT. Heat, and what the management interface asks for (01:R25, R26, R28). -/
namespace Sys2Proof.Machine
open Sys2Proof

theorem mctpUp_of_up {s : State} (h : s.up = true) : s.mctpUp = true := by
  have k : s.phase = .running := by simpa [State.up] using h
  simp [State.mctpUp, k]

/-! ## Readings -/

/-- MCHECK event 1 of a sensor, on hart 0 of control core 0. -/
def warned (i : Nat) (h : Hart) : Hart := if h.id = ⟨0, 0⟩ then { h with mcheck := h.mcheck ++ [BitVec.ofNat 64 (2 ^ 56 + i)] } else h
/-- A sensor's reading before this one. -/
def State.reading (s : State) (i : Nat) : Nat := (s.thermal.lookup i).getD 0
theorem readSensor_rises {s : State} {i v : Nat} (hi : i < 782) (h : s.reading i < 1050 ∧ 1050 ≤ v) :
    readSensor s i v = { s with thermal := (i, v) :: s.thermal.filter (fun p => p.1 != i), heat := s.heat ++ [i],
                                hart := warned i s.hart, others := s.others.map (warned i) } := by
  have e : mcheckV 1 i = BitVec.ofNat 64 (2 ^ 56 + i) := by
    rw [mcheckV, Nat.mod_eq_of_lt (by omega), Nat.one_mul]
  have c : (decide ((s.thermal.lookup i).getD 0 < 1050) && decide (1050 ≤ v)) = true := by simpa [State.reading] using h
  unfold readSensor
  simp only [c, if_true, raiseMcheck, State.modHarts, e, beq_iff_eq]
  rfl
theorem readSensor_not_rises {s : State} {i v : Nat} (h : ¬ (s.reading i < 1050 ∧ 1050 ≤ v)) :
    readSensor s i v = { s with thermal := (i, v) :: s.thermal.filter (fun p => p.1 != i) } := by
  have c : ¬ (decide ((s.thermal.lookup i).getD 0 < 1050) && decide (1050 ≤ v)) = true := by simpa [State.reading] using h
  unfold readSensor
  rw [if_neg c]
theorem readSensors_mem : ∀ (l : List (Nat × Nat)) (s : State), (readSensors l s).mem = s.mem
  | [], _ => rfl
  | (i, v) :: l, s => by
    rw [readSensors, readSensors_mem l]
    unfold readSensor
    dsimp only
    split <;> rfl
theorem exec_temperatureSample {s : State} (l : List (Nat × Nat)) (h : s.sensing = true) :
    exec (.temperatureSample l) s = .next (if l.any (fun p => decide (1100 ≤ p.2))
      then ({ readSensors l s with phase := .overheated } : State).say .overtemp else readSensors l s) :=
  given_next _ _ h
/-- One reading: what it changes, and at 110 degrees the clocks. -/
theorem exec_temperatureSample_one {s : State} (i v : Nat) (h : s.sensing = true) :
    exec (.temperatureSample [(i, v)]) s = .next { readSensor s i v with
      phase := if 1100 ≤ v then .overheated else s.phase, out := s.out ++ (if 1100 ≤ v then [.overtemp] else []) } := by
  have keeps : (readSensor s i v).phase = s.phase ∧ (readSensor s i v).out = s.out := by
    unfold readSensor
    dsimp only
    split <;> exact ⟨rfl, rfl⟩
  obtain ⟨hp, ho⟩ := keeps
  rw [exec_temperatureSample _ h]
  by_cases hv : 1100 ≤ v
  · simp [hv, readSensors, State.say, ho]
  · simp [hv, readSensors, ← hp, ← ho]

/-! ## Requests of the management interface -/

theorem exec_mctpSetPowerLimit {s : State} {w : Nat} (h : s.up = true) (lo : 1200 ≤ w) (hi : w ≤ 4800) :
    exec (.mctpSetPowerLimit w) s = .next { s with bellows := { s.bellows with limit := w } } :=
  given_next _ _ (by simp [mctpUp_of_up h, lo, hi])
theorem exec_mctpRemoveStringPower {s : State} (h : s.up = true) : exec .mctpRemoveStringPower s = .next (s.say (.stringEnable false)) :=
  given_next _ _ (mctpUp_of_up h)
/-- No transfer of a ladder is read beyond its limit (01:R20). -/
theorem readings_ladder_le (s : State) (n : Nat) : s.readings.ladder.getD n 0 ≤ ladderLimit n := by
  unfold State.readings
  simp only [List.getD_eq_getElem?_getD, List.getElem?_map]
  rcases e : (List.range 768)[n]? with _ | m
  · exact Nat.zero_le _
  · obtain rfl : n = m := by simpa using (List.getElem?_eq_some_iff.mp e).2
    exact min_le_right _ _

/-! ## Ports and buckets -/

theorem exec_portPointChangeDone {s : State} {port : Nat} (h : s.up = true) (q : port < 16)
    (hp : (s.bellows.ports[port]'q).point ≠ (s.bellows.ports[port]'q).target) :
    exec (.portPointChangeDone port) s = .next
      { s with bellows := { s.bellows with
        ports := s.bellows.ports.set port { s.bellows.ports[port]'q with point := (s.bellows.ports[port]'q).target } q } } := by
  show execPortPointChangeDone port s = _
  unfold execPortPointChangeDone
  rw [dif_pos q]
  exact given_next _ _ (by simp [h, hp])
/-- A port heads for a point that its grant pays for (03:R95). -/
theorem allotPort_pays (s : State) (queued : List (Nat × Nat)) (quiet : List Nat) (l : Nat) (p : Port) :
    portTokens (allotPort s queued quiet l p).target ≤ (allotPort s queued quiet l p).grant := by
  unfold allotPort
  dsimp only
  generalize s.bellows.capped _ _ = g
  generalize demandPoint s queued quiet l p = want
  rcases e : [4, 3, 2, 1, 0].find? (fun q => decide (q ≤ want) && decide (portTokens q ≤ g)) with _ | q
  · exact Nat.zero_le g
  · have k := List.find?_some e
    simp only [Bool.and_eq_true, decide_eq_true_eq] at k
    exact k.2
theorem allotPorts_pay {s : State} {queued : List (Nat × Nat)} {quiet : List Nat} {p : Port}
    (h : p ∈ (allotPorts s queued quiet).toList) : portTokens p.target ≤ p.grant := by
  unfold allotPorts at h
  simp only [Vector.mem_toList_iff, Vector.mem_ofFn] at h
  obtain ⟨i, rfl⟩ := h
  exact allotPort_pays s queued quiet _ _
/-- A tenant's bucket after its port's refill; one that presented no request holds what it held (09:R272). -/
theorem mem_refill' {s : State} {port : Nat} {spent : List (BitVec 8 × Nat)} {p : Nat × BitVec 8 × Nat} (h : p ∈ refill' s port spent) :
    p.1 = port ∧ p.2.2 ≤ 2048 ∧ (p.2.1 ∉ spent.map (·.1) → p.2.2 = min 2048 (bucketOf s port p.2.1)) := by
  unfold refill' at h
  obtain ⟨t, _, rfl⟩ := List.mem_map.mp h
  refine ⟨rfl, min_le_left _ _, fun ht => ?_⟩
  have e : spent.lookup t = none := by
    rw [List.lookup_eq_none_iff]
    intro q hq
    rw [bne_iff_ne]
    rintro rfl
    exact ht (List.mem_map.mpr ⟨q, hq, rfl⟩)
  simp [e]
theorem exec_refillBoundary {s : State} {port : Nat} {spent : List (BitVec 8 × Nat)} (h : s.up = true) (hp : port < 3104)
    (hs : spendable s port spent = true) : exec (.refillBoundary port spent) s = .next
      { s with bellows := { s.bellows with buckets := refill' s port spent ++ s.bellows.buckets.filter fun p => p.1 != port } } :=
  given_next _ _ (by simp [h, hp, hs])

end Sys2Proof.Machine
end

section
/-! SUPPORT. An allocation (03:R94): the pool in proportion, and the tokens left over, one each. -/
namespace Sys2Proof.Machine
open Sys2Proof

/-! ## Shares -/

/-- Shares rounded down take no more than the pool, and leave less than one token for each. -/
theorem shares_bounds {T : Nat} (p : Nat) (hT : 0 < T) : ∀ d : List Nat, T * (d.map (· * p / T)).sum ≤ d.sum * p ∧
    d.sum * p ≤ T * ((d.map (· * p / T)).sum + d.length)
  | [] => by simp
  | x :: d => by
    obtain ⟨lo, hi⟩ := shares_bounds p hT d
    have e := Nat.div_add_mod (x * p) T
    have m := Nat.mod_lt (x * p) hT
    simp only [List.map_cons, List.sum_cons, List.length_cons, Nat.add_mul, Nat.mul_add] at *
    omega
theorem shares_sum_le {d : List Nat} {p : Nat} (h : p < d.sum) : (d.map (· * p / d.sum)).sum ≤ p :=
  Nat.le_of_mul_le_mul_left (shares_bounds p (by omega) d).1 (by omega)
theorem shares_left_le {d : List Nat} {p : Nat} (h : p < d.sum) : p - (d.map (· * p / d.sum)).sum ≤ d.length := by
  have k := Nat.le_of_mul_le_mul_left (shares_bounds p (by omega) d).2 (by omega : 0 < d.sum)
  omega

/-! ## Tokens left over -/

theorem sum_below (left : Nat) : ∀ n, ((List.range n).map fun i => if i < left then 1 else 0).sum = min n left
  | 0 => by simp
  | n + 1 => by
    rw [List.range_succ, List.map_append, List.sum_append, sum_below left n]
    by_cases h : n < left <;> simp [h] <;> omega
/-- Numbers counted round from k on are the numbers. -/
theorem range_rotate (n k : Nat) : (List.range n).map (fun i => (i + k) % n) = (List.range n).rotate k := by
  refine List.ext_getElem (by simp) fun i _ _ => ?_
  simp [List.getElem_rotate]
theorem sum_round {N left : Nat} (k : Nat) (h : left ≤ N) :
    ((List.range N).map fun i => if (i + k) % N < left then 1 else 0).sum = left := by
  have e : (fun i => if (i + k) % N < left then 1 else 0) = (fun i => if i < left then 1 else 0) ∘ fun i => (i + k) % N := rfl
  rw [e, ← List.map_map, range_rotate, ((List.rotate_perm _ _).map _).sum_eq, sum_below, min_eq_right h]
/-- As many strings receive a token left over as there are. -/
theorem sum_getsExtra (last : Nat) {left : Nat} (h : left ≤ 768) :
    ((List.range 768).map fun i => if getsExtra last left i then 1 else 0).sum = left := by
  have c : (last + 1) % 768 ≤ 768 := (Nat.mod_lt _ (by omega)).le
  have e : (fun i => if getsExtra last left i then 1 else 0) = fun i => if (i + (768 - (last + 1) % 768)) % 768 < left then 1 else 0 := by
    funext i
    have k : getsExtra last left i = decide ((i + (768 - (last + 1) % 768)) % 768 < left) := by rw [getsExtra, Nat.add_sub_assoc c]
    rw [k]
    simp only [decide_eq_true_eq]
  rw [e]
  exact sum_round _ h
theorem not_getsExtra_zero (last i : Nat) : getsExtra last 0 i = false := by simp [getsExtra]

/-! ## What an allocation leaves -/

theorem str_of_map {t : State} {N : Nat} {one : Nat → Str} (h : t.strings = (List.range N).map one) (ho : ∀ i, (one i).ix = i)
    {n : Nat} (hn : n < N) : t.str n = one n := by
  have e : (List.range N).find? (fun i => i == n) = some n := by
    rw [List.find?_range_eq_some]
    exact ⟨by simp, by simpa using hn, fun j hj => by simpa using hj.ne⟩
  unfold State.str
  rw [h, List.find?_map]
  have f : ((fun x : Str => x.ix == n) ∘ one) = fun i => i == n := by funext i; simp [ho]
  rw [f, e]
  rfl
/-- The caps that heat sets come first. -/
def capsSet (s : State) : State := { s with bellows := { s.bellows with caps := stepCaps s s.thermal s.bellows.caps } }
/-- The tokens that strings share. -/
@[irreducible] def poolOf (s : State) (mw : Nat) (queued : List (Nat × Nat)) (quiet : List Nat) : Nat :=
  2 * s.bellows.limit - ceilDiv mw 500 - ((allotPorts (capsSet s) queued quiet).toList.map (·.grant)).sum
/-- The strings' demands. -/
@[irreducible] def demandsOf (s : State) (power : List (Nat × Nat)) : List Nat := (List.range 768).map (stringDemand (capsSet s) power)
/-- A string's tokens before any is left over: its demand, or its share of a pool too small. -/
def lowOf (total pool x : Nat) : Nat := if total ≤ pool then x else x * pool / total
/-- Tokens left over. -/
@[irreducible] def leftOf (d : List Nat) (pool : Nat) : Nat := if d.sum ≤ pool then 0 else pool - (d.map (lowOf d.sum pool)).sum
/-- A string after an allocation, of which it gets g. -/
def granted (s : State) (power : List (Nat × Nat)) (n d g : Nat) : Str :=
  { s.str n with grant := g, demand := d, power := (power.lookup n).getD 0, spow := spowOf d g,
                 fillTok := fillerTokens n (tileSteps s (s.str n)) }

/-- What a state with other strings, budgets and schedule keeps of the first. -/
theorem eq_of_update {s t : State} {l : List Str} {b : Bellows} {c : Sched} (h : t = { s with strings := l, bellows := b, sched := c }) :
    t.strings = l ∧ t.bellows = b ∧ t = { s with strings := t.strings, bellows := t.bellows, sched := c } := by
  subst h; exact ⟨rfl, rfl, rfl⟩

section
variable (s : State) (mw : Nat) (power queued : List (Nat × Nat)) (quiet : List Nat)

/-- A string's tokens: its demand or its share, and one that was left over. -/
@[irreducible] def grantOf (n : Nat) : Nat :=
  (((demandsOf s power).map (lowOf (demandsOf s power).sum (poolOf s mw queued quiet))).getD n 0) +
    if getsExtra s.bellows.last (leftOf (demandsOf s power) (poolOf s mw queued quiet)) n then 1 else 0
theorem allocate_form : allocate s mw power queued quiet =
    { s with
      strings := (List.range 768).map fun n => granted s power n ((demandsOf s power).getD n 0) (grantOf s mw power queued quiet n),
      bellows := { (capsSet s).bellows with
        epoch := s.bellows.epoch + 1, last := (s.bellows.last + leftOf (demandsOf s power) (poolOf s mw queued quiet)) % 768,
        ports := allotPorts (capsSet s) queued quiet, fixedMw := mw },
      sched := { s.sched with freePool := poolOf s mw queued quiet - (demandsOf s power).sum } } := by
  -- the strings would be listed where terms are compared
  obtain ⟨range, hr⟩ : ∃ f, f = List.range := exists_eq
  unfold allocate grantOf leftOf demandsOf poolOf
  rw [← hr]
  rfl
theorem demandsOf_length : (demandsOf s power).length = 768 := by
  unfold demandsOf
  generalize 768 = N
  rw [List.length_map, List.length_range]
theorem getD_map_lt {l : List Nat} {n : Nat} (f : Nat → Nat) (h : n < l.length) : (l.map f).getD n 0 = f (l.getD n 0) := by
  simp [List.getD_eq_getElem?_getD, h]
theorem map_getD_range (l : List Nat) : (List.range l.length).map (fun n => l.getD n 0) = l :=
  List.ext_getElem (by simp) fun n h _ => by simp at h; simp [h]

theorem allocate_strings : (allocate s mw power queued quiet).strings = (List.range 768).map fun n =>
    granted s power n ((demandsOf s power).getD n 0) (grantOf s mw power queued quiet n) :=
  (eq_of_update (allocate_form s mw power queued quiet)).1
theorem allocate_str {n : Nat} (hn : n < 768) : (allocate s mw power queued quiet).str n =
    granted s power n ((demandsOf s power).getD n 0) (grantOf s mw power queued quiet n) :=
  str_of_map (allocate_strings s mw power queued quiet) (fun i => str_ix s i) hn
theorem sum_demands : ((List.range 768).map fun n => ((allocate s mw power queued quiet).str n).demand).sum = (demandsOf s power).sum := by
  have e : ((List.range 768).map fun n => ((allocate s mw power queued quiet).str n).demand) =
      (List.range 768).map fun n => (demandsOf s power).getD n 0 := by
    refine List.map_congr_left fun n hn => ?_
    rw [allocate_str s mw power queued quiet (List.mem_range.mp hn), granted]
  rw [e, ← demandsOf_length s power, map_getD_range]

/-- A pool that is large enough gives every string its demand. -/
theorem grantOf_of_le {n : Nat} (hn : n < 768) (h : (demandsOf s power).sum ≤ poolOf s mw queued quiet) :
    grantOf s mw power queued quiet n = (demandsOf s power).getD n 0 := by
  rw [grantOf, leftOf, if_pos h, not_getsExtra_zero, getD_map_lt _ (by rwa [demandsOf_length]), lowOf, if_pos h]
  rfl
/-- One too small gives each its share, and one of the tokens left over. -/
theorem grantOf_of_lt {n : Nat} (hn : n < 768) (h : poolOf s mw queued quiet < (demandsOf s power).sum) :
    grantOf s mw power queued quiet n =
      (demandsOf s power).getD n 0 * poolOf s mw queued quiet / (demandsOf s power).sum +
      if getsExtra s.bellows.last (leftOf (demandsOf s power) (poolOf s mw queued quiet)) n then 1 else 0 := by
  rw [grantOf, getD_map_lt _ (by rwa [demandsOf_length]), lowOf, if_neg (by omega)]
/-- All of a pool too small is granted. -/
theorem sum_grantOf (h : poolOf s mw queued quiet < (demandsOf s power).sum) :
    ((List.range 768).map (grantOf s mw power queued quiet)).sum = poolOf s mw queued quiet := by
  have low : lowOf (demandsOf s power).sum (poolOf s mw queued quiet) = (· * poolOf s mw queued quiet / (demandsOf s power).sum) := by
    funext x; rw [lowOf, if_neg (by omega)]
  have left : leftOf (demandsOf s power) (poolOf s mw queued quiet) ≤ 768 := by
    rw [leftOf, if_neg (by omega), low, ← demandsOf_length s power]
    exact shares_left_le h
  have sums : ((List.range 768).map (grantOf s mw power queued quiet)).sum =
      ((demandsOf s power).map (lowOf (demandsOf s power).sum (poolOf s mw queued quiet))).sum +
      leftOf (demandsOf s power) (poolOf s mw queued quiet) := by
    have all := map_getD_range ((demandsOf s power).map (lowOf (demandsOf s power).sum (poolOf s mw queued quiet)))
    rw [List.length_map, demandsOf_length] at all
    rw [← sum_getsExtra s.bellows.last left, ← congrArg List.sum all, ← List.sum_map_add]
    exact congrArg List.sum (List.map_congr_left fun n _ => by rw [grantOf])
  rw [sums, leftOf, if_neg (by omega), low]
  have := shares_sum_le h
  omega

theorem allocate_bellows : (allocate s mw power queued quiet).bellows = { (capsSet s).bellows with
    epoch := s.bellows.epoch + 1, last := (s.bellows.last + leftOf (demandsOf s power) (poolOf s mw queued quiet)) % 768,
    ports := allotPorts (capsSet s) queued quiet, fixedMw := mw } :=
  (eq_of_update (allocate_form s mw power queued quiet)).2.1
theorem allocate_pool : 2 * s.bellows.limit - (mw + 499) / 500 -
    ((allocate s mw power queued quiet).bellows.ports.toList.map (·.grant)).sum =
    poolOf s mw queued quiet := by
  rw [allocate_bellows, poolOf, ceilDiv, Nat.add_sub_assoc (by omega)]
/-- What an allocation does, as 03:R94 says it of the state that it leaves. -/
theorem allocate_gives {t : State} (e : t = allocate s mw power queued quiet) :
    let d (n : Nat) := (t.str n).demand
    let g (n : Nat) := (t.str n).grant
    let total := ((List.range 768).map d).sum
    let pool := 2 * s.bellows.limit - (mw + 499) / 500 - (t.bellows.ports.toList.map (·.grant)).sum
    t = { s with strings := t.strings, bellows := t.bellows, sched := { s.sched with freePool := pool - total } } ∧
    (∀ n, n < 768 → (t.str n).fillTok = fillerTokens n (tileSteps s (s.str n))) ∧ t.bellows.epoch = s.bellows.epoch + 1 ∧
    t.bellows.limit = s.bellows.limit ∧ (total ≤ pool → ∀ n, n < 768 → g n = d n) ∧
    (pool < total → ((List.range 768).map g).sum = pool ∧ ∀ n, n < 768 → d n * pool / total ≤ g n ∧ g n ≤ d n * pool / total + 1) ∧
    ∀ p, p ∈ t.bellows.ports.toList → portTokens p.target ≤ p.grant := by
  intro d g total pool
  have hd : ∀ n, n < 768 → d n = (demandsOf s power).getD n 0 := fun n hn => by
    show (t.str n).demand = _
    rw [e, allocate_str s mw power queued quiet hn, granted]
  have hg : ∀ n, n < 768 → g n = grantOf s mw power queued quiet n := fun n hn => by
    show (t.str n).grant = _
    rw [e, allocate_str s mw power queued quiet hn, granted]
  have htotal : total = (demandsOf s power).sum :=
    (congrArg (fun t : State => ((List.range 768).map fun n => (t.str n).demand).sum) e).trans (sum_demands s mw power queued quiet)
  have hpool : pool = poolOf s mw queued quiet := by
    rw [← allocate_pool s mw power queued quiet, ← e]
  have hgs : (List.range 768).map g = (List.range 768).map (grantOf s mw power queued quiet) :=
    List.map_congr_left fun n hn => hg n (List.mem_range.mp hn)
  have hb := allocate_bellows s mw power queued quiet
  rw [← e] at hb
  clear_value total pool
  refine ⟨?_, fun n hn => ?_, ?_, ?_, fun h n hn => ?_, fun h => ⟨?_, fun n hn => ?_⟩, fun p hp => ?_⟩
  · rw [htotal, hpool]
    exact (eq_of_update (e.trans (allocate_form s mw power queued quiet))).2.2
  · rw [e, allocate_str s mw power queued quiet hn, granted]
  · rw [hb]
  · rw [hb, capsSet]
  · rw [hg n hn, hd n hn]
    exact grantOf_of_le s mw power queued quiet hn (by rwa [← htotal, ← hpool])
  · rw [hgs, hpool]
    exact sum_grantOf s mw power queued quiet (by rwa [← htotal, ← hpool])
  · rw [hg n hn, hd n hn, htotal, hpool, grantOf_of_lt s mw power queued quiet hn (by rwa [← htotal, ← hpool])]
    split <;> omega
  · rw [hb] at hp
    exact allotPorts_pay hp

end

end Sys2Proof.Machine
end

section
/-! SUPPORT. A measurement of a string (03:R84-R92), the end of a BLIND period (03:R89), and a trip (01:R22). -/
namespace Sys2Proof.Machine
open Sys2Proof

/-! ## The balancer -/

/-- The balancer leaves a string filled, at rest, or throttled by no more than 48. -/
theorem balance_cases (permitted : Bool) (imb under : Nat) (u : List Nat) (x : Str) :
    (balance permitted imb under u x).ix = x.ix ∧ (balance permitted imb under u x).sbal ≤ 48 := by
  unfold balance
  extract_lets calm fill rest b thr
  have hfill : fill.ix = x.ix ∧ fill.sbal ≤ 48 := ⟨rfl, Nat.zero_le _⟩
  have hrest : rest.ix = x.ix ∧ rest.sbal ≤ 48 := ⟨rfl, Nat.zero_le _⟩
  have hthr : thr.ix = x.ix ∧ thr.sbal ≤ 48 := ⟨rfl, min_le_left _ _⟩
  cases x.state <;> (dsimp only; split_ifs <;> assumption)
/-- A balanced string stays so while its tiles draw alike. -/
theorem balance_rests {permitted : Bool} {imb under : Nat} {u : List Nat} {x : Str} (h : x.state = .bal) (hu : under ≤ 23) :
    balance permitted imb under u x = { x with state := .bal, sbal := 0, calm := 0, steps := [0, 0, 0, 0] } := by
  have k : ¬ 23 < under := by omega
  simp [balance, h, k]
/-- The steps in force are noted for their string, and their tokens leave the free pool. -/
theorem drawFill_form (s : State) (ix : Nat) : ∃ sets tok free,
    drawFill s ix = { s.setStr { s.str ix with sets := sets, fillTok := tok } with sched := { s.sched with freePool := free } } :=
  ⟨_, _, _, rfl⟩
theorem drawFill_str (s : State) (ix : Nat) : ∃ sets tok, ∀ n,
    (drawFill s ix).str n = if n = ix then { s.str ix with sets := sets, fillTok := tok } else s.str n := by
  obtain ⟨sets, tok, free, e⟩ := drawFill_form s ix
  rw [e]
  exact ⟨sets, tok, fun n => (str_of_strings rfl n).trans
    (str_setStr s (x := { s.str ix with sets := sets, fillTok := tok }) (str_ix s ix) n)⟩

/-! ## Cycles that a window adds to the harts' counters -/

/-- A hart with its part of a window counted. -/
def counted (x : Str) (n own : Nat) (h : Hart) : Hart := { countWindow x n own h with seen := (0, 0) }
/-- All harts of a window. -/
def countHarts (x : Str) (l : List (HartId × Nat × Nat)) (s : State) : State :=
  l.foldl (fun s e => s.modHartOf e.1 (counted x e.2.1 e.2.2)) s
theorem countHarts_form (x : Str) : ∀ (l : List (HartId × Nat × Nat)) (s : State),
    countHarts x l s = { s with hart := (countHarts x l s).hart, others := (countHarts x l s).others }
  | [], _ => rfl
  | e :: l, s => countHarts_form x l (s.modHartOf e.1 (counted x e.2.1 e.2.2))
theorem countHarts_str (x : Str) (l : List (HartId × Nat × Nat)) (s : State) (n : Nat) : (countHarts x l s).str n = s.str n :=
  str_of_strings (by rw [countHarts_form]) n
theorem mem_countHarts_of_not {x : Str} {h : Hart} : ∀ {l : List (HartId × Nat × Nat)} {s : State}, h.id ∉ l.map (·.1) → h ∈ s.harts →
    h ∈ (countHarts x l s).harts
  | [], _, _, hs => hs
  | e :: l, s, hl, hs => by
    rw [List.map_cons, List.mem_cons, not_or] at hl
    have k : h ∈ (s.modHartOf e.1 (counted x e.2.1 e.2.2)).harts := mem_modHarts_of_not (beq_false_of_ne hl.1) hs
    exact mem_countHarts_of_not (l := l) hl.2 k
/-- A window lists a hart once: its cycles there are counted. -/
theorem mem_countHarts_of {x : Str} {h : Hart} {n own : Nat} : ∀ {l : List (HartId × Nat × Nat)} {s : State}, (l.map (·.1)).Nodup →
    (h.id, n, own) ∈ l → h ∈ s.harts → counted x n own h ∈ (countHarts x l s).harts
  | [], _, _, hl, _ => absurd hl List.not_mem_nil
  | e :: l, s, hd, hl, hs => by
    rw [List.map_cons, List.nodup_cons] at hd
    obtain ⟨hd, hd'⟩ := hd
    rcases List.mem_cons.mp hl with eq | hl
    · subst eq
      have k : counted x n own h ∈ (s.modHartOf h.id (counted x n own)).harts := mem_modHarts_of (beq_self_eq_true h.id) hs
      exact mem_countHarts_of_not (l := l) hd k
    · have ne : h.id ≠ e.1 := fun eq => hd (List.mem_map.mpr ⟨_, hl, eq⟩)
      have k : h ∈ (s.modHartOf e.1 (counted x e.2.1 e.2.2)).harts := mem_modHarts_of_not (beq_false_of_ne ne) hs
      exact mem_countHarts_of (l := l) hd' hl k

/-! ## A measurement -/

/-- A window that the string can give names harts of the string, each once. -/
theorem measurable_harts {s : State} {ix : Nat} {mv cur : List Nat} {w : Window} (h : measurable s ix mv cur w = true) :
    (w.harts.map (·.1)).Nodup ∧ ∀ id, id ∈ w.harts.map (·.1) → ∃ o, o ∈ s.onString ix ∧ o.id = id := by
  unfold measurable at h
  simp only [Bool.and_eq_true, List.all_eq_true, List.any_eq_true, decide_eq_true_eq, beq_iff_eq] at h
  obtain ⟨⟨⟨-, nodup⟩, on⟩, -⟩ := h
  refine ⟨nodup, fun id hid => ?_⟩
  obtain ⟨e, he, rfl⟩ := List.mem_map.mp hid
  obtain ⟨o, ho, ⟨⟨eq, -⟩, -⟩, -⟩ := on e he
  exact ⟨o, ho, eq⟩
/-- A hart resides on a string. -/
def residesOn (ix : Nat) (h : Hart) : Bool := h.resident && h.cls != .c && h.stringIx == ix
theorem mem_onString_iff {s : State} {ix : Nat} {h : Hart} : h ∈ s.onString ix ↔ h ∈ s.harts ∧ residesOn ix h = true := List.mem_filter
/-- A hart of a string no longer under BLIND. -/
def unblinded (h : Hart) : Hart := { h with blind := 0, blindSteps := none }
/-- What the balancer makes of a string from a measurement's currents. -/
def balanced (s : State) (ix : Nat) (cur : List Nat) (w : Window) : Str :=
  let x := s.str ix
  let total := cur.map (64 * ·)
  let star := List.zipWith (fun c f => c - f) total
    (List.zipWith (fun n f => (List.zipWith (· * ·) n f).sum * stepCurrent ix) x.sets w.fill)
  let under := imbalance ix star
  let u := star.map (unlimitedSteps ix star)
  let y := balance (s.fillPermitted x star u) (imbalance ix total) under u x
  { y with imb := imbalance ix total, under := under, peak := max x.peak (imbalance ix total), cur := star, expect := star,
           sets := y.steps.map ([·]), winBal := x.sbal, winPow := x.spow }
/-- A measurement replaces the string, ends BLIND on its harts, notes the steps in force, and counts the window. -/
theorem measure_form (s : State) (ix : Nat) (cur : List Nat) (w : Window) : measure s ix cur w =
    countHarts (s.str ix) w.harts (drawFill ((s.setStr (balanced s ix cur w)).modHarts (residesOn ix) unblinded) ix) := rfl
theorem balanced_ix (s : State) (ix : Nat) (cur : List Nat) (w : Window) : (balanced s ix cur w).ix = ix :=
  (balance_cases _ _ _ _ _).1.trans (str_ix s ix)
/-- A measurement sets its string, and nothing else but the free pool and harts. -/
theorem measure_str (s : State) (ix : Nat) (cur : List Nat) (w : Window) : ∃ sets tok, ∀ n, (measure s ix cur w).str n =
    if n = ix then { balanced s ix cur w with sets := sets, fillTok := tok } else s.str n := by
  rw [measure_form]
  generalize hm : (s.setStr (balanced s ix cur w)).modHarts (residesOn ix) unblinded = m
  have at_m (n : Nat) : m.str n = if n = ix then balanced s ix cur w else s.str n := by
    rw [← hm]
    exact (str_of_strings rfl n).trans (str_setStr s (balanced_ix s ix cur w) n)
  obtain ⟨sets, tok, e⟩ := drawFill_str m ix
  refine ⟨sets, tok, fun n => ?_⟩
  rw [countHarts_str, e, at_m ix, if_pos rfl, at_m n]
  split <;> rfl
theorem measure_keeps (s : State) (ix : Nat) (cur : List Nat) (w : Window) :
    (measure s ix cur w).mem = s.mem ∧ (measure s ix cur w).out = s.out := by
  rw [measure_form, countHarts_form]
  exact ⟨rfl, rfl⟩
theorem mem_measure_of_not {s : State} {ix : Nat} {mv cur : List Nat} {w : Window} (hm : measurable s ix mv cur w = true) {h : Hart}
    (hs : h ∈ s.harts) (off : ∀ o, o ∈ s.onString ix → o.id ≠ h.id) : h ∈ (measure s ix cur w).harts := by
  rw [measure_form]
  have away : residesOn ix h = false := Bool.eq_false_iff.mpr fun k => off h (mem_onString_iff.mpr ⟨hs, k⟩) rfl
  have k : h ∈ ((s.setStr (balanced s ix cur w)).modHarts (residesOn ix) unblinded).harts := mem_modHarts_of_not away hs
  refine mem_countHarts_of_not (fun hid => ?_) k
  obtain ⟨o, ho, eq⟩ := (measurable_harts hm).2 _ hid
  exact off o ho eq
theorem mem_measure_of {s : State} {ix : Nat} {mv cur : List Nat} {w : Window} (hm : measurable s ix mv cur w = true) {h : Hart}
    {n own : Nat} (on : h ∈ s.onString ix) (hw : (h.id, n, own) ∈ w.harts) :
    counted (s.str ix) n own (unblinded h) ∈ (measure s ix cur w).harts := by
  rw [measure_form]
  obtain ⟨hs, hr⟩ := mem_onString_iff.mp on
  have k : unblinded h ∈ ((s.setStr (balanced s ix cur w)).modHarts (residesOn ix) unblinded).harts := mem_modHarts_of hr hs
  exact mem_countHarts_of (h := unblinded h) (measurable_harts hm).1 hw k

/-! ## A trip -/

theorem paClass_tripMap {ix : Nat} (h : ix < 768) : paClass (tripMap + ix / 8) = some .scb := by
  have lo : tripMap = 0x8800021100 := rfl
  have hi : Config.hbmEnd = 0x8000000000 := rfl
  rw [lo]
  unfold paClass
  rw [hi, if_neg (by omega), if_neg (by simp; omega), if_neg (by simp; omega), if_pos (by simp; omega)]
/-- A store to the control block takes back the host's copy of the line, if there is one. -/
theorem touchHost_out {s : State} {pa : Nat} (h : paClass pa = some .scb) : ∃ l, (touchHost s true pa).out = s.out ++ l := by
  unfold touchHost
  rw [h]
  dsimp only
  split
  · exact ⟨_, rfl⟩
  · exact ⟨[], (List.append_nil _).symm⟩
  · next e => exact absurd e (by simp)
/-- The bit of a string in the trip map is set. -/
def recordTrip (s : State) (ix : Nat) : State := s.poke (tripMap + ix / 8) 1 (s.peek (tripMap + ix / 8) 1 ||| 2 ^ (ix % 8))
theorem recordTrip_gives {s : State} {ix : Nat} (h : ix < 768) (hm : s.memOk) (hb : s.bad = []) :
    (∃ l, (recordTrip s ix).out = s.out ++ l) ∧ (recordTrip s ix).strings = s.strings ∧ (recordTrip s ix).harts = s.harts ∧
    ∀ a, memRead (recordTrip s ix).mem a =
      if a = tripMap + ix / 8 then memRead s.mem a ||| BitVec.ofNat 8 (2 ^ (ix % 8)) else memRead s.mem a := by
  have c := paClass_tripMap h
  unfold recordTrip
  generalize tripMap + ix / 8 = p at c
  generalize et : s.poke p 1 (s.peek p 1 ||| 2 ^ (ix % 8)) = t
  have e : t = touchHost { s with mem := memWrite s.mem p (BitVec.ofNat 8 (s.peek p 1 ||| 2 ^ (ix % 8))),
                                  unseen := pruned s.unseen [p], bad := healed s.bad [p] } true p := by
    have k : s.takes [p] = true := by simp [State.takes, permitted, c, hb]
    rw [← et]
    show (if s.takes [p] then _ else s) = _
    rw [if_pos k]
    rfl
  have byte : BitVec.ofNat 8 (s.peek p 1 ||| 2 ^ (ix % 8)) = memRead s.mem p ||| BitVec.ofNat 8 (2 ^ (ix % 8)) := by
    simp [State.peek, memReadN, leNat, BitVec.ofNat_or]
  refine ⟨e ▸ touchHost_out c, ?_, ?_, fun a => ?_⟩
  · rw [e, touchHost_form]
  · rw [e, touchHost_form]
    rfl
  · rw [e, touchHost_form, byte]
    refine (memRead_memWrite p a _ hm).trans ?_
    split
    · next eq => rw [eq]
    · rfl
/-- What an operation on harts leaves true of each, a list of them keeps for one. -/
theorem exists_mem_modHarts {P : Hart → Prop} {s : State} {p : Hart → Bool} {f : Hart → Hart} (keeps : ∀ h, P h → P (f h))
    (h : ∃ g, g ∈ s.harts ∧ P g) : ∃ g, g ∈ (s.modHarts p f).harts ∧ P g := by
  obtain ⟨g, hg, hP⟩ := h
  rcases hp : p g
  · exact ⟨g, mem_modHarts_of_not hp hg, hP⟩
  · exact ⟨f g, mem_modHarts_of hp hg, keeps g hP⟩
/-- Harts that a string's trip loses. -/
def lostWith (s : State) (ix : Nat) (h : Hart) : Bool :=
  (s.onString ix ++ s.harts.filter (fun h => h.flying == some .v && (h.goal.map (fun g => 640 + g.1 / 4)) == some ix)).any (·.id == h.id)
/-- The string's state notes the trip. -/
def tripStr (s : State) (ix : Nat) : State := s.setStr { s.str ix with tripped := true }
theorem tripString_form (s : State) (ix : Nat) : ∃ p q v, tripString s ix =
    (raiseExtint (raiseMcheck (recordTrip (tripStr ((s.modHarts (lostWith s ix) fun h => { h with dead := true, vq := [] }).modHarts p
      fun h => { h with copies := [] }) ix) ix) q v) 4).say (.tripReport ix) :=
  ⟨_, _, _, rfl⟩
/-- A trip sets its string's state, is recorded in the trip map and reported, and loses the harts that reside there. -/
theorem tripString_gives {s t : State} {ix : Nat} (hi : ix < 768) (hm : s.memOk) (hb : s.bad = []) (et : t = tripString s ix) :
    (∀ n, t.str n = if n = ix then { s.str ix with tripped := true } else s.str n) ∧ (∃ l, t.out = s.out ++ l ++ [.tripReport ix]) ∧
    (∀ a, memRead t.mem a = if a = tripMap + ix / 8 then memRead s.mem a ||| BitVec.ofNat 8 (2 ^ (ix % 8)) else memRead s.mem a) ∧
    ∀ h, h ∈ s.onString ix → ∃ g, g ∈ t.harts ∧ g.id = h.id ∧ g.dead = true := by
  obtain ⟨p, q, v, e⟩ := tripString_form s ix
  rw [et, e]
  generalize hl : (s.modHarts (lostWith s ix) fun h => { h with dead := true, vq := [] }).modHarts p
    (fun h => { h with copies := [] }) = lost
  have frame : lost.strings = s.strings ∧ lost.mem = s.mem ∧ lost.out = s.out ∧ lost.bad = s.bad := by
    rw [← hl]; exact ⟨rfl, rfl, rfl, rfl⟩
  obtain ⟨strs, mem, out, bad⟩ := frame
  have ok : (tripStr lost ix).memOk := by
    show Memory.wf lost.mem = true
    rw [mem]; exact hm
  obtain ⟨⟨l, hout⟩, hstr, hharts, hmem⟩ := recordTrip_gives (s := tripStr lost ix) hi ok (bad.trans hb)
  refine ⟨fun n => ?_, ⟨l, ?_⟩, fun a => (hmem a).trans ?_, fun h on => ?_⟩
  · have str : (tripStr lost ix).str n = _ := str_setStr lost (x := { lost.str ix with tripped := true }) (str_ix lost ix) n
    rw [str_of_strings strs, str_of_strings strs] at str
    exact (str_of_strings hstr n).trans str
  · rw [← out]
    exact congrArg (· ++ [Out.tripReport ix]) hout
  · rw [← mem]; rfl
  · have dead : ∃ g, g ∈ lost.harts ∧ g.id = h.id ∧ g.dead = true := by
      obtain ⟨hs, _⟩ := mem_onString.mp on
      have hl' : lostWith s ix h = true := by
        simp only [lostWith, List.any_eq_true]
        exact ⟨h, List.mem_append_left _ on, beq_self_eq_true h.id⟩
      rw [← hl]
      exact exists_mem_modHarts (fun _ k => k) ⟨_, mem_modHarts_of hl' hs, rfl, rfl⟩
    have dead' : ∃ g, g ∈ (recordTrip (tripStr lost ix) ix).harts ∧ g.id = h.id ∧ g.dead = true := hharts ▸ dead
    have checked : ∃ g, g ∈ (raiseMcheck (recordTrip (tripStr lost ix) ix) q v).harts ∧ g.id = h.id ∧ g.dead = true := by
      unfold raiseMcheck
      exact exists_mem_modHarts (fun _ k => k) dead'
    have told : ∃ g, g ∈ (raiseExtint (raiseMcheck (recordTrip (tripStr lost ix) ix) q v) 4).harts ∧ g.id = h.id ∧ g.dead = true := by
      unfold raiseExtint State.modHartOf
      exact exists_mem_modHarts (fun _ k => k) checked
    exact told

end Sys2Proof.Machine
end

section
/-! PROOF. O45: heat, power budgets, port points, strings and BLIND. -/
namespace Sys2Proof.Machine
open Sys2Proof

/-- One reading (01:R26). -/
theorem temperatureSample_one {s : State} {i v : Nat} (h : s.sensing = true) (hi : i < 782) :
    let rises : Prop := (s.thermal.lookup i).getD 0 < 1050 ∧ 1050 ≤ v
    ∃ t, exec (.temperatureSample [(i, v)]) s = .next t ∧ t.thermal.lookup i = some v ∧
      (rises → t.hart = warned i s.hart ∧ t.others = s.others.map (warned i)) ∧ (¬ rises → t.hart = s.hart ∧ t.others = s.others) ∧
      t.heat = s.heat ++ (if (s.thermal.lookup i).getD 0 < 1050 ∧ 1050 ≤ v then [i] else []) ∧
      t = { s with thermal := t.thermal, heat := t.heat, hart := t.hart, others := t.others,
                   phase := if 1100 ≤ v then .overheated else s.phase,
                   out := s.out ++ (if 1100 ≤ v then [.overtemp] else []) } := by
  intro rises
  refine ⟨_, exec_temperatureSample_one i v h, ?_⟩
  have first (l : List (Nat × Nat)) : ((i, v) :: l).lookup i = some v := by simp
  by_cases hr : rises
  · rw [readSensor_rises hi hr, if_pos hr]
    exact ⟨first _, fun _ => ⟨rfl, rfl⟩, fun k => absurd hr k, rfl, rfl⟩
  · rw [readSensor_not_rises hr, if_neg hr]
    exact ⟨first _, fun k => absurd k hr, fun _ => ⟨rfl, rfl⟩, (List.append_nil _).symm, rfl⟩
/-- A list of readings. -/
theorem temperatureSample_list {s : State} (l : List (Nat × Nat)) (h : s.sensing = true) :
    ∃ t, exec (.temperatureSample l) s = .next t ∧ t.mem = s.mem ∧ ((∃ p, p ∈ l ∧ 1100 ≤ p.2) → t.phase = .overheated) := by
  refine ⟨_, exec_temperatureSample l h, ?_, fun hot => ?_⟩
  · split <;> exact readSensors_mem l s
  · rw [if_pos (by simpa [List.any_eq_true] using hot)]
    rfl
/-- Telemetry tells what the state holds, and no ladder's transfer beyond its limit. -/
theorem telemetryRead {s : State} (h : s.up = true) : ∃ x : Telemetry,
    exec .mctpTelemetryRead s = .next { s with out := s.out ++ [.telemetry x] } ∧
    (∀ n, x.measured.ladder.getD n 0 ≤ ladderLimit n) ∧ x.thermal = s.thermal ∧ x.heat = s.heat ∧
    x.power = ((List.range 768).map fun n => (n, (s.str n).power)) ∧ x.grants = ((List.range 768).map fun n => (n, (s.str n).grant)) ∧
    x.ports = s.bellows.ports.toList.map (·.point) ∧ x.portGrants = s.bellows.ports.toList.map (·.grant) ∧
    x.trips = (s.strings.filter (·.tripped)).map (·.ix) := by
  -- the strings would be listed where terms are compared
  obtain ⟨range, hr⟩ : ∃ f, f = List.range := exists_eq
  have e : exec .mctpTelemetryRead s = execMctpTelemetryRead s := rfl
  rw [e, execMctpTelemetryRead, ← hr]
  exact ⟨_, given_next _ _ (mctpUp_of_up h), readings_ladder_le s, rfl, rfl, rfl, rfl, rfl, rfl, rfl⟩
theorem exec_stringMeasurement {s : State} {ix : Nat} {mv cur : List Nat} {w : Window} (up : s.up = true) (hi : ix < 768)
    (ht : (s.str ix).tripped = false) (hm : measurable s ix mv cur w = true) : exec (.stringMeasurement ix mv cur w) s =
      .next (if mv.all inProtection then measure s ix cur w else tripString s ix) :=
  given_next _ _ (by simp [up, hi, ht, hm])
theorem refill_gives {s : State} {port : Nat} {spent : List (BitVec 8 × Nat)} (up : s.up = true) (hp : port < 3104)
    (hs : spendable s port spent = true) :
    ∃ b, exec (.refillBoundary port spent) s = .next { s with bellows := { s.bellows with buckets := b } } ∧
      (∀ p, p.1 ≠ port → (p ∈ b ↔ p ∈ s.bellows.buckets)) ∧
      ∀ p, p ∈ b → p.1 = port → p.2.2 ≤ 2048 ∧ (p.2.1 ∉ spent.map (·.1) → p.2.2 = min 2048 (bucketOf s port p.2.1)) := by
  refine ⟨_, exec_refillBoundary up hp hs, fun p hne => ?_, fun p hb eq => ?_⟩
  · rw [List.mem_append, List.mem_filter]
    exact ⟨fun k => k.elim (fun r => absurd (mem_refill' r).1 hne) (·.1), fun k => .inr ⟨k, bne_iff_ne.mpr hne⟩⟩
  · rcases List.mem_append.mp hb with r | r
    · exact (mem_refill' r).2
    · exact absurd eq (bne_iff_ne.mp (List.mem_filter.mp r).2)
/-- The window's cycles are counted by the cause that stretched them. -/
theorem counted_eq (x : Str) (n own : Nat) (h : Hart) : counted x n own (unblinded h) =
    { h with blind := 0, blindSteps := none, seen := (0, 0), fill := h.fill + BitVec.ofNat 64 own,
             thrBal := h.thrBal + (if 0 < x.winBal ∧ x.winPow ≤ x.winBal then BitVec.ofNat 32 n else 0),
             thrPow := h.thrPow + (if x.winBal < x.winPow then BitVec.ofNat 32 n else 0) } := by
  have add (c : Prop) [Decidable c] (a b : BitVec 32) : (if c then a + b else a) = a + (if c then b else 0) := by
    split
    · rfl
    · exact (BitVec.add_zero a).symm
  simp only [counted, countWindow, unblinded, Bool.and_eq_true, decide_eq_true_eq, add]
/-- A measurement within the protection window. -/
theorem measure_gives {s t : State} {ix : Nat} {mv cur : List Nat} {win : Window} (hm : measurable s ix mv cur win = true)
    (et : t = measure s ix cur win) : t.mem = s.mem ∧ t.out = s.out ∧
      (∀ n, n ≠ ix → t.str n = s.str n) ∧ (t.str ix).winBal = (s.str ix).sbal ∧ (t.str ix).winPow = (s.str ix).spow ∧
      (∀ h, h ∈ s.harts → (∀ o, o ∈ s.onString ix → o.id ≠ h.id) → h ∈ t.harts) ∧
      (∀ h n own, h ∈ s.onString ix → (h.id, n, own) ∈ win.harts → counted (s.str ix) n own (unblinded h) ∈ t.harts) ∧
      (t.str ix).imb = imbalance ix (cur.map (64 * ·)) ∧ (t.str ix).peak = max (s.str ix).peak (t.str ix).imb ∧ (t.str ix).sbal ≤ 48 ∧
      ((s.str ix).state = .bal → (t.str ix).under ≤ 23 →
        (t.str ix).state = .bal ∧ (t.str ix).sbal = 0 ∧ (t.str ix).steps = [0, 0, 0, 0]) := by
  subst et
  obtain ⟨sets, tok, hstr⟩ := measure_str s ix cur win
  obtain ⟨mem, out⟩ := measure_keeps s ix cur win
  have here := hstr ix
  rw [if_pos rfl] at here
  refine ⟨mem, out, fun n hn => by rw [hstr, if_neg hn], ?_, ?_, fun h hs off => mem_measure_of_not hm hs off,
    fun h n own on hw => mem_measure_of hm on hw, ?_, ?_, ?_, fun hb hu => ?_⟩
  · rw [here]; rfl
  · rw [here]; rfl
  · rw [here]; rfl
  · rw [here]; rfl
  · rw [here]
    exact (balance_cases _ _ _ _ _).2
  · rw [here] at hu ⊢
    dsimp only [balanced] at hu ⊢
    rw [balance_rests hb hu]
    exact ⟨rfl, rfl, rfl⟩
/-- The announced cycles have passed (03:R89). -/
theorem blindPeriodEnd_gives {s : State} {id : HartId} {h : Hart} (up : s.up = true) (hh : s.hartOf id = some h) (hb : h.blind ≠ 0) :
    let off (o : Hart) : Hart := if o.id = id then { o with blind := 0, blindSteps := none } else o
    ∃ t, exec (.blindPeriodEnd id) s = .next t ∧
      t = { s with hart := off s.hart, others := s.others.map off, strings := t.strings,
                   sched := { s.sched with freePool := t.sched.freePool } } := by
  have e : exec (.blindPeriodEnd id) s = .next (unblind s h) := by
    show execBlindPeriodEnd id s = _
    unfold execBlindPeriodEnd
    rw [hh]
    exact given_next _ _ (by simp [up, hb])
  refine ⟨_, e, ?_⟩
  obtain ⟨sets, tok, free, form⟩ := drawFill_form (s.modHartOf h.id (fun h => { h with blind := 0, blindSteps := none })) h.stringIx
  rw [unblind, form, hartOf_id hh]
  simp only [State.modHartOf, State.modHarts, beq_iff_eq]
  rfl

/-- Settles O45. Heat, requests, ports and buckets each by the equation of their event; an allocation by the form of its grants, each
string's share and at most one of the tokens left over; a measurement by what the balancer may set and the harts its window lists; a
trip by its store to the map and the harts that stay lost while it is reported. -/
theorem heatBudgetsAndStrings : Obligations.HeatBudgetsAndStrings := by
  unfold Obligations.HeatBudgetsAndStrings
  intro s i v w mw port ix l power queued quiet mv cur win spent id warn rises
  refine ⟨temperatureSample_one, temperatureSample_list l, fun up => ⟨exec_mctpSetPowerLimit up, exec_mctpRemoveStringPower up,
    telemetryRead up, ⟨allocate s mw power queued quiet, given_next _ _ up, allocate_gives s mw power queued quiet (Eq.refl _)⟩,
    exec_portPointChangeDone up, refill_gives up, fun hi ht hm => ⟨fun within => ?_, fun outside hok hb => ?_⟩,
    fun h => blindPeriodEnd_gives up⟩⟩
  · obtain ⟨mem, out, strs, bal, pow, off, on, imb, peak, sbal, rest⟩ := measure_gives hm (Eq.refl _)
    refine ⟨measure s ix cur win, ?_, mem, out, strs, bal, pow, off, fun h n own ho hw _ => ?_, imb, peak, sbal, rest⟩
    · rw [exec_stringMeasurement up hi ht hm, if_pos within]
    · have k := on h n own ho hw
      rw [counted_eq] at k
      exact k
  · obtain ⟨strs, out, mem, dead⟩ := tripString_gives hi hok hb (Eq.refl (tripString s ix))
    refine ⟨tripString s ix, ?_, ?_, fun n hn => ?_, out, mem, fun h hs hr hc hx => dead h (mem_onString.mpr ⟨hs, hr, hc, hx⟩)⟩
    · rw [exec_stringMeasurement up hi ht hm, if_neg (by rw [outside]; decide)]
    · rw [strs, if_pos rfl]
    · rw [strs, if_neg hn]

end Sys2Proof.Machine
end

section
/-! SUPPORT. The class checks of 02:R52, and the operations of the cluster file (02:R38; 13:R389; 15:R442, R443): one equation for each way
through an instruction. -/
namespace Sys2Proof.Machine
open Sys2Proof

/-! ## Classes -/

theorem runM_needT_pass {i : Instr} {s : State} (h : s.hart.cls = .t) : runM (needT i) s = (.ok ⟨⟩, s) := by
  simp [needT, runM_bind, h]
theorem runM_needT_fail {i : Instr} {s : State} (h : s.hart.cls ≠ .t) : runM (needT i) s = (.error (.trap .cls (headWord i)), s) := by
  simp [needT, runM_bind, h]
theorem runM_needCV_pass {i : Instr} {s : State} (h : s.hart.cls ≠ .t) : runM (needCV i) s = (.ok ⟨⟩, s) := by
  simp [needCV, runM_bind, h]
theorem runM_needCV_fail {i : Instr} {s : State} (h : s.hart.cls = .t) : runM (needCV i) s = (.error (.trap .cls (headWord i)), s) := by
  simp [needCV, runM_bind, h]

/-! ## Which harts have a file -/

/-- The hart's gang has C-chiplet registers (02:R38). -/
def State.crf (s : State) : Bool := match s.gang s.hart.id.gang with | some g => g.crf | none => false
theorem crf_iff (s : State) : s.crf = true ↔ ∃ g, s.gang s.hart.id.gang = some g ∧ g.crf = true := by
  unfold State.crf
  cases s.gang s.hart.id.gang <;> simp
/-- A hart with a cluster file. -/
def State.hasFile (s : State) : Prop := s.hart.cls = .v ∨ s.hart.cls = .c ∧ s.crf = true
theorem runM_needFile_pass {i : Instr} {n : Nat} {s : State} (h : s.hasFile) : runM (needFile i n) s = (.ok ⟨⟩, s) := by
  obtain h | ⟨h, crf⟩ := h
  · simp [needFile, runM_bind, runM_needCV_pass (i := i) (s := s) (by simp [h]), h]
  · unfold State.crf at crf
    simp [needFile, runM_bind, runM_needCV_pass (i := i) (s := s) (by simp [h]), h]
    exact crf
theorem runM_needFile_noCrf {i : Instr} {n : Nat} {s : State} (h : s.hart.cls = .c) (crf : s.crf = false) :
    runM (needFile i n) s = (.error (.trap .access (BitVec.ofNat 64 n)), s) := by
  unfold State.crf at crf
  simp [needFile, runM_bind, runM_needCV_pass (i := i) (s := s) (by simp [h]), h]
  exact crf
theorem runM_needFile_t {i : Instr} {n : Nat} {s : State} (h : s.hart.cls = .t) :
    runM (needFile i n) s = (.error (.trap .cls (headWord i)), s) := by
  simp [needFile, runM_bind, runM_needCV_fail (i := i) h]
@[simp] theorem runM_modFile (f : ClusterFile → ClusterFile) (s : State) :
    runM (modFile f) s = (.ok ⟨⟩, s.setFile s.hart.fileNo (f (s.file s.hart))) := rfl

/-! ## Each instruction -/

@[simp] theorem acquire_hart (s : State) (id : HartId) : (s.acquire id).hart = s.hart := by rw [acquire_form]

/-- The file of the acting hart replaced. -/
def State.putFile (s : State) (g : ClusterFile) : State := s.setFile s.hart.fileNo g
/-- A file's semaphore bit. -/
def semBit (m : BitVec 8) : BitVec 256 := (1 : BitVec 256) <<< m.toNat

theorem exec_crld {d : Reg} {n : BitVec 6} {s : State} (h : s.hasFile) :
    exec (.crld d n) s = .next (s.result d ((s.file s.hart).cr[n.toNat]'n.isLt)) := by
  refine runInstr_ok ?_
  rw [runM_bind, runM_needFile_pass h]
  rfl
theorem exec_crst {a : Reg} {n : BitVec 6} {s : State} (h : s.hasFile) : exec (.crst a n) s =
    .next ((s.putFile { s.file s.hart with cr := (s.file s.hart).cr.set n.toNat (s.getX a) n.isLt }).setPc (s.hart.pc + 4)) := by
  refine runInstr_ok ?_
  rw [runM_bind, runM_needFile_pass h]
  rfl
theorem exec_semtry_set {d : Reg} {m : BitVec 8} {s : State} (h : s.hasFile) (b : (s.file s.hart).sem.getLsbD m.toNat = true) :
    exec (.semtry d m) s = .next ((s.putFile { s.file s.hart with sem := (s.file s.hart).sem ||| semBit m }).result d 1) := by
  refine runInstr_ok ?_
  rw [runM_bind, runM_needFile_pass h]
  simp only [runM_bind, runM_modFile, b]
  rfl
theorem exec_semtry_clear {d : Reg} {m : BitVec 8} {s : State} (h : s.hasFile) (b : (s.file s.hart).sem.getLsbD m.toNat = false) :
    exec (.semtry d m) s =
      .next (((s.putFile { s.file s.hart with sem := (s.file s.hart).sem ||| semBit m }).acquire s.hart.id).result d 0) := by
  refine runInstr_ok ?_
  rw [runM_bind, runM_needFile_pass h]
  simp only [runM_bind, runM_modFile, b]
  rfl
theorem exec_semts_clear {m : BitVec 8} {s : State} (h : s.hasFile) (b : (s.file s.hart).sem.getLsbD m.toNat = false) :
    exec (.semts m) s = .next { (s.putFile { s.file s.hart with sem := (s.file s.hart).sem ||| semBit m }).acquire s.hart.id with
      hart := { s.hart.endWait with pc := s.hart.pc + 4 } } := by
  refine runInstr_ok ?_
  rw [runM_bind, runM_needFile_pass h]
  simp only [b]
  show runM doneWait ((s.putFile _).acquire s.hart.id) = _
  rw [runM_doneWait, acquire_hart]
  rfl
/-- A hart that finds the bit set joins the line, unless it stands there. -/
def ClusterFile.joined (f : ClusterFile) (m : BitVec 8) (id : HartId) : ClusterFile :=
  { f with waiters := if f.waiters.any (fun w => w.2 == id) then f.waiters else f.waiters ++ [(m, id)] }
theorem exec_semts_set {m : BitVec 8} {s : State} (h : s.hasFile) (b : (s.file s.hart).sem.getLsbD m.toNat = true) :
    exec (.semts m) s = .next { (if (s.file s.hart).waiters.any (fun w => w.2 == s.hart.id) then s
      else s.putFile ((s.file s.hart).joined m s.hart.id)) with hart := s.hart.waitHere (.semts m) } := by
  show runInstr _ s = _
  rw [runInstr, runM_bind, runM_needFile_pass h]
  simp only [b, ClusterFile.joined]
  cases w : (s.file s.hart).waiters.any (fun w => w.2 == s.hart.id) <;> rfl
theorem exec_semclr_none {m : BitVec 8} {s : State} (h : s.hasFile) (l : (s.file s.hart).waiters.find? (fun w => w.1 == m) = none) :
    exec (.semclr m) s = .next ((s.putFile { s.file s.hart with sem := (s.file s.hart).sem &&& ~~~semBit m }).setPc (s.hart.pc + 4)) := by
  refine runInstr_ok ?_
  rw [runM_bind, runM_needFile_pass h]
  simp only [l]
  rfl
/-- The first in line receives the bit, and its SEMTS completes (15:R442, R443). -/
theorem exec_semclr_some {m : BitVec 8} {s : State} {w : BitVec 8 × HartId} (h : s.hasFile)
    (l : (s.file s.hart).waiters.find? (fun w => w.1 == m) = some w) (other : w.2 ≠ s.hart.id) : exec (.semclr m) s =
      .next ((((s.putFile { s.file s.hart with waiters := (s.file s.hart).waiters.filter (fun x => x.2 != w.2) }).modHartOf w.2
        Hart.passWait).acquire w.2).setPc (s.hart.pc + 4)) := by
  refine runInstr_ok ?_
  rw [runM_bind, runM_needFile_pass h]
  simp only [l]
  show runM done1 (State.acquire (State.modHartOf (s.putFile _) w.2 Hart.passWait) w.2) = _
  have me : (State.modHartOf (s.putFile { s.file s.hart with waiters := (s.file s.hart).waiters.filter (fun x => x.2 != w.2) }) w.2
      Hart.passWait).hart = s.hart := if_neg fun k => other (eq_of_beq k).symm
  rw [runM_done1, State.advance, acquire_hart, me]
  rfl

/-! ## Files -/

theorem file_of_files {s t : State} {h : Hart} {f : ClusterFile} (e : t.files = (s.setFile h.fileNo f).files) : t.file h = f := by
  simp [State.file, State.setFile, e]

/-- Settles O23: a hart with a file runs each instruction on it, and every other hart stops at the check of class or of CRF. -/
theorem clusterFileOperations : Obligations.ClusterFileOperations := by
  unfold Obligations.ClusterFileOperations
  intro s d a n m h f crf may put bit line
  refine ⟨fun k => ?_, fun hc nocrf => ?_, fun ht => ?_⟩
  · have own : s.hasFile := k.imp_right fun p => ⟨p.1, (crf_iff s).mpr p.2⟩
    refine ⟨exec_crld own, exec_crst own, exec_semtry_set own, fun b => ⟨exec_semtry_clear own b, exec_semts_clear own b⟩, fun b => ?_,
      exec_semclr_none own, fun w => exec_semclr_some own⟩
    refine ⟨_, exec_semts_set own b, rfl, ?_⟩
    split
    · exact ⟨rfl, rfl, rfl, rfl⟩
    · next away =>
      have line : (f.joined m h.id).waiters = f.waiters ++ [(m, h.id)] := if_neg away
      have here {u : State} (e : u.files = (s.setFile h.fileNo (f.joined m h.id)).files) : u.file h = f.joined m h.id := file_of_files e
      exact ⟨(congrArg _ (here rfl)).trans line, (congrArg ClusterFile.cr (here rfl)).trans rfl,
        (congrArg ClusterFile.sem (here rfl)).trans rfl, rfl⟩
  · have none : s.crf = false := Bool.eq_false_iff.mpr fun k => nocrf ((crf_iff s).mp k)
    have stops (i : Instr) (k : Nat) (act : Unit → M Unit) : runInstr (needFile i k >>= act) s = takeTrap s .access (BitVec.ofNat 64 k) h.pc := by
      rw [runInstr, runM_bind, runM_needFile_noCrf hc none, finish_trap]
    exact ⟨stops _ _ _, stops _ _ _, stops _ _ _, stops _ _ _, stops _ _ _⟩
  · have stops (i : Instr) (k : Nat) (act : Unit → M Unit) : runInstr (needFile i k >>= act) s = takeTrap s .cls (headWord i) h.pc := by
      rw [runInstr, runM_bind, runM_needFile_t ht, finish_trap]
    exact ⟨stops _ n.toNat _, stops _ n.toNat _, stops _ m.toNat _, stops _ m.toNat _, stops _ m.toNat _⟩

end Sys2Proof.Machine
end

section
/-! SUPPORT. IDLE, IDLE.X and MIGR (14:R407, R420, R421; 02:R52-R54). -/
namespace Sys2Proof.Machine
open Sys2Proof

/-! ## IDLE and IDLE.X -/

/-- Something is pending where one of the four causes is. -/
theorem pendingAsync_isEmpty (s : State) :
    s.pendingAsync.isEmpty = false ↔
      s.hart.mcheck ≠ [] ∨ s.hart.preempt ≠ none ∨ s.hart.timecmp.toNat ≤ s.time.toNat ∨ s.hart.extint ≠ [] := by
  unfold State.pendingAsync
  rw [← BitVec.ule_iff_toNat_le]
  cases s.hart.mcheck <;> cases s.hart.preempt <;> cases s.hart.extint <;> cases s.hart.timecmp.ule s.time <;> simp

/-- The hart goes on after its wait. -/
def State.pastWait (s : State) : State := { s with hart := { s.hart.endWait with pc := s.hart.pc + 4 } }
theorem runM_doneWait' (s : State) : runM doneWait s = (.ok (), s.pastWait) := runM_doneWait s

/-- IDLE's wait is over where something is pending that the hart will not take now. -/
def State.idlesOn (s : State) : Prop := s.pendingAsync.isEmpty = false ∧ (s.takeable = none ∨ s.hart.stepping = true)
theorem idlesOn_iff (s : State) :
    s.idlesOn ↔ ¬ (s.pendingAsync.isEmpty || (s.takeable.isSome && !s.hart.stepping)) = true := by
  unfold State.idlesOn
  generalize s.pendingAsync.isEmpty = e
  cases e <;> cases s.takeable <;> cases s.hart.stepping <;> simp
theorem runM_idleWait_over (i : Instr) {s : State} (h : s.idlesOn) : runM (idleWait i) s = (.ok (), s.pastWait) := by
  rw [idleWait, runM_bind, runM_get]
  simp only [if_neg ((idlesOn_iff s).mp h)]
  exact runM_doneWait' s
theorem runM_idleWait_waits (i : Instr) {s : State} (h : ¬ s.idlesOn) :
    runM (idleWait i) s = (.error .wait, { s with hart := s.hart.waitHere i }) := by
  rw [idleWait, runM_bind, runM_get]
  simp only [if_pos (not_not.mp fun n => h ((idlesOn_iff s).mpr n))]
  exact runM_waitAt i s

/-- A PREEMPT is outstanding at K or M. -/
def Hart.yields (h : Hart) : Bool := h.lv != .a && h.preempt.isSome
theorem execIdle_waits {s : State} (y : s.hart.yields = false) : exec .idle s = runInstr (idleWait .idle) s := by
  show runInstr (if s.hart.yields = true then _ else _) s = _
  rw [y]
  rfl
theorem execIdle_yields {s : State} (y : s.hart.yields = true) (q : s.hart.vq = []) (n : s.hart.namoPend = []) :
    exec .idle s = .next ({ s with hart := { s.hart with yielded := true, preempt := none } } : State).pastWait := by
  show runInstr (if s.hart.yields = true then _ else _) s = _
  rw [y, if_pos rfl, q, n]
  rfl
theorem execIdle_blocked {s : State} (y : s.hart.yields = true) (q : s.hart.vq ≠ [] ∨ s.hart.namoPend ≠ []) :
    exec .idle s = .next s := by
  show runInstr (if s.hart.yields = true then _ else _) s = _
  have b : (!s.hart.vq.isEmpty || !s.hart.namoPend.isEmpty) = true := by
    simpa [List.isEmpty_iff] using q
  rw [y, if_pos rfl, b]
  rfl

theorem execIdleX_first {s : State} (g : s.hart.id.gang = 0) : exec .idleX s = runInstr (idleWait .idleX) s := by
  show runInstr (if (s.hart.id.gang == 0) = true then _ else _) s = _
  rw [g]
  rfl
theorem execIdleX_queued {s : State} (g : s.hart.id.gang ≠ 0) (q : s.hart.vq ≠ []) : exec .idleX s = .next s := by
  show runInstr (if (s.hart.id.gang == 0) = true then _ else _) s = _
  have b : (!s.hart.vq.isEmpty) = true := by simpa [List.isEmpty_iff] using q
  rw [if_neg (by simpa using g), b]
  rfl
/-- The hart has ended, and the barriers of its gang that awaited it complete. -/
def State.idleEnd (s : State) : State :=
  let t := ({ s with hart := { s.hart with ended := true } } : State).pastWait
  tsyncCheck (gbarCheck t s.hart.id.gang) s.hart.id.gang
theorem execIdleX_ends {s : State} (g : s.hart.id.gang ≠ 0) (q : s.hart.vq = []) : exec .idleX s = .next s.idleEnd := by
  show runInstr (if (s.hart.id.gang == 0) = true then _ else _) s = _
  rw [if_neg (by simpa using g), q]
  rfl

theorem gbarCheck_mem (s : State) (g : BitVec 32) : (gbarCheck s g).mem = s.mem := by
  unfold gbarCheck
  dsimp only
  split
  · rw [acquireGang_form]; rfl
  · rfl
theorem tsyncCheck_mem (s : State) (g : BitVec 32) : (tsyncCheck s g).mem = s.mem := by
  unfold tsyncCheck
  split
  · rfl
  · split <;> rfl
theorem tsyncCheck_hart (s : State) (g : BitVec 32) : (tsyncCheck s g).hart = s.hart := by
  unfold tsyncCheck
  split
  · rfl
  · split <;> rfl
/-- What the gang barrier's completion leaves of a hart that waits no more. -/
theorem gbarCheck_ended (s : State) (g : BitVec 32) (w : s.hart.waitOn = none) :
    (gbarCheck s g).hart.ended = s.hart.ended ∧ (gbarCheck s g).hart.waitOn = none := by
  unfold gbarCheck
  dsimp only
  split
  · rw [acquireGang_form]
    dsimp only [State.modHarts]
    split
    · dsimp only
      split
      · exact ⟨rfl, rfl⟩
      · exact ⟨rfl, w⟩
    · exact ⟨rfl, w⟩
  · exact ⟨rfl, w⟩
theorem idleEnd_ended (s : State) : s.idleEnd.hart.ended = true ∧ s.idleEnd.hart.waitOn = none := by
  unfold State.idleEnd
  rw [tsyncCheck_hart]
  exact gbarCheck_ended _ _ rfl
theorem idleEnd_mem (s : State) : s.idleEnd.mem = s.mem := by
  unfold State.idleEnd
  rw [tsyncCheck_mem, gbarCheck_mem]
  rfl

end Sys2Proof.Machine
end

section
/-! SUPPORT. The Peel's write of an image leaves all but memory, what follows accesses, and three fields of the hart (05:R166, R169). -/
namespace Sys2Proof.Machine
open Sys2Proof

/-- What the accesses of a device agent may change, with the hart's VES and VDIRTY. -/
def imageFrame (s t : State) : Prop :=
  t = { s with hart := { s.hart with ves := t.hart.ves, vdirty := t.hart.vdirty }, mem := t.mem, unseen := t.unseen, bad := t.bad,
               tlb := t.tlb, walks := t.walks, hostLines := t.hostLines, hostCopies := t.hostCopies, poolLines := t.poolLines,
               out := t.out, agenda := t.agenda }
theorem imageFrame.rfl {s : State} : imageFrame s s := Eq.refl s
theorem imageFrame.trans {s t u : State} (h : imageFrame s t) (k : imageFrame t u) : imageFrame s u := by
  unfold imageFrame at *
  rw [h] at k
  exact k
theorem imageFrame_noteXlat (s : State) (c : Ctx) (va : Word) (n : Nat) : imageFrame s (noteXlat s c va n) := by
  unfold imageFrame
  rw [noteXlat_form]
theorem imageFrame_touchLines (s : State) (w : Bool) (l : List Nat) : imageFrame s (touchLines s w l) := by
  unfold imageFrame
  rw [touchLines_form]
theorem imageFrame_putAt (s : State) (l : List Nat) (b : List Byte) : imageFrame s (s.putAt l b) := by
  unfold imageFrame
  rw [putAt_form]

/-- An action stays within that frame, wherever it stops. -/
def Frames {α : Type} (m : M α) : Prop := ∀ s, imageFrame s (runM m s).2

section
variable {α β : Type}
theorem Frames.pure {a : α} : Frames (pure a) := fun _ => .rfl
theorem Frames.throw {e : Stop} : Frames (throw e : M α) := fun _ => .rfl
theorem Frames.modify {f : State → State} (hf : ∀ s, imageFrame s (f s)) : Frames (modify f : M PUnit) := hf
theorem Frames.bind {m : M α} {f : α → M β} (hm : Frames m) (hf : ∀ a, Frames (f a)) : Frames (m >>= f) := by
  intro s
  have k := hm s
  rw [runM_bind]
  split
  · next e => rw [e] at k; exact k.trans (hf _ _)
  · next e => rw [e] at k; exact k
theorem Frames.get {f : State → M β} (hf : ∀ s, Frames (f s)) : Frames (get >>= f) := fun s => by
  rw [runM_bind, runM_get]; exact hf s s
theorem Frames.getHart {f : Hart → M β} (hf : ∀ h, Frames (f h)) : Frames (getHart >>= f) := fun s => by
  rw [runM_bind, runM_getHart]; exact hf s.hart s
theorem Frames.ite {c : Prop} [Decidable c] {m n : M α} (hm : Frames m) (hn : Frames n) : Frames (if c then m else n) := by
  split
  · exact hm
  · exact hn
theorem Frames.guard {c : Prop} [Decidable c] {m : M PUnit} {k : PUnit → M β} (hm : Frames m) (hk : ∀ a, Frames (k a)) :
    Frames (if c then m >>= k else k ⟨⟩) := .ite (.bind hm hk) (hk _)
theorem Frames.tryCatch {m : M α} {f : Stop → M α} (hm : Frames m) (hf : ∀ e, Frames (f e)) : Frames (tryCatch m f) := by
  intro s
  have k := hm s
  rw [runM_tryCatch]
  split
  · next e => rw [e] at k; exact k
  · next e => rw [e] at k; exact k.trans (hf _ _)
theorem Frames.tryM {m : M α} (hm : Frames m) : Frames (tryM m) := by
  intro s
  have k := hm s
  rw [runM_tryM]
  split
  · next e => rw [e] at k; exact k
  · next e => rw [e] at k; exact k
theorem Frames.ves {f : Hart → BitVec 32} : Frames (modHart fun h => { h with ves := f h }) := fun _ => .rfl
theorem Frames.vdirty {f : Hart → BitVec 12} : Frames (modHart fun h => { h with vdirty := f h }) := fun _ => .rfl
theorem Frames.atUnit {i : Nat} {m : M α} (hm : Frames m) : Frames (atUnit i m) := by
  refine .tryCatch hm fun e => ?_
  split
  · exact .bind .ves fun _ => .throw
  · exact .throw
end

theorem Frames.addresses {c : Ctx} {k : AccKind} {va : Word} {n : Nat} {d : Bool} : Frames (addresses c k va n d) := by
  refine .get fun s => .bind (.modify (imageFrame_noteXlat · c va n)) fun _ => ?_
  unfold liftX
  split
  · exact .pure
  · exact .throw
theorem Frames.readMem {c : Ctx} {va : Word} {n : Nat} : Frames (readMem c va n) :=
  .bind .addresses fun pas => .bind (.modify (imageFrame_touchLines · false pas)) fun _ => .get fun _ => .pure
theorem Frames.writeMem {c : Ctx} {va : Word} {b : List Byte} : Frames (writeMem c va b) :=
  .bind .addresses fun pas => .modify (imageFrame_putAt · pas b)
theorem Frames.writeParts {c : Ctx} {base : Word} : ∀ {l : List (Nat × List Byte)}, Frames (writeParts c base l)
  | [] => .pure
  | (_, b) :: t => by
    unfold Machine.writeParts
    split
    · exact .writeParts (l := t)
    · exact .bind .writeMem fun _ => .writeParts (l := t)

theorem Frames.imageRead {va : Word} {n : Nat} : Frames (imageRead true va n) := .get fun _ => .readMem
theorem Frames.imageWrite {va : Word} {b : List Byte} : Frames (imageWrite true va b) := .get fun _ => .writeMem
theorem Frames.imageRest {stop : Option Nat} {o : Nat} : Frames (imageRest stop o) := by
  unfold Machine.imageRest
  split
  · split
    · exact .bind .ves fun _ => .throw
    · exact .pure
  · exact .pure
theorem Frames.saveBlocks {base : Word} {stop : Option Nat} {start off v : Nat} :
    ∀ {n j : Nat}, Frames (saveBlocks true base stop start off v n j)
  | 0, _ => .pure
  | _ + 1, _ => by
    unfold Machine.saveBlocks
    split
    · exact .bind .imageRest fun _ => .bind (.atUnit .imageWrite) fun _ => .saveBlocks
    · exact .saveBlocks
theorem Frames.saveSpans {base : Word} {mask : BitVec 12} {stop : Option Nat} {start b : Nat} :
    ∀ {l : List (Nat × Nat × Nat)}, Frames (saveSpans true base mask stop start b l)
  | [] => .pure
  | _ :: _ => by
    unfold Machine.saveSpans
    split
    · exact .getHart fun _ => .bind .saveBlocks fun _ => .saveSpans
    · exact .saveSpans
theorem Frames.saveImage {base : Word} {mask : BitVec 12} : Frames (saveImage true base mask) :=
  .getHart fun _ => .bind .imageRead fun _ => .bind .saveSpans fun _ => .bind .imageRest fun _ => .atUnit .imageWrite

/-- Where no section is both dirty and resident, the Peel writes nothing. -/
theorem runM_peelImage_clean {s : State} (h : s.hart.vdirty &&& ~~~s.hart.nres = 0) : runM peelImage s = (.ok (), s) := by
  rw [peelImage, runM_bind, runM_getHart]
  simp only [h]
  rfl
theorem Frames.peelImage : Frames peelImage := by
  refine .getHart fun h => ?_
  refine .ite (.bind .ves fun _ => .bind (.tryM .saveImage) fun r => .bind .ves fun _ => ?_) .pure
  split
  · exact .vdirty
  · exact .throw
/-- VES stands again as before, whatever came of the writing. -/
theorem peelImage_ves (s : State) : (runM peelImage s).2.hart.ves = s.hart.ves := by
  rw [peelImage, runM_bind, runM_getHart]
  dsimp only
  split
  · rw [runM_bind, runM_modHart]
    dsimp only
    rw [runM_bind, runM_tryM]
    split
    all_goals
      next h =>
      split at h <;> cases h <;> rfl
  · rfl

end Sys2Proof.Machine
end

section
/-! SUPPORT. A hart leaves for another class (02:R53), and the outcomes of MIGR (14:R420, R421). -/
namespace Sys2Proof.Machine
open Sys2Proof

/-- A hart counts the cycles of its string while it is resident on V or T. -/
def Hart.counts (h : Hart) : Bool := h.resident && h.cls != .c
theorem passWindow_silent (s : State) {h : Hart} (c : h.counts = false) : h.passWindow s = h := by
  unfold Hart.passWindow
  exact if_neg (by rw [show (h.resident && h.cls != .c) = false from c]; decide)
theorem passWindow_counts (s : State) {h : Hart} (c : h.counts = true) :
    h.passWindow s =
      (let x := s.str h.stringIx
       let n := Config.elapsed s.tick (2 * hartSite h.id) % (65 - min 64 h.seen.1)
       let own := if (x.sets.getD h.stringPos []).any (0 < ·) then Config.elapsed s.tick (2 * hartSite h.id + 1) % (n + 1) else 0
       { countWindow x n own h with seen := (h.seen.1 + n, h.seen.2 + own) }) := by
  unfold Hart.passWindow
  exact if_pos c
/-- The counting of a window reads and changes none of what a move sets beside it. -/
theorem passWindow_migrating (s : State) (h : Hart) (pc : Word) (hold : Nat) :
    ({ h.restartMix hold with pc := pc } : Hart).passWindow s = { (h.passWindow s).restartMix hold with pc := pc } := by
  cases c : h.counts with
  | false =>
    rw [passWindow_silent s c]
    exact passWindow_silent s c
  | true =>
    rw [passWindow_counts s c]
    exact passWindow_counts s c

/-- What decides which slot of a control core a hart holds. -/
def Hart.seat (h : Hart) : HartId × Class × Nat × Nat × Option Class × Option (Nat × Nat × Nat) :=
  (h.id, h.cls, h.core, h.slot, h.flying, h.goal)
/-- The free slots depend on where the gang's harts sit, or to which place they fly. -/
theorem freeCSlots_seat {s t : State} (o : t.others = s.others) (e : t.hart.seat = s.hart.seat) (g : Gang) :
    t.freeCSlots g = s.freeCSlots g := by
  simp only [Hart.seat, Prod.mk.injEq] at e
  obtain ⟨id, cls, core, slot, flying, goal⟩ := e
  simp only [State.freeCSlots, State.gangHarts, State.harts, List.any_filter, List.any_cons, o, Hart.holdsSlot, id, cls, core, slot,
    flying, goal]
/-- What decides whether, and where, the acting hart may arrive. -/
theorem canArrive_seat {s t : State} (gs : t.gangs = s.gangs) (st : t.strings = s.strings) (o : t.others = s.others)
    (e : t.hart.seat = s.hart.seat) (dst : Class) : t.canArrive dst = s.canArrive dst := by
  have id : t.hart.id = s.hart.id := congrArg Prod.fst e
  unfold State.canArrive State.gang
  rw [gs, id]
  split
  · rfl
  · split
    · simp only [State.vTripped, State.arrivalSpot, st]
    · rw [freeCSlots_seat o e]
    · rfl

/-- The hart's state at the end of MIGR, before it leaves. -/
def State.migrating (s : State) : State := { s with hart := { s.hart.restartMix 16 with pc := s.hart.pc + 4 } }
@[simp] theorem migrating_canArrive (s : State) (dst : Class) : s.migrating.canArrive dst = s.canArrive dst :=
  canArrive_seat (s := s) (t := s.migrating) rfl rfl rfl rfl dst

/-- The hart in flight to a place taken there: what a move leaves, whatever it has made of the gangs. -/
theorem flew_of_flight (s : State) (gs : List Gang) (dst : Class) (spot : Nat × Nat × Nat) :
    s.flew (({ s.migrating with
      gangs := gs,
      hart := { s.migrating.hart.leaveWindow { s.migrating with gangs := gs } with
        flying := some dst, resident := false, blind := 0, blindSteps := none, goal := some spot,
        peelErr := !s.hart.badRegs.isEmpty, badRegs := [] },
      agenda := s.agenda ++ [.peelArrival s.hart.id] } : State).syncBuckets) dst := by
  refine ⟨?_, rfl, rfl, rfl⟩
  have left : s.migrating.hart.leaveWindow { s.migrating with gangs := gs } =
      { (s.hart.leaveWindow s).restartMix 16 with pc := s.hart.pc + 4 } := by
    show ({ Hart.passWindow s s.migrating.hart with seen := (0, 0) } : Hart) = _
    rw [show s.migrating.hart = { s.hart.restartMix 16 with pc := s.hart.pc + 4 } from rfl, passWindow_migrating]
    rfl
  dsimp only [State.syncBuckets]
  rw [left]

theorem startMove_flew_c {s : State} (h : s.canArrive .c = true) : s.flew (startMove s.migrating .c) .c := by
  unfold State.canArrive at h
  split at h
  · cases h
  · next g found =>
    have found' : s.migrating.gang s.migrating.hart.id.gang = some g := found
    have slots : s.migrating.freeCSlots g = s.freeCSlots g := freeCSlots_seat (s := s) (t := s.migrating) rfl rfl g
    unfold startMove
    rw [found']
    dsimp only
    rw [slots]
    cases free : s.freeCSlots g with
    | nil => simp [free] at h
    | cons spot rest => exact flew_of_flight s s.gangs .c (spot.1, spot.2, 0)
theorem startMove_flew_v {s : State} (h : s.canArrive .v = true) : s.flew (startMove s.migrating .v) .v := by
  unfold State.canArrive at h
  split at h
  · cases h
  · next g found =>
    have found' : s.migrating.gang s.migrating.hart.id.gang = some g := found
    unfold startMove
    rw [found']
    dsimp only at h ⊢
    rw [show s.migrating.hart.id = s.hart.id from rfl]
    cases bound : g.shares.lookup s.hart.id.ix with
    | some sh => exact flew_of_flight s s.gangs .v (sh.core, g.slotOf sh, sh.groups)
    | none =>
      rw [bound] at h
      dsimp only at h ⊢
      rw [show s.migrating.arrivalSpot g (laneCount g.mlg) = s.arrivalSpot g (laneCount g.mlg) from rfl]
      cases spot : s.arrivalSpot g (laneCount g.mlg) with
      | none => simp [spot] at h
      | some p => exact flew_of_flight s _ .v _

/-! ## MIGR -/

theorem mayLeaveV_canArrive {s : State} (h : s.mayLeaveV = true) : s.canArrive .c = true := by
  unfold State.mayLeaveV at h
  simp only [Bool.and_eq_true] at h
  exact h.1.1.1

theorem migrV_here {s : State} (c : s.hart.cls = .v) : exec .migrV s = .next (s.setPc (s.hart.pc + 4)) := by
  show runInstr (match s.hart.cls with | .v => _ | .t => _ | .c => _) s = _
  rw [c]
  rfl
theorem migrC_here {s : State} (c : s.hart.cls = .c) : exec .migrC s = .next (s.setPc (s.hart.pc + 4)) := by
  show runInstr (match s.hart.cls with | .c => _ | .t => _ | .v => _) s = _
  rw [c]
  rfl
theorem migrV_t {s : State} (c : s.hart.cls = .t) : exec .migrV s = takeTrap s .cls (headWord .migrV) s.hart.pc := by
  show runInstr (match s.hart.cls with | .v => _ | .t => _ | .c => _) s = _
  rw [c]
  rfl
theorem migrC_t {s : State} (c : s.hart.cls = .t) : exec .migrC s = takeTrap s .cls (headWord .migrC) s.hart.pc := by
  show runInstr (match s.hart.cls with | .c => _ | .t => _ | .v => _) s = _
  rw [c]
  rfl

theorem migrV_stays {s : State} (c : s.hart.cls = .c) (m : ¬ (s.hart.migTrap = true ∧ s.canArrive .v = true)) :
    exec .migrV s = takeTrap s .cls (headWord .migrV) s.hart.pc := by
  have no : (s.hart.migTrap && s.canArrive .v) = false := by rw [Bool.eq_false_iff]; simpa using m
  show runInstr (match s.hart.cls with | .v => _ | .t => _ | .c => _) s = _
  rw [c, no]
  rfl
theorem migrV_goes {s : State} (c : s.hart.cls = .c) (m : s.hart.migTrap = true) (a : s.canArrive .v = true)
    (n : s.hart.namoPend = []) : exec .migrV s = .next (startMove s.migrating .v) := by
  show runInstr (match s.hart.cls with | .v => _ | .t => _ | .c => _) s = _
  rw [c, m, a, n]
  show Host.Outcome.next (if s.hart.namoPend.isEmpty then startMove s.migrating .v else _) = _
  rw [n]
  rfl
theorem migrV_awaits {s : State} (c : s.hart.cls = .c) (m : s.hart.migTrap = true) (a : s.canArrive .v = true)
    (n : s.hart.namoPend ≠ []) : exec .migrV s = .next s := by
  show runInstr (match s.hart.cls with | .v => _ | .t => _ | .c => _) s = _
  have b : (!s.hart.namoPend.isEmpty) = true := by simpa [List.isEmpty_iff] using n
  rw [c, m, a, b]
  rfl

theorem migrC_queued {s : State} (c : s.hart.cls = .v) (q : s.hart.vq ≠ []) : exec .migrC s = .next s := by
  show runInstr (match s.hart.cls with | .c => _ | .t => _ | .v => _) s = _
  have b : (!s.hart.vq.isEmpty) = true := by simpa [List.isEmpty_iff] using q
  rw [c, b]
  rfl
theorem migrC_stays {s : State} (c : s.hart.cls = .v) (q : s.hart.vq = []) (m : ¬ (s.hart.migTrap = true ∧ s.mayLeaveV = true)) :
    exec .migrC s = takeTrap s .cls (headWord .migrC) s.hart.pc := by
  have no : (s.hart.migTrap && s.mayLeaveV) = false := by rw [Bool.eq_false_iff]; simpa using m
  show runInstr (match s.hart.cls with | .c => _ | .t => _ | .v => _) s = _
  rw [c, q, no]
  rfl
theorem migrC_awaits {s : State} (c : s.hart.cls = .v) (q : s.hart.vq = []) (m : s.hart.migTrap = true) (l : s.mayLeaveV = true)
    (n : s.hart.namoPend ≠ []) : exec .migrC s = .next s := by
  have b : (!s.hart.namoPend.isEmpty) = true := by simpa [List.isEmpty_iff] using n
  show runInstr (match s.hart.cls with | .c => _ | .t => _ | .v => _) s = _
  rw [c, q, m, l, b]
  rfl
theorem migrC_goes {s s1 : State} (c : s.hart.cls = .v) (q : s.hart.vq = []) (m : s.hart.migTrap = true) (l : s.mayLeaveV = true)
    (n : s.hart.namoPend = []) (p : runM peelImage s = (.ok (), s1)) (n1 : s1.hart.namoPend = []) :
    exec .migrC s = .next (startMove s1.migrating .c) := by
  show runInstr (match s.hart.cls with | .c => _ | .t => _ | .v => _) s = _
  rw [c, q, m, l, n]
  show finish s.hart.pc (runM (peelImage >>= _) s) = _
  rw [runM_bind, p]
  show Host.Outcome.next (if s1.hart.namoPend.isEmpty then startMove s1.migrating .c else _) = _
  rw [n1]
  rfl

/-! ## The statement -/

theorem yields_iff (h : Hart) : h.yields = true ↔ h.lv ≠ .a ∧ h.preempt ≠ none := by
  unfold Hart.yields
  cases h.preempt <;> simp

/-- The two outcomes of an instruction that only idles. -/
theorem idle_outcomes (s : State) (i : Instr) :
    (s.idlesOn → runInstr (idleWait i) s = .next s.pastWait) ∧
    (¬ s.idlesOn → runInstr (idleWait i) s = .next { s with hart := s.hart.waitHere i }) :=
  ⟨fun g => runInstr_of_run (runM_idleWait_over i g), fun g => runInstr_of_run (runM_idleWait_waits i g)⟩

/-- What is left of the state after the Peel has written the image: the hart leaves from there. -/
theorem migrC_after_image {s s1 : State} (c : s.hart.cls = .v) (q : s.hart.vq = []) (n : s.hart.namoPend = [])
    (m : s.hart.migTrap = true) (l : s.mayLeaveV = true) (p : runM peelImage s = (.ok (), s1)) :
    s1.gangs = s.gangs ∧ s1.others = s.others ∧ s1.hart.id = s.hart.id ∧ ∃ t, exec .migrC s = .next t ∧ s1.flew t .c := by
  have f : imageFrame s s1 := by
    have k := Frames.peelImage s
    rwa [p] at k
  unfold imageFrame at f
  have gs : s1.gangs = s.gangs := by rw [f]
  have os : s1.others = s.others := by rw [f]
  have st : s1.strings = s.strings := by rw [f]
  have seat : s1.hart.seat = s.hart.seat := by rw [f]; rfl
  have n1 : s1.hart.namoPend = [] := by rw [f]; exact n
  have may : s1.canArrive .c = true := by
    rw [canArrive_seat gs st os seat]; exact mayLeaveV_canArrive l
  exact ⟨gs, os, congrArg Prod.fst seat, _, migrC_goes c q m l n p n1, startMove_flew_c may⟩

/-- Settles O21: IDLE by what is pending, IDLE.X by its gang, and MIGR by the hart's class and what keeps it there. -/
theorem idleAndMigrate : Obligations.IdleAndMigrate := by
  unfold Obligations.IdleAndMigrate
  intro s
  have on : s.idlesOn ↔ (s.hart.mcheck ≠ [] ∨ s.hart.preempt ≠ none ∨ s.hart.timecmp.toNat ≤ s.time.toNat ∨ s.hart.extint ≠ []) ∧
      (s.takeable = none ∨ s.hart.stepping = true) := by
    rw [State.idlesOn, pendingAsync_isEmpty]
  simp only [← yields_iff, ← on, Bool.not_eq_true]
  refine ⟨fun y g => ?_, fun y g => ?_, execIdle_yields, execIdle_blocked, fun z g => ?_, fun z g => ?_, execIdleX_queued,
    fun z q => ⟨_, execIdleX_ends z q, (idleEnd_ended s).1, (idleEnd_ended s).2, fun a => by rw [idleEnd_mem], rfl⟩,
    migrV_here, migrC_here, fun c m a => ⟨fun n => ⟨_, migrV_goes c m a n, startMove_flew_v a⟩, migrV_awaits c m a⟩,
    fun c q m l d => ⟨fun n => ?_, migrC_awaits c q m l⟩, fun c q n m l s1 p => migrC_after_image c q n m l p,
    migrC_queued, migrV_stays, migrC_stays, fun c => ⟨migrV_t c, migrC_t c⟩⟩
  · rw [execIdle_waits y]; exact (idle_outcomes s .idle).1 g
  · rw [execIdle_waits y]; exact (idle_outcomes s .idle).2 g
  · rw [execIdleX_first z]; exact (idle_outcomes s .idleX).1 g
  · rw [execIdleX_first z]; exact (idle_outcomes s .idleX).2 g
  · exact (migrC_after_image c q n m l (runM_peelImage_clean d)).2.2.2

end Sys2Proof.Machine
end

section
/-! SUPPORT. Which instructions are posted, and the check of class that comes first (02:R52-R54; 07:R201). -/
namespace Sys2Proof.Machine
open Sys2Proof

/-! ## The major of a first parcel -/

/-- The upper part of a concatenation. -/
theorem append_div {n m : Nat} (x : BitVec n) (y : BitVec m) : (x ++ y).toNat / 2 ^ m = x.toNat := by
  rw [BitVec.toNat_append, ← Nat.shiftRight_eq_div_pow, Nat.shiftRight_or_distrib, Nat.shiftLeft_shiftRight,
    Nat.shiftRight_eq_div_pow, Nat.div_eq_of_lt y.isLt, Nat.or_zero]

/-- The major of the first of some parcels. -/
def majorOf (l : List Parcel) : Nat := (l.headD 0).toNat / 2 ^ 26
theorem majorOf_encL (op : BitVec 6) (d : Reg) (i : BitVec 21) : majorOf (encL op d i) = op.toNat := by
  show (op ++ d ++ i).toNat / 2 ^ (21 + 5) = _
  rw [Nat.pow_add, ← Nat.div_div_eq_div_mul, append_div, append_div]
theorem majorOf_encJ (op : BitVec 6) (i : BitVec 26) : majorOf (encJ op i) = op.toNat := append_div op i
theorem majorOf_encI (op : BitVec 6) (d a : Reg) (i : BitVec 16) : majorOf (encI op d a i) = op.toNat := by
  show (op ++ d ++ a ++ i).toNat / 2 ^ (16 + (5 + 5)) = _
  rw [Nat.pow_add, ← Nat.div_div_eq_div_mul, append_div, Nat.pow_add, ← Nat.div_div_eq_div_mul, append_div, append_div]
theorem majorOf_encA (op : BitVec 6) (d a b : Reg) (fn : BitVec 11) : majorOf (encA op d a b fn) = op.toNat := by
  show (op ++ d ++ a ++ b ++ fn).toNat / 2 ^ (11 + (5 + (5 + 5))) = _
  simp only [Nat.pow_add, ← Nat.div_div_eq_div_mul, append_div]
theorem majorOf_encB (op : BitVec 6) (a b : Reg) (c : BitVec 3) (i : BitVec 13) : majorOf (encB op a b c i) = op.toNat := by
  show (op ++ a ++ b ++ c ++ i).toNat / 2 ^ (13 + (3 + (5 + 5))) = _
  simp only [Nat.pow_add, ← Nat.div_div_eq_div_mul, append_div]
theorem majorOf_encV (op : BitVec 6) (fn : BitVec 8) (vd va vb : Reg) (k : BitVec 3) (vc : Reg) (kz : Bool) (rm : BitVec 3)
    (ord : BitVec 2) (aux : BitVec 21) : majorOf (encV op fn vd va vb k vc kz rm ord aux) = op.toNat := by
  show (op ++ fn ++ vd ++ va ++ vb ++ k).toNat / 2 ^ (3 + (5 + (5 + (5 + 8)))) = _
  simp only [Nat.pow_add, ← Nat.div_div_eq_div_mul, append_div]
theorem majorOf_convoy (us : List VUnit) : majorOf (encode (.convoy us)) = 47 := by
  show (47#6 ++ BitVec.ofNat 3 (us.length - 2) ++ encSlots us 0 ++ encSlots us 1 ++ encSlots us 2 ++ encSlots us 3
      ++ encSlots us 4 ++ encSlots us 5 ++ 0#5).toNat / 2 ^ (5 + (3 + (3 + (3 + (3 + (3 + (3 + 3))))))) = _
  simp only [Nat.pow_add, ← Nat.div_div_eq_div_mul, append_div]
  rfl

/-! ## What is posted -/

theorem majorOf_encVInt (fn : BitVec 6) (d a : Reg) (b : VSrc) (m : Pred) : majorOf (encVInt fn d a b m) = 49 := by
  cases b <;> exact majorOf_encV ..
theorem majorOf_encVFp (fn : BitVec 6) (d a : Reg) (b : FSrc) (r : BitVec 3) (m : Pred) : majorOf (encVFp fn d a b r m) = 50 := by
  cases b <;> exact majorOf_encV ..
theorem majorOf_vfma (d a : Reg) (b : FmaSrc) (r : RmDyn) (m : Pred) : majorOf (encode (.vfma d a b r m)) = 50 := by
  cases b <;> exact majorOf_encV ..
theorem majorOf_vcmp (kd : BitVec 3) (a : Reg) (b : VSrc) (c : Cmp) (m : Pred) : majorOf (encode (.vcmp kd a b c m)) = 53 := by
  cases b <;> exact majorOf_encV ..
theorem majorOf_cpy (t a : Reg) (k : BitVec 3) (p : Option Scope) : majorOf (encode (.cpy t a k p)) = 59 := by
  cases p <;> exact majorOf_encV ..

/-- The posted instructions by name. -/
def posts : Instr → Bool
  | .vfence _ | .blind _ | .setvl .. | .setvt .. | .setmr .. | .convoy _ | .vloop .. => true
  | .vld .. | .vlds .. | .vldx .. | .vst .. | .vsts .. | .vstx .. | .vsave .. | .vrstr .. => true
  | .vadd .. | .vsub .. | .vmul .. | .vmulh .. | .vand .. | .vor .. | .vxor .. | .vshl .. | .vshr .. | .vsar .. => true
  | .vmin .. | .vmax .. | .vsadd .. | .vssub .. => true
  | .vfadd .. | .vfsub .. | .vfmul .. | .vfdiv .. | .vfma .. | .vfsqrt .. | .vfmin .. | .vfmax .. | .vfexp2 .. | .vfrcp .. => true
  | .vcvt .. | .vqenc .. | .vqdec .. | .vhbfly .. | .vscale .. => true
  | .vperm .. | .vslide .. | .vsplat .. | .vmerge .. | .vcompr .. | .vidx .. | .vmvx .. | .vmxv .. => true
  | .vcmp .. | .kop .. | .kpopc .. | .kfirst .. | .kmov .. | .vred .. | .vscan .. | .vamo .. | .vamom .. => true
  | .mzero .. | .mma .. | .mrd .. | .mwr .. | .xproj .. | .xprojb .. | .xmerge .. | .xhload .. | .xhstore .. => true
  | .scld .. | .scst .. | .ctld .. | .ctst .. | .cpy .. | .cpywt .. | .cpycan .. | .colbind .. | .colfree .. | .colwait .. => true
  | _ => false
/-- Posted instructions of a major that others share. -/
def sharesMajor : Instr → Bool
  | .setvl .. | .setvt .. | .setmr .. | .vfence _ | .blind _ => true
  | _ => false
theorem isPosted_low {i : Instr} {n : Nat} (m : majorOf (encode i) = n) (low : n < 47 ∨ n = 61) (o : sharesMajor i = false) :
    isPosted i = false := by
  have e : isPosted i = ((48 ≤ majorOf (encode i) && majorOf (encode i) ≤ 60) || majorOf (encode i) == 62 ||
      majorOf (encode i) == 47 || sharesMajor i) := rfl
  rw [e, m, o]
  simp only [Bool.or_false, Bool.or_eq_false_iff, Bool.and_eq_false_iff, decide_eq_false_iff_not, beq_eq_false_iff_ne]
  omega
theorem isPosted_event {i : Instr} (e : encode i = []) (o : sharesMajor i = false) : isPosted i = false :=
  isPosted_low (n := 0) (by rw [e]; rfl) (by decide) o
/-- An instruction of the scalar side has a major below 47, or 61, and an event none. -/
theorem posts_of_isPosted {i : Instr} (p : isPosted i = true) : posts i = true := by
  cases i
  case add | sub | mul | mulh | div | rem | and | or | xor | andn | shl | shr | sar | ror | min | max | set | sel | clz | ctz | popc |
      bswap | ext | ins | lea | ldaq | strl | amo | cas | fence | ifence | jr | btab | fma | launch | signal | waitsig | gbar | tmma | tmmaS |
      tsend | tsync | fadd | fsub | fmul | fdiv | fsqrt | fmin | fmax | fcmp | fcvt | fmov | fclass =>
    exact absurd p (Bool.eq_false_iff.mp (isPosted_low (majorOf_encA ..) (by decide) rfl))
  case addImm | andImm | orImm | xorImm | setImm | extImm | insImm | crld | crst | semts | semtry | semclr | sysc | trap | tret | idle |
      idleX | brk | migrC | migrV | csrr | csrw | csrx | shlImm | shrImm | sarImm | rorImm =>
    exact absurd p (Bool.eq_false_iff.mp (isPosted_low (majorOf_encI ..) (by decide) rfl))
  case lim | addpc =>
    exact absurd p (Bool.eq_false_iff.mp (isPosted_low (majorOf_encL ..) (by decide) rfl))
  case ld | st | b | bvany | bvall | tld | tst | tcvt =>
    exact absurd p (Bool.eq_false_iff.mp (isPosted_low (majorOf_encB ..) (by decide) rfl))
  case j | call =>
    exact absurd p (Bool.eq_false_iff.mp (isPosted_low (majorOf_encJ ..) (by decide) rfl))
  case nput | nget | namo | nflush =>
    exact absurd p (Bool.eq_false_iff.mp (isPosted_low (majorOf_encV ..) (by decide) rfl))
  all_goals first | rfl | exact absurd p (Bool.eq_false_iff.mp (isPosted_event rfl rfl))

end Sys2Proof.Machine
end

section
/-! SUPPORT. What a posted instruction's checks of class and of sections come to (02:R52-R54; 05:R164). -/
namespace Sys2Proof.Machine
open Sys2Proof

/-! ## The scalar side posts after two checks -/

theorem ne_t_of {i : Instr} {s : State} (c : s.hart.cls ≠ .t ∨ vOnly i = true) (v : vOnly i = false) : s.hart.cls ≠ .t := by
  rcases c with c | c
  · exact c
  · rw [v] at c; cases c
theorem byClass_post {i : Instr} {act : M Unit} {s : State} (c : s.hart.cls ≠ .t) : byClass i act s = postInstr i s := by
  unfold byClass
  split
  · contradiction
  · rfl
/-- An instruction that T harts execute at issue is posted elsewhere. -/
theorem execBlind_post {c : BitVec 21} {s : State} (h : s.hart.cls ≠ .t) : execBlind c s = thenDrain (post 1 (.blind c) asCaptured) s := by
  unfold execBlind
  split
  · contradiction
  · rfl
theorem execCpy_post {t a : Reg} {k : BitVec 3} {r : Option Scope} {s : State} (h : s.hart.cls ≠ .t) :
    ∃ f, execCpy t a k r s = thenDrain (post 2 (.cpy t a k r) f) s := by
  unfold execCpy
  split
  · contradiction
  · exact ⟨_, rfl⟩
theorem execCpywt_post {t : Reg} {s : State} (h : s.hart.cls ≠ .t) : execCpywt t s = postInstr (.cpywt t) s := by
  unfold execCpywt
  split
  · contradiction
  · rfl
theorem execCpycan_post {t : Reg} {s : State} (h : s.hart.cls ≠ .t) : execCpycan t s = postInstr (.cpycan t) s := by
  unfold execCpycan
  split
  · contradiction
  · rfl

/-- The scalar side does no more of an instruction than post it. -/
def onlyPosts (i : Instr) (s : State) : Prop := ∃ n f, exec i s = thenDrain (post n i f) s
theorem onlyPosts_of_captured {i : Instr} {s : State} (e : exec i s = postInstr i s) : onlyPosts i s := ⟨2, asCaptured, e⟩
/-- Fences, convoys and captured loops are more than posted. -/
theorem posts_cases {i : Instr} {s : State} (p : posts i = true) (c : s.hart.cls ≠ .t ∨ vOnly i = true) :
    onlyPosts i s ∨ (∃ k, i = .vfence k) ∨ (∃ us, i = .convoy us) ∨ ∃ a n, i = .vloop a n := by
  cases i
  case vfence k => exact .inr (.inl ⟨k, rfl⟩)
  case convoy us => exact .inr (.inr (.inl ⟨us, rfl⟩))
  case vloop a n => exact .inr (.inr (.inr ⟨a, n, rfl⟩))
  case blind n => exact .inl ⟨1, asCaptured, execBlind_post (ne_t_of c rfl)⟩
  case cpy =>
    obtain ⟨f, e⟩ := execCpy_post (ne_t_of c rfl)
    exact .inl ⟨2, f, e⟩
  case cpywt => exact .inl (onlyPosts_of_captured (execCpywt_post (ne_t_of c rfl)))
  case cpycan => exact .inl (onlyPosts_of_captured (execCpycan_post (ne_t_of c rfl)))
  case scld | scst | ctld | ctst => exact .inl (onlyPosts_of_captured (byClass_post (ne_t_of c rfl)))
  case setvl | setvt | setmr => exact .inl ⟨1, _, rfl⟩
  all_goals first | exact .inl (onlyPosts_of_captured rfl) | cases p

/-! ## The check of class -/

theorem runM_needV_v {i : Instr} {s : State} (c : s.hart.cls = .v) : runM (needV i) s = (.ok ⟨⟩, s) := by
  rw [needV, runM_bind, runM_getHart]
  simp only [c, runM_pure]
theorem runM_needV_t {i : Instr} {s : State} (c : s.hart.cls = .t) : runM (needV i) s = (.error (.trap .cls (headWord i)), s) := by
  rw [needV, runM_bind, runM_getHart]
  simp only [c]
  rfl
theorem runM_migrateOrClass (i : Instr) (s : State) :
    runM (migrateOrClass i) s =
      (.error (if s.hart.migTrap && s.canArrive .v then .move .v else .trap .cls (headWord i)), s) := by
  rw [migrateOrClass, runM_bind, runM_get]
  dsimp only
  split <;> rfl
theorem runM_needV_c {i : Instr} {s : State} (c : s.hart.cls = .c) :
    runM (needV i) s = (.error (if s.hart.migTrap && s.canArrive .v then .move .v else .trap .cls (headWord i)), s) := by
  rw [needV, runM_bind, runM_getHart]
  simp only [c]
  exact runM_migrateOrClass i s

/-- What comes first stops the action. -/
theorem thenDrain_stopped {m : M Unit} {s t : State} {e : Stop} (h : runM m s = (.error e, t)) :
    thenDrain m s = finish s.hart.pc (.error e, t) := by
  unfold thenDrain
  rw [h]
theorem runM_bind_stopped {α β : Type} {m : M α} {f : α → M β} {s t : State} {e : Stop} (h : runM m s = (.error e, t)) :
    runM (m >>= f) s = (.error e, t) := by
  rw [runM_bind, h]
/-- An instruction that is posted, or that V harts alone execute, goes no further than its check of class where that stops it. -/
theorem exec_stopped_by_class {i : Instr} {s : State} {e : Stop} (g : runM (needV i) s = (.error e, s))
    (p : isPosted i = true ∧ s.hart.cls ≠ .t ∨ vOnly i = true) : exec i s = finish s.hart.pc (.error e, s) := by
  have posted (h : posts i = true) (c : s.hart.cls ≠ .t ∨ vOnly i = true) : exec i s = finish s.hart.pc (.error e, s) := by
    rcases posts_cases h c with ⟨n, f, x⟩ | ⟨k, rfl⟩ | ⟨us, rfl⟩ | ⟨a, n, rfl⟩
    · rw [x]; exact thenDrain_stopped (runM_bind_stopped g)
    · exact thenDrain_stopped (runM_bind_stopped g)
    · exact thenDrain_stopped (runM_bind_stopped g)
    · exact thenDrain_stopped (runM_bind_stopped g)
  have branch {k d t} (h : exec i s = runInstr (maskBranch i k d t) s) : exec i s = finish s.hart.pc (.error e, s) := by
    rw [h]; exact runInstr_of_run (runM_bind_stopped g)
  rcases p with ⟨p, c⟩ | v
  · exact posted (posts_of_isPosted p) (.inl c)
  · by_cases b : isPosted i = true
    · exact posted (posts_of_isPosted b) (.inr v)
    · cases i
      case bvany | bvall => exact branch rfl
      all_goals first | exact absurd v b | cases v

theorem class_t {i : Instr} {s : State} (c : s.hart.cls = .t) (v : vOnly i = true) : exec i s = takeTrap s .cls (headWord i) s.hart.pc :=
  exec_stopped_by_class (runM_needV_t c) (.inr v)
theorem class_c {i : Instr} {s : State} (c : s.hart.cls = .c) (p : isPosted i = true ∨ vOnly i = true) :
    exec i s =
      finish s.hart.pc (.error (if s.hart.migTrap && s.canArrive .v then .move .v else .trap .cls (headWord i)), s) :=
  exec_stopped_by_class (runM_needV_c c) (p.imp_left fun p => ⟨p, by rw [c]; decide⟩)

/-- The tile and exchange instructions are those of T harts. -/
def tOnly (i : Instr) : Prop :=
  match i with
  | .tld .. | .tst .. | .tcvt .. | .tmma .. | .tmmaS .. | .tsend .. | .tsync => True
  | _ => False
/-- The remote operations are those of C and V harts. -/
def cvOnly (i : Instr) : Prop :=
  match i with
  | .nput .. | .nget .. | .namo .. | .nflush .. => True
  | _ => False
theorem runInstr_needT_fail {i : Instr} {s : State} {k : PUnit → M Unit} (c : s.hart.cls ≠ .t) :
    runInstr (needT i >>= k) s = takeTrap s .cls (headWord i) s.hart.pc :=
  runInstr_of_run (runM_bind_stopped (runM_needT_fail c))
theorem runInstr_needCV_fail {i : Instr} {s : State} {k : PUnit → M Unit} (c : s.hart.cls = .t) :
    runInstr (needCV i >>= k) s = takeTrap s .cls (headWord i) s.hart.pc :=
  runInstr_of_run (runM_bind_stopped (runM_needCV_fail c))
theorem class_tOnly {i : Instr} {s : State} (c : s.hart.cls ≠ .t) (p : tOnly i) : exec i s = takeTrap s .cls (headWord i) s.hart.pc := by
  cases i
  case tld | tst | tcvt | tmma | tmmaS | tsend | tsync =>
    show runInstr (needT _ >>= _) s = _
    exact runInstr_needT_fail c
  all_goals exact p.elim
theorem class_cvOnly {i : Instr} {s : State} (c : s.hart.cls = .t) (p : cvOnly i) : exec i s = takeTrap s .cls (headWord i) s.hart.pc := by
  cases i
  case nput | nget | namo | nflush =>
    show runInstr (needCV _ >>= _) s = _
    exact runInstr_needCV_fail c
  all_goals exact p.elim

/-! ## The check of sections -/

theorem runM_lazyAtPost_missing {i : Instr} {s : State} (h : s.hart.lazyMask s.hart.pcfg.vt i ≠ 0) :
    runM (lazyAtPost i) s = (.error (.trap .lazy ((s.hart.lazyMask s.hart.pcfg.vt i).setWidth 64)), s) := by
  rw [lazyAtPost, runM_bind, runM_getHart]
  dsimp only
  rw [runM_checkM, if_neg (by simpa using h)]
theorem post_missing {n : Nat} {i : Instr} {f : Hart → QEntry → QEntry × Hart} {s : State} (c : s.hart.cls = .v)
    (h : s.hart.lazyMask s.hart.pcfg.vt i ≠ 0) :
    thenDrain (post n i f) s = takeTrap s .lazy ((s.hart.lazyMask s.hart.pcfg.vt i).setWidth 64) s.hart.pc := by
  have stop : runM (post n i f) s = (.error (.trap .lazy ((s.hart.lazyMask s.hart.pcfg.vt i).setWidth 64)), s) := by
    rw [post, runM_bind, runM_needV_v c]
    exact runM_bind_stopped (runM_lazyAtPost_missing h)
  rw [thenDrain_stopped stop]
  rfl
/-- A fence and a convoy's header use no section. -/
theorem lazyMask_vfence (h : Hart) (t : VType) (k : VfKind) : h.lazyMask t (.vfence k) = 0 := by
  show (0#12 ||| 0#12 ||| 0#12 ||| secIf (false || false) 8 ||| secIf false 9 ||| secIf false 10 ||| secIf false 11) &&& h.nres = 0
  simp [secIf]
theorem lazyMask_convoy (h : Hart) (t : VType) (us : List VUnit) : h.lazyMask t (.convoy us) = 0 := by
  show (0#12 ||| 0#12 ||| 0#12 ||| secIf (false || false) 8 ||| secIf false 9 ||| secIf false 10 ||| secIf false 11) &&& h.nres = 0
  simp [secIf]
theorem posted_missing {i : Instr} {s : State} (c : s.hart.cls = .v) (p : isPosted i = true) (l : ∀ a n, i ≠ .vloop a n)
    (h : s.hart.lazyMask s.hart.pcfg.vt i ≠ 0) :
    exec i s = takeTrap s .lazy ((s.hart.lazyMask s.hart.pcfg.vt i).setWidth 64) s.hart.pc := by
  rcases posts_cases (posts_of_isPosted p) (.inl (show s.hart.cls ≠ .t by rw [c]; decide)) with ⟨n, f, x⟩ | ⟨k, rfl⟩ | ⟨us, rfl⟩ | ⟨a, n, rfl⟩
  · rw [x]; exact post_missing c h
  · exact absurd (lazyMask_vfence ..) h
  · exact absurd (lazyMask_convoy ..) h
  · exact absurd rfl (l a n)

/-- The mask's sections are the not resident ones among those it uses. -/
theorem lazyMask_resident (h : Hart) (t : VType) (i : Instr) : h.lazyMask t i &&& ~~~h.nres = 0 := by
  unfold Hart.lazyMask
  split <;> simp [BitVec.and_assoc]
theorem vSec_eq (r : Reg) : vSec r = 1 <<< (r.toNat / 8) := by
  unfold vSec secBit
  apply BitVec.eq_of_toNat_eq
  simp [Nat.shiftLeft_eq]
theorem secIf_masks (k : BitVec 3) : secIf (k != 0) 8 = if k = 0 then 0 else 0x100 := by
  unfold secIf
  by_cases h : k = 0 <;> simp [h, secBit]
theorem secIf_table (a b : ET) : secIf (a == .code8 || b == .code8) 10 = if a = .code8 ∨ b = .code8 then 0x400 else 0 := by
  unfold secIf
  by_cases h : a = .code8 ∨ b = .code8
  · rw [if_pos h, if_pos (by simpa using h)]
    rfl
  · rw [if_neg h, if_neg (by simpa using h)]

/-- The sections of the sample forms, each kind of section among them. -/
theorem sections_vadd (t : VType) (d a b : Reg) (m : Pred) :
    sections t (.vadd d a (.vv b) m) =
      1 <<< (d.toNat / 8) ||| 1 <<< (a.toNat / 8) ||| 1 <<< (b.toNat / 8) ||| if m.k = 0 then 0 else 0x100 := by
  rw [← secIf_masks, ← vSec_eq, ← vSec_eq, ← vSec_eq]
  show 0#12 ||| vSec a ||| vSec b ||| vSec d ||| 0#12 ||| secIf (m.k != 0 || false || false) 8 ||| 0#12 ||| 0#12 ||| 0#12 = _
  simp only [Bool.or_false, BitVec.zero_or, BitVec.or_zero]
  ac_rfl

theorem sections_vsplat (t : VType) (d a : Reg) (m : Pred) :
    sections t (.vsplat d a m) = 1 <<< (d.toNat / 8) ||| if m.k = 0 then 0 else 0x100 := by
  rw [← secIf_masks, ← vSec_eq]
  show 0#12 ||| vSec d ||| 0#12 ||| secIf (m.k != 0 || false || false) 8 ||| 0#12 ||| 0#12 ||| 0#12 = _
  simp only [Bool.or_false, BitVec.zero_or, BitVec.or_zero]
theorem sections_vcvt (t : VType) (d a : Reg) (e : ET) (r : RmDyn) (m : Pred) :
    sections t (.vcvt d a e r m) =
      1 <<< (d.toNat / 8) ||| 1 <<< (a.toNat / 8) ||| (if m.k = 0 then 0 else 0x100) |||
      (if t.sa && etScaled t.et || t.sb && etScaled e then 0x200 else 0) ||| (if t.et = .code8 ∨ e = .code8 then 0x400 else 0) := by
  rw [← secIf_masks, ← secIf_table, ← vSec_eq, ← vSec_eq]
  show 0#12 ||| vSec a ||| vSec d ||| 0#12 ||| secIf (m.k != 0 || false || false) 8 |||
    secIf (t.sa && etScaled t.et || t.sb && etScaled e) 9 ||| secIf (t.et == .code8 || e == .code8) 10 ||| 0#12 = _
  simp only [Bool.or_false, BitVec.zero_or, BitVec.or_zero]
  show vSec a ||| vSec d ||| secIf (m.k != 0) 8 ||| (if t.sa && etScaled t.et || t.sb && etScaled e then 0x200 else 0) ||| _ = _
  ac_rfl
theorem sections_vred (t : VType) (d a : Reg) (o : RedOp) (r : RmDyn) (m : Pred) :
    sections t (.vred d a o true 0 r m.k) =
      1 <<< (d.toNat / 8) ||| 1 <<< (a.toNat / 8) ||| (if m.k = 0 then 0 else 0x100) ||| 0x800 := by
  rw [← secIf_masks, ← vSec_eq, ← vSec_eq]
  show 0#12 ||| vSec d ||| vSec a ||| vSec d ||| 0#12 ||| secIf (m.k != 0 || false || false) 8 ||| 0#12 ||| 0#12 ||| 0x800#12 = _
  simp only [Bool.or_false, BitVec.zero_or, BitVec.or_zero]
  rw [show vSec d ||| vSec a ||| vSec d = vSec d ||| vSec a by rw [BitVec.or_assoc, BitVec.or_comm (vSec a), ← BitVec.or_assoc, BitVec.or_self]]
  rfl
theorem sections_mzero (t : VType) (d : BitVec 2) : sections t (.mzero d) = 0x10 <<< d.toNat := by
  show 0#12 ||| 0#12 ||| (0#12 ||| secBit (4 + d.toNat)) ||| 0#12 ||| 0#12 ||| 0#12 ||| 0#12 = _
  simp only [BitVec.zero_or, BitVec.or_zero]
  revert d
  decide
theorem sections_vscale (t : VType) (d a : Reg) (sc : BitVec 2) (r : RmDyn) (m : Pred) :
    sections t (.vscale d a sc r m) =
      1 <<< (d.toNat / 8) ||| 1 <<< (a.toNat / 8) ||| (if m.k = 0 then 0 else 0x100) ||| 0x200 := by
  rw [← secIf_masks, ← vSec_eq, ← vSec_eq]
  show 0#12 ||| vSec a ||| vSec d ||| 0#12 ||| secIf (m.k != 0 || false || false) 8 ||| 0x200#12 ||| 0#12 ||| 0#12 = _
  simp only [Bool.or_false, BitVec.zero_or, BitVec.or_zero]
  rw [BitVec.or_comm (vSec a)]
  rfl

/-- Settles O24: the check of class stops a form of another class before its effect, and the check of sections one that uses a section
not resident. -/
theorem classAndSectionChecks : Obligations.ClassAndSectionChecks := by
  unfold Obligations.ClassAndSectionChecks
  refine ⟨fun s i => ⟨?_, fun c p => class_tOnly c p, ?_, ?_⟩, ?_⟩
  · rintro c (v | v)
    · exact class_t c v
    · exact class_cvOnly c v
  · intro c p no
    have off : (s.hart.migTrap && s.canArrive .v) = false := by rcases no with e | e <;> simp [e]
    rw [class_c c p, off]
    rfl
  · intro c p m a
    rw [class_c c p, m, a]
    constructor
    · intro n
      show Host.Outcome.next (if s.hart.namoPend.isEmpty then startMove s .v else s) = _
      rw [n]
      rfl
    · intro n
      show Host.Outcome.next (if s.hart.namoPend.isEmpty then startMove s .v else s) = _
      rw [if_neg (by simpa using n)]
  · intro s i d a b m e r t o sc xs mask
    have mask {i : Instr} {z : BitVec 12} (e : sections s.hart.pcfg.vt i = z) (n : s.hart.lazyMask s.hart.pcfg.vt i =
        sections s.hart.pcfg.vt i &&& s.hart.nres) : s.hart.lazyMask s.hart.pcfg.vt i = s.hart.nres &&& z := by
      rw [n, e, BitVec.and_comm]
    exact ⟨posted_missing, lazyMask_resident .., rfl, rfl, mask (sections_vadd ..) rfl, mask (sections_vsplat ..) rfl,
      mask (sections_vcvt ..) rfl, mask (sections_vred ..) rfl, mask (sections_mzero ..) rfl, mask (sections_vscale ..) rfl⟩
end Sys2Proof.Machine
end

section
/-! SUPPORT. TSEND and TSYNC (02:R57-R61; 15:R460-R462). -/
namespace Sys2Proof.Machine
open Sys2Proof

/-! ## Faults of an access -/

theorem firstFault_at {p : Nat → Option Cause} {pa : Nat} {c : Cause} {high : List Nat} (hc : p pa = some c) :
    ∀ {low : List Nat} {i : Nat}, (∀ a ∈ low, p a = none) → firstFault p (low ++ pa :: high) i = some (i + low.length, c)
  | [], i, _ => by simp [firstFault, hc]
  | x :: t, i, h => by
    rw [List.cons_append, firstFault, h x List.mem_cons_self]
    dsimp only
    rw [firstFault_at hc fun a m => h a (List.mem_cons_of_mem _ m), List.length_cons]
    congr 2
    omega
/-- A byte that fails a check, where those below it pass theirs, is what the access reports. -/
theorem physCheck_at {s : State} {k : AccKind} {va : Word} {d : Bool} {low high : List Nat} {pa : Nat} {c : Cause}
    (h : ∀ a ∈ low, byteFault s k d (low ++ pa :: high) a = none) (hc : byteFault s k d (low ++ pa :: high) pa = some c) :
    physCheck s k va (low ++ pa :: high) d = .error (c, va + BitVec.ofNat 64 low.length) := by
  unfold physCheck
  rw [firstFault_at hc h, Nat.zero_add]
theorem physCheck_none {s : State} {k : AccKind} {va : Word} {d : Bool} {pas : List Nat}
    (h : ∀ a ∈ pas, byteFault s k d pas a = none) : physCheck s k va pas d = .ok () := by
  unfold physCheck
  rw [firstFault_none.mpr h]
/-- The statements' fault of an access is the one that it reports. -/
theorem reachN_of_faults {s : State} {k : AccKind} {va : Word} {n : Nat} {d : Bool} {c : Cause} {v : Word}
    (h : s.faults k va n d c v) : reachN s s.ctx k va n d = .error (c, v) := by
  rcases h with ⟨low, pa, high, x, below, here, rfl⟩ | ⟨c0, v0, got, x, each, ⟨pass, rfl, rfl⟩ | ⟨low, pa, high, rfl, below, here, rfl⟩⟩
  · exact reachN_stopped x (physCheck_at below here)
  · rw [reachN, x]
    dsimp only
    rw [each]
    dsimp only
    rw [physCheck_none pass]
  · rw [reachN, x]
    dsimp only
    rw [each]
    dsimp only
    rw [physCheck_at below here]

/-! ## What an access leaves, but for the harts -/

/-- What accesses may change beside the harts. -/
def accessFrame (s t : State) : Prop :=
  t = { s with mem := t.mem, unseen := t.unseen, bad := t.bad, tlb := t.tlb, walks := t.walks, hostLines := t.hostLines,
               hostCopies := t.hostCopies, poolLines := t.poolLines, out := t.out, agenda := t.agenda }
theorem accessFrame.rfl {s : State} : accessFrame s s := Eq.refl s
theorem accessFrame.trans {s t u : State} (h : accessFrame s t) (k : accessFrame t u) : accessFrame s u := by
  unfold accessFrame at *
  rw [h] at k
  exact k
theorem accessFrame_note (s : State) (c : Ctx) (va : Word) (n : Nat) : accessFrame s (noteXlat s c va n) := by
  unfold accessFrame; rw [noteXlat_form]
theorem accessFrame_touch (s : State) (w : Bool) (l : List Nat) : accessFrame s (touchLines s w l) := by
  unfold accessFrame; rw [touchLines_form]
theorem accessFrame_put (s : State) (l : List Nat) (b : List Byte) : accessFrame s (s.putAt l b) := by
  unfold accessFrame; rw [putAt_form]
theorem accessFrame.modHartOf {s t : State} (h : accessFrame s t) (id : HartId) (f : Hart → Hart) :
    accessFrame (s.modHartOf id f) (t.modHartOf id f) := by
  unfold accessFrame at *
  rw [h]
  rfl
theorem accessFrame.hart {s t : State} (h : accessFrame s t) : t.hart = s.hart := by
  unfold accessFrame at h; rw [h]
theorem accessFrame.others {s t : State} (h : accessFrame s t) : t.others = s.others := by
  unfold accessFrame at h; rw [h]
theorem accessFrame.accessOnly {s t : State} (h : accessFrame s t) (g : Hart) : s.accessOnly { t with hart := g } := by
  unfold accessFrame at h
  rw [h]
  rfl

/-- A hart changed twice by its number. -/
theorem modHartOf_twice (s : State) (id : HartId) (f g : Hart → Hart) (hf : ∀ h, (f h).id = h.id) :
    (s.modHartOf id f).modHartOf id g = s.modHartOf id (fun h => g (f h)) := by
  have one (h : Hart) : (if (if (h.id == id) = true then f h else h).id == id then g (if (h.id == id) = true then f h else h)
      else (if (h.id == id) = true then f h else h)) = if (h.id == id) = true then g (f h) else h := by
    by_cases e : (h.id == id) = true
    · simp only [if_pos e, hf]
    · simp only [if_neg e]
  simp only [State.modHartOf, State.modHarts, List.map_map, Function.comp_def, one]
  congr 1
  exact one s.hart
/-- Where no hart has the number, nothing changes. -/
theorem modHartOf_absent {s : State} {id : HartId} (h : s.hartOf id = none) (f : Hart → Hart) : s.modHartOf id f = s := by
  have none : ∀ o ∈ s.harts, ¬ (o.id == id) = true := List.find?_eq_none.mp h
  have same (o : Hart) (m : o ∈ s.others) : (if (o.id == id) = true then f o else o) = o :=
    if_neg (none o (List.mem_cons_of_mem _ m))
  unfold State.modHartOf State.modHarts
  rw [if_neg (none _ List.mem_cons_self), List.map_congr_left same, List.map_id']
theorem hartOf_of_harts {s t : State} (h : t.hart = s.hart) (o : t.others = s.others) (id : HartId) : t.hartOf id = s.hartOf id := by
  unfold State.hartOf State.harts
  rw [h, o]

theorem accessFrame_setOwn (s : State) (id : HartId) (l : List Unseen) : accessFrame s (s.setOwn id l) := Eq.refl _

/-- Stores brought for one hart are counted among its own. -/
theorem accessFrame_bring (s : State) (id : HartId) (o : Origin) (l : List (List (Nat × Byte))) :
    accessFrame (s.modHartOf id (fun h => { h with stores := h.stores + l.length })) (s.bring [id] o l) := by
  have put := accessFrame_put s (l.flatten.map (·.1)) (l.flatten.map (·.2))
  show accessFrame _ (match State.hartOf _ id with | none => _ | some h => _)
  rw [hartOf_of_harts put.hart put.others]
  split
  · next a => rw [modHartOf_absent a]; exact put
  · exact accessFrame.modHartOf (put.trans (accessFrame_setOwn ..)) id _

/-! ## The gang window -/

theorem winSlot_place {g : Gang} {va : Word} {slot off len : Nat} (h : va.toNat = Config.window + 16384 * slot + off)
    (fits : off + len ≤ 16384) (pos : 0 < len) (here : slot < g.harts) (below : va.toNat < Config.window + Config.windowSize) :
    winSlot g va = some (slot, off) := by
  have o : va.toNat - Config.window = off + 16384 * slot := by omega
  have at_ : Config.window ≤ va.toNat := by omega
  have q : (off + 16384 * slot) / 16384 = slot := by omega
  have r : (off + 16384 * slot) % 16384 = off := by omega
  unfold winSlot
  simp only [o, q, r, decide_eq_true at_, decide_eq_true below, Bool.and_self, if_true, if_pos here]
/-- No table is read for an address of the window, so nothing of it is kept. -/
theorem noteXlat_window (s : State) (c : Ctx) {va : Word} (n : Nat) (h : Config.window ≤ va.toNat) : noteXlat s c va n = s := by
  unfold noteXlat
  refine List.foldl_fixed' (fun i => ?_) _
  unfold notePage
  refine if_pos ?_
  split
  · exact h
  · next i0 => exact h.trans (by omega)

/-! ## What L2 tracks of lines changes no translation and no check -/

/-- Nothing differs but what L2 and the directory track, and the messages sent. -/
def tracksOnly (s t : State) : Prop :=
  t = { s with hostLines := t.hostLines, hostCopies := t.hostCopies, poolLines := t.poolLines, out := t.out }
theorem tracksOnly.rfl {s : State} : tracksOnly s s := Eq.refl s
theorem tracksOnly.trans {s t u : State} (h : tracksOnly s t) (k : tracksOnly t u) : tracksOnly s u := by
  unfold tracksOnly at *
  rw [h] at k
  exact k
theorem tracksOnly_touch (s : State) (w : Bool) (l : List Nat) : tracksOnly s (touchLines s w l) := by
  unfold tracksOnly; rw [touchLines_form]
theorem tracksOnly_glance (s : State) (a : BitVec 16) (va : Word) (n : Nat) : tracksOnly s (s.glance a va n) := by
  unfold State.glance
  split
  · exact tracksOnly_touch ..
  · exact .rfl
theorem tracksOnly_seePlan (s : State) (g : Gang) (i n : Nat) : tracksOnly s (s.seePlan g i n) :=
  (tracksOnly_glance ..).trans (tracksOnly_glance ..)

section
variable {s t : State}
theorem tracksOnly.readEntry (h : tracksOnly s t) (pa n : Nat) : Machine.readEntry t pa n = Machine.readEntry s pa n := by
  unfold tracksOnly at h; rw [h]; rfl
theorem tracksOnly.walkFrom (h : tracksOnly s t) (asid : BitVec 16) (va : Nat) : ∀ (l : List (Nat × Nat)) (table : Nat),
    Machine.walkFrom t asid va l table = Machine.walkFrom s asid va l table
  | [], _ => Eq.refl _
  | _ :: rest, _ => by
    unfold Machine.walkFrom
    simp only [h.readEntry, h.walkFrom asid va rest]
theorem tracksOnly.walk (h : tracksOnly s t) (asid : BitVec 16) (va : Nat) : Machine.walk t asid va = Machine.walk s asid va := by
  unfold Machine.walk
  simp only [h.readEntry, h.walkFrom]
theorem tracksOnly.leafFor (h : tracksOnly s t) (c : Ctx) (site va : Nat) : Machine.leafFor t c site va = Machine.leafFor s c site va := by
  have start : startOf t c site va = startOf s c site va := by
    unfold startOf
    rw [h.walk]
    unfold tracksOnly at h
    rw [h]
    rfl
  unfold Machine.leafFor
  simp only [start, h.walkFrom, h.walk]
theorem tracksOnly.xlat (h : tracksOnly s t) (c : Ctx) (k : AccKind) (site : Nat) (va : Word) :
    Machine.xlat t c k site va = Machine.xlat s c k site va := by
  unfold Machine.xlat
  dsimp only
  rw [h.leafFor]
  unfold tracksOnly at h
  rw [h]
  rfl
theorem tracksOnly.xlatEach (h : tracksOnly s t) (c : Ctx) (k : AccKind) (start : Word) (n : Nat) : ∀ (m : Nat) (va : Word),
    Machine.xlatEach t c k start n va m = Machine.xlatEach s c k start n va m
  | 0, _ => Eq.refl _
  | m + 1, _ => by
    unfold Machine.xlatEach
    simp only [h.xlat, h.xlatEach c k start n m]
theorem tracksOnly.xlatN (h : tracksOnly s t) (c : Ctx) (k : AccKind) (va : Word) (n : Nat) :
    Machine.xlatN t c k va n = Machine.xlatN s c k va n := by
  unfold Machine.xlatN
  simp only [h.xlat, h.xlatEach]
theorem tracksOnly.physCheck (h : tracksOnly s t) (k : AccKind) (va : Word) (pas : List Nat) (d : Bool) :
    Machine.physCheck t k va pas d = Machine.physCheck s k va pas d := by
  unfold tracksOnly at h; rw [h]; rfl
theorem tracksOnly.reachN (h : tracksOnly s t) (c : Ctx) (k : AccKind) (va : Word) (n : Nat) (d : Bool) :
    Machine.reachN t c k va n d = Machine.reachN s c k va n d := by
  unfold Machine.reachN
  simp only [h.xlatN, h.xlatEach, h.physCheck]
theorem tracksOnly.sees (h : tracksOnly s t) (vec : Bool) (site : Nat) (pas : List Nat) : t.sees vec site pas = s.sees vec site pas := by
  unfold tracksOnly at h; rw [h]; rfl
theorem tracksOnly.mem (h : tracksOnly s t) : t.mem = s.mem := by unfold tracksOnly at h; rw [h]
theorem tracksOnly.unseen (h : tracksOnly s t) : t.unseen = s.unseen := by unfold tracksOnly at h; rw [h]
theorem tracksOnly.hart (h : tracksOnly s t) : t.hart = s.hart := by unfold tracksOnly at h; rw [h]
theorem tracksOnly.others (h : tracksOnly s t) : t.others = s.others := by unfold tracksOnly at h; rw [h]
theorem tracksOnly.accessFrame (h : tracksOnly s t) : Machine.accessFrame s t := by
  unfold tracksOnly at h
  unfold Machine.accessFrame
  rw [h]
end
theorem runM_addresses_ok {c : Ctx} {k : AccKind} {va : Word} {n : Nat} {d : Bool} {s : State} {pas : List Nat}
    (h : reachN s c k va n d = .ok pas) : runM (addresses c k va n d) s = (.ok pas, noteXlat s c va n) := by
  simp only [addresses, runM_bind, runM_get, runM_modify, h, runM_liftX_ok]

/-! ## The words of a TSEND -/

theorem flatten_pieces_take {α : Type} (n : Nat) (l : List α) : ∀ m : Nat,
    ((List.range m).map (fun i => (l.drop (i * n)).take n)).flatten = l.take (m * n)
  | 0 => by simp
  | m + 1 => by
    rw [List.range_succ, List.map_append, List.flatten_append, flatten_pieces_take n l m, Nat.succ_mul, List.take_add]
    simp
theorem flatten_pieces {α : Type} {n : Nat} (pos : 0 < n) (l : List α) : (pieces n l).flatten = l := by
  unfold pieces
  rw [flatten_pieces_take, List.take_of_length_le]
  have := Nat.div_add_mod (l.length + n - 1) n
  have := Nat.mod_lt (l.length + n - 1) pos
  rw [Nat.mul_comm]
  omega
/-- What is kept of some groups of cells, whose addresses are all different, holds no address of a group left out. -/
theorem key_notMem_of_left_out {L : List (List (Nat × Byte))} (d : (L.flatten.map (·.1)).Nodup) {f : List (Nat × Byte) → Bool}
    {w : List (Nat × Byte)} (hw : w ∈ L) (out : f w = false) {p : Nat × Byte} (hp : p ∈ w) :
    p.1 ∉ (L.filter f).flatten.map (·.1) := by
  rw [List.map_flatten, List.nodup_flatten, List.pairwise_map] at d
  obtain ⟨-, apart⟩ := d
  intro m
  simp only [List.mem_map, List.mem_flatten, List.mem_filter] at m
  obtain ⟨q, ⟨x, ⟨hx, keep⟩, hq⟩, e⟩ := m
  have ne : w ≠ x := fun o => by rw [o, keep] at out; cases out
  have sym : Std.Symm (fun a b : List (Nat × Byte) => (a.map (·.1)).Disjoint (b.map (·.1))) := ⟨fun _ _ h => h.symm⟩
  have k := apart.forall hw hx ne
  exact k (List.mem_map_of_mem hp) (e ▸ List.mem_map_of_mem hq)
theorem keys_filter_nodup {L : List (List (Nat × Byte))} (d : (L.flatten.map (·.1)).Nodup) (f : List (Nat × Byte) → Bool) :
    ((L.filter f).flatten.map (·.1)).Nodup :=
  d.sublist ((List.filter_sublist.flatten).map _)

end Sys2Proof.Machine
end

section
/-! SUPPORT. The outcomes of TSEND and TSYNC (15:R460-R462). -/
namespace Sys2Proof.Machine
open Sys2Proof

/-- A check that holds. -/
theorem runM_checkM_bind {β : Type} {ok : Bool} (h : ok = true) {c : Cause} {v : Word} {f : PUnit → M β} {s : State} :
    runM (checkM ok c v >>= f) s = runM (f ⟨⟩) s := by
  rw [runM_bind, runM_checkM, if_pos h]
theorem runM_checkM_fails {β : Type} {ok : Bool} (h : ok = false) {c : Cause} {v : Word} {f : PUnit → M β} {s : State} :
    runM (checkM ok c v >>= f) s = (.error (.trap c v), s) := by
  rw [runM_bind, runM_checkM, h]
  rfl
/-- A TSEND of an exchange step, at aligned addresses, from the hart's own scratchpad to another's (15:R460, checks 1 to 4). -/
structure Sends (s : State) (a b : Reg) (l : BitVec 9) (g : Gang) (rx : Nat) : Prop where
  tensor : s.hart.cls = .t
  gang : s.gang s.hart.id.gang = some g
  step : g.stepKind = .exchange
  toAligned : (s.getX a).toNat % 8 = 0
  fromAligned : (s.getX b).toNat % 8 = 0
  toPlace : ∃ ro, winSlot g (s.getX a) = some (rx, ro) ∧ ro + 8 * (l.toNat + 1) ≤ 16384
  fromPlace : ∃ ro, winSlot g (s.getX b) = some (s.hart.id.ix, ro) ∧ ro + 8 * (l.toNat + 1) ≤ 16384

/-- What the receiver has been sent in this step. -/
def State.sentTo (s : State) (i : HartId) : Nat := match s.hartOf i with | some r => r.incoming | none => 0
/-- The send itself, once the words are known to be expected. -/
def sendWords (s : State) (a b : Reg) (len : Nat) (i : HartId) : M Unit := do
  let src ← addresses s.ctx .read (s.getX b) len false
  let bytes ← scalarBytes src
  let dst ← addresses s.ctx .write (s.getX a) len false
  modify (fun s => (s.bring [i] .exchange (sentWords s i (dst.zip bytes))).modHartOf i (fun h => { h with incoming := h.incoming + len }))
  done1

theorem exec_tsend {s : State} {a b : Reg} {l : BitVec 9} {g : Gang} {rx : Nat} (h : Sends s a b l g rx) :
    exec (.tsend a b l) s =
      finish s.hart.pc (runM (do
        let cnt ← liftX (planCount s g rx)
        checkM (s.sentTo ⟨g.id, rx⟩ + 8 * (l.toNat + 1) ≤ cnt) .step (BitVec.ofNat 64 (2 ^ 63 + rx))
        sendWords s a b (8 * (l.toNat + 1)) ⟨g.id, rx⟩) (s.seePlan g rx 1)) := by
  obtain ⟨tensor, gang, step, toAligned, fromAligned, ⟨ro, toPlace, toFits⟩, ⟨own, fromPlace, fromFits⟩⟩ := h
  show runInstr (needT _ >>= _) s = _
  rw [runInstr, runM_bind, runM_needT_pass tensor]
  dsimp only
  rw [gang]
  dsimp only
  rw [runM_checkM_bind (by rw [step]; rfl), runM_checkM_bind (by rw [toAligned]; rfl), runM_checkM_bind (by rw [fromAligned]; rfl),
    toPlace]
  dsimp only
  rw [runM_checkM_bind (decide_eq_true toFits), runM_checkM_bind (by rw [fromPlace]; simp [fromFits])]
  rfl

theorem exec_tsend_compute {s : State} {a b : Reg} {l : BitVec 9} {g : Gang} (c : s.hart.cls = .t) (e : s.gang s.hart.id.gang = some g)
    (k : g.stepKind ≠ .exchange) : exec (.tsend a b l) s = takeTrap s .step 0 s.hart.pc := by
  show runInstr (needT _ >>= _) s = _
  rw [runInstr, runM_bind, runM_needT_pass c]
  dsimp only
  rw [e]
  dsimp only
  rw [runM_checkM_fails (by simpa using k)]
  rfl

theorem window_of_winSlot {g : Gang} {va : Word} {p : Nat × Nat} (h : winSlot g va = some p) : Config.window ≤ va.toNat := by
  unfold winSlot at h
  dsimp only at h
  split at h
  · next c =>
    rw [Bool.and_eq_true, decide_eq_true_eq] at c
    exact c.1
  · cases h
theorem runM_sendWords_fault {s t : State} {a b : Reg} {len : Nat} {i : HartId} {c : Cause} {v : Word} (k : tracksOnly s t)
    (f : s.faults .read (s.getX b) len false c v) :
    runM (sendWords s a b len i) t = (.error (.trap c v), noteXlat t s.ctx (s.getX b) len) :=
  runM_bind_stopped (runM_addresses_fault (by rw [k.reachN]; exact reachN_of_faults f))

/-- The words that a send leaves, and the state it leaves them in. -/
def State.sends (t : State) (i : HartId) (len : Nat) (words : List (List (Nat × Byte))) : State :=
  ((t.bring [i] .exchange words).modHartOf i (fun h => { h with incoming := h.incoming + len })).advance 1
theorem runM_sendWords_ok {s t : State} {a b : Reg} {len : Nat} {i : HartId} {src dst : List Nat} (k : tracksOnly s t)
    (wa : Config.window ≤ (s.getX a).toNat) (wb : Config.window ≤ (s.getX b).toNat)
    (hs : s.reaches .read (s.getX b) len src) (hd : s.reaches .write (s.getX a) len dst) :
    runM (sendWords s a b len i) t =
      (.ok (), (touchLines t false src).sends i len (sentWords (touchLines t false src) i (dst.zip (s.scalarSees src)))) := by
  have read : reachN t s.ctx .read (s.getX b) len false = .ok src := by rw [k.reachN]; exact reachN_ok hs.1 hs.2
  have k' : tracksOnly s (touchLines t false src) := k.trans (tracksOnly_touch ..)
  have write : reachN (touchLines t false src) s.ctx .write (s.getX a) len false = .ok dst := by rw [k'.reachN]; exact reachN_ok hd.1 hd.2
  rw [sendWords, runM_bind, runM_addresses_ok read, noteXlat_window t _ len wb]
  dsimp only
  rw [runM_bind, runM_scalarBytes]
  dsimp only
  rw [runM_bind, runM_addresses_ok write, noteXlat_window _ _ len wa, k'.sees]
  rfl

/-! ## What a send leaves -/

theorem sends_frame {s t : State} (k : tracksOnly s t) (i : HartId) (len : Nat) (words : List (List (Nat × Byte))) :
    accessFrame (s.modHartOf i (fun h => { h with incoming := h.incoming + len, stores := h.stores + words.length }))
      ((t.bring [i] .exchange words).modHartOf i (fun h => { h with incoming := h.incoming + len })) := by
  have f := (k.accessFrame.modHartOf i (fun h => { h with stores := h.stores + words.length })).trans (accessFrame_bring t i .exchange words)
  have g := f.modHartOf i (fun h => { h with incoming := h.incoming + len })
  have twice := modHartOf_twice s i (fun h => { h with stores := h.stores + words.length }) (fun h => { h with incoming := h.incoming + len })
    fun _ => rfl
  rw [twice] at g
  exact g
theorem sends_accessOnly {s t : State} (k : tracksOnly s t) (i : HartId) (len : Nat) (words : List (List (Nat × Byte))) :
    (s.modHartOf i (fun h => { h with incoming := h.incoming + len, stores := h.stores + words.length })).accessOnly (t.sends i len words) :=
  (sends_frame k i len words).accessOnly _
theorem sends_hart {s t : State} (k : tracksOnly s t) (i : HartId) (len : Nat) (words : List (List (Nat × Byte))) :
    (t.sends i len words).hart =
      { (if s.hart.id = i then { s.hart with incoming := s.hart.incoming + len, stores := s.hart.stores + words.length } else s.hart)
        with pc := s.hart.pc + 4 } := by
  have e := (sends_frame k i len words).hart
  unfold State.sends State.advance State.setPc
  dsimp only
  rw [e]
  dsimp only [State.modHartOf, State.modHarts]
  by_cases c : s.hart.id = i
  · simp only [beq_iff_eq.mpr c, if_pos c, if_true]
    rfl
  · simp only [beq_eq_false_iff_ne.mpr c, if_neg c, Bool.false_eq_true, if_false]
    rfl
theorem sends_mem {s t : State} (k : tracksOnly s t) (i : HartId) (len : Nat) (words : List (List (Nat × Byte))) :
    (t.sends i len words).mem = (s.putAt (words.flatten.map (·.1)) (words.flatten.map (·.2))).mem := by
  show (t.bring [i] .exchange words).mem = _
  rw [bring_mem, putAt_mem, putAt_mem, k.mem]
/-- At most one word for each that was sent. -/
theorem sentWords_length (s : State) (i : HartId) (z : List (Nat × Byte)) {n : Nat} (h : z.length ≤ 8 * n) :
    (sentWords s i z).length ≤ n := by
  unfold sentWords
  refine (List.length_filter_le _ _).trans ?_
  unfold pieces
  rw [List.length_map, List.length_range]
  omega
/-- A word left out is one that another store of the step has written. -/
theorem sentWords_out {s t : State} (k : tracksOnly s t) {i : HartId} {z w : List (Nat × Byte)} (hw : w ∈ pieces 8 z)
    (out : w ∉ sentWords t i z) : ∃ u, u ∈ s.ownUnseen i ∧ u.origin = .exchange ∧ u.hits (w.map (·.1)) = true := by
  have no : ¬ (!(t.ownUnseen i).any (fun u => u.origin == .exchange && u.hits (w.map (·.1))) ||
      Config.choice t.tick (2 ^ 74 + (w.map (·.1)).headD 0)) = true := fun y => out (List.mem_filter.mpr ⟨hw, y⟩)
  rw [Bool.or_eq_true, not_or, Bool.not_eq_true', Bool.not_eq_false, List.any_eq_true] at no
  obtain ⟨⟨u, hu, e⟩, -⟩ := no
  rw [Bool.and_eq_true, beq_iff_eq] at e
  refine ⟨u, ?_, e⟩
  unfold State.ownUnseen at hu ⊢
  rwa [k.unseen] at hu
theorem keys_zip_subset {dst : List Nat} {b : List Byte} : ∀ p ∈ (dst.zip b).map (·.1), p ∈ dst := fun p m => by
  obtain ⟨x, hx, rfl⟩ := List.mem_map.mp m
  exact (List.of_mem_zip hx).1
theorem keys_zip_nodup : ∀ {dst : List Nat} {b : List Byte}, dst.Nodup → ((dst.zip b).map (·.1)).Nodup
  | [], _, _ => by simp
  | _ :: _, [], _ => by simp
  | x :: t, y :: u, h => by
    rw [List.zip_cons_cons, List.map_cons, List.nodup_cons]
    exact ⟨fun m => (List.nodup_cons.mp h).1 (keys_zip_subset _ m), keys_zip_nodup (List.nodup_cons.mp h).2⟩
theorem sentWords_keys (s : State) (i : HartId) (z : List (Nat × Byte)) : ∀ p ∈ (sentWords s i z).flatten.map (·.1), p ∈ z.map (·.1) := by
  intro p m
  have sub : (sentWords s i z).flatten.Sublist (pieces 8 z).flatten := List.filter_sublist.flatten
  rw [flatten_pieces (by decide)] at sub
  exact (sub.map _).subset m
theorem sentWords_nodup (s : State) (i : HartId) {z : List (Nat × Byte)} (d : (z.map (·.1)).Nodup) :
    ((sentWords s i z).flatten.map (·.1)).Nodup :=
  keys_filter_nodup (by rwa [flatten_pieces (by decide)]) _
/-- A byte at an address of the ordinary kind lands as it is. -/
theorem landsAs_plain (mem : List Host.Cell) {pa : Nat} (h : plainPa pa = true) (x : Byte) : landsAs mem pa x = x := by
  unfold plainPa at h
  simp only [Bool.and_eq_true, Bool.not_eq_true', Bool.and_eq_false_iff, decide_eq_false_iff_not] at h
  obtain ⟨inv, trip⟩ := h
  unfold landsAs
  rw [if_neg (by simp [inBusyInv, inv]), if_neg (by simp [inv]), if_neg (by
    rw [Bool.and_eq_true, decide_eq_true_eq, decide_eq_true_eq]; omega)]
/-- A word that is left stands in memory, and one that is not leaves memory alone. -/
theorem sends_word {s t : State} (k : tracksOnly s t) (i : HartId) (len : Nat) {z w : List (Nat × Byte)} (ok : s.memOk)
    (d : (z.map (·.1)).Nodup) (plain : ∀ p ∈ z, plainPa p.1 = true) (hw : w ∈ pieces 8 z) :
    (∀ p, p ∈ w → memRead (t.sends i len (sentWords t i z)).mem p.1 = p.2) ∨
    (∀ p, p ∈ w → memRead (t.sends i len (sentWords t i z)).mem p.1 = memRead s.mem p.1) ∧
      ∃ u, u ∈ s.ownUnseen i ∧ u.origin = .exchange ∧ u.hits (w.map (·.1)) = true := by
  have flat : (pieces 8 z).flatten = z := flatten_pieces (by decide) z
  have d' : ((pieces 8 z).flatten.map (·.1)).Nodup := by rwa [flat]
  rw [sends_mem k]
  by_cases kept : w ∈ sentWords t i z
  · left
    intro p hp
    have inz : p ∈ (sentWords t i z).flatten := List.mem_flatten.mpr ⟨w, kept, hp⟩
    obtain ⟨n, hn⟩ := List.mem_iff_getElem?.mp inz
    rw [putAt_read_get s _ _ n p.1 p.2 ok (sentWords_nodup t i d) (by rw [List.getElem?_map, hn]; rfl) (by rw [List.getElem?_map, hn]; rfl)]
    have inz' : p ∈ z := by
      rw [← flat]; exact List.mem_flatten.mpr ⟨w, hw, hp⟩
    exact landsAs_plain _ (plain p inz') _
  · right
    refine ⟨fun p hp => putAt_read_ne _ _ _ _ ok ?_, sentWords_out k hw kept⟩
    have f : (fun w => !(t.ownUnseen i).any (fun u => u.origin == .exchange && u.hits (w.map (·.1))) ||
      Config.choice t.tick (2 ^ 74 + (w.map (·.1)).headD 0)) w = false :=
      Bool.eq_false_iff.mpr fun y => kept (List.mem_filter.mpr ⟨hw, y⟩)
    exact key_notMem_of_left_out d' hw f hp

/-! ## TSYNC -/

/-- TSYNC once its step lets it arrive (15:R462). -/
def State.arrived (s : State) (id : BitVec 32) : State :=
  tsyncCheck { s with hart := { s.hart.waitHere .tsync with stepDone := true } } id
theorem exec_tsync_compute {s : State} {g : Gang} (c : s.hart.cls = .t) (e : s.gang s.hart.id.gang = some g)
    (k : g.stepKind ≠ .exchange) : exec .tsync s = .next (s.arrived g.id) := by
  show runInstr (needT _ >>= _) s = _
  have no : (g.stepKind == .exchange) = false := by simpa using k
  rw [runInstr, runM_bind, runM_needT_pass c]
  dsimp only
  rw [e]
  dsimp only
  rw [no]
  rfl
theorem exec_tsync_exchange {s : State} {g : Gang} (c : s.hart.cls = .t) (e : s.gang s.hart.id.gang = some g)
    (k : g.stepKind = .exchange) :
    exec .tsync s = runInstr (do
      planCheck g
      modHart (fun h => { h.waitHere .tsync with stepDone := true })
      modify (fun s => tsyncCheck s g.id)) s := by
  show runInstr (needT _ >>= _) s = _
  have yes : (g.stepKind == .exchange) = true := by simpa using k
  rw [runInstr, runM_bind, runM_needT_pass c]
  dsimp only
  rw [e]
  dsimp only
  rw [yes]
  rfl
theorem runM_planCheck_fault {s : State} {g : Gang} {p : Cause × Word} (h : s.hart.planFault = some p) :
    runM (planCheck g) s = (.error (.trap p.1 p.2), { s with hart := { s.hart with planFault := none } }) := by
  rw [planCheck, runM_bind, runM_getHart]
  dsimp only
  rw [h]
  rfl
theorem runM_planCheck_reads {s : State} {g : Gang} (h : s.hart.planFault = none) :
    runM (planCheck g) s =
      match planCounts s g with
      | .ok _ => (.ok (), s.seePlan g 0 g.harts)
      | .error p =>
        let u := planFails (s.seePlan g 0 g.harts) g.id p
        (.error (.trap p.1 p.2), { u with hart := { u.hart with planFault := none } }) := by
  rw [planCheck, runM_bind, runM_getHart]
  dsimp only
  rw [h]
  dsimp only
  rw [runM_bind, runM_get]
  dsimp only
  rw [runM_bind, runM_set]
  dsimp only
  cases planCounts s g <;> rfl
/-- The harts changed are those of which the predicate holds. -/
theorem modHarts_congr {s : State} {p q : Hart → Bool} {f : Hart → Hart} (h : ∀ o, o ∈ s.harts → p o = q o) :
    s.modHarts p f = s.modHarts q f := by
  unfold State.modHarts
  rw [h _ List.mem_cons_self]
  congr 1
  exact List.map_congr_left fun o m => by rw [h o (List.mem_cons_of_mem _ m)]
/-- Where no hart of the gang waits at a TSYNC, the fault is each one's to take later. -/
theorem planFails_noted {s : State} (g : BitVec 32) (p : Cause × Word) (h : ∀ o, o ∈ s.harts → o.waitOn ≠ some .tsync) :
    planFails s g p = s.modHarts (fun o => o.id.gang == g && !o.ended) (fun o => { o with planFault := some p }) := by
  have none (o : Hart) (m : o ∈ s.harts) : (o.waitOn == some .tsync && o.stepDone) = false := by
    rw [Bool.and_eq_false_iff]; left; simpa using h o m
  have same : s.modHarts (fun h => h.id.gang == g && !h.ended && !(h.waitOn == some .tsync && h.stepDone))
      (fun h => { h with planFault := some p }) = s.modHarts (fun o => o.id.gang == g && !o.ended) (fun o => { o with planFault := some p }) := by
    exact modHarts_congr fun o m => by rw [none o m, Bool.not_false, Bool.and_true]
  unfold planFails
  dsimp only
  rw [same]
  have empty : ((s.modHarts (fun o => o.id.gang == g && !o.ended) (fun o => { o with planFault := some p })).gangHarts g).filter
      (fun h => h.waitOn == some .tsync && h.stepDone) = [] := by
    rw [List.filter_eq_nil_iff]
    intro o m
    have m' := List.mem_of_mem_filter m
    rw [harts_modHarts, List.mem_map] at m'
    obtain ⟨x, hx, rfl⟩ := m'
    have k := none x hx
    split <;> simpa using k
  rw [empty]
  rfl

/-! ## The statement -/

/-- What stops a TSEND whose words are expected, and what it leaves. -/
theorem exec_tsend_plan {s : State} {a b : Reg} {l : BitVec 9} {g : Gang} {rx : Nat} (h : Sends s a b l g rx) {p : Cause × Word}
    (e : planCount s g rx = .error p) : exec (.tsend a b l) s = takeTrap (s.seePlan g rx 1) p.1 p.2 s.hart.pc := by
  rw [exec_tsend h, e]
  rfl
theorem exec_tsend_unexpected {s : State} {a b : Reg} {l : BitVec 9} {g : Gang} {rx cnt : Nat} (h : Sends s a b l g rx)
    (e : planCount s g rx = .ok cnt) (few : cnt < s.sentTo ⟨g.id, rx⟩ + 8 * (l.toNat + 1)) :
    exec (.tsend a b l) s = takeTrap (s.seePlan g rx 1) .step (BitVec.ofNat 64 (2 ^ 63 + rx)) s.hart.pc := by
  rw [exec_tsend h, e, runM_bind, runM_liftX_ok]
  dsimp only
  rw [runM_checkM_fails (decide_eq_false (by omega))]
  rfl
theorem exec_tsend_expected {s : State} {a b : Reg} {l : BitVec 9} {g : Gang} {rx cnt : Nat} (h : Sends s a b l g rx)
    (e : planCount s g rx = .ok cnt) (room : s.sentTo ⟨g.id, rx⟩ + 8 * (l.toNat + 1) ≤ cnt) :
    exec (.tsend a b l) s =
      finish s.hart.pc (runM (sendWords s a b (8 * (l.toNat + 1)) ⟨g.id, rx⟩) (s.seePlan g rx 1)) := by
  rw [exec_tsend h, e, runM_bind, runM_liftX_ok]
  dsimp only
  rw [runM_checkM_bind (decide_eq_true room)]

/-- Settles O30: a send by the order of its checks, its words by what else the step has written, and a TSYNC by its gang's step. -/
theorem exchangeInstructions : Obligations.ExchangeInstructions := by
  unfold Obligations.ExchangeInstructions
  intro s a b l g tensor gang
  have sends {rx ro own : Nat} (step : g.stepKind = .exchange) (xa : (s.getX a).toNat % 8 = 0) (xb : (s.getX b).toNat % 8 = 0)
      (pa : (s.getX a).toNat = Config.window + 16384 * rx + ro ∧ ro + 8 * (l.toNat + 1) ≤ 16384 ∧ rx < g.harts ∧
        (s.getX a).toNat < Config.window + Config.windowSize)
      (pb : (s.getX b).toNat = Config.window + 16384 * s.hart.id.ix + own ∧ own + 8 * (l.toNat + 1) ≤ 16384 ∧ s.hart.id.ix < g.harts ∧
        (s.getX b).toNat < Config.window + Config.windowSize) : Sends s a b l g rx :=
    ⟨tensor, gang, step, xa, xb, ⟨ro, winSlot_place pa.1 pa.2.1 (by omega) pa.2.2.1 pa.2.2.2, pa.2.1⟩,
      ⟨own, winSlot_place pb.1 pb.2.1 (by omega) pb.2.2.1 pb.2.2.2, pb.2.1⟩⟩
  refine ⟨?_, ?_, ?_, ?_, ?_, ?_⟩
  · exact exec_tsend_compute tensor gang
  · intro rx ro own cnt src dst step xa xb pa pb e
    have h := sends step xa xb pa pb
    have seen := tracksOnly_seePlan s g rx 1
    refine ⟨exec_tsend_unexpected h e, fun c v room f => ?_, fun room ok hs hd => ?_⟩
    · rw [exec_tsend_expected h e room, runM_sendWords_fault seen f]
      rfl
    · have wa := window_of_winSlot h.toPlace.choose_spec.1
      have wb := window_of_winSlot h.fromPlace.choose_spec.1
      have k : tracksOnly s (touchLines (s.seePlan g rx 1) false src) := seen.trans (tracksOnly_touch ..)
      have z : (dst.zip (s.scalarSees src)).length ≤ 8 * (l.toNat + 1) := by
        rw [List.length_zip, xlatN_length hd.1]
        exact Nat.min_le_left ..
      refine ⟨_, _, by rw [exec_tsend_expected h e room, runM_sendWords_ok seen wa wb hs hd, finish_ok],
        sentWords_length (touchLines (s.seePlan g rx 1) false src) ⟨g.id, rx⟩ _ z, fun p out => ?_, fun nodup plain w hw => ?_,
        sends_accessOnly k _ _ _, sends_hart k _ _ _⟩
      · rw [sends_mem k]
        exact putAt_read_ne _ _ _ _ ok fun m => out (keys_zip_subset p (sentWords_keys _ _ _ p m))
      · exact sends_word k _ _ ok (keys_zip_nodup nodup) (fun p hp => plain _ (List.of_mem_zip hp).1) hw
  · intro rx ro own p step xa xb pa pb e
    exact exec_tsend_plan (sends step xa xb pa pb) e
  · intro free
    by_cases k : g.stepKind = .exchange
    · obtain ⟨f, c, e⟩ := free k
      rw [if_pos k, exec_tsync_exchange tensor gang k]
      have run : runM (planCheck g) s = (.ok (), s.seePlan g 0 g.harts) := by rw [runM_planCheck_reads f, e]
      refine runInstr_ok ?_
      rw [runM_bind, run]
      dsimp only
      rw [runM_bind, runM_modHart]
      dsimp only
      rw [runM_modify, (tracksOnly_seePlan s g 0 g.harts).hart]
    · rw [if_neg k, exec_tsync_compute tensor gang k]
      rfl
  · intro p k f
    rw [exec_tsync_exchange tensor gang k]
    exact runInstr_of_run (runM_bind_stopped (runM_planCheck_fault f))
  · intro p k f e
    rw [if_pos k, exec_tsync_exchange tensor gang k]
    refine ⟨?_, fun o => planFails_noted g.id p fun x hx => o x ?_⟩
    · have run := runM_planCheck_reads (g := g) f
      rw [e] at run
      exact runInstr_of_run (runM_bind_stopped run)
    · have t := tracksOnly_seePlan s g 0 g.harts
      unfold State.harts at hx ⊢
      rwa [t.hart, t.others] at hx

end Sys2Proof.Machine
end

section
/-! SUPPORT. Fields of little-endian words, and a device's writes of plain bytes (03:R65; 00:R8). -/
namespace Sys2Proof.Machine
open Sys2Proof

/-! ## Fields of a little-endian word -/

theorem leNat_lt : ∀ l : List Byte, leNat l < 2 ^ (8 * l.length)
  | [] => Nat.one_pos
  | b :: t => by
    have h := leNat_lt t
    have hb := b.isLt
    rw [leNat, List.length_cons, show 8 * (t.length + 1) = 8 * t.length + 8 by omega, Nat.pow_add]
    omega
theorem leNat_drop : ∀ (n : Nat) (l : List Byte), leNat l / 2 ^ (8 * n) = leNat (l.drop n)
  | 0, l => by simp
  | n + 1, [] => by simp [leNat]
  | n + 1, b :: t => by
    have hb := b.isLt
    rw [leNat, List.drop_succ_cons, ← leNat_drop n t, show 8 * (n + 1) = 8 + 8 * n by omega, Nat.pow_add, ← Nat.div_div_eq_div_mul]
    congr 1
    omega
theorem leNat_take : ∀ (n : Nat) (l : List Byte), leNat l % 2 ^ (8 * n) = leNat (l.take n)
  | 0, l => by simp [leNat, Nat.mod_one]
  | n + 1, [] => by simp [leNat]
  | n + 1, b :: t => by
    have hb := b.isLt
    rw [List.take_succ_cons, leNat, leNat, ← leNat_take n t, show 8 * (n + 1) = 8 + 8 * n by omega, Nat.pow_add, Nat.mod_mul,
      show (b.toNat + 256 * leNat t) % 2 ^ 8 = b.toNat by omega, show (b.toNat + 256 * leNat t) / 2 ^ 8 = leNat t by omega]
theorem memReadN_drop (m : List Host.Cell) : ∀ (i a n : Nat), (memReadN m a n).drop i = memReadN m (a + i) (n - i)
  | 0, a, n => rfl
  | i + 1, a, 0 => by simp [memReadN]
  | i + 1, a, n + 1 => by
    rw [memReadN, List.drop_succ_cons, memReadN_drop m i (a + 1) n, Nat.add_sub_add_right, show a + 1 + i = a + (i + 1) by omega]
theorem memReadN_take (m : List Host.Cell) : ∀ (n a k : Nat), n ≤ k → (memReadN m a k).take n = memReadN m a n
  | 0, a, k, _ => by simp [memReadN]
  | n + 1, a, 0, h => by omega
  | n + 1, a, k + 1, h => by rw [memReadN, memReadN, List.take_succ_cons, memReadN_take m n (a + 1) k (by omega)]
@[simp] theorem memReadN_length (m : List Host.Cell) : ∀ (n a : Nat), (memReadN m a n).length = n
  | 0, _ => rfl
  | n + 1, a => by rw [memReadN, List.length_cons, memReadN_length m n (a + 1)]
/-- A field of whole bytes is the word at its bytes. -/
theorem bitsOf_peek (s : State) (pa i n k : Nat) (h : i + n ≤ k) (pos : 0 < n) :
    bitsOf (s.peek pa k) (8 * (i + n) - 1) (8 * i) = s.peek (pa + i) n := by
  unfold bitsOf State.peek
  rw [Nat.shiftRight_eq_div_pow, leNat_drop, show 8 * (i + n) - 1 + 1 - 8 * i = 8 * n by omega, leNat_take, memReadN_drop,
    memReadN_take _ _ _ _ (by omega)]
/-- A field within a byte, of that byte. -/
theorem bitsOf_peek_byte (s : State) (pa i k hi lo : Nat) (h : i < k) (hlo : 8 * i ≤ lo) (hhi : hi < 8 * (i + 1)) (le : lo ≤ hi) :
    bitsOf (s.peek pa k) hi lo = bitsOf (s.peek (pa + i) 1) (hi - 8 * i) (lo - 8 * i) := by
  rw [← bitsOf_peek s pa i 1 k (by omega) (by omega)]
  unfold bitsOf
  rw [show 8 * (i + 1) - 1 + 1 - 8 * i = 8 by omega, Nat.shiftRight_eq_div_pow, Nat.shiftRight_eq_div_pow, Nat.shiftRight_eq_div_pow,
    show hi - 8 * i + 1 - (lo - 8 * i) = hi + 1 - lo by omega]
  have split : 2 ^ lo = 2 ^ (8 * i) * 2 ^ (lo - 8 * i) := by rw [← Nat.pow_add]; congr 1; omega
  rw [split, ← Nat.div_div_eq_div_mul]
  generalize s.peek pa k / 2 ^ (8 * i) = v
  have small : 2 ^ 8 = 2 ^ (lo - 8 * i) * 2 ^ (8 - (lo - 8 * i)) := by rw [← Nat.pow_add]; congr 1; omega
  rw [small, Nat.mod_mul_right_div_self]
  refine (Nat.mod_mod_of_dvd _ ?_).symm
  exact Nat.pow_dvd_pow 2 (by omega)
/-- Bytes that read alike make the same word. -/
theorem memReadN_congr {m m' : List Host.Cell} : ∀ {n a : Nat}, (∀ p, a ≤ p → p < a + n → memRead m' p = memRead m p) →
    memReadN m' a n = memReadN m a n
  | 0, _, _ => rfl
  | n + 1, a, h => by
    rw [memReadN, memReadN, h a (by omega) (by omega), memReadN_congr fun p lo hi => h p (by omega) (by omega)]
theorem peek_congr {s t : State} {pa n : Nat} (h : ∀ p, pa ≤ p → p < pa + n → memRead t.mem p = memRead s.mem p) :
    t.peek pa n = s.peek pa n := by
  unfold State.peek
  rw [memReadN_congr h]

end Sys2Proof.Machine
end

section
/-! SUPPORT. The scheduler's writes of a queue's descriptor and of its slots (03:R65-R67, R71; 02:R40). -/
namespace Sys2Proof.Machine
open Sys2Proof

/-! ## Memory after stores one after another -/

theorem lookup_mem {l : List (Nat × Byte)} {a : Nat} {x : Byte} (h : l.lookup a = some x) : (a, x) ∈ l := by
  obtain ⟨l1, l2, rfl, -⟩ := List.lookup_eq_some_iff.mp h
  simp
theorem lookup_notMem {l : List (Nat × Byte)} {a : Nat} (h : l.lookup a = none) : a ∉ l.map (·.1) := by
  rw [List.lookup_eq_none_iff] at h
  intro m
  obtain ⟨p, hp, rfl⟩ := List.mem_map.mp m
  simpa using h p hp
theorem memAfter_nil {s t : State} (h : t.mem = s.mem) : s.memAfter t [] := ⟨fun _ _ => by rw [h], nofun⟩
theorem State.memAfter.append {s t u : State} {c d : List (Nat × Byte)} (h : s.memAfter t c) (k : t.memAfter u d) :
    s.memAfter u (c ++ d) := by
  refine ⟨fun a m => ?_, fun a x e plain => ?_⟩
  · rw [List.map_append, List.mem_append, not_or] at m
    rw [k.1 a m.2, h.1 a m.1]
  · rw [List.reverse_append, List.lookup_append] at e
    cases f : d.reverse.lookup a with
    | some y =>
      rw [f] at e
      cases e
      exact k.2 a _ f plain
    | none =>
      rw [f] at e
      have out : a ∉ d.map (·.1) := fun m => lookup_notMem f (by rw [List.map_reverse]; exact List.mem_reverse.mpr m)
      rw [k.1 a out]
      exact h.2 a x e plain
/-- Bytes put at addresses that all differ. -/
theorem putAt_memAfter {s : State} {pas : List Nat} {b : List Byte} (ok : s.memOk) (d : pas.Nodup) (len : b.length = pas.length) :
    s.memAfter (s.putAt pas b) (pas.zip b) := by
  refine ⟨fun a m => putAt_read_ne s pas b a ok ?_, fun a x e plain => ?_⟩
  · rwa [List.map_fst_zip (by omega)] at m
  · have m : (a, x) ∈ pas.zip b := List.mem_reverse.mp (lookup_mem e)
    obtain ⟨n, hn⟩ := List.mem_iff_getElem?.mp m
    obtain ⟨ha, hx⟩ := List.getElem?_zip_eq_some.mp hn
    rw [putAt_read_get s pas b n a x ok d ha hx, landsAs_plain _ plain]

/-! ## A device's writes -/

/-- A device has put these bytes, in memory without errors. -/
structure DevWrote (s t : State) (cells : List (Nat × Byte)) : Prop where
  frame : accessFrame s t
  ok : t.memOk
  good : t.bad = []
  mem : s.memAfter t cells
theorem DevWrote.append {s t u : State} {c d : List (Nat × Byte)} (h : DevWrote s t c) (k : DevWrote t u d) : DevWrote s u (c ++ d) :=
  ⟨h.frame.trans k.frame, k.ok, k.good, h.mem.append k.mem⟩
theorem DevWrote.nil {s : State} (ok : s.memOk) (good : s.bad = []) : DevWrote s s [] := ⟨.rfl, ok, good, memAfter_nil (Eq.refl _)⟩
theorem DevWrote.of_tracks {s t u : State} {c : List (Nat × Byte)} (k : tracksOnly s t) (h : DevWrote t u c) : DevWrote s u c := by
  refine ⟨k.accessFrame.trans h.frame, h.ok, h.good, fun a m => ?_, h.mem.2⟩
  rw [h.mem.1 a m, k.mem]
theorem DevWrote.sched {s t : State} {c : List (Nat × Byte)} (h : DevWrote s t c) : t.sched = s.sched := by
  have e := h.frame; unfold accessFrame at e; rw [e]
theorem DevWrote.hart {s t : State} {c : List (Nat × Byte)} (h : DevWrote s t c) : t.hart = s.hart := h.frame.hart
theorem DevWrote.poolUp {s t : State} {c : List (Nat × Byte)} (h : DevWrote s t c) : t.poolUp = s.poolUp := by
  have e := h.frame; unfold accessFrame at e; rw [e]
theorem DevWrote.accessOnly {s t : State} {c : List (Nat × Byte)} (h : DevWrote s t c) : s.accessOnly t := h.frame.accessOnly t.hart
/-- A word elsewhere reads as before. -/
theorem DevWrote.peek {s t : State} {c : List (Nat × Byte)} (h : DevWrote s t c) {pa n : Nat}
    (apart : ∀ p ∈ c.map (·.1), p < pa ∨ pa + n ≤ p) : t.peek pa n = s.peek pa n :=
  peek_congr fun p lo hi => h.mem.1 p fun m => by have := apart p m; omega
theorem memOk_putAt {s : State} {pas : List Nat} {b : List Byte} (ok : s.memOk) : (s.putAt pas b).memOk := putAt_wf s pas b ok
theorem putAt_good {s : State} {pas : List Nat} {b : List Byte} (good : s.bad = []) : (s.putAt pas b).bad = [] := by
  unfold State.putAt
  rw [scbEvents_form, writeAt_form]
  show healed s.bad pas = []
  rw [good]
  rfl
theorem devWrote_putAt {s : State} {pas : List Nat} {b : List Byte} (ok : s.memOk) (good : s.bad = []) (d : pas.Nodup)
    (len : b.length = pas.length) : DevWrote s (s.putAt pas b) (pas.zip b) :=
  ⟨accessFrame_put s pas b, memOk_putAt ok, putAt_good good, putAt_memAfter ok d len⟩

/-! ## Descriptors -/

theorem paClass_desc {q off : Nat} (h : q < 1024) (i : off < 64) : paClass (descPa q + off) = some .scb := by
  unfold descPa
  unfold paClass Config.scb Config.hbmEnd
  rw [if_neg (by omega)]
  simp only [Bool.and_eq_true, decide_eq_true_eq]
  rw [if_neg (by omega), if_neg (by omega), if_pos (by omega)]
theorem plain_desc {q off : Nat} (h : q < 1024) (i : off < 64) : plainPa (descPa q + off) = true := by
  unfold descPa
  unfold plainPa inInv
  simp only [Bool.and_eq_true, Bool.not_eq_true', Bool.and_eq_false_iff, decide_eq_false_iff_not]
  omega
@[simp] theorem leBytes_len (n v : Nat) : (leBytes n v).length = n := leBytes_length n v
/-- The scheduler writes a field of whole bytes of a descriptor. -/
theorem devWrote_descPut {s : State} {q off n : Nat} (v : Nat) (hq : q < 1024) (fits : off + n ≤ 64) (ok : s.memOk) (good : s.bad = []) :
    DevWrote s (descPut s q off n v) ((run (descPa q + off) n).zip (leBytes n v)) := by
  have scb (p : Nat) (m : p ∈ run (descPa q + off) (leBytes n v).length) : paClass p = some .scb := by
    rw [leBytes_len, mem_run] at m
    have e : p = descPa q + (p - descPa q) := by omega
    rw [e]
    exact paClass_desc hq (by omega)
  have takes : s.takes (run (descPa q + off) (leBytes n v).length) = true := by
    have np : (run (descPa q + off) (leBytes n v).length).any (permitted s) = false := by
      rw [List.any_eq_false]
      intro p m
      simp [permitted, scb p m]
    have npool : (run (descPa q + off) (leBytes n v).length).any (fun pa => paClass pa == some .pool) = false := by
      rw [List.any_eq_false]
      intro p m
      simp [scb p m]
    unfold State.takes
    rw [np, npool, good]
    cases s.poolUp <;> rfl
  have e : descPut s q off n v = s.putAt (run (descPa q + off) n) (leBytes n v) := by
    unfold descPut State.putN
    rw [if_pos takes, leBytes_len]
  rw [e]
  exact devWrote_putAt ok good (run_nodup _ _) (by rw [leBytes_len, run_length])

end Sys2Proof.Machine
end

section
/-! SUPPORT. The queue events (02:R40, R41; 03:R66-R72). -/
namespace Sys2Proof.Machine
open Sys2Proof

/-! ## Fields of a descriptor -/

theorem desc_head (s : State) (q : Nat) : descHead (s.desc q) = s.peek (descPa q + 24) 4 :=
  bitsOf_peek s (descPa q) 24 4 64 (by omega) (by omega)
theorem desc_rej (s : State) (q : Nat) : bitsOf (s.desc q) 319 288 = s.peek (descPa q + 36) 4 :=
  bitsOf_peek s (descPa q) 36 4 64 (by omega) (by omega)
theorem desc_rpt (s : State) (q : Nat) : bitsOf (s.desc q) 383 320 = s.peek (descPa q + 40) 8 :=
  bitsOf_peek s (descPa q) 40 8 64 (by omega) (by omega)
theorem desc_stat (s : State) (q : Nat) : descStat (s.desc q) = bitsOf (s.peek (descPa q + 20) 1) 2 0 :=
  bitsOf_peek_byte s (descPa q) 20 64 162 160 (by omega) (by omega) (by omega) (by omega)

/-- What is written of a descriptor: STAT's byte, and a word of four bytes. -/
def statCell (s : State) (q n : Nat) : List (Nat × Byte) := [(descPa q + 20, BitVec.ofNat 8 (setBits (s.peek (descPa q + 20) 1) 2 0 n))]
def wordCells (q off v : Nat) : List (Nat × Byte) := (run (descPa q + off) 4).zip (leBytes 4 (v % 2 ^ 32))
theorem keys_statCell (s : State) (q n : Nat) : ∀ p ∈ (statCell s q n).map (·.1), p = descPa q + 20 := by
  simp [statCell]
theorem keys_wordCells (q off v : Nat) : ∀ p ∈ (wordCells q off v).map (·.1), descPa q + off ≤ p ∧ p < descPa q + off + 4 := by
  intro p m
  rw [wordCells, List.map_fst_zip (by rw [run_length, leBytes_len])] at m
  exact mem_run.mp m

theorem memReadN_eq_map (m : List Host.Cell) : ∀ (n a : Nat), memReadN m a n = (run a n).map (memRead m)
  | 0, _ => rfl
  | n + 1, a => by rw [memReadN, run, List.map_cons, memReadN_eq_map m n (a + 1)]
/-- Where addresses all differ, each holds what was stored there. -/
theorem memAfter_zip {s t : State} {pas : List Nat} {b : List Byte} (h : s.memAfter t (pas.zip b)) (d : pas.Nodup) {k a : Nat} {x : Byte}
    (ha : pas[k]? = some a) (hx : b[k]? = some x) (plain : plainPa a = true) : memRead t.mem a = x := by
  have m : (a, x) ∈ pas.zip b := List.mem_iff_getElem?.mpr ⟨k, List.getElem?_zip_eq_some.mpr ⟨ha, hx⟩⟩
  cases e : (pas.zip b).reverse.lookup a with
  | none =>
    exact absurd (List.mem_map_of_mem m) fun k => lookup_notMem e (by rw [List.map_reverse]; exact List.mem_reverse.mpr k)
  | some y =>
    rw [h.2 a y e plain]
    obtain ⟨n, hn⟩ := List.mem_iff_getElem?.mp (List.mem_reverse.mp (lookup_mem e))
    obtain ⟨hn1, hn2⟩ := List.getElem?_zip_eq_some.mp hn
    have same : n = k := by
      obtain ⟨l1, e1⟩ := List.getElem?_eq_some_iff.mp hn1
      obtain ⟨l2, e2⟩ := List.getElem?_eq_some_iff.mp ha
      exact (List.Nodup.getElem_inj_iff d).mp (e1.trans e2.symm)
    rw [same, hx] at hn2
    exact (Option.some.inj hn2).symm
theorem setBits_same {v n : Nat} (h : bitsOf v 2 0 = n) : setBits v 2 0 n = v := by
  unfold setBits
  rw [h]
  unfold bitsOf at h
  simp only [Nat.shiftRight_zero] at h
  omega
theorem peek_byte (s : State) (pa : Nat) : BitVec.ofNat 8 (s.peek pa 1) = memRead s.mem pa := by
  simp [State.peek, memReadN, leNat]

section
variable {s : State} {q : Nat}
theorem wrote_setStat (n : Nat) (hq : q < 1024) (ok : s.memOk) (good : s.bad = []) : DevWrote s (setStat s q n) (statCell s q n) :=
  devWrote_descPut _ hq (by omega) ok good
theorem wrote_word (off v : Nat) (fits : off + 4 ≤ 64) (hq : q < 1024) (ok : s.memOk) (good : s.bad = []) :
    DevWrote s (descPut s q off 4 (v % 2 ^ 32)) (wordCells q off v) := devWrote_descPut _ hq fits ok good
theorem wrote_setDef (v : Nat) (hq : q < 1024) (ok : s.memOk) (good : s.bad = []) : DevWrote s (setDef s q v) (wordCells q 32 v) :=
  wrote_word 32 v (by omega) hq ok good
/-- A word written reads back. -/
theorem DevWrote.word {t : State} {off v : Nat} (h : DevWrote s t (wordCells q off v)) (hq : q < 1024) (fits : off + 4 ≤ 64) :
    t.peek (descPa q + off) 4 = v % 2 ^ 32 := by
  have bytes : memReadN t.mem (descPa q + off) 4 = leBytes 4 (v % 2 ^ 32) := by
    rw [memReadN_eq_map]
    refine List.ext_getElem (by simp [run_length]) fun k h1 h2 => ?_
    have inside : (run (descPa q + off) 4)[k] ∈ run (descPa q + off) 4 := List.getElem_mem _
    rw [mem_run] at inside
    rw [List.getElem_map]
    refine memAfter_zip h.mem (run_nodup _ _) (List.getElem?_eq_getElem _) (List.getElem?_eq_getElem h2) ?_
    rw [show (run (descPa q + off) 4)[k] = descPa q + ((run (descPa q + off) 4)[k] - descPa q) by omega]
    exact plain_desc hq (by omega)
  unfold State.peek
  rw [bytes, leNat_leBytes]
  exact Nat.mod_mod _ _

/-- A write that cannot be made is not made: nothing but memory follows a device's signal. -/
theorem frame_putN (s : State) (pa : Nat) (b : List Byte) : accessFrame s (s.putN pa b) := by
  unfold State.putN
  split
  · exact accessFrame_put ..
  · exact .rfl
theorem frame_signalVa (s : State) (a : BitVec 16) (va : Word) (v : BitVec 32) : accessFrame s (signalVa s a va v) := by
  unfold signalVa
  split
  · exact .rfl
  · split
    · exact frame_putN ..
    · exact .rfl
theorem frame_descPut (s : State) (q off n v : Nat) : accessFrame s (descPut s q off n v) := frame_putN ..
theorem frame_reportQueue (s : State) (q : Nat) : accessFrame s (reportQueue s q) := (frame_descPut ..).trans (frame_signalVa ..)
theorem frame_queueFault (s : State) (q n : Nat) : accessFrame s (queueFault s q n) := (frame_descPut ..).trans (frame_reportQueue ..)

/-- A report without a word to signal counts the rejection and no more. -/
theorem wrote_reportQueue (hq : q < 1024) (ok : s.memOk) (good : s.bad = []) (quiet : bitsOf (s.desc q) 383 320 = 0) :
    DevWrote s (reportQueue s q) (wordCells q 36 (bitsOf (s.desc q) 319 288 + 1)) := by
  unfold reportQueue
  dsimp only
  rw [quiet]
  exact wrote_word 36 _ (by omega) hq ok good
theorem wrote_queueFault (n : Nat) (hq : q < 1024) (ok : s.memOk) (good : s.bad = []) (quiet : bitsOf (s.desc q) 383 320 = 0) :
    DevWrote s (queueFault s q n) (statCell s q n ++ wordCells q 36 (bitsOf (s.desc q) 319 288 + 1)) := by
  have st := wrote_setStat (s := s) n hq ok good
  have away {i k : Nat} (h : 21 ≤ i) : (setStat s q n).peek (descPa q + i) k = s.peek (descPa q + i) k :=
    st.peek fun p m => by have := keys_statCell s q n p m; omega
  have rpt : bitsOf ((setStat s q n).desc q) 383 320 = 0 := by rw [desc_rpt, away (by omega), ← desc_rpt, quiet]
  have rej : bitsOf ((setStat s q n).desc q) 319 288 = bitsOf (s.desc q) 319 288 := by rw [desc_rej, away (by omega), ← desc_rej]
  rw [← rej]
  exact st.append (wrote_reportQueue hq st.ok st.good rpt)
/-- STAT follows whether records wait. -/
theorem wrote_setActive (hq : q < 1024) (ok : s.memOk) (good : s.bad = []) :
    DevWrote s (setActive s q) (statCell s q (if descUsed (s.desc q) = 0 then 0 else 1)) := by
  unfold setActive
  dsimp only
  generalize (if descUsed (s.desc q) = 0 then 0 else 1) = n
  split
  · next same =>
    refine ⟨.rfl, ok, good, fun _ _ => Eq.refl _, fun a x e _ => ?_⟩
    have m : (a, x) ∈ statCell s q n := List.mem_reverse.mp (lookup_mem e)
    rw [statCell, List.mem_singleton, Prod.mk.injEq] at m
    obtain ⟨rfl, rfl⟩ := m
    rw [setBits_same (by rw [← desc_stat]; exact same), peek_byte]
  · exact wrote_setStat _ hq ok good
end

end Sys2Proof.Machine
end

section
/-! SUPPORT. Heads of queues, and the outcomes of the queue events (02:R40, R41; 03:R66-R72). -/
namespace Sys2Proof.Machine
open Sys2Proof

/-! ## Heads -/

theorem head_queue {x : Sched} {q : Nat} {h : Head} (e : x.head q = some h) : h.queue = q := by
  simpa using List.find?_some e
theorem head_dropHead (x : Sched) (q p : Nat) : (x.dropHead q).head p = if p = q then none else x.head p := by
  unfold Sched.head Sched.dropHead
  dsimp only
  rw [List.find?_filter]
  split
  · next e =>
    rw [List.find?_eq_none]
    intro h _
    simp [e]
  · next ne =>
    congr 1
    funext h
    by_cases e : h.queue = p
    · simp [e, ne]
    · simp [e]
theorem head_putHead (x : Sched) (h : Head) (p : Nat) : (x.putHead h).head p = if p = h.queue then some h else x.head p := by
  have drop := head_dropHead x h.queue p
  unfold Sched.head Sched.dropHead at drop
  unfold Sched.head Sched.putHead
  dsimp only at drop ⊢
  rw [List.find?_cons]
  by_cases e : p = h.queue
  · rw [if_pos e, beq_iff_eq.mpr e.symm]
  · rw [if_neg e] at drop ⊢
    rw [beq_eq_false_iff_ne.mpr (Ne.symm e), drop]

/-! ## Slots -/

theorem frame_devPut {s t : State} {a : BitVec 16} {va : Word} {b : List Byte} (h : devPut s a va b = some t) : accessFrame s t := by
  unfold devPut at h
  rw [writeMem, runM_bind] at h
  cases e : reachN s (devCtx a) .write va b.length false with
  | ok pas =>
    rw [runM_addresses_ok e] at h
    cases h
    exact (accessFrame_note ..).trans (accessFrame_put ..)
  | error p =>
    rw [runM_addresses_fault e] at h
    cases h
theorem frame_slotPut (s : State) (q i off : Nat) (b : List Byte) : accessFrame s (slotPut s q i off b) := by
  unfold slotPut
  dsimp only
  cases e : devPut s (descAsid (s.desc q)) (slotVa (s.desc q) i + BitVec.ofNat 64 off) b with
  | none => exact .rfl
  | some t => exact frame_devPut e
/-- Bytes of a slot that can be reached are written. -/
theorem wrote_slotPut {s : State} {q i off : Nat} {b : List Byte} {pas : List Nat} (ok : s.memOk) (good : s.bad = [])
    (hx : xlatN s (devCtx (descAsid (s.desc q))) .write (slotVa (s.desc q) i + BitVec.ofNat 64 off) b.length = .ok pas)
    (hp : physCheck s .write (slotVa (s.desc q) i + BitVec.ofNat 64 off) pas false = .ok ()) (d : pas.Nodup) :
    DevWrote s (slotPut s q i off b) (pas.zip b) := by
  have e : devPut s (descAsid (s.desc q)) (slotVa (s.desc q) i + BitVec.ofNat 64 off) b =
      some ((noteXlat s (devCtx (descAsid (s.desc q))) (slotVa (s.desc q) i + BitVec.ofNat 64 off) b.length).putAt pas b) := by
    unfold devPut
    rw [writeMem, runM_bind, runM_addresses_ok (reachN_ok hx hp)]
    rfl
  have note : DevWrote s (noteXlat s (devCtx (descAsid (s.desc q))) (slotVa (s.desc q) i + BitVec.ofNat 64 off) b.length) [] :=
    ⟨accessFrame_note .., by unfold State.memOk; rw [noteXlat_mem]; exact ok, by rw [noteXlat_bad]; exact good, memAfter_nil (noteXlat_mem ..)⟩
  have put := note.append (devWrote_putAt note.ok note.good d (xlatN_length hx).symm)
  unfold slotPut
  dsimp only
  rw [e]
  exact put

/-! ## What the scheduler reads -/

theorem tracksOnly.schedRead {s t : State} (h : tracksOnly s t) (a : BitVec 16) (va : Word) (n : Nat) :
    Machine.schedRead t a va n = Machine.schedRead s a va n := by
  unfold Machine.schedRead devRead'
  rw [h.reachN, h.mem]
theorem tracksOnly.desc {s t : State} (h : tracksOnly s t) (q : Nat) : t.desc q = s.desc q := by
  unfold State.desc State.peek
  rw [h.mem]
theorem tracksOnly.gangs {s t : State} (h : tracksOnly s t) : t.gangs = s.gangs := by unfold tracksOnly at h; rw [h]
theorem tracksOnly.bad {s t : State} (h : tracksOnly s t) : t.bad = s.bad := by unfold tracksOnly at h; rw [h]
theorem tracksOnly.memOk {s t : State} (h : tracksOnly s t) (k : s.memOk) : t.memOk := by unfold State.memOk; rw [h.mem]; exact k
theorem tracksOnly.headReady {s t : State} (h : tracksOnly s t) (x : Head) : Machine.headReady t x = Machine.headReady s x := by
  unfold Machine.headReady
  dsimp only
  rw [h.desc, h.schedRead, h.gangs]

/-! ## The next record -/

/-- Addresses of a descriptor's fields from STAT to DEF. -/
def inAdvance (q : Nat) (c : List (Nat × Byte)) : Prop := ∀ p ∈ c.map (·.1), descPa q + 20 ≤ p ∧ p < descPa q + 36
theorem inAdvance.append {q : Nat} {c d : List (Nat × Byte)} (h : inAdvance q c) (k : inAdvance q d) : inAdvance q (c ++ d) := by
  intro p m
  rw [List.map_append, List.mem_append] at m
  rcases m with m | m
  · exact h p m
  · exact k p m
/-- HEAD advances; beyond it only DEF and STAT may change. -/
theorem advanceHead_wrote {s : State} {q : Nat} (hq : q < 1024) (ok : s.memOk) (good : s.bad = []) :
    ∃ c, DevWrote { s with sched := s.sched.dropHead q } (advanceHead s q) c ∧ inAdvance q c ∧
      descHead ((advanceHead s q).desc q) = (descHead (s.desc q) + 1) % 2 ^ 32 := by
  unfold advanceHead
  dsimp only
  have w1 := wrote_word (s := { s with sched := s.sched.dropHead q }) 24 (descHead (s.desc q) + 1) (by omega) hq ok good
  generalize hs1 : descPut { s with sched := s.sched.dropHead q } q 24 4 ((descHead (s.desc q) + 1) % 2 ^ 32) = s1 at w1 ⊢
  have head : s1.peek (descPa q + 24) 4 = (descHead (s.desc q) + 1) % 2 ^ 32 := w1.word hq (by omega)
  have w2 : ∃ c, DevWrote s1 (if descUsed (s1.desc q) = 0 then setDef s1 q 0 else s1) c ∧
      ∀ p ∈ c.map (·.1), descPa q + 32 ≤ p ∧ p < descPa q + 36 := by
    split
    · exact ⟨_, wrote_setDef 0 hq w1.ok w1.good, keys_wordCells q 32 0⟩
    · exact ⟨[], .nil w1.ok w1.good, nofun⟩
  obtain ⟨c2, w2, k2⟩ := w2
  generalize (if descUsed (s1.desc q) = 0 then setDef s1 q 0 else s1) = s2 at w2 ⊢
  have w3 := wrote_setActive (s := s2) hq w2.ok w2.good
  have k1 := keys_wordCells q 24 (descHead (s.desc q) + 1)
  have k3 := keys_statCell s2 q (if descUsed (s2.desc q) = 0 then 0 else 1)
  refine ⟨_, (w1.append w2).append w3, ?_, ?_⟩
  · refine .append (.append (fun p m => ?_) (fun p m => ?_)) (fun p m => ?_)
    · have := k1 p m; omega
    · have := k2 p m; omega
    · have := k3 p m; omega
  · rw [desc_head, w3.peek fun p m => by have := k3 p m; omega, w2.peek fun p m => by have := k2 p m; omega, head]

end Sys2Proof.Machine
end

section
/-! SUPPORT. The queue events, each with its outcome (02:R40, R41; 03:R66-R72). -/
namespace Sys2Proof.Machine
open Sys2Proof

/-! ## The watcher -/

section
variable {s : State} {q : Nat}
theorem descBad_good (good : s.bad = []) : descBad s q = false := by
  unfold descBad
  rw [good]
  simp
theorem serve_unserved (h : served (s.desc q) = false) : serve s q = s := by
  unfold serve
  dsimp only
  rw [h]
  simp only [Bool.not_false, if_true]
theorem serve_malformed (h : served (s.desc q) = true) (m : descMalformed (s.desc q) = true) : serve s q = queueFault s q 3 := by
  unfold serve
  dsimp only
  rw [h, m]
  simp only [Bool.not_true, Bool.true_or, Bool.false_eq_true, if_false, if_true]
theorem serve_overflow (h : served (s.desc q) = true) (good : s.bad = []) (m : descMalformed (s.desc q) = false)
    (o : descSlots (s.desc q) < descUsed (s.desc q)) : serve s q = queueFault s q 2 := by
  unfold serve
  dsimp only
  rw [h, m, descBad_good good, if_pos o]
  simp only [Bool.not_true, Bool.or_false, Bool.false_eq_true, if_false]
theorem serve_active (h : served (s.desc q) = true) (good : s.bad = []) (m : descMalformed (s.desc q) = false)
    (o : descUsed (s.desc q) ≤ descSlots (s.desc q)) : serve s q = setActive s q := by
  unfold serve
  dsimp only
  rw [h, m, descBad_good good, if_neg (Nat.not_lt.mpr o)]
  simp only [Bool.not_true, Bool.or_false, Bool.false_eq_true, if_false]

/-! ## A record's check -/

theorem checkHead_malformed (m : descMalformed (s.desc q) = true) : checkHead s q = queueFault s q 3 := by
  unfold checkHead
  dsimp only
  rw [m]
  simp only [Bool.true_or, if_true]
theorem checkHead_overflow (good : s.bad = []) (m : descMalformed (s.desc q) = false)
    (o : descSlots (s.desc q) < descUsed (s.desc q)) : checkHead s q = queueFault s q 2 := by
  unfold checkHead
  dsimp only
  rw [m, descBad_good good, if_pos o]
  simp only [Bool.or_false, Bool.false_eq_true, if_false]
theorem checkHead_unread (good : s.bad = []) (m : descMalformed (s.desc q) = false)
    (o : descUsed (s.desc q) ≤ descSlots (s.desc q))
    (r : schedRead s (descAsid (s.desc q)) (slotVa (s.desc q) (descHead (s.desc q))) 64 = none) : checkHead s q = queueFault s q 3 := by
  unfold checkHead
  dsimp only
  rw [m, descBad_good good, if_neg (Nat.not_lt.mpr o), r]
  simp only [Bool.or_false, Bool.false_eq_true, if_false]
/-- The head that a record becomes. -/
def State.headFor (s : State) (q r : Nat) : Head := ⟨q, descHead (s.desc q), BitVec.ofNat 512 r, false, 0, 0, false⟩
/-- A choice between no error and some error. -/
theorem errorMatch {α : Type} (e : Nat) (a : α) (f : Nat → α) : (match e with | 0 => a | e => f e) = if e = 0 then a else f e := by
  cases e <;> rfl
/-- A record that can be read is checked once what L2 tracks of its reads is noted. -/
theorem checkHead_read {r : Nat} (good : s.bad = []) (m : descMalformed (s.desc q) = false)
    (o : descUsed (s.desc q) ≤ descSlots (s.desc q))
    (read : schedRead s (descAsid (s.desc q)) (slotVa (s.desc q) (descHead (s.desc q))) 64 = some r) :
    ∃ u, tracksOnly s u ∧ checkHead s q =
      if recordErr s (descAsid (s.desc q)) r = 0 then
        if headReady u (s.headFor q r) = some true then { u with sched := u.sched.putHead (s.headFor q r) }
        else setDef { u with sched := u.sched.putHead (s.headFor q r) } q 0
      else rejectHead u q (recordErr s (descAsid (s.desc q)) r) := by
  unfold checkHead
  dsimp only
  rw [m, descBad_good good, if_neg (Nat.not_lt.mpr o), read]
  simp only [Bool.or_false, Bool.false_eq_true, if_false]
  refine ⟨_, ?_, errorMatch _ _ (rejectHead _ q)⟩
  split
  · exact (tracksOnly_glance ..).trans (tracksOnly_glance ..)
  · exact tracksOnly_glance ..
/-- An accepted record becomes the head; one not ready at once has DEF zero. -/
theorem accepted_wrote {u : State} {r : Nat} (k : tracksOnly s u) (hq : q < 1024) (ok : s.memOk) (good : s.bad = []) :
    DevWrote { s with sched := s.sched.putHead (s.headFor q r) }
      (if headReady u (s.headFor q r) = some true then { u with sched := u.sched.putHead (s.headFor q r) }
        else setDef { u with sched := u.sched.putHead (s.headFor q r) } q 0)
      (if headReady s (s.headFor q r) = some true then [] else wordCells q 32 0) := by
  have k' : tracksOnly { s with sched := s.sched.putHead (s.headFor q r) } { u with sched := u.sched.putHead (s.headFor q r) } := by
    have e := k
    unfold tracksOnly at e ⊢
    rw [e]
  rw [k.headReady]
  split
  · exact .of_tracks k' (.nil (k.memOk ok) (k.bad.trans good))
  · exact .of_tracks k' (wrote_setDef 0 hq (k.memOk ok) (k.bad.trans good))

theorem accessFrame.sched {s t : State} (h : accessFrame s t) : t.sched = s.sched := by
  unfold accessFrame at h; rw [h]
theorem frame_setActive (s : State) (q : Nat) : accessFrame s (setActive s q) := by
  unfold setActive
  dsimp only
  generalize (if descUsed (s.desc q) = 0 then 0 else 1) = n
  split
  · exact .rfl
  · exact frame_descPut ..
theorem frame_advanceHead (s : State) (q : Nat) : accessFrame { s with sched := s.sched.dropHead q } (advanceHead s q) := by
  unfold advanceHead
  dsimp only
  have f := frame_descPut { s with sched := s.sched.dropHead q } q 24 4 ((descHead (s.desc q) + 1) % 2 ^ 32)
  generalize descPut { s with sched := s.sched.dropHead q } q 24 4 ((descHead (s.desc q) + 1) % 2 ^ 32) = s1 at f ⊢
  split
  · exact f.trans ((frame_descPut ..).trans (frame_setActive ..))
  · exact f.trans (frame_setActive ..)

theorem plain_far {y : Nat} (far : y < Config.scb ∨ Config.scb + 0x200000 ≤ y) : plainPa y = true := by
  unfold plainPa inInv
  simp only [Bool.and_eq_true, Bool.not_eq_true', Bool.and_eq_false_iff, decide_eq_false_iff_not]
  omega
/-- A rejected record leaves STATE and ERR in its slot, and its queue goes on to the next (02:R40). -/
theorem rejectHead_head (u : State) (q e : Nat) : (rejectHead u q e).sched.head q = none := by
  have f := (frame_advanceHead (slotPut u q (descHead (u.desc q)) 28 (leBytes 2 (4 + 256 * e))) q).trans (frame_reportQueue _ q)
  unfold rejectHead
  rw [f.sched]
  exact (head_dropHead _ q q).trans (if_pos rfl)
theorem rejectHead_wrote {u : State} {e p : Nat} (hq : q < 1024) (ok : u.memOk) (good : u.bad = [])
    (away : p + 1 < Config.scb ∨ Config.scb + 0x200000 ≤ p) (quiet : bitsOf (u.desc q) 383 320 = 0) (up : u.poolUp = true)
    (x : xlatN u (devCtx (descAsid (u.desc q))) .write (slotVa (u.desc q) (descHead (u.desc q)) + 28) 2 = .ok [p, p + 1])
    (c0 : paClass p ≠ some .device) (c1 : paClass (p + 1) ≠ some .device) :
    let t := rejectHead u q e
    memRead t.mem p = 4 ∧ memRead t.mem (p + 1) = BitVec.ofNat 8 e ∧
      descHead (t.desc q) = (descHead (u.desc q) + 1) % 2 ^ 32 ∧ bitsOf (t.desc q) 319 288 = (bitsOf (u.desc q) 319 288 + 1) % 2 ^ 32 := by
  have check : physCheck u .write (slotVa (u.desc q) (descHead (u.desc q)) + 28) [p, p + 1] false = .ok () := by
    rw [physCheck_ok]
    have each {y : Nat} (c : paClass y ≠ some .device) : byteFault u .write false [p, p + 1] y = none := by simp [byteFault, c, up, good]
    intro y m
    rw [List.mem_pair] at m
    rcases m with rfl | rfl
    · exact each c0
    · exact each c1
  have slot := wrote_slotPut (q := q) (i := descHead (u.desc q)) (off := 28) (b := leBytes 2 (4 + 256 * e)) ok good x check (by simp)
  unfold rejectHead
  dsimp only
  generalize slotPut u q (descHead (u.desc q)) 28 (leBytes 2 (4 + 256 * e)) = u1 at slot ⊢
  have field {i k : Nat} (fits : i + k ≤ 64) : u1.peek (descPa q + i) k = u.peek (descPa q + i) k := by
    refine slot.peek fun y m => ?_
    have : y = p ∨ y = p + 1 := by simpa [leBytes] using m
    unfold descPa
    omega
  obtain ⟨c, w, inside, head⟩ := advanceHead_wrote hq slot.ok slot.good
  generalize advanceHead u1 q = u2 at w head ⊢
  have rpt : bitsOf (u2.desc q) 383 320 = 0 := by
    rw [desc_rpt, w.peek fun y m => by have := inside y m; omega]
    exact (field (by omega)).trans ((desc_rpt u q).symm.trans quiet)
  have rej : bitsOf (u2.desc q) 319 288 = bitsOf (u.desc q) 319 288 := by
    rw [desc_rej, w.peek fun y m => by have := inside y m; omega, desc_rej]
    exact field (by omega)
  have w' := wrote_reportQueue hq w.ok w.good rpt
  have keys := keys_wordCells q 36 (bitsOf (u2.desc q) 319 288 + 1)
  have byte (y : Nat) (far : y + 1 < Config.scb + 1 ∨ Config.scb + 0x200000 ≤ y) : memRead (reportQueue u2 q).mem y = memRead u1.mem y := by
    rw [w'.mem.1 y fun m => by have := keys y m; unfold descPa at this; omega]
    exact w.mem.1 y fun m => by have := inside y m; unfold descPa at this; omega
  refine ⟨?_, ?_, ?_, ?_⟩
  · rw [byte p (by omega), memAfter_zip slot.mem (by simp) (k := 0) rfl rfl (plain_far (by omega))]
    exact BitVec.eq_of_toNat_eq (by simp)
  · rw [byte (p + 1) (by omega), memAfter_zip slot.mem (by simp) (k := 1) rfl rfl (plain_far (by omega))]
    congr 1
    omega
  · rw [desc_head, w'.peek fun y m => by have := keys y m; omega, ← desc_head, head, desc_head, field (by omega), desc_head]
  · rw [desc_rej, w'.word hq (by omega), rej]

/-! ## Events at a time -/

theorem until_sched (s : State) (ns : Nat) : (s.until ns).sched = s.sched := rfl
/-- A ready head's promotion or pin comes at its time and changes that head alone. -/
theorem headEvent_late {name : String} {p : Head → Bool} {at' : Head → Nat} {f : Head → Head} {h : Head} (up : s.up = true)
    (e : s.sched.head q = some h) (r : h.ready = true) (go : p h = true) (fq : (f h).queue = h.queue) :
    ∃ t, headEvent name q p at' f s = .next t ∧ t.sched.head q = some (f h) ∧ (∀ p, p ≠ q → t.sched.head p = s.sched.head p) ∧
      t = { s.until (at' h) with sched := { s.sched with heads := t.sched.heads } } := by
  have hq : (f h).queue = q := fq.trans (head_queue e)
  unfold headEvent
  rw [e]
  dsimp only
  rw [up, r, go]
  refine ⟨_, rfl, ?_, fun p ne => ?_, rfl⟩
  · rw [head_putHead, if_pos hq.symm]
  · rw [head_putHead, hq, if_neg ne, until_sched]
end

/-! ## Readiness -/

/-- The head is ready, and its slot's STATE says so (02:R41). -/
def readied (s : State) (q : Nat) (h : Head) : State :=
  let d := s.desc q
  let s1 := slotPut (s.glance (descAsid d) (slotVa d h.index + 24) 4) q h.index 28 (leBytes 1 1)
  { s1 with sched := s1.sched.putHead { h with ready := true, readyNs := s.time.toNat } }
theorem exec_recordReady {s : State} {q : Nat} {h : Head} (up : s.up = true) (e : s.sched.head q = some h) (r : h.ready = false)
    (v : served (s.desc q) = true) (ready : headReady s h = some true) : exec (.recordReady q) s = .next (readied s q h) := by
  show execRecordReady q s = _
  unfold execRecordReady
  rw [e]
  dsimp only
  rw [up, r, v, ready]
  dsimp only [readied]
  rw [if_neg (by decide)]
theorem readied_frame (s : State) (q : Nat) (h : Head) :
    accessFrame { s with sched := s.sched.putHead { h with ready := true, readyNs := s.time.toNat } } (readied s q h) := by
  have f := (tracksOnly_glance s (descAsid (s.desc q)) (slotVa (s.desc q) h.index + 24) 4).accessFrame.trans
    (frame_slotPut _ q h.index 28 (leBytes 1 1))
  unfold readied
  dsimp only
  unfold accessFrame at f ⊢
  rw [f]
theorem readied_memAfter {s : State} {q p : Nat} {h : Head} (ok : s.memOk) (good : s.bad = [])
    (x : xlatN s (devCtx (descAsid (s.desc q))) .write (slotVa (s.desc q) h.index + 28) 1 = .ok [p])
    (c : physCheck s .write (slotVa (s.desc q) h.index + 28) [p] false = .ok ()) : s.memAfter (readied s q h) [(p, 1)] := by
  have k := tracksOnly_glance s (descAsid (s.desc q)) (slotVa (s.desc q) h.index + 24) 4
  have w := DevWrote.of_tracks k (wrote_slotPut (q := q) (i := h.index) (off := 28) (b := leBytes 1 1) (k.memOk ok) (k.bad.trans good)
    (by rw [k.desc, k.xlatN]; exact x) (by rw [k.desc, k.physCheck]; exact c) (List.nodup_singleton p))
  exact w.mem

/-! ## The statement -/

theorem accessOnly_of_frame {s t : State} {x : Sched} (h : accessFrame { s with sched := x } t) :
    ({ s with sched := t.sched } : State).accessOnly t := by
  have e := h.sched
  unfold accessFrame at h
  unfold State.accessOnly
  rw [h]

/-- Settles O46: the watcher by the descriptor, the check by the record, and the head's events by its state. -/
theorem queueEvents : Obligations.QueueEvents := by
  unfold Obligations.QueueEvents
  intro s q up hq ok good
  have here : (s.up && decide (q < 1024)) = true := by rw [up, decide_eq_true hq]; rfl
  have fault (n : Nat) : (queueFault s q n).hart = s.hart ∧ (bitsOf (s.desc q) 383 320 = 0 →
      s.accessOnly (queueFault s q n) ∧ s.memAfter (queueFault s q n) (statCell s q n ++ wordCells q 36 (bitsOf (s.desc q) 319 288 + 1))) :=
    ⟨(frame_queueFault s q n).hart, fun quiet =>
      have w := wrote_queueFault n hq ok good quiet
      ⟨w.accessOnly, w.mem⟩⟩
  have watch {e : Instr} (run : exec e s = .next (serve s q)) :
      ((served (s.desc q) = false → exec e s = .next s) ∧
      (served (s.desc q) = true → descMalformed (s.desc q) = true → ∃ t, exec e s = .next t ∧ t.hart = s.hart ∧
        (bitsOf (s.desc q) 383 320 = 0 → s.accessOnly t ∧ s.memAfter t (statCell s q 3 ++ wordCells q 36 (bitsOf (s.desc q) 319 288 + 1)))) ∧
      (served (s.desc q) = true → descMalformed (s.desc q) = false → descSlots (s.desc q) < descUsed (s.desc q) →
        ∃ t, exec e s = .next t ∧ t.hart = s.hart ∧
        (bitsOf (s.desc q) 383 320 = 0 → s.accessOnly t ∧ s.memAfter t (statCell s q 2 ++ wordCells q 36 (bitsOf (s.desc q) 319 288 + 1)))) ∧
      (served (s.desc q) = true → descMalformed (s.desc q) = false → descUsed (s.desc q) ≤ descSlots (s.desc q) →
        ∃ t, exec e s = .next t ∧ s.accessOnly t ∧ t.hart = s.hart ∧
        s.memAfter t (statCell s q (if descUsed (s.desc q) = 0 then 0 else 1)))) := by
    refine ⟨fun v => ?_, fun v m => ⟨_, ?_, fault 3⟩, fun v m o => ⟨_, ?_, fault 2⟩, fun v m o => ?_⟩
    · rw [run, serve_unserved v]
    · rw [run, serve_malformed v m]
    · rw [run, serve_overflow v good m o]
    · have w := wrote_setActive (s := s) (q := q) hq ok good
      exact ⟨_, by rw [run, serve_active v good m o], w.accessOnly, w.hart, w.mem⟩
  refine ⟨watch (given_next _ _ here), watch (given_next _ _ here), fun en => ?_, fun en => ?_, fun can => ?_, fun h e r v ready => ?_,
    fun h e r lt => headEvent_late up e r (decide_eq_true lt) rfl, fun h e r pin => headEvent_late up e r (by rw [pin]; rfl) rfl⟩
  · exact (given_next _ _ here).trans (by rw [if_pos en])
  · have w := wrote_setStat (s := s) (q := q) 0 hq ok good
    exact ⟨_, (given_next _ _ here).trans (by rw [if_neg (by rw [en]; decide)]), w.accessOnly, w.hart, w.mem⟩
  · have run : exec (.recordCheck q) s = .next (checkHead s q) := given_next _ _ (by rw [up, can]; rfl)
    refine ⟨fun m => ⟨_, by rw [run, checkHead_malformed m], fault 3⟩, fun m o => ⟨_, by rw [run, checkHead_overflow good m o], fault 2⟩,
      fun m o => ⟨fun unread => ⟨_, by rw [run, checkHead_unread good m o unread], fault 3⟩, fun r read => ?_⟩⟩
    obtain ⟨u, k, check⟩ := checkHead_read good m o read
    rw [check] at run
    refine ⟨fun zero => ?_, fun err => ?_⟩
    · rw [if_pos zero] at run
      have w := accepted_wrote (r := r) k hq ok good
      refine ⟨_, run, ?_, accessOnly_of_frame w.frame, w.hart, w.mem⟩
      rw [w.sched]
      exact (head_putHead ..).trans (if_pos rfl)
    · rw [if_neg err] at run
      refine ⟨_, run, rejectHead_head .., fun p away quiet pool x c0 c1 => ?_⟩
      have w := rejectHead_wrote (u := u) (e := recordErr s (descAsid (s.desc q)) r) hq (k.memOk ok) (k.bad.trans good) away
        (by rw [k.desc]; exact quiet) (by have e := k; unfold tracksOnly at e; rw [e]; exact pool) (by rw [k.desc, k.xlatN]; exact x) c0 c1
      rwa [k.desc] at w
  · have run : exec (.recordReady q) s = .next (readied s q h) := exec_recordReady up e r v ready
    have w := readied_frame s q h
    refine ⟨_, run, ?_, accessOnly_of_frame w, w.hart, fun p x c => ?_⟩
    · rw [w.sched]
      exact (head_putHead ..).trans (if_pos (head_queue e).symm)
    · exact readied_memAfter ok good x c

end Sys2Proof.Machine
end

section
/-! SUPPORT. What a trap entry leaves, and what the passing of time changes (12:R330-R335, R352). -/
namespace Sys2Proof.Machine
open Sys2Proof

/-! ## Trap entry -/

theorem trapLevel_eq (h : Hart) (c : Cause) :
    h.trapLevel c = if h.lv = .m ∨ h.mkeep.getLsbD (c.code - 1) = true then Level.m else .k := by
  unfold Hart.trapLevel
  simp only [Bool.or_eq_true, beq_iff_eq]
theorem finishTmma_cls (h : Hart) : h.finishTmma.cls = h.cls := by unfold Hart.finishTmma; split <;> rfl
theorem finishTmma_ctxb (h : Hart) : h.finishTmma.ctxb = h.ctxb := by unfold Hart.finishTmma; split <;> rfl
/-- What a hart has given up before it enters a trap: its wait, and a TMMA in flight (12:R331; 15:R457). -/
def State.quit (s : State) : State := { s.abandonWait with hart := s.abandonWait.hart.finishTmma }
theorem quit_cls (s : State) : s.quit.hart.cls = s.hart.cls := finishTmma_cls _
theorem quit_ctxb (s : State) : s.quit.hart.ctxb = s.hart.ctxb := finishTmma_ctxb _
theorem finishTmma_none {h : Hart} (e : h.tmma = none) : h.finishTmma = h := by unfold Hart.finishTmma; rw [e]
theorem finishTmma_some {h : Hart} {f : TmmaFly} (e : h.tmma = some f) :
    h.finishTmma = { (h.setTa f.ta f.value) with fflags := h.fflags ||| f.flags, tmma := none } := by unfold Hart.finishTmma; rw [e]
theorem quit_hart (s : State) :
    s.quit.hart = { s.hart.finishTmma with waitOn := none, gbarHere := false, stepDone := false } := by
  show s.abandonWait.hart.finishTmma = _
  obtain e | ⟨f, e⟩ := s.hart.tmma.eq_none_or_eq_some
  · rw [finishTmma_none e]
    exact finishTmma_none e
  · rw [finishTmma_some e]
    exact finishTmma_some e
theorem finishTmma_areaVa (h : Hart) (l : Level) : h.finishTmma.areaVa l = h.areaVa l := by unfold Hart.finishTmma; split <;> rfl
theorem quit_areaVa (s : State) (l : Level) : s.quit.hart.areaVa l = s.hart.areaVa l := by
  rw [quit_hart]
  exact finishTmma_areaVa _ _
theorem quit_ctxAt (s : State) (u : Bool) : s.quit.ctxAt u = s.ctxAt u := by
  unfold State.ctxAt
  rw [quit_hart]
  obtain e | ⟨f, e⟩ := s.hart.tmma.eq_none_or_eq_some
  · rw [finishTmma_none e]
    rfl
  · rw [finishTmma_some e]
    rfl
theorem enterTrapAt_narrow {s : State} (l : Level) (c : Cause) (v pc : Word) (h : s.hart.cls ≠ .v) :
    enterTrapAt s l c v pc = { s.quit with hart := s.quit.hart.enter l c v pc } := by
  have k : (s.quit.hart.cls != .v) = true := by rw [quit_cls]; simpa using h
  unfold enterTrapAt
  exact if_pos k
theorem enterTrapAt_wide {s : State} (l : Level) (c : Cause) (v pc : Word) (h : s.hart.cls = .v) :
    enterTrapAt s l c v pc = if s.hart.ctxb = 0 then { s.quit with hart := (s.quit.hart.stopVector .m).enter .m .mcheck (mcheckV 4 0) pc }
      else match runM (writeParts (s.ctxAt false) (s.hart.areaVa l) (areaParts s.quit.hart)) s.quit with
        | (.ok _, t) => { t with hart := (t.hart.stopVector l).enter l c v pc }
        | (.error (.trap _ a), t) => { t with hart := (t.hart.stopVector .m).enter .m .mcheck (mcheckV 4 a.toNat) pc }
        | (.error _, t) => { t with hart := (t.hart.stopVector .m).enter .m .mcheck (mcheckV 4 0) pc } := by
  have k : ¬ (s.quit.hart.cls != .v) = true := by rw [quit_cls, h]; decide
  rw [← quit_ctxb, ← quit_areaVa, ← quit_ctxAt]
  unfold enterTrapAt
  exact if_neg k

/-- A C or T hart's entry (12:R330, R332). -/
theorem enterTrap_took {s : State} {c : Cause} {v pc : Word} (h : s.hart.cls ≠ .v) :
    s.tookTrap (enterTrap s c v pc)
      (if s.hart.lv = .m ∨ s.hart.mkeep.getLsbD (c.code - 1) = true then Level.m else .k) c v pc := by
  unfold enterTrap
  rw [trapLevel_eq, enterTrapAt_narrow _ _ _ _ h]
  generalize (if s.hart.lv = .m ∨ s.hart.mkeep.getLsbD (c.code - 1) = true then Level.m else .k) = l
  refine ⟨?_, rfl, rfl⟩
  show s.quit.hart.enter l c v pc = _
  rw [quit_hart]
  obtain e | ⟨f, e⟩ := s.hart.tmma.eq_none_or_eq_some
  · rw [finishTmma_none e]
    cases l <;> rfl
  · rw [finishTmma_some e]
    cases l <;> rfl
/-- An entry at the level that 12:R330 gives. -/
theorem enterTrap_traps (s : State) (c : Cause) (v pc : Word) : s.traps (.next (enterTrap s c v pc)) c v pc := by
  unfold State.traps
  refine ⟨fun h => ⟨_, rfl, enterTrap_took h⟩, fun h b s1 w => ?_, fun h b => ?_⟩
  · congr 1
    unfold enterTrap
    rw [trapLevel_eq, enterTrapAt_wide _ _ _ _ h, if_neg b]
    rw [show runM (writeParts _ _ (areaParts s.quit.hart)) s.quit = (.ok (), s1) from w]
  · congr 1
    unfold enterTrap
    rw [enterTrapAt_wide _ _ _ _ h, if_pos b]
    rfl

/-! ## Time that passes -/

theorem grown_addr (w : WaitCount) (m : BitVec 32) (ns : Nat) : (w.grown m ns).addr = w.addr := rfl
/-- Time moves nothing of a hart but the counts of its waits. -/
theorem lapse_counts (h : Hart) (ns : Nat) : h.lapse ns = { h with waitS := (h.lapse ns).waitS, waitV := (h.lapse ns).waitV } := by
  unfold Hart.lapse
  dsimp only
  split
  · rfl
  · split <;> split <;> rfl
theorem stateLapse_hart (s : State) (ns : Nat) : (s.lapse ns).hart = s.hart.lapse ns := rfl
theorem until_time {s : State} {w : Word} (h : s.time.ult w = true) : (s.until w.toNat).time = w := by
  show BitVec.ofNat 64 (min (2 ^ 64 - 1) (s.time.toNat + (w.toNat - s.time.toNat))) = w
  have k : s.time.toNat < w.toNat := by simpa [BitVec.ult] using h
  have b := w.isLt
  rw [Nat.add_sub_cancel' k.le, Nat.min_eq_right (by omega), BitVec.ofNat_toNat, BitVec.setWidth_eq]

end Sys2Proof.Machine
end

section
/-! SUPPORT. What the steps of a T gang leave of its harts and of the stores listed as unseen (02:R57-R61). -/
namespace Sys2Proof.Machine
open Sys2Proof

/-! ## Stores of every hart that become visible -/

theorem mem_setOwn {s : State} {i : HartId} {l : List Unseen} {u : Unseen} (h : u ∈ (s.setOwn i l).unseen) :
    (u ∈ s.unseen ∧ u.owner ≠ i) ∨ u ∈ l := by
  obtain h | h := List.mem_append.1 h
  · exact .inl (by simpa using List.mem_filter.1 h)
  · exact .inr (List.mem_of_mem_filter h)
/-- A store left after a change of one hart's stores is another hart's, or a changed one of its own. -/
theorem mem_order {s : State} {i : HartId} {f : Unseen → Unseen} {u : Unseen} (h : u ∈ (s.order i f).unseen) :
    (u ∈ s.unseen ∧ u.owner ≠ i) ∨ ∃ w, w ∈ s.unseen ∧ w.owner = i ∧ u = f w := by
  obtain h | h := mem_setOwn h
  · exact .inl h
  · obtain ⟨w, hw, rfl⟩ := List.mem_map.1 h
    obtain ⟨hw, e⟩ := List.mem_filter.1 hw
    exact .inr ⟨w, hw, by simpa using e, rfl⟩
theorem mem_orders {f : Unseen → Unseen} (own : ∀ w, (f w).owner = w.owner) (twice : ∀ w, f (f w) = f w) :
    ∀ {l : List HartId} {s : State} {u : Unseen}, u ∈ (l.foldl (fun s i => s.order i f) s).unseen →
      ∃ w, w ∈ s.unseen ∧ (u = f w ∨ (u = w ∧ w.owner ∉ l))
  | [], _, u, h => ⟨u, h, .inr ⟨rfl, by simp⟩⟩
  | i :: l, s, u, h => by
    obtain ⟨v, hv, e⟩ := mem_orders own twice (l := l) h
    obtain ⟨hv, o⟩ | ⟨w, hw, o, rfl⟩ := mem_order hv
    · refine ⟨v, hv, e.imp id fun ⟨e, n⟩ => ⟨e, ?_⟩⟩
      simp [o, n]
    · refine ⟨w, hw, .inl ?_⟩
      obtain e | ⟨e, -⟩ := e
      · rw [e, twice]
      · exact e
/-- A store left after a change of every hart's stores is a changed one. -/
theorem mem_orderAll {s : State} {f : Unseen → Unseen} (own : ∀ w, (f w).owner = w.owner) (twice : ∀ w, f (f w) = f w) {u : Unseen}
    (h : u ∈ (s.orderAll f).unseen) : ∃ w, w ∈ s.unseen ∧ u = f w := by
  obtain ⟨w, hw, e | ⟨-, n⟩⟩ := mem_orders own twice h
  · exact ⟨w, hw, e⟩
  · exact absurd (List.mem_eraseDups.2 (List.mem_map_of_mem hw)) n

/-- The acquire of a gang: stores that another hart has acquired are seen, and nothing is seen less (10:R284). -/
theorem mem_acquireGang {s : State} {g : BitVec 32} {u : Unseen} (h : u ∈ (s.acquireGang g).unseen) :
    (∃ w, w ∈ s.unseen ∧ u = { w with toS := u.toS, toV := u.toV } ∧ (w.toS = true → u.toS = true) ∧ (w.toV = true → u.toV = true)) ∧
      (u.owner.gang = g → u.shared = true → u.toS = true) := by
  unfold State.acquireGang at h
  split at h
  · obtain ⟨w, hw, rfl⟩ := mem_orderAll (fun w => by split <;> rfl) (fun w => by by_cases e : w.owner.gang == g <;> simp [e]) h
    split
    · exact ⟨⟨w, hw, rfl, fun k => by simp [k], id⟩, fun _ (k : w.shared = true) => by simp [k]⟩
    · next n => exact ⟨⟨w, hw, rfl, id, id⟩, fun k => absurd (beq_iff_eq.2 k) n⟩
  · next n =>
    refine ⟨⟨u, h, rfl, id, id⟩, fun k q => absurd ?_ n⟩
    exact List.any_eq_true.2 ⟨u, h, by simp [k, q]⟩
/-- After an exchange step its words have performed (02:R60). -/
theorem mem_seeSent {s : State} {g : BitVec 32} {u : Unseen} (h : u ∈ (s.seeSent g).unseen) :
    (∃ w, w ∈ s.unseen ∧ u = { w with toS := u.toS, toV := u.toV }) ∧
      (u.origin = .exchange → u.owner.gang = g → u.toS = true ∧ u.toV = true) := by
  obtain ⟨w, hw, rfl⟩ := mem_orderAll (fun w => by split <;> rfl)
    (fun w => by by_cases e : (w.origin == .exchange && w.owner.gang == g) = true <;> simp only [e, if_true, if_false, Bool.false_eq_true]) h
  split
  · exact ⟨⟨w, hw, rfl⟩, fun _ _ => ⟨rfl, rfl⟩⟩
  · next n => exact ⟨⟨w, hw, rfl⟩, fun k q => absurd (by rw [k, q]; simp) n⟩

/-! ## The acting hart in turn -/

/-- What an action of the acting hart leaves alone where it changes that hart, and no other. -/
structure ActsAlone (F : State → State) : Prop where
  others : ∀ s, (F s).others = s.others
  same : ∀ s, (F s).hart.id = s.hart.id

section
variable {F : State → State} {s : State} {i : HartId}
/-- An action done for a hart: its hart as the action leaves it, and every other as before. -/
theorem asHart_harts (k : ActsAlone F) (nd : (s.harts.map (·.id)).Nodup) :
    ((s.asHart i F).harts.map (·.id)).Nodup ∧
    ∀ o, o ∈ s.harts → (o.id ≠ i → o ∈ (s.asHart i F).harts) ∧ (o.id = i → ∃ z : State, z.hart = o ∧ (F z).hart ∈ (s.asHart i F).harts) := by
  obtain ⟨me, fresh⟩ := List.nodup_cons.1 nd
  unfold State.asHart
  split
  · next e =>
    have e : s.hart.id = i := by simpa using e
    refine ⟨?_, fun o ho => ?_⟩
    · simp only [State.harts, List.map_cons, k.others, k.same]
      exact nd
    · obtain rfl | ho := List.mem_cons.1 ho
      · exact ⟨fun n => absurd e n, fun _ => ⟨s, rfl, List.mem_cons_self⟩⟩
      · refine ⟨fun _ => List.mem_cons_of_mem _ (by rw [k.others]; exact ho), fun q => ?_⟩
        exact absurd (List.mem_map_of_mem (f := (·.id)) ho) (by rw [q, ← e]; exact me)
  · next e =>
    have e : s.hart.id ≠ i := by simpa using e
    split
    · next f =>
      refine ⟨nd, fun o ho => ⟨fun _ => ho, fun q => ?_⟩⟩
      obtain rfl | ho := List.mem_cons.1 ho
      · exact absurd q e
      · exact absurd q (by simpa using List.find?_eq_none.1 f o ho)
    · next h f =>
      have hid : h.id = i := by simpa using List.find?_some f
      have hmem := List.mem_of_find?_eq_some f
      generalize hz : ({ s with hart := h, others := s.hart :: s.others.filter fun o => o.id != i } : State) = z
      have ho : (F z).others = s.hart :: s.others.filter (fun o => o.id != i) := by rw [k.others, ← hz]
      have keep : (s.others.filter fun o => o.id != i).filter (fun o => o.id != s.hart.id) = s.others.filter (fun o => o.id != i) := by
        refine List.filter_eq_self.2 fun o ho => ?_
        simp only [bne_iff_ne]
        exact fun q => me (List.mem_map.2 ⟨o, List.mem_of_mem_filter ho, q⟩)
      have first : (F z).others.find? (fun o => o.id == s.hart.id) = some s.hart := by rw [ho]; simp
      have rest : (F z).others.filter (fun o => o.id != s.hart.id) = s.others.filter (fun o => o.id != i) := by
        rw [ho, List.filter_cons_of_neg (by simp), keep]
      dsimp only
      rw [first]
      have form : State.harts { F z with hart := s.hart, others := (F z).hart :: (F z).others.filter fun o => o.id != s.hart.id } =
          s.hart :: (F z).hart :: s.others.filter (fun o => o.id != i) := by rw [rest]; rfl
      rw [form]
      refine ⟨?_, fun o ho => ⟨fun n => ?_, fun q => ?_⟩⟩
      · have at_ : (F z).hart.id = i := by rw [k.same, ← hz]; exact hid
        simp only [List.map_cons, List.nodup_cons, List.mem_cons, List.mem_map, List.mem_filter, at_]
        refine ⟨?_, ?_, fresh.sublist (List.filter_sublist.map _)⟩
        · rintro (q | ⟨o, ⟨ho, -⟩, q⟩)
          · exact e q
          · exact me (List.mem_map.2 ⟨o, ho, q⟩)
        · rintro ⟨o, ⟨-, n⟩, q⟩
          simp [q] at n
      · obtain rfl | ho := List.mem_cons.1 ho
        · exact List.mem_cons_self
        · exact List.mem_cons_of_mem _ (List.mem_cons_of_mem _ (List.mem_filter.2 ⟨ho, by simpa using n⟩))
      · obtain rfl | ho := List.mem_cons.1 ho
        · exact absurd q e
        · refine ⟨z, ?_, by simp⟩
          rw [← hz]
          exact List.inj_on_of_nodup_map fresh hmem ho (hid.trans q.symm)

/-- The same for several harts, each in turn. -/
theorem foldl_asHart_harts (k : ActsAlone F) : ∀ {l : List Hart} {s : State}, (s.harts.map (·.id)).Nodup → (l.map (·.id)).Nodup →
    ∀ o, o ∈ s.harts → ((∀ h, h ∈ l → h.id ≠ o.id) → o ∈ (l.foldl (fun s h => s.asHart h.id F) s).harts) ∧
      (∀ h, h ∈ l → h.id = o.id → ∃ z : State, z.hart = o ∧ (F z).hart ∈ (l.foldl (fun s h => s.asHart h.id F) s).harts)
  | [], _, _, _, o, ho => ⟨fun _ => ho, fun h hh => absurd hh List.not_mem_nil⟩
  | a :: l, s, nd, nl, o, ho => by
    obtain ⟨al, nl⟩ := List.nodup_cons.1 nl
    obtain ⟨nd', each⟩ := asHart_harts (i := a.id) k nd
    obtain ⟨other, self⟩ := each o ho
    rw [List.foldl_cons]
    refine ⟨fun n => ?_, fun h hh q => ?_⟩
    · exact (foldl_asHart_harts k nd' nl o (other fun q => n a List.mem_cons_self q.symm)).1 fun h hh => n h (List.mem_cons_of_mem _ hh)
    · by_cases e : o.id = a.id
      · obtain ⟨z, hz, hm⟩ := self e
        refine ⟨z, hz, (foldl_asHart_harts k nd' nl _ hm).1 fun h hh q => al ?_⟩
        rw [k.same, hz, e] at q
        exact List.mem_map.2 ⟨h, hh, q⟩
      · obtain rfl | hh := List.mem_cons.1 hh
        · exact absurd q.symm e
        · exact (foldl_asHart_harts k nd' nl o (other e)).2 h hh q
end

/-! ## A plan that cannot be read -/

theorem enter_id (h : Hart) (l : Level) (c : Cause) (v pc : Word) : (h.enter l c v pc).id = h.id := rfl
theorem stopVector_id (h : Hart) (l : Level) : (h.stopVector l).id = h.id := rfl
theorem quit_id (s : State) : s.quit.hart.id = s.hart.id := by
  rw [quit_hart]
  unfold Hart.finishTmma
  split <;> rfl
theorem imageFrame.others {s t : State} (h : imageFrame s t) : t.others = s.others := by rw [h]
theorem imageFrame.hartId {s t : State} (h : imageFrame s t) : t.hart.id = s.hart.id := by rw [h]
/-- A trap's entry concerns the hart that takes it. -/
theorem enterTrap_alone (c : Cause) (v : Word) (at_ : State → Word) : ActsAlone fun s => enterTrap s c v (at_ s) := by
  have both (s : State) : (enterTrap s c v (at_ s)).others = s.others ∧ (enterTrap s c v (at_ s)).hart.id = s.hart.id := by
    unfold enterTrap
    by_cases h : s.hart.cls = .v
    · rw [enterTrapAt_wide _ _ _ _ h]
      split
      · exact ⟨rfl, quit_id s⟩
      · have fr := Frames.writeParts (c := s.ctxAt false) (base := s.hart.areaVa (s.hart.trapLevel c)) (l := areaParts s.quit.hart) s.quit
        have o : _ = s.others := fr.others
        have i := fr.hartId.trans (quit_id s)
        split
        all_goals
          next w =>
            rw [w] at o i
            exact ⟨o, i⟩
    · rw [enterTrapAt_narrow _ _ _ _ h]
      exact ⟨rfl, quit_id s⟩
  exact ⟨fun s => (both s).1, fun s => (both s).2⟩

/-- Whether a hart waits in a TSYNC of its gang's step. -/
def Hart.inTsync (h : Hart) : Bool := h.waitOn == some .tsync && h.stepDone
theorem inTsync_iff (h : Hart) : h.inTsync = true ↔ h.waitOn = some .tsync ∧ h.stepDone = true := by simp [Hart.inTsync]
/-- A hart of the gang that has still to come to the step's TSYNC. -/
def Hart.faultsLater (g : BitVec 32) (h : Hart) : Bool := h.id.gang == g && !h.ended && !h.inTsync
/-- A hart that takes a fault at its next TSYNC. -/
def Hart.withFault (p : Cause × Word) (h : Hart) : Hart := { h with planFault := some p }
/-- A plan that cannot be read: the harts that wait in the step take its fault, and each other one is to take it at its own TSYNC
(02:R57). -/
theorem planFails_harts {s : State} {g : BitVec 32} {p : Cause × Word} (nd : (s.harts.map (·.id)).Nodup) {o : Hart} (ho : o ∈ s.harts)
    (hg : o.id.gang = g) (he : o.ended = false) :
    (o.inTsync = true → ∃ z : State, z.hart = o ∧ (enterTrap z p.1 p.2 o.pc).hart ∈ (planFails s g p).harts) ∧
    (o.inTsync = false → { o with planFault := some p } ∈ (planFails s g p).harts) := by
  have form : planFails s g p = (((s.modHarts (·.faultsLater g) (·.withFault p)).gangHarts g).filter Hart.inTsync).foldl
      (fun s h => s.asHart h.id fun s => enterTrap s p.1 p.2 s.hart.pc) (s.modHarts (·.faultsLater g) (·.withFault p)) := rfl
  have ids : (s.modHarts (·.faultsLater g) (·.withFault p)).harts.map (·.id) = s.harts.map (·.id) := by
    rw [harts_modHarts, List.map_map]
    refine List.map_congr_left fun h _ => ?_
    dsimp only [Function.comp]
    split <;> rfl
  have nd1 : ((s.modHarts (·.faultsLater g) (·.withFault p)).harts.map (·.id)).Nodup := by rw [ids]; exact nd
  have nl : ((((s.modHarts (·.faultsLater g) (·.withFault p)).gangHarts g).filter Hart.inTsync).map (·.id)).Nodup :=
    nd1.sublist ((List.filter_sublist.trans List.filter_sublist).map _)
  have each := foldl_asHart_harts (enterTrap_alone p.1 p.2 fun s => s.hart.pc) nd1 nl
  rw [form]
  refine ⟨fun w => ?_, fun w => ?_⟩
  · have stay : o ∈ (s.modHarts (·.faultsLater g) (·.withFault p)).harts := mem_modHarts_of_not (by simp [Hart.faultsLater, w]) ho
    obtain ⟨z, hz, hm⟩ := (each o stay).2 o (List.mem_filter.2 ⟨List.mem_filter.2 ⟨stay, by simp [hg]⟩, w⟩) rfl
    exact ⟨z, hz, hz ▸ hm⟩
  · have noted : o.withFault p ∈ (s.modHarts (·.faultsLater g) (·.withFault p)).harts := mem_modHarts_of (by simp [Hart.faultsLater, w, hg, he]) ho
    refine (each _ noted).1 fun h hh q => ?_
    obtain ⟨hh, wh⟩ := List.mem_filter.1 hh
    have same : h = o.withFault p := List.inj_on_of_nodup_map nd1 (List.mem_of_mem_filter hh) noted q
    rw [same] at wh
    exact absurd (wh.symm.trans w) (by decide)

end Sys2Proof.Machine
end

section
/-! SUPPORT. The asynchronous trap that comes first, and the events that end a wait or begin a step (02:R58-R61; 12:R331, R352). -/
namespace Sys2Proof.Machine
open Sys2Proof

/-! ## The order of asynchronous traps (12:R329, R331) -/

/-- TRAPV of a pending cause. -/
def State.pendingWord (s : State) : Cause → Option Word
  | .mcheck => s.hart.mcheck.head?
  | .preempt => s.hart.preempt.map fun d => if d then 1 else 0
  | .timer => if s.hart.timecmp.ule s.time then some s.time else none
  | .extint => s.hart.extint.head?.map (·.setWidth 64)
  | _ => none
theorem pendingWord_preempt (s : State) (w : Word) :
    s.pendingWord .preempt = some w ↔ ∃ d, s.hart.preempt = some d ∧ w = if d = true then 1 else 0 := by
  show (s.hart.preempt.map _) = some w ↔ _
  simp only [Option.map_eq_some_iff, eq_comm (a := w)]
theorem pendingWord_timer (s : State) (w : Word) :
    s.pendingWord .timer = some w ↔ s.hart.timecmp.toNat ≤ s.time.toNat ∧ w = s.time := by
  show (if s.hart.timecmp.ule s.time then some s.time else none) = some w ↔ _
  simp only [BitVec.ule, decide_eq_true_eq, Option.ite_none_right_eq_some, Option.some.injEq, eq_comm (a := w)]
theorem pendingWord_extint (s : State) (w : Word) :
    s.pendingWord .extint = some w ↔ ∃ b, s.hart.extint.head? = some b ∧ w = b.setWidth 64 := by
  show (s.hart.extint.head?.map _) = some w ↔ _
  simp only [Option.map_eq_some_iff, eq_comm (a := w)]
/-- What is pending under one cause. -/
def State.pendingOf (s : State) (k : Cause) : List (Cause × Word) := (s.pendingWord k).toList.map (k, ·)
theorem pendingAsync_form (s : State) :
    s.pendingAsync = s.pendingOf .mcheck ++ (s.pendingOf .preempt ++ (s.pendingOf .timer ++ (s.pendingOf .extint ++ []))) := by
  have m : (match s.hart.mcheck with | v :: _ => [(Cause.mcheck, v)] | [] => []) = s.pendingOf .mcheck := by
    show _ = s.hart.mcheck.head?.toList.map _
    cases s.hart.mcheck <;> rfl
  have p : (match s.hart.preempt with | some d => [(Cause.preempt, if d then (1 : Word) else 0)] | none => []) = s.pendingOf .preempt := by
    show _ = (s.hart.preempt.map _).toList.map _
    cases s.hart.preempt <;> rfl
  have t : (if s.hart.timecmp.ule s.time then [(Cause.timer, s.time)] else []) = s.pendingOf .timer := by
    show _ = (if s.hart.timecmp.ule s.time then some s.time else none).toList.map _
    cases s.hart.timecmp.ule s.time <;> rfl
  have e : (match s.hart.extint with | v :: _ => [(Cause.extint, v.setWidth 64)] | [] => []) = s.pendingOf .extint := by
    show _ = (s.hart.extint.head?.map _).toList.map _
    cases s.hart.extint <;> rfl
  rw [← m, ← p, ← t, ← e, List.append_nil, ← List.append_assoc, ← List.append_assoc]
  rfl
/-- The first of one cause's entry and others that may be taken. -/
theorem find_pendingOf {s : State} {k c : Cause} {v : Word} {l : List (Cause × Word)} :
    (s.pendingOf k ++ l).find? (fun p => s.hart.mayTake p.1) = some (c, v) ↔
      (c = k ∧ s.pendingWord k = some v ∧ s.hart.mayTake k = true) ∨
      ((∀ w, s.pendingWord k = some w → s.hart.mayTake k = false) ∧ l.find? (fun p => s.hart.mayTake p.1) = some (c, v)) := by
  unfold State.pendingOf
  cases e : s.pendingWord k with
  | none => simp
  | some w =>
    cases m : s.hart.mayTake k with
    | true => simp [m, eq_comm]
    | false => simp [m]
/-- Causes that come before another. -/
def Cause.ahead : Cause → List Cause
  | .preempt => [.mcheck]
  | .timer => [.mcheck, .preempt]
  | .extint => [.mcheck, .preempt, .timer]
  | _ => []
theorem takeable_iff (s : State) (c : Cause) (v : Word) :
    s.takeable = some (c, v) ↔ s.pendingWord c = some v ∧ s.hart.mayTake c = true ∧
      ∀ k, k ∈ c.ahead → ∀ w, s.pendingWord k = some w → s.hart.mayTake k = false := by
  unfold State.takeable
  rw [pendingAsync_form]
  simp only [find_pendingOf, List.find?_nil, reduceCtorEq, and_false, or_false]
  cases c
  case mcheck => simp [Cause.ahead]
  case preempt | timer | extint =>
    simp [Cause.ahead]
    tauto
  all_goals simp [State.pendingWord]
theorem mayTake_iff (h : Hart) (k : Cause) : h.mayTake k = true ↔ k = .mcheck ∨
    (h.lv = .a ∨ h.lv = .k ∧ (if h.lv = .m ∨ h.mkeep.getLsbD (k.code - 1) = true then Level.m else .k) = .m) ∨ h.ie = true := by
  unfold Hart.mayTake
  rw [trapLevel_eq]
  cases h.lv <;> by_cases q : h.mkeep.getLsbD (k.code - 1) = true <;> simp [q, Level.code]
/-- The boundary at which an asynchronous trap is taken (12:R331; 02:R58). -/
theorem asyncNow_eq (s : State) (p : Cause × Word) : s.asyncNow = some p ↔
    (s.up = true ∧ s.hart.resident = true ∧ s.hart.dead = false ∧ s.hart.ended = false ∧ s.hart.yielded = false ∧ s.hart.halted = false ∧
      s.hart.flying = none ∧ s.hart.stepping = false ∧ s.hart.convoyLeft = 0 ∧ s.hart.namoPend = [] ∧
      ¬ (s.hart.waitOn = some .tsync ∧ s.hart.stepDone = true ∧
        ∃ g, s.gang s.hart.id.gang = some g ∧ (g.stepKind = .toExchange ∨ g.stepKind = .toCompute))) ∧ s.takeable = some p := by
  have passed : s.syncPassed = true ↔ s.hart.waitOn = some .tsync ∧ s.hart.stepDone = true ∧
      ∃ g, s.gang s.hart.id.gang = some g ∧ (g.stepKind = .toExchange ∨ g.stepKind = .toCompute) := by
    unfold State.syncPassed
    cases s.gang s.hart.id.gang <;> simp [and_assoc]
  rw [← passed]
  unfold State.asyncNow Hart.live'
  split
  · next h => 
    simp only [Bool.and_eq_true, Bool.not_eq_true', decide_eq_true_eq, List.isEmpty_iff, Option.isNone_iff_eq_none] at h
    simp [h]
  · next h =>
    simp only [Bool.and_eq_true, Bool.not_eq_true', decide_eq_true_eq, List.isEmpty_iff, Option.isNone_iff_eq_none] at h
    simp only [reduceCtorEq, false_iff]
    rintro ⟨b, -⟩
    exact h (by simp [b])

/-! ## Events of one hart -/

section
variable {s : State} {c : Cause} {v : Word}
theorem asyncPc_past (h : s.hart.waitOn = some .idle ∨ s.hart.waitOn = some .idleX) : s.asyncPc = s.hart.pc + 4 := by
  unfold State.asyncPc
  obtain h | h := h <;> rw [h]
theorem asyncPc_here (h : ¬ (s.hart.waitOn = some .idle ∨ s.hart.waitOn = some .idleX)) : s.asyncPc = s.hart.pc := by
  unfold State.asyncPc
  split
  · next e => exact absurd (.inl e) h
  · next e => exact absurd (.inr e) h
  · rfl
/-- ASYNC_TRAP_TAKE enters the trap of the cause that comes first. -/
theorem asyncTrapTake_traps (h : s.asyncNow = some (c, v)) :
    ({ s with hart := s.hart.took c } : State).traps (exec .asyncTrapTake s) c v s.asyncPc := by
  have e : exec .asyncTrapTake s = .next (enterTrap { s with hart := s.hart.took c } c v s.asyncPc) := by
    show execAsyncTrapTake s = _
    unfold execAsyncTrapTake
    rw [h]
  rw [e]
  exact enterTrap_traps _ c v _

/-- A count that runs out at the scalar side. -/
theorem waitTimeout_scalar {p : Cause × Word} (up : s.up = true) (m : s.hart.waitmax ≠ 0) (l : s.hart.live' = true) (n : s.hart.namoPend = [])
    (hs : scalarTimeout s = some p) (hv : vectorTimeout s.hart = none) : exec .waitTimeout s = .next (scalarRunsOut s p) := by
  show execWaitTimeout s = _
  unfold execWaitTimeout State.timeouts
  simp only [up, m, l, n, hs, hv, Bool.not_true, decide_false, List.isEmpty_nil, Bool.or_self, Bool.false_eq_true, if_false]
theorem waitTimeout_vector (up : s.up = true) (m : s.hart.waitmax ≠ 0) (l : s.hart.live' = true) (n : s.hart.namoPend = [])
    (hs : scalarTimeout s = none) (hv : vectorTimeout s.hart = some v) : exec .waitTimeout s = .next (vectorRunsOut s v) := by
  show execWaitTimeout s = _
  unfold execWaitTimeout State.timeouts
  simp only [up, m, l, n, hs, hv, Bool.not_true, decide_false, List.isEmpty_nil, Bool.or_self, Bool.false_eq_true, if_false]
theorem runOut_hart (s : State) (ns : Nat) : s.runOut ns = s.lapse (1000 * s.hart.waitmax.toNat - ns) := rfl
end

/-! ## Steps of a T gang -/

section
variable {s : State} {id : BitVec 32} {g : Gang}
theorem stepEvent_next {name : String} {p : Gang → Bool} {f : Gang → State} (up : s.up = true) (e : s.gang id = some g) (t : g.cls = .t)
    (hp : p g = true) : stepEvent name id p f s = .next (f g) := by
  unfold stepEvent
  rw [e]
  exact given_next _ _ (by simp [up, t, hp])
theorem exchangeStepBegin_next (up : s.up = true) (e : s.gang id = some g) (t : g.cls = .t) (k : g.stepKind = .toExchange) :
    exec (.exchangeStepBegin id) s = .next (((s.passSync id).modGang id fun g => { g with stepKind := .exchange }).modHarts
      (fun h => h.id.gang == id) fun h => { h with incoming := 0, planFault := none }) :=
  stepEvent_next up e t (by rw [k]; decide)
theorem computeStepBegin_next (up : s.up = true) (e : s.gang id = some g) (t : g.cls = .t) (k : g.stepKind = .toCompute) :
    exec (.computeStepBegin id) s =
      .next ((s.passSync id).modGang id fun g => { g with stepKind := .compute, stepNo := g.stepNo + 1 }) :=
  stepEvent_next up e t (by rw [k]; decide)
theorem exchangeStepComplete_ok {l : List Nat} (up : s.up = true) (e : s.gang id = some g) (t : g.cls = .t) (d : exchangeDue s g = true)
    (c : planCounts s g = .ok l) : exec (.exchangeStepComplete id) s =
      .next ((((s.seePlan g 0 g.harts).seeSent id).modGang id fun g => { g with stepKind := .toCompute }).later (.computeStepBegin id)) := by
  refine (stepEvent_next up e t d).trans ?_
  rw [c]
theorem exchangeStepComplete_error {p : Cause × Word} (up : s.up = true) (e : s.gang id = some g) (t : g.cls = .t)
    (d : exchangeDue s g = true) (c : planCounts s g = .error p) : exec (.exchangeStepComplete id) s = .next (planFails s id p) := by
  refine (stepEvent_next up e t d).trans ?_
  rw [c]

/-- What the completion of a step's TSYNC leaves of a hart. -/
def Hart.synced (o : Hart) : Hart := if o.stepDone then o.passWait else o
theorem modGang_map (s : State) (id : BitVec 32) (f : Gang → Gang) :
    s.modGang id f = { s with gangs := s.gangs.map fun x => if x.id = id then f x else x } := by
  unfold State.modGang
  simp only [beq_iff_eq]
theorem passSync_form (s : State) (id : BitVec 32) :
    s.passSync id = { s with hart := if s.hart.id.gang = id then s.hart.synced else s.hart,
                             others := s.others.map fun o => if o.id.gang = id then o.synced else o,
                             unseen := (s.passSync id).unseen } := by
  have each (o : Hart) : (if (o.id.gang == id && o.stepDone) = true then o.passWait else o) = if o.id.gang = id then o.synced else o := by
    unfold Hart.synced
    by_cases g : o.id.gang = id <;> simp [g]
  have harts : s.modHarts (fun h => h.id.gang == id && h.stepDone) Hart.passWait =
      { s with hart := if s.hart.id.gang = id then s.hart.synced else s.hart,
               others := s.others.map fun o => if o.id.gang = id then o.synced else o } := by
    unfold State.modHarts
    simp only [each]
  unfold State.passSync
  rw [acquireGang_form]
  generalize (State.acquireGang _ id).unseen = un
  rw [harts]
theorem synced_id (o : Hart) : o.synced.id = o.id := by
  unfold Hart.synced
  split <;> rfl
end

end Sys2Proof.Machine
end

section
/-! SUPPORT. A signal that has come, and a deadlock with its report (12:R351; 17:R513). -/
namespace Sys2Proof.Machine
open Sys2Proof

/-! ## A signal that has come -/

section
variable {s : State} {a b : Reg} {c : Cond} {pas : List Nat}
/-- The word has been read: the acquire, and then the end of the wait. -/
theorem execWaitsig_holds (al : (s.getX a).toNat % 4 = 0) (r : s.reaches .read (s.getX a) 4 pas)
    (h : condHolds32 c (BitVec.ofNat 32 (leNat (s.scalarSees pas))) ((s.getX b).setWidth 32) = true) :
    execWaitsig a b c s = .next ((touchLines (noteXlat s s.ctx (s.getX a) 4) false pas).acquire s.hart.id).pastWait := by
  obtain ⟨hx, hp⟩ := r
  have al : ((s.getX a).toNat % 4 == 0) = true := by simpa using al
  have sees : (touchLines (noteXlat s s.ctx (s.getX a) 4) false pas).sees false 0 pas = s.scalarSees pas := by
    rw [sees_touch, sees_note]
    rfl
  have own : (touchLines (noteXlat s s.ctx (s.getX a) 4) false pas).hart = s.hart := by
    rw [touchLines_form, noteXlat_form]
  unfold execWaitsig
  show runInstr (checkM ((s.getX a).toNat % 4 == 0) .misalign (s.getX a) >>= _) s = _
  rw [runInstr, runM_checkM_bind al]
  rw [runM_bind, runM_addresses_ok (reachN_ok hx hp)]
  dsimp only
  rw [runM_bind, runM_scalarBytes]
  dsimp only
  rw [sees, lo32, if_pos h, runM_bind, acquireM, runM_modify]
  dsimp only
  rw [runM_doneWait', finish_ok, own]
/-- WAITSIG_SATISFIED. -/
theorem waitsigSatisfied_next (up : s.up = true) (w : s.hart.waitOn = some (.waitsig a b c)) (l : s.hart.live' = true)
    (al : (s.getX a).toNat % 4 = 0) (r : s.reaches .read (s.getX a) 4 pas)
    (h : condHolds32 c (BitVec.ofNat 32 (leNat (s.scalarSees pas))) ((s.getX b).setWidth 32) = true) :
    exec .waitsigSatisfied s = .next ((touchLines (noteXlat s s.ctx (s.getX a) 4) false pas).acquire s.hart.id).pastWait := by
  have own : ((touchLines (noteXlat s s.ctx (s.getX a) 4) false pas).acquire s.hart.id).hart = s.hart := by
    rw [acquire_form, touchLines_form, noteXlat_form]
  show execWaitsigSatisfied s = _
  unfold execWaitsigSatisfied
  rw [w]
  dsimp only
  rw [execWaitsig_holds al r h]
  refine given_next _ _ ?_
  simp only [up, l, State.pastWait, own, beq_self_eq_true, Bool.and_self]
end

/-! ## Deadlock -/

/-- A device's write to the control block, in memory without errors. -/
theorem devWrote_scb {s : State} {pa : Nat} {b : List Byte} (scb : ∀ p, p ∈ run pa b.length → paClass p = some .scb) (ok : s.memOk)
    (good : s.bad = []) : DevWrote s (s.putN pa b) ((run pa b.length).zip b) := by
  have takes : s.takes (run pa b.length) = true := by
    have np : (run pa b.length).any (permitted s) = false := List.any_eq_false.2 fun p m => by simp [permitted, scb p m]
    have npool : (run pa b.length).any (fun pa => paClass pa == some .pool) = false := List.any_eq_false.2 fun p m => by simp [scb p m]
    unfold State.takes
    rw [np, npool, good]
    cases s.poolUp <;> rfl
  unfold State.putN
  rw [if_pos takes]
  exact devWrote_putAt ok good (run_nodup _ _) (run_length _ _).symm
theorem paClass_scb {p : Nat} (lo : Config.scb ≤ p) (hi : p < Config.scb + 0x22000) : paClass p = some .scb := by
  unfold Config.scb at lo hi
  unfold paClass Config.hbmEnd
  rw [if_neg (by omega)]
  simp only [Bool.and_eq_true, decide_eq_true_eq]
  rw [if_neg (by omega), if_neg (by omega), if_pos (by omega)]
/-- EXTINT with source 3 at hart 0 of control core 0. -/
def Hart.rung (o : Hart) : Hart := if o.id = ⟨0, 0⟩ ∧ 3 ∉ o.extint then { o with extint := o.extint ++ [3] } else o
theorem raiseExtint_form (s : State) : raiseExtint s 3 = { s with hart := s.hart.rung, others := s.others.map Hart.rung } := by
  have each (o : Hart) :
      (if o.id == ⟨0, 0⟩ then { o with extint := if o.extint.contains 3 then o.extint else o.extint ++ [3] } else o) = o.rung := by
    unfold Hart.rung
    by_cases i : o.id = ⟨0, 0⟩
    · rw [if_pos (by simpa using i)]
      by_cases e : 3 ∈ o.extint
      · rw [if_pos (by simpa using e), if_neg fun q => q.2 e]
      · rw [if_neg (by simpa using e), if_pos ⟨i, e⟩]
    · rw [if_neg (by simpa using i), if_neg fun q => i q.1]
  unfold raiseExtint State.modHartOf State.modHarts
  simp only [each]
/-- The report's entry, its count, and the interrupt (12:R351). -/
theorem reportDeadlock_wrote {s : State} {n k : Nat} {g : BitVec 32} (ok : s.memOk) (good : s.bad = []) :
    let count := Config.scb + 0x21000
    let c := leNat (memReadN s.mem count 4)
    ∃ u, DevWrote s u ((run (Config.scb + 0x20000 + 16 * (c % 256)) 16).zip
        (leBytes 16 (g.toNat + n * 2 ^ 32 + k * 2 ^ 48 + s.time.toNat * 2 ^ 64)) ++ (run count 4).zip (leBytes 4 ((c + 1) % 2 ^ 32))) ∧
      reportDeadlock s n k g = { u with hart := s.hart.rung, others := s.others.map Hart.rung } := by
  intro count c
  have w1 := devWrote_scb (s := s) (pa := Config.scb + 0x20000 + 16 * (c % 256))
    (b := leBytes 16 (g.toNat + n * 2 ^ 32 + k * 2 ^ 48 + s.time.toNat * 2 ^ 64)) (fun p m => by
      rw [leBytes_len, mem_run] at m
      exact paClass_scb (by omega) (by omega)) ok good
  have w2 := devWrote_scb (pa := count) (b := leBytes 4 ((c + 1) % 2 ^ 32)) (fun p m => by
      rw [leBytes_len, mem_run] at m
      exact paClass_scb (by omega) (by omega)) w1.ok w1.good
  have w := w1.append w2
  simp only [leBytes_len] at w
  refine ⟨_, w, (raiseExtint_form _).trans ?_⟩
  rw [← w.hart, ← w.frame.others]
  rfl
/-- DEADLOCK_DETECT of a file that one hart shares. -/
theorem deadlockDetect_alone {s : State} {n : Nat} {m : BitVec 8} (up : s.up = true) (d : deadlocked s n = true) (one : sharers s n = [s.hart])
    (w : s.hart.waitOn = some (.semts m)) : exec (.deadlockDetect n) s =
      .next (reportDeadlock (enterTrap s .deadlock (m.setWidth 64) s.hart.pc) n 1 s.hart.id.gang) := by
  have alive : s.hart.dead = false := by
    unfold deadlocked at d
    simpa [one] using (Bool.and_eq_true_iff.1 d).1
  have sem : waitsSem s.hart = some m := by
    unfold waitsSem
    rw [w]
  show given _ _ _ = _
  rw [given_next _ _ (by rw [up, d]; rfl), one]
  simp only [alive, List.filter_cons, Bool.not_false, if_true, List.filter_nil, List.foldl_cons, List.foldl_nil, sem, Option.getD_some,
    List.length_singleton]
  unfold State.asHart
  rw [if_pos (beq_self_eq_true _)]

end Sys2Proof.Machine
end

section
/-! SUPPORT. Translation where what the agents hold agrees with the tables: accesses keep it so, and each is translated as the tables
stand (09:R257-R263). -/
namespace Sys2Proof.Machine
open Sys2Proof

/-! ## Addresses that share an entry of a table -/

theorem div_of_coarser {a b m n : Nat} (h : a / 2 ^ m = b / 2 ^ m) (k : m ≤ n) : a / 2 ^ n = b / 2 ^ n := by
  obtain ⟨d, rfl⟩ := Nat.exists_eq_add_of_le k
  rw [Nat.pow_add, ← Nat.div_div_eq_div_mul, ← Nat.div_div_eq_div_mul, h]
theorem leafOf_lo {e lo : Nat} {l : Leaf} (h : leafOf e lo = .ok l) : l.lo = lo := by
  unfold leafOf at h
  split at h
  · cases h
  · split at h
    · cases h
    · split at h
      · cases h
      · cases h
        rfl
/-- A level of a walk: the entry that the address selects is a leaf, names the next table, or ends the walk. -/
theorem walkFrom_cases (s : State) (asid : BitVec 16) (lo n table : Nat) (rest : List (Nat × Nat)) (i : Nat) :
    (∃ e, ∀ va, va / 2 ^ lo = i → walkFrom s asid va ((lo, n) :: rest) table = (leafOf e lo, [])) ∨
    (∃ c, ∀ va, va / 2 ^ lo = i → walkFrom s asid va ((lo, n) :: rest) table = (.error c, [])) ∨
    ∃ next, ∀ va, va / 2 ^ lo = i → walkFrom s asid va ((lo, n) :: rest) table =
      (walkFrom s asid va rest next).via ⟨asid, lo, i, next⟩ := by
  cases r : readEntry s (table + 8 * (i % 2 ^ n)) 8 with
  | error c => exact .inr (.inl ⟨c, fun va h => by rw [walkFrom, h, r]⟩)
  | ok e =>
    by_cases v : (!pteV e || bitsOf e 63 52 != 0) = true
    · exact .inr (.inl ⟨.page, fun va h => by rw [walkFrom, h, r]; exact if_pos v⟩)
    · by_cases f : pteLeaf e = true
      · exact .inl ⟨e, fun va h => by rw [walkFrom, h, r]; exact (if_neg v).trans (if_pos f)⟩
      · cases rest with
        | nil => exact .inr (.inl ⟨.page, fun va h => by rw [walkFrom, h, r]; exact (if_neg v).trans (if_neg f)⟩)
        | cons x rest =>
          by_cases b : (bitsOf e 7 2 != 0) = true
          · exact .inr (.inl ⟨.page, fun va h => by
              rw [walkFrom, h, r]; exact (if_neg v).trans ((if_neg f).trans (if_pos b))⟩)
          · by_cases m : (bitsOf e 51 8 * 256 % 2 ^ (x.2 + 3) != 0) = true
            · exact .inr (.inl ⟨.page, fun va h => by
                rw [walkFrom, h, r]; exact (if_neg v).trans ((if_neg f).trans ((if_neg b).trans (if_pos m)))⟩)
            · exact .inr (.inr ⟨bitsOf e 51 8 * 256, fun va h => by
                rw [walkFrom, h, r]; exact (if_neg v).trans ((if_neg f).trans ((if_neg b).trans (if_neg m)))⟩)
/-- What a walk says of the addresses of the leaf it finds, and of those under each pointer on its path. -/
def walkShares (asid : BitVec 16) (va : Nat) (top : Nat) (w : Nat → Walked) : Prop :=
  (∀ l, (w va).1 = .ok l → l.lo ≤ top ∧ ∀ u, u / 2 ^ l.lo = va / 2 ^ l.lo → (w u).1 = .ok l) ∧
  ∀ p, p ∈ (w va).2 → p.asid = asid ∧ p.page = va / 2 ^ p.lo ∧ p.lo ≤ top ∧ ∀ u, u / 2 ^ p.lo = p.page → p ∈ (w u).2
theorem walkFrom_shares (s : State) (asid : BitVec 16) (va : Nat) : ∀ (l : List (Nat × Nat)) (table top : Nat),
    l.Pairwise (fun x y => y.1 ≤ x.1) → (∀ x, x ∈ l → x.1 ≤ top) → walkShares asid va top fun u => walkFrom s asid u l table
  | [], _, _, _, _ => ⟨nofun, nofun⟩
  | (lo, n) :: rest, table, top, sorted, below => by
    obtain ⟨first, sorted⟩ := List.pairwise_cons.1 sorted
    have lt : lo ≤ top := below (lo, n) List.mem_cons_self
    unfold walkShares
    dsimp only
    obtain ⟨e, h⟩ | ⟨c, h⟩ | ⟨next, h⟩ := walkFrom_cases s asid lo n table rest (va / 2 ^ lo)
    · refine ⟨fun l hl => ?_, fun p hp => ?_⟩
      · rw [h va rfl] at hl
        have e := leafOf_lo hl
        refine ⟨e ▸ lt, fun u hu => ?_⟩
        rw [e] at hu
        rw [h u hu]
        exact hl
      · rw [h va rfl] at hp
        cases hp
    · refine ⟨fun l hl => ?_, fun p hp => ?_⟩
      · rw [h va rfl] at hl
        cases hl
      · rw [h va rfl] at hp
        cases hp
    · obtain ⟨leaf, ptr⟩ := walkFrom_shares s asid va rest next lo sorted fun x hx => first x hx
      refine ⟨fun l hl => ?_, fun p hp => ?_⟩
      · rw [h va rfl] at hl
        obtain ⟨k, same⟩ := leaf l hl
        refine ⟨k.trans lt, fun u hu => ?_⟩
        rw [h u (div_of_coarser hu k)]
        exact same u hu
      · rw [h va rfl] at hp
        obtain rfl | hp := List.mem_cons.1 hp
        · refine ⟨rfl, rfl, lt, fun u hu => ?_⟩
          rw [h u hu]
          exact List.mem_cons_self
        · obtain ⟨a, pg, k, same⟩ := ptr p hp
          refine ⟨a, pg, k.trans lt, fun u hu => ?_⟩
          rw [h u (div_of_coarser (hu.trans pg) k)]
          exact List.mem_cons_of_mem _ (same u hu)
theorem walk_cases (s : State) (asid : BitVec 16) : (∃ c, ∀ va, walk s asid va = (.error c, [])) ∨
    ∃ root, ∀ va, walk s asid va = (walkFrom s asid va walkLevels root).via ⟨asid, 56, va / 2 ^ 56, root⟩ := by
  unfold walk
  split
  · next c _ => exact .inl ⟨c, fun _ => rfl⟩
  · next e _ =>
    split
    · exact .inl ⟨.page, fun _ => rfl⟩
    · exact .inr ⟨_, fun _ => rfl⟩
theorem walk_shares (s : State) (asid : BitVec 16) (va : Nat) : walkShares asid va 56 fun u => walk s asid u := by
  unfold walkShares
  dsimp only
  obtain ⟨c, h⟩ | ⟨root, h⟩ := walk_cases s asid
  · simp only [h]
    exact ⟨nofun, nofun⟩
  · simp only [h]
    obtain ⟨leaf, ptr⟩ := walkFrom_shares s asid va walkLevels root 56 (by decide) (by decide)
    refine ⟨leaf, fun p hp => ?_⟩
    obtain rfl | hp := List.mem_cons.1 hp
    · exact ⟨rfl, rfl, le_rfl, fun u (hu : u / 2 ^ 56 = va / 2 ^ 56) => by rw [hu]; exact List.mem_cons_self⟩
    · obtain ⟨a, pg, k, same⟩ := ptr p hp
      exact ⟨a, pg, k, fun u hu => List.mem_cons_of_mem _ (same u hu)⟩

/-! ## Fresh translations -/

section
variable {s t : State}
theorem walkFrom_same (hm : t.mem = s.mem) (hb : t.bad = s.bad) (asid : BitVec 16) (va : Nat) : ∀ (l : List (Nat × Nat)) (table : Nat),
    walkFrom t asid va l table = walkFrom s asid va l table
  | [], _ => rfl
  | _ :: rest, _ => by
    unfold walkFrom readEntry
    simp only [hm, hb, walkFrom_same hm hb asid va rest]
theorem walk_same (hm : t.mem = s.mem) (hb : t.bad = s.bad) (asid : BitVec 16) (va : Nat) : walk t asid va = walk s asid va := by
  unfold walk readEntry
  simp only [hm, hb, walkFrom_same hm hb]
theorem pickHeld_nil {α : Type} (s : State) (site kind : Nat) : pickHeld (α := α) s site kind [] = none := rfl
/-- Where every held leaf and pointer agrees with the tables, a translation is the walk of the tables. -/
theorem leafFor_fresh (h : s.tlbFresh) (c : Ctx) (site va : Nat) : leafFor s c site va = walk s c.asid va := by
  obtain ⟨leaves, ptrs⟩ := h
  have l : ((s.tlb.filter fun t => t.serves c va).map (·.leaf)).filter (fun l => decide ((walk s c.asid va).1 ≠ .ok l)) = [] := by
    refine List.filter_eq_nil_iff.2 fun x hx => ?_
    obtain ⟨e, he, rfl⟩ := List.mem_map.1 hx
    obtain ⟨he, sv⟩ := List.mem_filter.1 he
    simp only [TlbEntry.serves, Bool.and_eq_true, beq_iff_eq] at sv
    have := leaves e he va sv.2.symm
    rw [sv.1.2] at this
    simp [this]
  have p : (s.walks.filter fun p => p.1 == c.die && p.2.serves c.asid va && !(walk s c.asid va).2.contains p.2) = [] := by
    refine List.filter_eq_nil_iff.2 fun x hx => ?_
    simp only [PtrEntry.serves, Bool.and_eq_true, beq_iff_eq, Bool.not_eq_true', not_and, Bool.not_eq_false]
    rintro ⟨-, a, pg⟩
    have := ptrs x hx va pg.symm
    rw [a] at this
    simpa using this
  have start : startOf s c site va = .root := by
    unfold startOf
    dsimp only
    rw [l, pickHeld_nil, p, List.map_nil, pickHeld_nil]
  unfold leafFor
  rw [start]
theorem mem_addNew {α : Type} [DecidableEq α] {l : List α} {x y : α} (h : y ∈ addNew l x) : y ∈ l ∨ y = x := by
  unfold addNew at h
  split at h
  · exact .inl h
  · exact (List.mem_cons.1 h).symm
theorem mem_foldl_addNew {α : Type} [DecidableEq α] {y : α} : ∀ {m l : List α}, y ∈ m.foldl addNew l → y ∈ l ∨ y ∈ m
  | [], _, h => .inl h
  | x :: m, l, h => by
    obtain h | h := mem_foldl_addNew (m := m) (l := addNew l x) h
    · exact (mem_addNew h).imp id fun e => by simp [e]
    · exact .inr (List.mem_cons_of_mem _ h)
/-- What a walk leaves with the agent agrees with the tables. -/
theorem notePage_fresh (h : s.tlbFresh) (c : Ctx) (site va : Nat) : (notePage s c site va).tlbFresh := by
  obtain ⟨leaf, ptr⟩ := walk_shares s c.asid va
  have again (a : BitVec 16) (u : Nat) : walk (notePage s c site va) a u = walk s a u :=
    walk_same (by rw [notePage_form]) (by rw [notePage_form]) a u
  have held : (∀ e, e ∈ (notePage s c site va).tlb → e ∈ s.tlb ∨
        ∃ l, (walk s c.asid va).1 = .ok l ∧ e = ⟨c.cls, c.agent, c.asid, va / 2 ^ l.lo, l⟩) ∧
      ∀ p, p ∈ (notePage s c site va).walks → p ∈ s.walks ∨ p.2 ∈ (walk s c.asid va).2 := by
    unfold notePage
    dsimp only
    split
    · exact ⟨fun e he => .inl he, fun p hp => .inl hp⟩
    · rw [leafFor_fresh h]
      have keep : ∀ b : State, (if s.hostCopies.isEmpty = true then b else (entriesRead s c site va).foldl backRead b).tlb = b.tlb ∧
          (if s.hostCopies.isEmpty = true then b else (entriesRead s c site va).foldl backRead b).walks = b.walks := fun b => by
        split
        · exact ⟨rfl, rfl⟩
        · rw [backReads_form]
          exact ⟨rfl, rfl⟩
      rw [(keep _).1, (keep _).2]
      dsimp only
      refine ⟨fun e he => ?_, fun p hp => ?_⟩
      · cases w : (walk s c.asid va).1 with
        | error x =>
          rw [w] at he
          exact .inl he
        | ok l =>
          rw [w] at he
          exact (mem_addNew he).imp id fun e => ⟨l, rfl, e⟩
      · obtain hp | hp := mem_foldl_addNew hp
        · exact .inl hp
        · obtain ⟨q, hq, rfl⟩ := List.mem_map.1 hp
          exact .inr hq
  refine ⟨fun e he u hu => ?_, fun p hp u hu => ?_⟩
  · rw [again]
    obtain he | ⟨l, w, rfl⟩ := held.1 e he
    · exact h.1 e he u hu
    · exact (leaf l w).2 u hu
  · rw [again]
    obtain hp | hp := held.2 p hp
    · exact h.2 p hp u hu
    · obtain ⟨a, -, -, same⟩ := ptr p.2 hp
      rw [a]
      exact same u hu
theorem noteXlat_fresh (h : s.tlbFresh) (c : Ctx) (va : Word) (n : Nat) : (noteXlat s c va n).tlbFresh := by
  unfold noteXlat
  generalize List.range _ = l
  induction l generalizing s with
  | nil => exact h
  | cons i l ih => exact ih (notePage_fresh h _ _ _)
end

end Sys2Proof.Machine
end

section
/-! SUPPORT. What one side of a hart reads does not depend on the marks of earlier reads (07:R216-R218; 10:R278). -/
namespace Sys2Proof.Machine
open Sys2Proof

/-! ## Stores kept for a side -/

/-- A record without the mark that a vector access has read from it. -/
def Unseen.unread (u : Unseen) : Unseen := { u with saw := false }

section
variable {p : Unseen → Bool} {g : Unseen → Unseen}
theorem meets_map (hg : ∀ u, (g u).cells = u.cells) (u w : Unseen) : (g u).meets (g w) = u.meets w := by
  unfold Unseen.meets
  rw [hg, hg]
theorem splitSeen_map (hg : ∀ u, (g u).cells = u.cells) (hp : ∀ u, p (g u) = p u) : ∀ l : List Unseen,
    splitSeen p (l.map g) = ((splitSeen p l).1.map g, (splitSeen p l).2.map g)
  | [] => rfl
  | u :: l => by
    have any : (List.map g (splitSeen p l).1).any (g u).meets = (splitSeen p l).1.any u.meets := by
      rw [List.any_map]
      congr 1
      exact funext fun w => meets_map hg u w
    simp only [List.map_cons, splitSeen, splitSeen_map hg hp l, hp, any]
    split <;> rfl
/-- Where some stores are dropped, no other one becomes visible, and the ones not seen that stay are still not seen. -/
theorem splitSeen_filter (q : Unseen → Bool) : ∀ l : List Unseen,
    (splitSeen p (l.filter q)).1 ⊆ (splitSeen p l).1 ∧ ∀ u, u ∈ (splitSeen p l).2 → q u = true → u ∈ (splitSeen p (l.filter q)).2
  | [] => ⟨fun _ h => h, fun _ h => absurd h List.not_mem_nil⟩
  | u :: l => by
    obtain ⟨seen, late⟩ := splitSeen_filter q l
    have more (h : (splitSeen p (l.filter q)).1.any u.meets = true) : (splitSeen p l).1.any u.meets = true := by
      obtain ⟨w, hw, m⟩ := List.any_eq_true.1 h
      exact List.any_eq_true.2 ⟨w, seen hw, m⟩
    cases k : q u with
    | false =>
      rw [List.filter_cons_of_neg (by simp [k])]
      simp only [splitSeen]
      split
      · exact ⟨fun w hw => List.mem_cons_of_mem _ (seen hw), late⟩
      · refine ⟨seen, fun w hw kw => ?_⟩
        obtain rfl | hw := List.mem_cons.1 hw
        · rw [k] at kw
          cases kw
        · exact late w hw kw
    | true =>
      rw [List.filter_cons_of_pos k]
      simp only [splitSeen]
      by_cases f : (p u || (splitSeen p (l.filter q)).1.any u.meets) = true
      · have o : (p u || (splitSeen p l).1.any u.meets) = true := by
          rw [Bool.or_eq_true] at f ⊢
          exact f.imp id more
        rw [if_pos f, if_pos o]
        exact ⟨List.cons_subset_cons _ seen, late⟩
      · rw [if_neg f]
        split
        · exact ⟨fun w hw => List.mem_cons_of_mem _ (seen hw), fun w hw kw => List.mem_cons_of_mem _ (late w hw kw)⟩
        · refine ⟨seen, fun w hw kw => ?_⟩
          obtain rfl | hw := List.mem_cons.1 hw
          · exact List.mem_cons_self
          · exact List.mem_cons_of_mem _ (late w hw kw)
theorem mem_of_splitSeen_late : ∀ {l : List Unseen} {u : Unseen}, u ∈ (splitSeen p l).2 → u ∈ l
  | [], _, h => h
  | w :: l, u, h => by
    simp only [splitSeen] at h
    split at h
    · exact List.mem_cons_of_mem _ (mem_of_splitSeen_late h)
    · obtain rfl | h := List.mem_cons.1 h
      · exact List.mem_cons_self
      · exact List.mem_cons_of_mem _ (mem_of_splitSeen_late h)
end

/-- A list that holds only stores some side does not see. -/
def tidied (l : List Unseen) : Prop := tidy l = l
theorem tidy_tidied (l : List Unseen) : tidied (tidy l) := by
  have stays {p : Unseen → Bool} {w : Unseen} (h : w ∈ (splitSeen p l).2)
      (k : ((splitSeen (·.toS) l).2.any (fun u => u.id == w.id) || (splitSeen (·.toV) l).2.any (fun u => u.id == w.id)) = true) :
      w ∈ (splitSeen p (tidy l)).2 := (splitSeen_filter _ l).2 w h k
  show (tidy l).filter _ = tidy l
  refine List.filter_eq_self.2 fun u hu => ?_
  obtain ⟨-, k⟩ := List.mem_filter.1 hu
  simp only [Bool.or_eq_true, List.any_eq_true] at k ⊢
  obtain ⟨w, hw, e⟩ | ⟨w, hw, e⟩ := k
  · exact .inl ⟨w, stays hw (by simp only [Bool.or_eq_true, List.any_eq_true]; exact .inl ⟨w, hw, by simp⟩), e⟩
  · exact .inr ⟨w, stays hw (by simp only [Bool.or_eq_true, List.any_eq_true]; exact .inr ⟨w, hw, by simp⟩), e⟩
/-- A change of marks alone keeps a list tidy. -/
theorem tidied.map {l : List Unseen} (h : tidied l) {g : Unseen → Unseen} (hg : ∀ u, (g u).cells = u.cells) (hi : ∀ u, (g u).id = u.id)
    (hs : ∀ u, (g u).toS = u.toS) (hv : ∀ u, (g u).toV = u.toV) : tidied (l.map g) := by
  have any (m : List Unseen) (u : Unseen) : (m.map g).any (fun w => w.id == (g u).id) = m.any (fun w => w.id == u.id) := by
    rw [List.any_map]
    simp only [Function.comp_def, hi]
  unfold tidied tidy at *
  dsimp only at *
  rw [splitSeen_map hg hs, splitSeen_map hg hv, List.filter_map]
  simp only [Function.comp_def, any]
  rw [h]

/-! ## One hart's own stores -/

section
variable {s t : State}
theorem own_setOwn {i : HartId} {l : List Unseen} (h : ∀ u, u ∈ l → u.owner = i) : (s.setOwn i l).ownUnseen i = tidy l := by
  show (s.unseen.filter (fun u => u.owner != i) ++ tidy l).filter (fun u => u.owner == i) = tidy l
  rw [List.filter_append, List.filter_filter]
  have none : s.unseen.filter (fun u => u.owner == i && u.owner != i) = [] := List.filter_eq_nil_iff.2 fun u _ => by
    cases e : u.owner == i <;> simp [bne, e]
  have all : (tidy l).filter (fun u => u.owner == i) = tidy l := List.filter_eq_self.2 fun u hu => by
    simpa using h u (List.mem_of_mem_filter hu)
  rw [none, all, List.nil_append]
theorem own_order {i : HartId} {f : Unseen → Unseen} (h : ∀ u, (f u).owner = u.owner) :
    (s.order i f).ownUnseen i = tidy ((s.ownUnseen i).map f) := by
  refine own_setOwn fun u hu => ?_
  obtain ⟨w, hw, rfl⟩ := List.mem_map.1 hu
  rw [h]
  simpa using (List.mem_filter.1 hw).2
/-- Two states whose acting harts read alike: their own stores differ in the marks of reads alone. -/
structure SeesLike (s t : State) : Prop where
  mem : t.mem = s.mem
  tick : t.tick = s.tick
  id : t.hart.id = s.hart.id
  strip : t.hart.strip = s.hart.strip
  own : (t.ownUnseen t.hart.id).map Unseen.unread = (s.ownUnseen s.hart.id).map Unseen.unread
theorem byteBefore_map {g : Unseen → Unseen} (hg : ∀ u, (g u).cells = u.cells) (l : List Unseen) (pa : Nat) :
    byteBefore (l.map g) pa = byteBefore l pa := by
  unfold byteBefore
  rw [List.findSome?_map]
  simp only [Function.comp_def, hg]
/-- A read from the list of a hart's stores. -/
def State.seesOf (s : State) (vec : Bool) (site : Nat) (pas : List Nat) (own : List Unseen) : List Byte :=
  s.bytesBefore (if own.any (Unseen.hits pas) then (splitSeen (fun u => u.landed s vec site || u.passed pas) own).2 else []) pas
theorem sees_unread (s : State) (vec : Bool) (site : Nat) (pas : List Nat) :
    s.sees vec site pas = s.seesOf vec site pas ((s.ownUnseen s.hart.id).map Unseen.unread) := by
  unfold State.sees State.splitOwn State.splitBy State.seesOf
  dsimp only
  rw [splitSeen_map (g := Unseen.unread) (fun _ => rfl) (fun _ => rfl)]
  have any : ((s.ownUnseen s.hart.id).map Unseen.unread).any (Unseen.hits pas) = (s.ownUnseen s.hart.id).any (Unseen.hits pas) := by
    rw [List.any_map]
    rfl
  rw [any]
  split
  · unfold State.bytesBefore
    simp only [byteBefore_map (g := Unseen.unread) fun _ => rfl]
  · rfl
theorem SeesLike.sees (h : SeesLike s t) (vec : Bool) (site : Nat) (pas : List Nat) : t.sees vec site pas = s.sees vec site pas := by
  obtain ⟨hm, ht, hi, hs, ho⟩ := h
  rw [sees_unread, sees_unread, ho]
  unfold State.seesOf State.bytesBefore Unseen.landed
  rw [hm, ht, hs]
theorem SeesLike.trans {u : State} (h : SeesLike s t) (k : SeesLike t u) : SeesLike s u :=
  ⟨k.mem.trans h.mem, k.tick.trans h.tick, k.id.trans h.id, k.strip.trans h.strip, k.own.trans h.own⟩
/-- A record that a vector access has read where it is in a list. -/
def Unseen.readIn (l : List Nat) (u : Unseen) : Unseen := if l.contains u.id then { u with saw := true } else u
theorem readIn_form (l : List Nat) (u : Unseen) : u.readIn l = { u with saw := (u.readIn l).saw } := by
  unfold Unseen.readIn
  split <;> rfl
/-- What a vector access has read is noted, and nothing is read otherwise for it. -/
theorem noteSaw_like (td : tidied (s.ownUnseen s.hart.id)) (site n : Nat) (pas : List Nat) :
    SeesLike s (s.noteSaw site n pas) ∧ tidied ((s.noteSaw site n pas).ownUnseen s.hart.id) := by
  have frame := noteSaw_form s site n pas
  have own : ∃ g : Unseen → Unseen, (∀ u, g u = { u with saw := (g u).saw }) ∧
      (s.noteSaw site n pas).ownUnseen s.hart.id = (s.ownUnseen s.hart.id).map g := by
    unfold State.noteSaw
    dsimp only
    split
    · generalize List.flatMap _ _ = seen
      refine ⟨Unseen.readIn seen, readIn_form seen, ?_⟩
      exact (own_order (f := Unseen.readIn seen) fun u => by rw [readIn_form]).trans (td.map (fun u => by rw [readIn_form]) (fun u => by rw [readIn_form])
        (fun u => by rw [readIn_form]) fun u => by rw [readIn_form])
    · exact ⟨id, fun _ => rfl, (List.map_id _).symm⟩
  obtain ⟨g, hg, own⟩ := own
  refine ⟨⟨by rw [frame], by rw [frame], by rw [frame], by rw [frame], ?_⟩, ?_⟩
  · have i : (s.noteSaw site n pas).hart.id = s.hart.id := by rw [frame]
    rw [i, own, List.map_map]
    refine List.map_congr_left fun u _ => ?_
    show (g u).unread = u.unread
    rw [hg u]
    rfl
  · rw [own]
    exact td.map (fun u => by rw [hg u]) (fun u => by rw [hg u]) (fun u => by rw [hg u]) (fun u => by rw [hg u])
end

end Sys2Proof.Machine
end

section
/-! SUPPORT. The elements of a vector load, one after another (16:R485-R488). -/
namespace Sys2Proof.Machine
open Sys2Proof

/-! ## What reads change -/

/-- Nothing differs but the acting hart, the stores listed as unseen, and what follows accesses: memory stands. -/
def readFrame (s t : State) : Prop :=
  t = { s with hart := t.hart, unseen := t.unseen, tlb := t.tlb, walks := t.walks, hostLines := t.hostLines, hostCopies := t.hostCopies,
               poolLines := t.poolLines, out := t.out }
section
variable {s t u : State}
theorem readFrame.trans (h : readFrame s t) (k : readFrame t u) : readFrame s u := by
  unfold readFrame at *
  rw [h] at k
  exact k
theorem readFrame.mem (h : readFrame s t) : t.mem = s.mem := by unfold readFrame at h; rw [h]
theorem readFrame.bad (h : readFrame s t) : t.bad = s.bad := by unfold readFrame at h; rw [h]
theorem readFrame.tick (h : readFrame s t) : t.tick = s.tick := by unfold readFrame at h; rw [h]
theorem readFrame.accessOnly (h : readFrame s t) : s.accessOnly t := by
  unfold readFrame at h
  unfold State.accessOnly
  rw [h]
theorem readFrame_hart (s : State) (h : Hart) : readFrame s { s with hart := h } := rfl
theorem readFrame_note (s : State) (c : Ctx) (va : Word) (n : Nat) : readFrame s (noteXlat s c va n) := by
  unfold readFrame
  rw [noteXlat_form]
theorem readFrame_touch (s : State) (w : Bool) (l : List Nat) : readFrame s (touchLines s w l) := by
  unfold readFrame
  rw [touchLines_form]
theorem readFrame_noteSaw (s : State) (site n : Nat) (l : List Nat) : readFrame s (s.noteSaw site n l) := by
  unfold readFrame
  rw [noteSaw_form]
theorem readFrame_order (s : State) (i : HartId) (f : Unseen → Unseen) : readFrame s (s.order i f) := rfl
theorem readFrame.xlat (f : readFrame s t) (hs : s.tlbFresh) (ht : t.tlbFresh) (c : Ctx) (k : AccKind) (site : Nat) (va : Word) :
    xlat t c k site va = xlat s c k site va := by
  unfold Machine.xlat
  dsimp only
  rw [leafFor_fresh ht, leafFor_fresh hs, walk_same f.mem f.bad]
  unfold readFrame at f
  rw [f]
  rfl
theorem readFrame.xlatEach (f : readFrame s t) (hs : s.tlbFresh) (ht : t.tlbFresh) (c : Ctx) (k : AccKind) (start : Word) (n : Nat) :
    ∀ (m : Nat) (va : Word), xlatEach t c k start n va m = xlatEach s c k start n va m
  | 0, _ => rfl
  | m + 1, _ => by
    unfold Machine.xlatEach
    simp only [f.xlat hs ht, f.xlatEach hs ht c k start n m]
theorem readFrame.xlatN (f : readFrame s t) (hs : s.tlbFresh) (ht : t.tlbFresh) (c : Ctx) (k : AccKind) (va : Word) (n : Nat) :
    xlatN t c k va n = xlatN s c k va n := by
  unfold Machine.xlatN
  simp only [f.xlat hs ht, f.xlatEach hs ht]
theorem readFrame.physCheck (f : readFrame s t) (k : AccKind) (va : Word) (pas : List Nat) (d : Bool) :
    physCheck t k va pas d = physCheck s k va pas d := by
  unfold readFrame at f
  rw [f]
  rfl
theorem tlbFresh_of (f : readFrame s t) (ht : t.tlb = s.tlb) (hw : t.walks = s.walks) (h : s.tlbFresh) : t.tlbFresh := by
  unfold State.tlbFresh
  simp only [ht, hw, walk_same f.mem f.bad]
  exact h
end

/-- A load under way: translations are fresh, nothing but what reads change differs from its start, and what it reads is the same. -/
structure Loading (s t : State) : Prop where
  frame : readFrame s t
  like : SeesLike s t
  tidied : tidied (t.ownUnseen t.hart.id)
  fresh : t.tlbFresh
theorem Loading.start {s : State} (td : Machine.tidied (s.ownUnseen s.hart.id)) (f : s.tlbFresh) : Loading s s :=
  ⟨rfl, ⟨rfl, rfl, rfl, rfl, rfl⟩, td, f⟩
/-- The same at a register written between two reads. -/
theorem Loading.setV {s t : State} (h : Loading s t) (d : Reg) (v : VReg) : Loading s { t with hart := t.hart.setV d v } :=
  ⟨h.frame.trans rfl, ⟨h.like.mem, h.like.tick, h.like.id, h.like.strip, h.like.own⟩, h.tidied,
    tlbFresh_of (s := t) rfl rfl rfl h.fresh⟩

/-- The same after an access that changes neither the hart nor its stores. -/
theorem Loading.step {s t u : State} (h : Loading s t) (f : readFrame t u) (hh : u.hart = t.hart) (un : u.unseen = t.unseen)
    (fresh : u.tlbFresh) : Loading s u := by
  have own : u.ownUnseen u.hart.id = t.ownUnseen t.hart.id := by
    unfold State.ownUnseen
    rw [hh, un]
  exact ⟨h.frame.trans f, h.like.trans ⟨f.mem, f.tick, by rw [hh], by rw [hh], by rw [own]⟩, by rw [own]; exact h.tidied, fresh⟩
theorem Loading.touch {s t : State} (h : Loading s t) (l : List Nat) : Loading s (touchLines t false l) :=
  have f := readFrame_touch t false l
  h.step f (by rw [touchLines_form]) (by rw [touchLines_form]) (tlbFresh_of f (by rw [touchLines_form]) (by rw [touchLines_form]) h.fresh)
theorem Loading.note {s t : State} (h : Loading s t) (c : Ctx) (va : Word) (n : Nat) : Loading s (noteXlat t c va n) :=
  h.step (readFrame_note t c va n) (by rw [noteXlat_form]) (by rw [noteXlat_form]) (noteXlat_fresh h.fresh c va n)
theorem Loading.noteSaw {s t : State} (h : Loading s t) (site n : Nat) (l : List Nat) : Loading s (t.noteSaw site n l) := by
  obtain ⟨like, td⟩ := noteSaw_like h.tidied site n l
  have f := readFrame_noteSaw t site n l
  have i : (t.noteSaw site n l).hart.id = t.hart.id := by rw [noteSaw_form]
  exact ⟨h.frame.trans f, h.like.trans like, by rw [i]; exact td,
    tlbFresh_of f (by rw [noteSaw_form]) (by rw [noteSaw_form]) h.fresh⟩

/-! ## One element -/

section
variable {s t : State} {q : QEntry} {m : Addressing} {i n : Nat} {pas : List Nat} {va : Word}
theorem pieces_whole (h : pas.length = n) (k : 0 < n) : pieces n pas = [pas] := by
  unfold pieces
  rw [h, show (n + n - 1) / n = 1 from Nat.div_eq_of_lt_le (by omega) (by omega)]
  simp [List.take_of_length_le h.le]
/-- A vector read of one element. -/
theorem runM_vectorBytes (h : pas.length = n) (k : 0 < n) (L : Loading s t) : runM (vectorBytes i n pas) t =
    (.ok (s.vectorSees i pas), (touchLines t false pas).noteSaw i n pas) := by
  have b : (touchLines t false pas).seesElts i n pas = s.vectorSees i pas := by
    unfold State.seesElts
    rw [pieces_whole h k]
    simp only [List.zipIdx_cons, List.zipIdx_nil, List.flatMap_cons, List.flatMap_nil, List.append_nil, Nat.add_zero]
    rw [sees_touch]
    exact L.like.sees true i pas
  simp only [vectorBytes, runM_bind, runM_modify, runM_get, runM_pure, b]
/-- What an element of a load holds. -/
def State.loaded (s : State) (i : Nat) (pas : List Nat) : Nat :=
  if s.hart.sew = 4 then getE 4 (leNat (s.vectorSees i pas)) (i % 2) else trimElt s.hart.et (leNat (s.vectorSees i pas))
theorem runM_loadElt (L : Loading s t) (fs : s.tlbFresh) (ctx : t.ctx = s.ctx) (cfg : t.hart.vc = s.hart.vc)
    (at_ : t.hart.eltAddr q m i = va) (al : s.hart.sew = 4 ∨ va.toNat % s.hart.cellBytes = 0)
    (r : s.reaches .read va s.hart.cellBytes pas) :
    ∃ u, runM (loadElt t.hart q m i) t = (.ok (s.loaded i pas), u) ∧ Loading s u ∧ u.hart = t.hart := by
  obtain ⟨hx, hp⟩ := r
  have sew : t.hart.sew = s.hart.sew := by unfold Hart.sew Hart.et; rw [cfg]
  have et : t.hart.et = s.hart.et := by unfold Hart.et; rw [cfg]
  have bytes : t.hart.eltBytes = s.hart.cellBytes := by unfold Hart.eltBytes Hart.cellBytes; rw [sew]
  have pos : 0 < s.hart.cellBytes := Nat.lt_of_lt_of_le Nat.one_pos (Nat.le_max_left ..)
  have okay : (decide (t.hart.sew = 4) || va.toNat % t.hart.eltBytes == 0) = true := by
    rw [sew, bytes]
    simpa using al
  have reach : reachN t s.ctx .read va s.hart.cellBytes false = .ok pas :=
    reachN_ok ((L.frame.xlatN fs L.fresh ..).trans hx) ((L.frame.physCheck ..).trans hp)
  have L1 := L.note s.ctx va s.hart.cellBytes
  refine ⟨_, ?_, (L1.touch pas).noteSaw i s.hart.cellBytes pas, by rw [noteSaw_form, touchLines_form, noteXlat_form]⟩
  unfold loadElt
  rw [runM_bind, runM_get]
  dsimp only
  rw [at_, runM_checkM_bind okay, bytes, ctx, runM_bind, runM_addresses_ok reach]
  dsimp only
  rw [runM_bind, runM_vectorBytes (xlatN_length hx) pos L1]
  dsimp only
  rw [runM_pure, sew, et]
  rfl
end

/-! ## The elements in turn -/

/-- An element's bits in a register do not change with another's. -/
theorem getE_putE_other {w x i j : Nat} (v : VReg) (h : j ≠ i) :
    getE w (BitVec.ofNat 16384 (putE w v.toNat i x)).toNat j = getE w v.toNat j := by
  have same : ∀ k, k < w → (putE w v.toNat i x).testBit (w * j + k) = v.toNat.testBit (w * j + k) := fun k hk => by
    have e := congrArg (fun n => n.testBit k) (getE_putE_ne (w := w) (v := v.toNat) (x := x) h)
    simpa [getE_def, Nat.testBit_mod_two_pow, Nat.testBit_div_two_pow, hk, Nat.add_comm] using e
  refine Nat.eq_of_testBit_eq fun k => ?_
  simp only [getE_def, BitVec.toNat_ofNat, Nat.testBit_mod_two_pow, Nat.testBit_div_two_pow]
  cases hk : decide (k < w) with
  | false => rfl
  | true =>
    rw [Nat.add_comm, same k (by simpa using hk), Nat.add_comm]
    simp only [Bool.true_and, Bool.and_eq_right_iff_imp, decide_eq_true_eq]
    exact BitVec.lt_of_getLsbD
theorem setV_setV (h : Hart) (d : Reg) (v w : VReg) : (h.setV d v).setV d w = h.setV d w := by
  simp [Hart.setV]
theorem runM_atUnit_ok {α : Type} {i : Nat} {m : M α} {s t : State} {a : α} (h : runM m s = (.ok a, t)) :
    runM (atUnit i m) s = (.ok a, t) := by
  unfold atUnit
  rw [runM_tryCatch, h]
/-- What element j of the destination becomes. -/
def Hart.loadedElt (h : Hart) (p : Pred) (val : Nat → Nat) (old j : Nat) : Nat :=
  if h.active p.k j then val j % 2 ^ h.sew else if p.kz then 0 else old

section
variable {s : State} {q : QEntry} {m : Addressing} {d : Reg} {p : Pred} {pas : Nat → List Nat} {ea : Nat → Word}
/-- One element of the loop: the next state, and what the destination holds then. -/
theorem loadGo_step (fs : s.tlbFresh) {n i : Nat} {t : State} {v : VReg} (L : Loading s t) (hv : t.hart = s.hart.setV d v)
    (at_ : (s.hart.setV d v).eltAddr q m i = ea i) (ok : s.hart.active p.k i = true →
      (s.hart.sew = 4 ∨ (ea i).toNat % s.hart.cellBytes = 0) ∧ s.reaches .read (ea i) s.hart.cellBytes (pas i)) :
    ∃ u w, runM (loadGo q m d p (n + 1) i) t = runM (loadGo q m d p n (i + 1)) u ∧ Loading s u ∧ u.hart = s.hart.setV d w ∧
      (∀ j, j ≠ i → getE s.hart.sew w.toNat j = getE s.hart.sew v.toNat j) ∧
      (s.hart.sew * (i + 1) ≤ 16384 → getE s.hart.sew w.toNat i =
        s.hart.loadedElt p (fun j => s.loaded j (pas j)) (getE s.hart.sew v.toNat i) i) := by
  have act : t.hart.active p.k i = s.hart.active p.k i := by rw [hv]; rfl
  have own : t.hart.getV d = v := by rw [hv, Hart.getV_setV, if_pos rfl]
  have put {u : State} (x : Nat) (hu : u.hart = t.hart) :
      ({ u with hart := u.hart.setV d (BitVec.ofNat 16384 (putE u.hart.sew (u.hart.getV d).toNat i x)) } : State).hart =
        s.hart.setV d (BitVec.ofNat 16384 (putE s.hart.sew v.toNat i x)) := by
    show u.hart.setV d _ = _
    rw [hu, own, hv, setV_setV]
    rfl
  rw [loadGo, runM_bind, runM_getHart]
  dsimp only
  rw [act]
  unfold Hart.loadedElt
  cases a : s.hart.active p.k i with
  | true =>
    obtain ⟨al, r⟩ := ok a
    obtain ⟨u, e, Lu, hu⟩ := runM_loadElt (i := i) L fs (by unfold State.ctx State.ctxAt; rw [hv, L.frame]; rfl) (by rw [hv]; rfl)
      ((congrArg (fun h => h.eltAddr q m i) hv).trans at_) al r
    rw [if_pos rfl, runM_bind, runM_atUnit_ok e]
    refine ⟨_, _, rfl, Lu.setV _ _, put _ hu, fun j n => getE_putE_other v n, fun le => ?_⟩
    rw [getE_ofNat le, getE_putE_self, if_pos rfl]
  | false =>
    rw [if_neg Bool.false_ne_true, if_neg Bool.false_ne_true]
    cases z : p.kz with
    | true =>
      rw [if_pos rfl, runM_bind]
      refine ⟨_, _, rfl, L.setV _ _, put _ rfl, fun j n => getE_putE_other v n, fun le => ?_⟩
      rw [getE_ofNat le, getE_putE_self, if_pos rfl, Nat.zero_mod]
    | false => exact ⟨t, v, rfl, L, hv, fun _ _ => rfl, fun _ => rfl⟩
theorem runM_loadGo (fs : s.tlbFresh)
    (at_ : ∀ j v, getE s.hart.sew v.toNat j = getE s.hart.sew (s.hart.getV d).toNat j → (s.hart.setV d v).eltAddr q m j = ea j) :
    ∀ (n i : Nat) (t : State) (v : VReg), Loading s t → t.hart = s.hart.setV d v →
      (∀ j, i ≤ j → getE s.hart.sew v.toNat j = getE s.hart.sew (s.hart.getV d).toNat j) →
      (∀ j, j < i + n → s.hart.active p.k j = true →
        (s.hart.sew = 4 ∨ (ea j).toNat % s.hart.cellBytes = 0) ∧ s.reaches .read (ea j) s.hart.cellBytes (pas j)) →
      ∃ u w, runM (loadGo q m d p n i) t = (.ok (), u) ∧ Loading s u ∧ u.hart = s.hart.setV d w ∧
        ∀ j, s.hart.sew * (j + 1) ≤ 16384 → getE s.hart.sew w.toNat j =
          if i ≤ j ∧ j < i + n then s.hart.loadedElt p (fun j => s.loaded j (pas j)) (getE s.hart.sew v.toNat j) j
          else getE s.hart.sew v.toNat j
  | 0, i, t, v, L, hv, _, _ => ⟨t, v, rfl, L, hv, fun j _ => by rw [if_neg (by omega)]⟩
  | n + 1, i, t, v, L, hv, later, ok => by
    obtain ⟨t', v', e, L', hv', other, self⟩ := loadGo_step (n := n) fs L hv (at_ i v (later i le_rfl)) (ok i (by omega))
    obtain ⟨u, w, run, Lu, hw, elts⟩ := runM_loadGo fs at_ n (i + 1) t' v' L' hv'
      (fun j le => (other j (by omega)).trans (later j (by omega))) fun j lt => ok j (by omega)
    refine ⟨u, w, e.trans run, Lu, hw, fun j le => ?_⟩
    rw [elts j le]
    by_cases h : j = i
    · subst h
      rw [if_neg (by omega), if_pos (by omega), self le]
    · rw [other j h]
      by_cases b : i + 1 ≤ j ∧ j < i + 1 + n
      · rw [if_pos b, if_pos (by omega)]
      · rw [if_neg b, if_neg (by omega)]
end

end Sys2Proof.Machine
end

section
/-! SUPPORT. A vector load with .acq whose mask is no longer expected (11:R305; 16:R485-R488). -/
namespace Sys2Proof.Machine
open Sys2Proof

/-! ## The forms of a load -/

section
variable {s : State} {i : Instr} {d : Reg} {m : Pred}
/-- A load with .acq, at the addresses that its form gives (16:R486). -/
theorem loadForm_vload (h : loadForm i = some (d, true, m)) : plainPost i = true ∧ acqMask i = some m.k ∧ ∃ a : Addressing,
    (∀ q, vop i q = vload i a d true m q) ∧ (s.nibblesOk i → s.hart.eltShape a = true) ∧
    ∀ j (v : VReg), getE s.hart.sew v.toNat j = getE s.hart.sew (s.hart.getV d).toNat j →
      (s.hart.setV d v).eltAddr (entryAt s.hart i s.hart.pc) a j = s.vAddr i j := by
  cases i
  case vld x y disp acq p =>
    cases h
    refine ⟨rfl, rfl, .unit disp, fun _ => rfl, fun n => ?_, fun j v _ => rfl⟩
    unfold State.nibblesOk at n
    unfold Hart.eltShape
    simpa using n.imp id And.left
  case vlds x y z disp acq p =>
    cases h
    refine ⟨rfl, rfl, .strided disp, fun _ => rfl, fun n => ?_, fun j v _ => rfl⟩
    unfold State.nibblesOk at n
    unfold Hart.eltShape
    simpa using n
  case vldx x y z sh acq p =>
    cases h
    refine ⟨rfl, rfl, .indexed z sh, fun _ => rfl, fun n => ?_, fun j v e => ?_⟩
    · unfold State.nibblesOk at n
      unfold Hart.eltShape
      simpa using n
    · have ix : getE s.hart.sew ((s.hart.setV d v).getV z).toNat j = getE s.hart.sew (s.hart.getV z).toNat j := by
        rw [Hart.getV_setV]
        split
        · next q => rw [q, e]
        · rfl
      unfold Hart.eltAddr
      show _ + BitVec.ofNat 64 (getE s.hart.sew ((s.hart.setV d v).getV z).toNat j * _) = _
      rw [ix]
      rfl
  all_goals exact absurd h nofun
end

/-! ## The load -/

theorem own_shareChunks (s : State) (k : BitVec 3) : (s.shareChunks k).ownUnseen s.hart.id = s.ownUnseen s.hart.id := by
  unfold State.shareChunks
  dsimp only
  split
  · generalize List.map _ (List.filter _ _) = got
    unfold State.ownUnseen
    dsimp only
    rw [List.filter_map]
    have same : ∀ u : Unseen, ((fun u : Unseen => u.owner == s.hart.id) ∘ fun u =>
        if (u.owner != s.hart.id && got.contains u.origin) = true then { u with shared := true } else u) u = (u.owner == s.hart.id) := by
      intro u
      dsimp only [Function.comp]
      split <;> rfl
    rw [funext same]
    refine (List.map_congr_left fun u hu => ?_).trans (List.map_id _)
    have o := (List.mem_filter.1 hu).2
    rw [if_neg (by simp [bne, o]), id]
  · rfl
theorem shareChunks_form (s : State) (k : BitVec 3) : s.shareChunks k = { s with unseen := (s.shareChunks k).unseen } := by
  unfold State.shareChunks
  dsimp only
  split <;> rfl
theorem acquired_owner (h : Hart) (k : BitVec 3) (u : Unseen) : (acquired h k u).owner = u.owner := by
  unfold acquired
  split <;> rfl
theorem setV_getV (h : Hart) (d : Reg) : h.setV d (h.getV d) = h := by
  simp [Hart.setV, Hart.getV]

section
variable {s : State} {i : Instr} {d : Reg} {m : Pred} {pas : Nat → List Nat}
/-- The state in which a load with .acq reads its first element: the chunks that it acquires are seen (10:R290). -/
def State.acqStart (s : State) (i : Instr) (k : BitVec 3) : State :=
  let y := ((s.vPosted 2 i).shareChunks k).order s.hart.id (acquired s.hart k)
  { y with hart := y.hart.mark (marks i) }
theorem acqStart_hart (s : State) (i : Instr) (k : BitVec 3) : (s.acqStart i k).hart = (s.vPosted 2 i).hart.mark (marks i) := by
  show ((s.vPosted 2 i).shareChunks k).hart.mark (marks i) = _
  rw [shareChunks_form]
theorem readFrame_acqStart (s : State) (i : Instr) (k : BitVec 3) : readFrame s (s.acqStart i k) := by
  have y : readFrame s ((s.vPosted 2 i).shareChunks k) := by
    unfold readFrame
    rw [shareChunks_form]
    rfl
  exact y.trans rfl
theorem own_acqStart (s : State) (i : Instr) (k : BitVec 3) :
    (s.acqStart i k).ownUnseen s.hart.id = tidy ((s.ownUnseen s.hart.id).map (acquired s.hart k)) := by
  refine (own_order (s := (s.vPosted 2 i).shareChunks k) (acquired_owner s.hart k)).trans ?_
  exact congrArg (fun l => tidy (l.map (acquired s.hart k))) (own_shareChunks (s.vPosted 2 i) k)
theorem acqStart_id (s : State) (i : Instr) (k : BitVec 3) : (s.acqStart i k).hart.id = s.hart.id := by rw [acqStart_hart]; rfl
theorem acqStart_loading (f : s.tlbFresh) (k : BitVec 3) : Loading (s.acqStart i k) (s.acqStart i k) := by
  refine .start ?_ (tlbFresh_of (readFrame_acqStart s i k) ?_ ?_ f)
  · rw [acqStart_id, own_acqStart]
    exact tidy_tidied _
  · show ((s.vPosted 2 i).shareChunks k).tlb = _
    rw [shareChunks_form]
    rfl
  · show ((s.vPosted 2 i).shareChunks k).walks = _
    rw [shareChunks_form]
    rfl
/-- What the load reads is what the vector side sees with those chunks seen. -/
theorem acqStart_sees (s : State) (i : Instr) (k : BitVec 3) (j : Nat) (l : List Nat) :
    (s.acqStart i k).vectorSees j l = (s.order s.hart.id (acquired s.hart k)).vectorSees j l := by
  refine SeesLike.sees (s := s.order s.hart.id (acquired s.hart k)) ⟨(readFrame_acqStart s i k).mem, (readFrame_acqStart s i k).tick,
    acqStart_id s i k, by rw [acqStart_hart]; rfl, ?_⟩ true j l
  rw [acqStart_id, own_acqStart]
  exact congrArg (List.map Unseen.unread) (own_order (acquired_owner s.hart k)).symm
theorem runM_vload (idle : s.vIdle) (form : loadForm i = some (d, true, m)) (ready : s.hart.expectedBelow m.k = 0) (nib : s.nibblesOk i)
    (fresh : s.tlbFresh) (ok : ∀ j, j < s.hart.vlN → s.hart.active m.k j = true → s.eltOk i .read j (pas j)) :
    ∃ u w, runM (vop i (entryAt s.hart i s.hart.pc)) (s.vPosted 2 i) = (.ok (), u) ∧ readFrame s u ∧
      u.hart = ((s.vPosted 2 i).hart.mark (marks i)).setV d w ∧
      ∀ j, s.hart.sew * (j + 1) ≤ 16384 → getE s.hart.sew w.toNat j =
        if j < s.hart.vlN then s.hart.loadedElt m (fun j => (s.acqStart i m.k).loaded j (pas j)) (getE s.hart.sew (s.hart.getV d).toNat j) j
        else getE s.hart.sew (s.hart.getV d).toNat j := by
  obtain ⟨-, -, a, hop, shape, addr⟩ := loadForm_vload (s := s) form
  obtain ⟨-, -, -, rest, -, -⟩ := idle
  have y := acqStart_hart s i m.k
  have L := acqStart_loading (i := i) fresh m.k
  have F := readFrame_acqStart s i m.k
  obtain ⟨u, w, run, Lu, hw, elts⟩ := runM_loadGo (s := s.acqStart i m.k) (q := entryAt s.hart i s.hart.pc) (m := a) (d := d) (p := m)
    (pas := pas) (ea := s.vAddr i) L.fresh (by rw [y]; exact addr) s.hart.vlN 0 (s.acqStart i m.k) ((s.acqStart i m.k).hart.getV d) L
    (setV_getV _ _).symm (fun _ _ => rfl) (fun j lt act => by
      obtain ⟨al, hx, hp⟩ := ok j (by omega) (by rw [y] at act; exact act)
      have ctx : (s.acqStart i m.k).ctx = s.ctx := by unfold State.ctx State.ctxAt; rw [y, F]; rfl
      rw [y]
      exact ⟨al, by rw [ctx]; exact (F.xlatN fresh L.fresh ..).trans hx, (F.physCheck ..).trans hp⟩)
  refine ⟨u, w, ?_, F.trans Lu.frame, by rw [hw, y], fun j le => ?_⟩
  · have sh : (s.vPosted 2 i).hart.eltShape a = true := shape nib
    have rd : (s.vPosted 2 i).hart.expectedBelow m.k = 0 := ready
    have ve : (s.vPosted 2 i).hart.ves.toNat = 0 := rfl
    have ue : (s.vPosted 2 i).hart.unitEnd ((s.vPosted 2 i).hart.memGrain a) (s.vPosted 2 i).hart.vlN = s.hart.vlN := by
      unfold Hart.unitEnd
      rw [show (s.vPosted 2 i).hart.rest = none from rest]
      rfl
    have go : runM (loadGo (entryAt s.hart i s.hart.pc) a d m s.hart.vlN 0)
        { ((s.vPosted 2 i).shareChunks m.k).order (s.vPosted 2 i).hart.id (acquired (s.vPosted 2 i).hart m.k) with
          hart := (((s.vPosted 2 i).shareChunks m.k).order (s.vPosted 2 i).hart.id
            (acquired (s.vPosted 2 i).hart m.k)).hart.mark (marks i) } = (.ok (), u) := run
    rw [hop]
    simp only [vload, needVcp, restAt, runM_bind, runM_getHart, sh, rd, ve, ue, Bool.not_true, Bool.false_eq_true, if_false, runM_pure,
      bne_self_eq_false, Bool.and_false, beq_self_eq_true, Bool.and_self, if_true, runM_modify, runM_modHart, Nat.sub_zero]
    rw [go]
    dsimp only
    rw [if_neg (show ¬ s.hart.vlN < (s.vPosted 2 i).hart.vlN from lt_irrefl _), runM_pure]
  · rw [y] at elts
    have e := elts j le
    simp only [Nat.zero_le, true_and, Nat.zero_add] at e
    exact e

/-- ACQ_LOAD_WAIT_END: the load at VCP goes through. -/
theorem acqLoadWaitEnd_next (up : s.up = true) (idle : s.vIdle) (live : s.hart.live' = true) (form : loadForm i = some (d, true, m))
    (ready : s.hart.expectedBelow m.k = 0) (nib : s.nibblesOk i) (fresh : s.tlbFresh)
    (ok : ∀ j, j < s.hart.vlN → s.hart.active m.k j = true → s.eltOk i .read j (pas j)) :
    ∃ t w, exec .acqLoadWaitEnd (s.vPosted 2 i) = .next t ∧ readFrame s t ∧
      t.hart = ((s.vDone 2).hart.setV d w).mark (marks i) ∧
      ∀ j, s.hart.sew * (j + 1) ≤ 16384 → getE s.hart.sew w.toNat j =
        if j < s.hart.vlN then s.hart.loadedElt m (fun j => (s.acqStart i m.k).loaded j (pas j)) (getE s.hart.sew (s.hart.getV d).toNat j) j
        else getE s.hart.sew (s.hart.getV d).toNat j := by
  obtain ⟨plain, mask, -⟩ := loadForm_vload (s := s) form
  obtain ⟨u, w, run, F, hu, elts⟩ := runM_vload idle form ready nib fresh ok
  obtain ⟨-, empty, bound, rest, bad, pace⟩ := idle
  have at_ : (s.vPosted 2 i).hart.atVcp = some (entryAt s.hart i s.hart.pc) := by
    show (match bodyOf (entryAt s.hart i s.hart.pc) [] with | some _ => _ | none => _) = _
    rw [bodyOf_plain (entryAt_op ..) plain]
  have cond : ((s.vPosted 2 i).up && (s.vPosted 2 i).hart.live' && (s.vPosted 2 i).hart.expectedBelow m.k = 0) = true := by
    rw [show (s.vPosted 2 i).up = true from up, show (s.vPosted 2 i).hart.live' = true from live,
      show (s.vPosted 2 i).hart.expectedBelow m.k = 0 from ready]
    rfl
  have drained := runM_drainAll_ok (s := s.vPosted 2 i) (t := u) (q := entryAt s.hart i s.hart.pc) rfl rfl plain rfl rest pace bound bad run
    (by rw [hu]; rfl) (by rw [hu]; exact rest) (by rw [hu]; exact bad)
  refine ⟨{ u with hart := u.hart.retireOne (entryAt s.hart i s.hart.pc).addr }, w, ?_, F.trans rfl, ?_, elts⟩
  · show execAcqLoadWaitEnd (s.vPosted 2 i) = _
    unfold execAcqLoadWaitEnd
    rw [at_]
    dsimp only
    rw [entryAt_op]
    dsimp only
    rw [mask]
    dsimp only
    rw [if_pos cond, drainStep, drained, finish_ok]
  · show u.hart.retireOne _ = _
    rw [hu, Hart.retireOne, ← empty]
    rfl
end

end Sys2Proof.Machine
end

section
/-! SUPPORT. The events that end waits, each with its outcome (02:R58-R61; 12:R331, R351, R352). -/
namespace Sys2Proof.Machine
open Sys2Proof

/-! ## A plan that cannot be read -/

/-- The level at which a hart takes a cause (12:R330). -/
def Hart.levelOf (o : Hart) (c : Cause) : Level := if o.lv = .m ∨ o.mkeep.getLsbD (c.code - 1) = true then .m else .k
/-- The hart y is the hart o at the handler of a trap that it took at its pc. -/
def Hart.tookAt (o y : Hart) (c : Cause) (v : Word) : Prop :=
  let b := if o.levelOf c = .m then y.mb else y.kb
  b.trapc = BitVec.ofNat 8 c.code ∧ b.trapv = v ∧ b.trappc = o.pc.setWidth 56 ∧ b.plv = o.lv ∧ b.pie = o.ie ∧ y.lv = o.levelOf c ∧
    y.ie = false ∧ y.waitOn = none ∧ y.stepDone = false
theorem enterTrap_tookAt {z : State} {c : Cause} {v : Word} (h : z.hart.cls ≠ .v) :
    z.hart.tookAt (enterTrap z c v z.hart.pc).hart c v := by
  obtain ⟨e, -, -⟩ := enterTrap_took (c := c) (v := v) (pc := z.hart.pc) h
  unfold Hart.tookAt Hart.levelOf
  rw [e]
  generalize (if z.hart.lv = .m ∨ z.hart.mkeep.getLsbD (c.code - 1) = true then Level.m else .k) = l
  cases l <;> exact ⟨rfl, rfl, rfl, rfl, rfl, rfl, rfl, rfl, rfl⟩
theorem planFails_faults {u : State} {k : BitVec 32} {c : Cause} {v : Word} (nd : (u.harts.map (·.id)).Nodup) {o : Hart} (ho : o ∈ u.harts)
    (hg : o.id.gang = k) (he : o.ended = false) (ht : o.cls = .t) : ∃ y, y ∈ (planFails u k (c, v)).harts ∧ y.id = o.id ∧
      (o.waitOn = some .tsync ∧ o.stepDone = true → o.tookAt y c v) ∧
      (¬ (o.waitOn = some .tsync ∧ o.stepDone = true) → y = { o with planFault := some (c, v) }) := by
  obtain ⟨waits, later⟩ := planFails_harts (p := (c, v)) nd ho hg he
  rw [inTsync_iff] at waits
  by_cases w : o.waitOn = some .tsync ∧ o.stepDone = true
  · obtain ⟨z, rfl, hz⟩ := waits w
    refine ⟨_, hz, (enterTrap_alone c v fun s => s.hart.pc).same z, fun _ => enterTrap_tookAt ?_, fun n => absurd w n⟩
    rw [ht]
    decide
  · refine ⟨_, later ?_, rfl, fun n => absurd n w, fun _ => rfl⟩
    rw [← inTsync_iff, Bool.not_eq_true] at w
    exact w

/-! ## Counts that run out -/

section
variable {s : State} {c : Cause} {v : Word}
theorem scalarTimeout_waitsig {a b : Reg} {c : Cond} (w : s.hart.waitOn = some (.waitsig a b c)) :
    scalarTimeout s = some (.waittimeout, s.getX a) := by
  unfold scalarTimeout
  dsimp only
  rw [w]
  rfl
theorem scalarTimeout_semts {m : BitVec 8} (w : s.hart.waitOn = some (.semts m)) :
    scalarTimeout s = some (.waittimeout, m.setWidth 64) := by
  unfold scalarTimeout
  dsimp only
  rw [w]
theorem waitTimeout_scalar_traps (up : s.up = true) (m : s.hart.waitmax ≠ 0) (l : s.hart.live' = true) (n : s.hart.namoPend = [])
    (hs : scalarTimeout s = some (.waittimeout, v)) (hv : vectorTimeout s.hart = none) :
    let u := s.lapse (1000 * s.hart.waitmax.toNat - s.hart.waitS.ns)
    ({ u with hart := { u.hart with waitS := { u.hart.waitS with ns := 0 } } } : State).traps (exec .waitTimeout s) .waittimeout v
      s.hart.pc := by
  rw [waitTimeout_scalar up m l n hs hv]
  exact enterTrap_traps _ _ _ _
theorem waitTimeout_scalar_fails (up : s.up = true) (m : s.hart.waitmax ≠ 0) (l : s.hart.live' = true) (n : s.hart.namoPend = [])
    (hs : scalarTimeout s = some (c, v)) (hv : vectorTimeout s.hart = none) (k : c ≠ .waittimeout) :
    let u := s.lapse (1000 * s.hart.waitmax.toNat - s.hart.waitS.ns)
    exec .waitTimeout s =
      .next (planFails { u with hart := { u.hart with waitS := { u.hart.waitS with ns := 0 } } } s.hart.id.gang (c, v)) := by
  rw [waitTimeout_scalar up m l n hs hv]
  exact congrArg _ (if_neg k)
theorem waitTimeout_vector_traps (up : s.up = true) (m : s.hart.waitmax ≠ 0) (l : s.hart.live' = true) (n : s.hart.namoPend = [])
    (hs : scalarTimeout s = none) (hv : vectorTimeout s.hart = some v) :
    let u := s.lapse (1000 * s.hart.waitmax.toNat - s.hart.waitV.ns)
    ({ u with hart := { u.hart with waitV := { u.hart.waitV with ns := 0 }, ves := if s.hart.waitsAcq then 0 else s.hart.ves } } : State).traps
      (exec .waitTimeout s) .waittimeout v s.hart.pc := by
  rw [waitTimeout_vector up m l n hs hv]
  exact enterTrap_traps _ _ _ _
end

/-! ## Steps of a T gang, form by form -/

section
variable {s : State} {id : BitVec 32} {g : Gang}
/-- A hart as the exchange step begins. -/
def Hart.exchanging (o : Hart) : Hart := { o.synced with incoming := 0, planFault := none }
theorem exchangeStepBegin_form (up : s.up = true) (e : s.gang id = some g) (t : g.cls = .t) (k : g.stepKind = .toExchange) :
    exec (.exchangeStepBegin id) s = .next
      { s with gangs := s.gangs.map fun x => if x.id = id then { x with stepKind := .exchange } else x,
               hart := if s.hart.id.gang = id then s.hart.exchanging else s.hart,
               others := s.others.map fun o => if o.id.gang = id then o.exchanging else o, unseen := (s.passSync id).unseen } := by
  have each (o : Hart) : (if ((if o.id.gang = id then o.synced else o).id.gang == id) = true then
      { (if o.id.gang = id then o.synced else o) with incoming := 0, planFault := none } else if o.id.gang = id then o.synced else o) =
      if o.id.gang = id then o.exchanging else o := by
    by_cases q : o.id.gang = id
    · have k : (o.synced.id.gang == id) = true := by simpa [synced_id] using q
      rw [if_pos q, if_pos q, if_pos k]
      rfl
    · simp only [q, if_false, beq_iff_eq]
  rw [exchangeStepBegin_next up e t k, modGang_map, passSync_form]
  generalize (s.passSync id).unseen = un
  unfold State.modHarts
  simp only [List.map_map, Function.comp_def, each]
theorem computeStepBegin_form (up : s.up = true) (e : s.gang id = some g) (t : g.cls = .t) (k : g.stepKind = .toCompute) :
    exec (.computeStepBegin id) s = .next
      { s with gangs := s.gangs.map fun x => if x.id = id then { x with stepKind := .compute, stepNo := x.stepNo + 1 } else x,
               hart := if s.hart.id.gang = id then s.hart.synced else s.hart,
               others := s.others.map fun o => if o.id.gang = id then o.synced else o, unseen := (s.passSync id).unseen } := by
  rw [computeStepBegin_next up e t k, modGang_map, passSync_form]
theorem mem_passSync {u : Unseen} (h : u ∈ (s.passSync id).unseen) :
    (∃ w, w ∈ s.unseen ∧ u = { w with toS := u.toS, toV := u.toV } ∧ (w.toS = true → u.toS = true) ∧ (w.toV = true → u.toV = true)) ∧
      (u.owner.gang = id → u.shared = true → u.toS = true) :=
  mem_acquireGang (s := s.modHarts (fun h => h.id.gang == id && h.stepDone) Hart.passWait) h
/-- EXCHANGE_STEP_COMPLETE: the gang's step and the event that follows; the words sent have performed. -/
theorem exchangeStepComplete_form {l : List Nat} (up : s.up = true) (e : s.gang id = some g) (t : g.cls = .t)
    (d : exchangeDue s g = true) (c : planCounts s g = .ok l) : ∃ t, exec (.exchangeStepComplete id) s = .next t ∧
      t = { s with gangs := s.gangs.map fun x => if x.id = id then { x with stepKind := .toCompute } else x,
                   agenda := s.agenda ++ [.computeStepBegin id], unseen := t.unseen, hostLines := t.hostLines, hostCopies := t.hostCopies,
                   poolLines := t.poolLines, out := t.out } ∧
      ∀ u, u ∈ t.unseen → (∃ w, w ∈ s.unseen ∧ u = { w with toS := u.toS, toV := u.toV }) ∧
        (u.origin = .exchange → u.owner.gang = id → u.toS = true ∧ u.toV = true) := by
  have tr := tracksOnly_seePlan s g 0 g.harts
  refine ⟨_, exchangeStepComplete_ok up e t d c, ?_, fun u hu => ?_⟩
  · rw [modGang_map]
    unfold State.seeSent State.later
    rw [orderAll_form]
    generalize (State.orderAll _ _).unseen = un
    unfold tracksOnly at tr
    rw [tr]
  · have h := mem_seeSent (s := s.seePlan g 0 g.harts) (g := id) hu
    rw [tr.unseen] at h
    exact h
end

/-! ## Waits that end well, and a deadlock -/

section
variable {s : State}
theorem waitsigSatisfied_outcome {a b : Reg} {c : Cond} {pas : List Nat} (up : s.up = true) (w : s.hart.waitOn = some (.waitsig a b c))
    (l : s.hart.live' = true) (al : (s.getX a).toNat % 4 = 0) (r : s.reaches .read (s.getX a) 4 pas)
    (h : condHolds32 c (BitVec.ofNat 32 (leNat (s.scalarSees pas))) ((s.getX b).setWidth 32) = true) :
    ∃ t, exec .waitsigSatisfied s = .next t ∧ s.accessOnly t ∧ s.sameMem t ∧
      t.hart = { s.hart with waitOn := none, waitS := s.hart.waitS.over s.hart.pc, pc := s.hart.pc + 4 } := by
  have f : readFrame s ((touchLines (noteXlat s s.ctx (s.getX a) 4) false pas).acquire s.hart.id) := by
    refine ((readFrame_note s s.ctx (s.getX a) 4).trans (readFrame_touch _ false pas)).trans ?_
    unfold readFrame
    rw [acquire_form]
  have own : ((touchLines (noteXlat s s.ctx (s.getX a) 4) false pas).acquire s.hart.id).hart = s.hart := by
    rw [acquire_form, touchLines_form, noteXlat_form]
  have e := waitsigSatisfied_next up w l al r h
  generalize State.acquire _ _ = u at f own e
  refine ⟨_, e, (f.trans (readFrame_hart u _)).accessOnly, fun p => congrArg (fun m => memRead m p) f.mem, ?_⟩
  show { u.hart.endWait with pc := u.hart.pc + 4 } = _
  rw [own]
  rfl
theorem acqLoadWaitEnd_outcome {i : Instr} {d : Reg} {m : Pred} {pas : Nat → List Nat} (up : s.up = true) (idle : s.vIdle)
    (live : s.hart.live' = true) (form : loadForm i = some (d, true, m)) (ready : s.hart.expectedBelow m.k = 0) (nib : s.nibblesOk i)
    (fresh : s.tlbFresh) (ok : ∀ j, j < s.hart.vlN → s.hart.active m.k j = true → s.eltOk i .read j (pas j)) :
    let now := s.order s.hart.id (acquired s.hart m.k)
    let val (j : Nat) := if s.hart.sew = 4 then getE 4 (leNat (now.vectorSees j (pas j))) (j % 2)
      else trimElt s.hart.et (leNat (now.vectorSees j (pas j)))
    ∃ t v, exec .acqLoadWaitEnd (s.vPosted 2 i) = .next t ∧ s.accessOnly t ∧ s.sameMem t ∧
      t.hart = ((s.vDone 2).hart.setV d v).mark (marks i) ∧ s.hart.eltsAre s.hart.vlN s.hart.sew m val (s.hart.getV d) v := by
  intro now val
  obtain ⟨t, w, e, f, ht, elts⟩ := acqLoadWaitEnd_next up idle live form ready nib fresh ok
  have loaded (j : Nat) : (s.acqStart i m.k).loaded j (pas j) = val j := by
    unfold State.loaded
    rw [acqStart_sees, acqStart_hart]
    rfl
  refine ⟨t, w, e, f.accessOnly, fun p => congrArg (fun m => memRead m p) f.mem, ht, fun j le => ?_⟩
  rw [elts j le]
  unfold Hart.loadedElt
  simp only [loaded]
theorem deadlockDetect_next {n : Nat} (up : s.up = true) (d : deadlocked s n = true) : ∃ t, exec (.deadlockDetect n) s = .next t :=
  ⟨_, given_next _ _ (by rw [up, d]; rfl)⟩
theorem deadlockDetect_outcome {n : Nat} {m : BitVec 8} (up : s.up = true) (d : deadlocked s n = true) (one : sharers s n = [s.hart])
    (cls : s.hart.cls = .c) (w : s.hart.waitOn = some (.semts m)) (ok : s.memOk) (good : s.bad = []) :
    let count := Config.scb + 0x21000
    let c := leNat (memReadN s.mem count 4)
    let entry := s.hart.id.gang.toNat + n * 2 ^ 32 + 2 ^ 48 + s.time.toNat * 2 ^ 64
    ∃ t u, exec (.deadlockDetect n) s = .next t ∧
      s.tookTrap u (if s.hart.lv = .m ∨ s.hart.mkeep.getLsbD 14 = true then Level.m else .k) .deadlock (m.setWidth 64) s.hart.pc ∧
      t.hart = u.hart.rung ∧ t.others = s.others.map Hart.rung ∧
      s.memAfter t ((run (Config.scb + 0x20000 + 16 * (c % 256)) 16).zip (leBytes 16 entry) ++
        (run count 4).zip (leBytes 4 ((c + 1) % 2 ^ 32))) := by
  intro count c entry
  have took := enterTrap_took (s := s) (c := .deadlock) (v := m.setWidth 64) (pc := s.hart.pc) (by rw [cls]; decide)
  have e := deadlockDetect_alone up d one w
  generalize enterTrap s .deadlock (m.setWidth 64) s.hart.pc = u at took e
  have form := took.2.1
  have um : u.mem = s.mem := by rw [form]
  have ut : u.time = s.time := by rw [form]
  have uo : u.others = s.others := by rw [form]
  obtain ⟨x, wrote, rep⟩ := reportDeadlock_wrote (s := u) (n := n) (k := 1) (g := s.hart.id.gang) (by unfold State.memOk; rw [um]; exact ok)
    (by rw [form]; exact good)
  rw [um, ut, Nat.one_mul] at wrote
  rw [rep] at e
  refine ⟨_, u, e, took, rfl, congrArg (List.map Hart.rung) uo, fun a ha => ?_, wrote.mem.2⟩
  exact (wrote.mem.1 a ha).trans (by rw [um])
end

end Sys2Proof.Machine
end

section
/-! The statement of the waits and of asynchronous traps (02:R58-R61; 11:R305; 12:R331, R351, R352). -/
namespace Sys2Proof.Machine
open Sys2Proof

/-- Settles O48: each event by its outcome, a load with .acq element by element, and the asynchronous trap by the first cause that may
be taken. -/
theorem waitEvents : Obligations.WaitEvents := by
  unfold Obligations.WaitEvents
  refine ⟨fun s n id g up => ?_, fun s c v => ?_⟩
  · intro h gang pass here ran level trapped noPlan granted
    have plan (u : State) (k : BitVec 32) (c : Cause) (v : Word) : noPlan u (planFails u k (c, v)) k c v :=
      fun nd o ho hg he ht => planFails_faults nd ho hg he ht
    have grant : granted (s.passSync id).unseen := fun u hu => mem_passSync hu
    refine ⟨fun c v now => ⟨fun w => ?_, fun w => ?_⟩, fun late => ?_, fun f hf => ?_, fun m live np => ⟨fun c v hs hv => ⟨?_, ?_⟩, ?_, ?_, ?_⟩,
      fun a b c pas w live al r ok => ?_, fun i d m pas idle live form ready nib fresh ok => ?_, fun hg ht => ⟨?_, ?_, ?_, ?_⟩, fun d => ?_⟩
    · rw [← asyncPc_past w]
      exact asyncTrapTake_traps now
    · rw [← asyncPc_here w]
      exact asyncTrapTake_traps now
    · refine ⟨s.until s.hart.timecmp.toNat, given_next _ _ (by rw [up, late]; rfl), until_time late, ?_, rfl⟩
      exact lapse_counts h _
    · refine (given_next _ _ (by rw [up, show s.hart.tmma = some f from hf]; rfl)).trans ?_
      exact congrArg (fun k => Host.Outcome.next { s with hart := k }) (finishTmma_some hf)
    · rintro rfl
      exact waitTimeout_scalar_traps up m live np hs hv
    · exact fun k => ⟨_, waitTimeout_scalar_fails up m live np hs hv k, plan _ _ c v⟩
    · exact fun v hs hv => waitTimeout_vector_traps up m live np hs hv
    · exact fun a b c w => scalarTimeout_waitsig w
    · exact fun k w => scalarTimeout_semts w
    · exact waitsigSatisfied_outcome up w live al r ok
    · exact acqLoadWaitEnd_outcome up idle live form ready nib fresh ok
    · exact fun k => ⟨_, grant, exchangeStepBegin_form up hg ht k⟩
    · exact fun l due ok => exchangeStepComplete_form up hg ht due ok
    · exact fun c v due er => ⟨_, exchangeStepComplete_error up hg ht due er, plan s id c v⟩
    · exact fun k => ⟨_, grant, computeStepBegin_form up hg ht k⟩
    · obtain ⟨t, e⟩ := deadlockDetect_next up d
      refine ⟨t, e, fun k one cls w ok good => ?_⟩
      obtain ⟨t', u, e', took, own, others, mem⟩ := deadlockDetect_outcome up d one cls w ok good
      obtain rfl : t = t' := Host.Outcome.next.inj (e.symm.trans e')
      exact ⟨u, took, own, others, mem⟩
  · intro h level may boundary pends before
    have hp (k : Cause) (w : Word) : pends k w ↔ s.pendingWord k = some w := by
      cases k
      case timer => exact (pendingWord_timer s w).symm
      case preempt => exact (pendingWord_preempt s w).symm
      case extint => exact (pendingWord_extint s w).symm
      case mcheck => exact Iff.rfl
      all_goals exact ⟨False.elim, nofun⟩
    have hb (k : Cause) : before k = k.ahead := by cases k <;> rfl
    have hm (k : Cause) : s.hart.mayTake k = false ↔ ¬ may k := by
      rw [← Bool.not_eq_true]
      exact not_congr (mayTake_iff s.hart k)
    rw [asyncNow_eq, takeable_iff, hp, hb]
    simp only [hp, hm]
    exact and_congr Iff.rfl (and_congr Iff.rfl (and_congr (mayTake_iff s.hart c) Iff.rfl))

end Sys2Proof.Machine
end

section
/-! SUPPORT. What the scheduler chooses among gangs and heads (02:R45, R47; 03:R72, R79, R80; 12:R341). -/
namespace Sys2Proof.Machine
open Sys2Proof

/-! ## Insertion by a strict order -/

section
variable {α : Type} {lt : α → α → Bool}
theorem insertBy_perm (lt : α → α → Bool) (a : α) : ∀ l : List α, (insertBy lt a l).Perm (a :: l)
  | [] => .refl _
  | b :: t => by
    unfold insertBy
    split
    · exact .refl _
    · exact ((insertBy_perm lt a t).cons b).trans (.swap a b t)
theorem sortBy_perm (lt : α → α → Bool) : ∀ l : List α, (sortBy lt l).Perm l
  | [] => .refl _
  | a :: l => (insertBy_perm lt a (sortBy lt l)).trans ((sortBy_perm lt l).cons a)
theorem insertBy_sorted (irr : ∀ a, lt a a = false) (tr : ∀ a b c, lt a b = true → lt b c = true → lt a c = true) (a : α) :
    ∀ {l : List α}, l.Pairwise (fun x y => lt y x = false) → (insertBy lt a l).Pairwise (fun x y => lt y x = false)
  | [], _ => List.pairwise_singleton _ _
  | b :: t, h => by
    obtain ⟨first, rest⟩ := List.pairwise_cons.1 h
    unfold insertBy
    split
    · next k =>
      refine List.pairwise_cons.2 ⟨fun y hy => ?_, h⟩
      have back : lt b a = false := by
        by_contra q
        have := tr a b a k (by simpa using q)
        rw [irr] at this
        cases this
      obtain rfl | hy := List.mem_cons.1 hy
      · exact back
      · by_contra q
        have := tr y a b (by simpa using q) k
        rw [first y hy] at this
        cases this
    · next k =>
      refine List.pairwise_cons.2 ⟨fun y hy => ?_, insertBy_sorted irr tr a rest⟩
      obtain rfl | hy := List.mem_cons.1 ((insertBy_perm lt a t).mem_iff.1 hy)
      · simpa using k
      · exact first y hy
theorem sortBy_sorted (irr : ∀ a, lt a a = false) (tr : ∀ a b c, lt a b = true → lt b c = true → lt a c = true) :
    ∀ l : List α, (sortBy lt l).Pairwise fun x y => lt y x = false
  | [] => .nil
  | a :: l => insertBy_sorted irr tr a (sortBy_sorted irr tr l)
end

/-! ## Harts of a gang -/

section
variable {s : State} {g : Gang}
theorem mem_gangHarts {id : BitVec 32} {o : Hart} : o ∈ s.gangHarts id ↔ o ∈ s.harts ∧ o.id.gang = id := by
  simp [State.gangHarts, List.mem_filter]
theorem isResident_iff (r : GangRun) : r.isResident = true ↔ r = .resident := by cases r <;> simp [GangRun.isResident]
theorem isSaved_iff (r : GangRun) : r.isSaved = false ↔ ∀ d, r ≠ .saved d := by cases r <;> simp [GangRun.isSaved]
theorem hasHalted_iff : s.hasHalted g = false ↔ ∀ o, o ∈ s.harts → o.id.gang = g.id → o.halted = false := by
  simp [State.hasHalted, mem_gangHarts]
/-- When a gang can be saved (12:R341). -/
theorem canSave_iff (s : State) (g : Gang) : canSave s g = true ↔ (∃ d, g.run = .preempting d) ∧
    (∃ o, (o ∈ s.harts ∧ o.id.gang = g.id) ∧ o.ended = false) ∧
    ∀ o, o ∈ s.harts ∧ o.id.gang = g.id →
      (o.ended = true ∨ o.yielded = true) ∧ o.dead = false ∧ o.flying = none ∧ ∀ c, c ∈ o.copies → c.err ≠ none := by
  have run : (match g.run with | .preempting _ => true | _ => false) = true ↔ ∃ d, g.run = .preempting d := by
    cases g.run <;> simp
  unfold canSave
  simp only [Bool.and_eq_true, List.all_eq_true, List.any_eq_true, mem_gangHarts, Option.isSome_iff_ne_none, Bool.or_eq_true,
    Bool.not_eq_true', Option.isNone_iff_eq_none]
  constructor
  · rintro ⟨⟨⟨r, e⟩, l⟩, q⟩
    exact ⟨run.1 r, l, fun o ho => ⟨e o ho, (q o ho).1.1, (q o ho).1.2, (q o ho).2⟩⟩
  · rintro ⟨r, l, q⟩
    exact ⟨⟨⟨run.2 r, fun o ho => (q o ho).1⟩, l⟩, fun o ho => ⟨⟨(q o ho).2.1, (q o ho).2.2.1⟩, (q o ho).2.2.2⟩⟩
/-- When a gang can be retired (02:R45). -/
theorem canRetire_iff (s : State) (g : Gang) : canRetire s g = true ↔ g.id ≠ 0 ∧ (∀ d, g.run ≠ .saved d) ∧
    ∀ o, o ∈ s.harts ∧ o.id.gang = g.id → o.ended = true ∧ o.dead = false ∧ o.flying = none ∧ ∀ c, c ∈ o.copies → c.err ≠ none := by
  unfold canRetire
  simp only [Bool.and_eq_true, bne_iff_ne, Bool.not_eq_true', isSaved_iff, List.all_eq_true, mem_gangHarts, Option.isSome_iff_ne_none,
    Option.isNone_iff_eq_none]
  constructor
  · rintro ⟨⟨⟨i, r⟩, e⟩, c⟩
    exact ⟨i, r, fun o ho => ⟨(e o ho).1.1, (e o ho).1.2, (e o ho).2, c o ho⟩⟩
  · rintro ⟨i, r, q⟩
    exact ⟨⟨⟨i, r⟩, fun o ho => ⟨⟨(q o ho).1, (q o ho).2.1⟩, (q o ho).2.2.1⟩⟩, fun o ho => (q o ho).2.2.2⟩

/-! ## Descheduling (03:R80) -/

/-- A hart waits in WAITSIG at a word that its gang's address space gives, with its condition met or not. -/
def State.waitsFor (s : State) (g : Gang) (o : Hart) (met : Bool) : Prop := ∃ a b c pa rest, o.waitOn = some (.waitsig a b c) ∧
  xlatN s (devCtx g.asid) .read (o.getX a) 4 = .ok (pa :: rest) ∧
  condHolds32 c (BitVec.ofNat 32 (s.peek pa 4)) ((o.getX b).setWidth 32) = met
theorem waitWord_iff {o : Hart} {pa : Nat} : waitWord s g o = some pa ↔
    ∃ a b c rest, o.waitOn = some (.waitsig a b c) ∧ xlatN s (devCtx g.asid) .read (o.getX a) 4 = .ok (pa :: rest) := by
  unfold waitWord
  split
  · next a b c e =>
    split
    · next pa' rest x =>
      simp only [Option.some.injEq, e, Instr.waitsig.injEq]
      constructor
      · rintro rfl
        exact ⟨a, b, c, rest, ⟨rfl, rfl, rfl⟩, x⟩
      · rintro ⟨a', b', c', rest', ⟨rfl, rfl, rfl⟩, y⟩
        cases x.symm.trans y
        rfl
    · next x =>
      simp only [reduceCtorEq, e, Option.some.injEq, Instr.waitsig.injEq, false_iff]
      rintro ⟨a', b', c', rest', ⟨rfl, rfl, rfl⟩, y⟩
      exact x _ _ y
  · next e =>
    simp only [reduceCtorEq, false_iff]
    rintro ⟨a, b, c, rest, w, -⟩
    exact e a b c w
theorem waitsSignal_at {o : Hart} {a b : Reg} {c : Cond} {pa : Nat} (w : o.waitOn = some (.waitsig a b c))
    (p : waitWord s g o = some pa) :
    waitsSignal s g o = !condHolds32 c (BitVec.ofNat 32 (s.peek pa 4)) ((o.getX b).setWidth 32) := by
  unfold waitsSignal
  rw [w, p]
  rfl
theorem waitsSignal_iff {o : Hart} : waitsSignal s g o = true ↔ s.waitsFor g o false := by
  constructor
  · intro h
    cases p : waitWord s g o with
    | none =>
      unfold waitsSignal at h
      rw [p] at h
      split at h <;> simp_all
    | some pa =>
      obtain ⟨a, b, c, rest, w, x⟩ := waitWord_iff.1 p
      rw [waitsSignal_at w p] at h
      exact ⟨a, b, c, pa, rest, w, x, by simpa using h⟩
  · rintro ⟨a, b, c, pa, rest, w, x, m⟩
    rw [waitsSignal_at w (waitWord_iff.2 ⟨a, b, c, rest, w, x⟩), m]
    rfl
theorem released_iff {o : Hart} : released s g o = true ↔ s.waitsFor g o true := by
  unfold released
  cases p : waitWord s g o with
  | none =>
    simp only [Option.isSome_none, Bool.false_and, Bool.false_eq_true, false_iff]
    rintro ⟨a, b, c, pa, rest, w, x, -⟩
    cases p.symm.trans (waitWord_iff.2 ⟨a, b, c, rest, w, x⟩)
  | some pa =>
    obtain ⟨a, b, c, rest, w, x⟩ := waitWord_iff.1 p
    rw [waitsSignal_at w p]
    simp only [Option.isSome_some, Bool.true_and, Bool.not_not]
    constructor
    · exact fun m => ⟨a, b, c, pa, rest, w, x, m⟩
    · rintro ⟨a', b', c', pa', rest', w', x', m⟩
      cases w.symm.trans w'
      cases x.symm.trans x'
      exact m
/-- When a gang may be descheduled. -/
theorem canDeschedule_iff (s : State) (g : Gang) :
    let live (o : Hart) : Prop := (o ∈ s.harts ∧ o.id.gang = g.id) ∧ o.ended = false
    canDeschedule s g = true ↔ g.id ≠ 0 ∧ g.run = .resident ∧ (∀ o, o ∈ s.harts ∧ o.id.gang = g.id → o.halted = false) ∧ (∃ o, live o) ∧
      (∀ o, live o → ¬ s.waitsFor g o true) ∧
      ((∀ o, live o → s.waitsFor g o false ∨ o.waitOn = some .gbar) ∨
        (∃ o, live o ∧ s.waitsFor g o false) ∧ ∃ f, f ∈ pinnedHeads s ∧ (place (s.without [g.id]) f.record.toNat).isSome = true) := by
  intro live
  have mem (o : Hart) : o ∈ (s.gangHarts g.id).filter (fun h => !h.ended) ↔ live o := by
    simp only [List.mem_filter, mem_gangHarts, Bool.not_eq_true', live]
  have any : (!((s.gangHarts g.id).filter fun h => !h.ended).isEmpty) = true ↔ ∃ o, live o := by
    rw [Bool.not_eq_true', List.isEmpty_eq_false_iff_exists_mem]
    simp only [mem]
  unfold canDeschedule
  simp only [Bool.and_eq_true, any, bne_iff_ne, isResident_iff, Bool.not_eq_true', hasHalted_iff, List.any_eq_false, List.all_eq_true,
    List.any_eq_true, Bool.or_eq_true, mem, released_iff, waitsSignal_iff, waitsGbar, beq_iff_eq, and_imp, and_assoc]
end

/-! ## Heads that pre-emption may help (03:R72, R79) -/

section
variable {s : State}
/-- A pinned head is tried before another. -/
def Head.triedBefore (a b : Head) : Bool :=
  b.eff < a.eff || (a.eff == b.eff && (a.readyNs < b.readyNs || (a.readyNs == b.readyNs && a.queue < b.queue)))
theorem triedBefore_iff (a b : Head) : a.triedBefore b = true ↔
    b.eff < a.eff ∨ a.eff = b.eff ∧ (a.readyNs < b.readyNs ∨ a.readyNs = b.readyNs ∧ a.queue < b.queue) := by
  simp [Head.triedBefore]
theorem pinnedHeads_perm (s : State) : (pinnedHeads s).Perm
    (s.sched.heads.filter fun f => f.pinned && f.ready && descEn (s.desc f.queue) && decide (descStat (s.desc f.queue) < 2)) := by
  have e : (fun f : Head => f.pinned && f.ready && descEn (s.desc f.queue) && decide (descStat (s.desc f.queue) < 2)) =
      fun f => f.pinned && f.ready && served (s.desc f.queue) := funext fun f => by rw [served, Bool.and_assoc (f.pinned && f.ready)]
  rw [e]
  exact sortBy_perm _ _
theorem pinnedHeads_sorted (s : State) : (pinnedHeads s).Pairwise fun a b =>
    b.eff < a.eff ∨ a.eff = b.eff ∧ (a.readyNs < b.readyNs ∨ a.readyNs = b.readyNs ∧ a.queue ≤ b.queue) := by
  have sorted : (pinnedHeads s).Pairwise fun a b => b.triedBefore a = false := sortBy_sorted
    (lt := Head.triedBefore) (fun a => by rw [← Bool.not_eq_true, triedBefore_iff]; omega)
    (fun a b c h k => by rw [triedBefore_iff] at *; omega) _
  refine sorted.imp fun {a b} h => ?_
  rw [← Bool.not_eq_true, triedBefore_iff] at h
  omega
theorem victimOk_iff (s : State) (h : Head) (x : Gang) : victimOk s h x = true ↔ x.id ≠ 0 ∧ x.run = .resident ∧
    x.cls = classOf (recClass h.record.toNat) ∧ x.eff < h.eff ∧ (s.desc x.queue).testBit 158 = true ∧
    ∀ o, o ∈ s.harts → o.id.gang = x.id → o.halted = false := by
  unfold victimOk descPre
  simp only [Bool.and_eq_true, bne_iff_ne, isResident_iff, beq_iff_eq, decide_eq_true_eq, Bool.not_eq_true', hasHalted_iff, and_assoc]
/-- A victim is pre-empted before another: the lowest priority first, and of equal ones the one dispatched last. -/
def Gang.leavesBefore (a b : Gang) : Bool := a.eff < b.eff || (a.eff == b.eff && b.seq < a.seq)
theorem leavesBefore_iff (a b : Gang) : a.leavesBefore b = true ↔ a.eff < b.eff ∨ a.eff = b.eff ∧ b.seq < a.seq := by
  simp [Gang.leavesBefore]
/-- The gangs that may leave for a head, in the order in which they do. -/
def candidates (s : State) (h : Head) : List Gang := sortBy Gang.leavesBefore (s.gangs.filter (victimOk s h))
theorem candidates_sorted (s : State) (h : Head) :
    (candidates s h).Pairwise fun a b => a.eff < b.eff ∨ a.eff = b.eff ∧ b.seq ≤ a.seq := by
  have sorted : (candidates s h).Pairwise fun a b => b.leavesBefore a = false := sortBy_sorted
    (fun a => by rw [← Bool.not_eq_true, leavesBefore_iff]; omega) (fun a b c h k => by rw [leavesBefore_iff] at *; omega) _
  refine sorted.imp fun {a b} h => ?_
  rw [← Bool.not_eq_true, leavesBefore_iff] at h
  omega
/-- Victims are added until the head fits, and no more. -/
theorem pickVictims_iff (s : State) (r : Nat) : ∀ (l : List Gang) (done : List (BitVec 32)) (ids : List (BitVec 32)),
    pickVictims s r l done = some ids ↔ ∃ n, n ≤ l.length ∧ ids = done ++ (l.take n).map (·.id) ∧
      (place (s.without (done ++ (l.take n).map (·.id))) r).isSome = true ∧
      ∀ m, m < n → (place (s.without (done ++ (l.take m).map (·.id))) r).isSome = false
  | [], done, ids => by
    unfold pickVictims
    simp only [List.length_nil, Nat.le_zero, List.take_nil, List.map_nil, List.append_nil, exists_eq_left, Nat.not_lt_zero, false_implies,
      implies_true, and_true]
    split
    · next h => simp [h, eq_comm]
    · next h => simp [h]
  | g :: l, done, ids => by
    unfold pickVictims
    split
    · next h =>
      simp only [Option.some.injEq]
      constructor
      · rintro rfl
        exact ⟨0, by omega, by simp, by simpa using h, fun m hm => absurd hm (Nat.not_lt_zero m)⟩
      · rintro ⟨n, -, rfl, -, none⟩
        cases n with
        | zero => simp
        | succ n =>
          have := none 0 (by omega)
          rw [List.take_zero, List.map_nil, List.append_nil, h] at this
          cases this
    · next h =>
      rw [pickVictims_iff s r l]
      constructor
      · rintro ⟨n, le, rfl, fits, none⟩
        refine ⟨n + 1, by simpa using le, by simp, by simpa using fits, fun m hm => ?_⟩
        cases m with
        | zero => simpa using h
        | succ m => simpa using none m (by omega)
      · rintro ⟨n, le, rfl, fits, none⟩
        cases n with
        | zero =>
          rw [List.take_zero, List.map_nil, List.append_nil] at fits
          exact absurd fits h
        | succ n =>
          refine ⟨n, by simpa using le, by simp, by simpa using fits, fun m hm => ?_⟩
          simpa using none (m + 1) (by omega)
theorem victimsFor_iff (s : State) (h : Head) (ids : List (BitVec 32)) :
    let leaving := (s.gangs.filter fun y => y.run != .resident).map (·.id)
    let fits (n : Nat) : Bool := (place ((s.without leaving).without (((candidates s h).take n).map (·.id))) h.record.toNat).isSome
    victimsFor s h = some ids ↔ ∃ n, 0 < n ∧ n ≤ (candidates s h).length ∧ ids = ((candidates s h).take n).map (·.id) ∧ fits n = true ∧
      ∀ m, m < n → fits m = false := by
  intro leaving fits
  have out : (fun g : Gang => !g.run.isResident) = fun y => y.run != .resident :=
    funext fun y => by cases y.run <;> rfl
  have form : victimsFor s h = (pickVictims (s.without leaving) h.record.toNat (candidates s h) []).filter (!·.isEmpty) := by
    unfold victimsFor
    rw [out]
    rfl
  rw [form, Option.filter_eq_some_iff, pickVictims_iff]
  simp only [List.nil_append]
  constructor
  · rintro ⟨⟨n, le, rfl, fit, none⟩, ne⟩
    refine ⟨n, Nat.pos_of_ne_zero ?_, le, rfl, fit, none⟩
    rintro rfl
    simp at ne
  · rintro ⟨n, pos, le, rfl, fit, none⟩
    refine ⟨⟨n, le, rfl, fit, none⟩, ?_⟩
    cases c : candidates s h with
    | nil =>
      rw [c] at le
      simp at le
      omega
    | cons a l =>
      cases n with
      | zero => omega
      | succ n => rfl
theorem victims_first {l m : List Head} {h : Head} {ids : List (BitVec 32)} (e : pinnedHeads s = l ++ h :: m)
    (before : ∀ o, o ∈ l → victimsFor s o = none) (v : victimsFor s h = some ids) : victims s = ids := by
  unfold victims
  rw [e, List.findSome?_append, List.findSome?_eq_none_iff.2 before, Option.none_or, List.findSome?_cons_of_isSome (by rw [v]; rfl), v]
  rfl
theorem victims_none (h : ∀ o, o ∈ pinnedHeads s → victimsFor s o = none) : victims s = [] := by
  unfold victims
  rw [List.findSome?_eq_none_iff.2 h]
  rfl
end

end Sys2Proof.Machine
end

section
/-! SUPPORT. The choice of numbers on the fewest chiplets (03:R74, R75). -/
namespace Sys2Proof.Machine
open Sys2Proof

theorem mem_choose : ∀ {n : Nat} {l c : List Nat}, c ∈ choose n l ↔ c.Sublist l ∧ c.length = n
  | 0, l, c => by
    simp only [choose, List.mem_singleton, List.length_eq_zero_iff]
    exact ⟨fun h => ⟨h ▸ List.nil_sublist l, h⟩, And.right⟩
  | n + 1, [], c => by
    simp only [choose, List.not_mem_nil, List.sublist_nil, false_iff]
    rintro ⟨rfl, h⟩
    cases h
  | n + 1, a :: t, c => by
    simp only [choose, List.mem_append, List.mem_map, mem_choose]
    constructor
    · rintro (⟨d, ⟨sub, len⟩, rfl⟩ | ⟨sub, len⟩)
      · exact ⟨sub.cons_cons a, by simp [len]⟩
      · exact ⟨sub.cons a, len⟩
    · rintro ⟨sub, len⟩
      cases sub with
      | cons _ sub => exact .inr ⟨sub, len⟩
      | cons_cons _ sub => exact .inl ⟨_, ⟨sub, by simpa using len⟩, rfl⟩
theorem best_mem : ∀ {l : List (Option (List Nat))} {a : List Nat}, best l = some a → some a ∈ l
  | none :: t, a, h => List.mem_cons_of_mem _ (best_mem (l := t) h)
  | some b :: t, a, h => by
    unfold best at h
    split at h
    · cases h
      exact List.mem_cons_self
    · next c e =>
      split at h
      · cases h
        exact List.mem_cons_of_mem _ (best_mem e)
      · cases h
        exact List.mem_cons_self
theorem best_none : ∀ {l : List (Option (List Nat))}, best l = none → ∀ x, x ∈ l → x = none
  | [], _, _, hx => absurd hx List.not_mem_nil
  | none :: t, h, x, hx => (List.mem_cons.1 hx).elim id (best_none (l := t) h x)
  | some b :: t, h, x, hx => by
    unfold best at h
    split at h
    · cases h
    · split at h <;> cases h

/-- Numbers that lie on one of these chiplets. -/
def onChips (chip : Nat → Nat) (free chips : List Nat) : List Nat := free.filter fun i => chips.contains (chip i)
/-- The first n of these numbers, the cold ones before the hot ones. -/
def coldFirst (hot : Nat → Bool) (l : List Nat) (n : Nat) : List Nat := ((l.filter fun i => !hot i) ++ l.filter hot).take n
section
variable {chip : Nat → Nat} {hot : Nat → Bool} {free : List Nat} {n : Nat} {c : List Nat}
theorem takeFrom_none (h : takeFrom chip hot free n c = none) : (onChips chip free c).length < n := by
  unfold takeFrom at h
  dsimp only at h
  split at h
  · assumption
  · cases h
theorem takeFrom_some (nd : free.Nodup) {r : List Nat} (h : takeFrom chip hot free n c = some r) :
    r.tail.length = n ∧ r.tail.Nodup ∧ ∀ i, i ∈ r.tail → i ∈ free ∧ chip i ∈ c := by
  unfold takeFrom at h
  dsimp only at h
  split at h
  · cases h
  · next le =>
    cases h
    let kept := (onChips chip free c).filter (coldFirst hot (onChips chip free c) n).contains
    show kept.length = n ∧ kept.Nodup ∧ ∀ i, i ∈ kept → i ∈ free ∧ chip i ∈ c
    unfold kept
    have le : ¬ (onChips chip free c).length < n := le
    have hd : (onChips chip free c).Nodup := nd.filter _
    have perm : ((onChips chip free c).filter (fun i => !hot i) ++ (onChips chip free c).filter hot).Perm (onChips chip free c) :=
      List.perm_append_comm.trans (List.filter_append_perm hot _)
    generalize hl : coldFirst hot (onChips chip free c) n = l
    unfold coldFirst at hl
    have sub : l ⊆ onChips chip free c := fun i hi => by
      rw [← hl] at hi
      exact perm.subset (List.mem_of_mem_take hi)
    have ld : l.Nodup := by
      rw [← hl]
      exact (perm.nodup_iff.2 hd).sublist (List.take_sublist _ _)
    have len : l.length = n := by
      rw [← hl, List.length_take, perm.length_eq]
      omega
    have same : ((onChips chip free c).filter l.contains).Perm l := by
      refine (List.perm_ext_iff_of_nodup (hd.filter _) ld).2 fun i => ?_
      simp only [List.mem_filter, List.contains_iff_mem]
      exact ⟨And.right, fun hi => ⟨sub hi, hi⟩⟩
    refine ⟨same.length_eq.trans len, hd.filter _, fun i hi => ?_⟩
    have := List.mem_of_mem_filter hi
    simpa [onChips, List.mem_filter] using this
/-- Chiplets that numbers lie on. -/
def chipsOf (chip : Nat → Nat) (l : List Nat) : Nat := ((l.map chip).dedup).length
/-- The choices at k + 1 chiplets. -/
def choiceAt (chip : Nat → Nat) (chips : Nat) (hot : Nat → Bool) (free : List Nat) (n k : Nat) : Option (List Nat) :=
  best ((choose (k + 1) (List.range chips)).map (takeFrom chip hot free n))
theorem choiceAt_some {chips k : Nat} (nd : free.Nodup) {r : List Nat} (h : choiceAt chip chips hot free n k = some r) :
    r.tail.length = n ∧ r.tail.Nodup ∧ (∀ i, i ∈ r.tail → i ∈ free) ∧ chipsOf chip r.tail ≤ k + 1 := by
  obtain ⟨c, hc, e⟩ := List.mem_map.1 (best_mem h)
  obtain ⟨-, len⟩ := mem_choose.1 hc
  obtain ⟨hl, hd, hi⟩ := takeFrom_some nd e
  refine ⟨hl, hd, fun i m => (hi i m).1, ?_⟩
  rw [← len]
  refine (List.Subperm.length_le ((List.nodup_dedup _).subperm fun x hx => ?_))
  obtain ⟨i, m, rfl⟩ := List.mem_map.1 (List.mem_dedup.1 hx)
  exact (hi i m).2
/-- Where numbers are free on so many chiplets, there is a choice on them. -/
theorem choiceAt_isSome {chips : Nat} (low : ∀ i, i ∈ free → chip i < chips) {m : List Nat} (len : m.length = n) (nd : m.Nodup)
    (sub : ∀ i, i ∈ m → i ∈ free) {k : Nat} (hk : chipsOf chip m = k + 1) : choiceAt chip chips hot free n k ≠ none := by
  intro h
  have c : (List.range chips).filter (fun x => (m.map chip).dedup.contains x) ∈ choose (k + 1) (List.range chips) := by
    refine mem_choose.2 ⟨List.filter_sublist, ?_⟩
    rw [← hk]
    refine List.Perm.length_eq ((List.perm_ext_iff_of_nodup (List.nodup_range.filter _) (List.nodup_dedup _)).2 fun x => ?_)
    simp only [List.mem_filter, List.mem_range, List.contains_iff_mem, List.mem_dedup, List.mem_map, and_iff_right_iff_imp]
    rintro ⟨i, hi, rfl⟩
    exact low i (sub i hi)
  have few := takeFrom_none (best_none h _ (List.mem_map_of_mem c))
  have many : m.length ≤ (onChips chip free ((List.range chips).filter fun x => (m.map chip).dedup.contains x)).length := by
    refine (nd.subperm fun i hi => ?_).length_le
    simp only [onChips, List.mem_filter, List.contains_iff_mem, List.mem_range, List.mem_dedup]
    exact ⟨sub i hi, low i (sub i hi), List.mem_map_of_mem hi⟩
  omega
theorem chipsOf_pos {m : List Nat} (h : 0 < m.length) : 0 < chipsOf chip m := by
  cases m with
  | nil => simp at h
  | cons a m =>
    have : chip a ∈ ((a :: m).map chip).dedup := List.mem_dedup.2 (by simp)
    exact List.length_pos_of_mem this
theorem chipsOf_le {chips : Nat} (low : ∀ i, i ∈ free → chip i < chips) {m : List Nat} (sub : ∀ i, i ∈ m → i ∈ free) :
    chipsOf chip m ≤ chips := by
  have : (m.map chip).dedup.Subperm (List.range chips) := (List.nodup_dedup _).subperm fun x hx => by
    obtain ⟨i, hi, rfl⟩ := List.mem_map.1 (List.mem_dedup.1 hx)
    exact List.mem_range.2 (low i (sub i hi))
  simpa [chipsOf] using this.length_le
/-- The first of the rising numbers at which there is an answer. -/
theorem findSome_range {α : Type} {f : Nat → Option α} {m : Nat} {a : α} (h : (List.range m).findSome? f = some a) :
    ∃ k, k < m ∧ f k = some a ∧ ∀ j, j < k → f j = none := by
  obtain ⟨l1, k, l2, e, hk, before⟩ := List.findSome?_eq_some_iff.1 h
  have mem : k ∈ List.range m := by
    rw [e]
    simp
  refine ⟨k, List.mem_range.1 mem, hk, fun j lt => before j ?_⟩
  have hj : j ∈ l1 ++ k :: l2 := by
    rw [← e]
    have := List.mem_range.1 mem
    exact List.mem_range.2 (by omega)
  have sorted : (l1 ++ k :: l2).Pairwise (· < ·) := by
    rw [← e]
    exact List.pairwise_lt_range
  obtain hj | hj := List.mem_append.1 hj
  · exact hj
  · obtain rfl | hj := List.mem_cons.1 hj
    · omega
    · have := (List.pairwise_cons.1 (List.pairwise_append.1 sorted).2.1).1 j hj
      omega
/-- What `spread` gives: so many of the free numbers, on as few chiplets as any such choice. -/
theorem spread_some {chips : Nat} (nd : free.Nodup) (low : ∀ i, i ∈ free → chip i < chips) {l : List Nat}
    (h : spread chip chips hot free n = some l) : l.length = n ∧ l.Nodup ∧ (∀ i, i ∈ l → i ∈ free) ∧
      ∀ m : List Nat, m.length = n → m.Nodup → (∀ i, i ∈ m → i ∈ free) → chipsOf chip l ≤ chipsOf chip m := by
  unfold spread at h
  split at h
  · next z =>
    cases h
    exact ⟨z.symm, List.nodup_nil, fun _ => False.elim ∘ List.not_mem_nil, fun _ _ _ _ => Nat.zero_le _⟩
  · next z =>
    obtain ⟨r, hr, rfl⟩ := Option.map_eq_some_iff.1 h
    obtain ⟨k, -, hk, before⟩ := findSome_range (f := choiceAt chip chips hot free n) hr
    obtain ⟨len, hd, mem, few⟩ := choiceAt_some nd hk
    refine ⟨len, hd, mem, fun m ml md ms => few.trans ?_⟩
    have pos := chipsOf_pos (chip := chip) (m := m) (by omega)
    by_contra more
    exact choiceAt_isSome low ml md ms (k := chipsOf chip m - 1) (by omega) (before _ (by omega))
theorem spread_none {chips : Nat} (low : ∀ i, i ∈ free → chip i < chips) (h : spread chip chips hot free n = none) {m : List Nat}
    (len : m.length = n) (nd : m.Nodup) (sub : ∀ i, i ∈ m → i ∈ free) : False := by
  unfold spread at h
  split at h
  · cases h
  · next z =>
    have none := List.findSome?_eq_none_iff.1 (Option.map_eq_none_iff.1 h)
    have pos := chipsOf_pos (chip := chip) (m := m) (by omega)
    have le := chipsOf_le (chip := chip) low sub
    exact choiceAt_isSome (hot := hot) low len nd sub (k := chipsOf chip m - 1) (by omega)
      (none _ (List.mem_range.2 (by omega)))
end

end Sys2Proof.Machine
end

section
/-! SUPPORT. What a placing takes (02:R42; 03:R74-R77). -/
namespace Sys2Proof.Machine
open Sys2Proof

/-! ## Free resources -/

section
variable {s : State}
/-- A gang that holds cores, lane groups and files. -/
def State.holding (s : State) (y : Gang) : Prop := y ∈ s.gangs ∧ ∀ d, y.run ≠ .saved d
theorem mem_holders {y : Gang} : y ∈ s.holders ↔ s.holding y := by
  unfold State.holders State.holding
  rw [List.mem_filter, Bool.not_eq_true', isSaved_iff]
/-- A T string that a placing may take. -/
def State.stringFree (s : State) (i : Nat) : Prop :=
  i < 640 ∧ (s.str i).tripped = false ∧ ∀ y, s.holding y → y.cls = .t → i ∉ y.strings
def State.clusterFree (s : State) (c : Nat) : Prop :=
  c < 64 ∧ (s.str (640 + 2 * c)).tripped = false ∧ (s.str (641 + 2 * c)).tripped = false ∧ ∀ y, s.holding y → c ∉ y.clusters
def State.slotFree (s : State) (c : Nat × Nat) : Prop := c.1 < 32 ∧ c.2 < 2 ∧ ∀ y, s.holding y → c ∉ y.cslots
theorem mem_freeStrings {i : Nat} : i ∈ freeStrings s ↔ s.stringFree i := by
  unfold freeStrings State.stringFree
  simp only [List.mem_filter, List.mem_range, Bool.and_eq_true, Bool.not_eq_true', List.contains_eq_mem, decide_eq_false_iff_not,
    List.mem_flatMap, mem_holders, beq_iff_eq, not_exists, not_and, and_imp]
  tauto
theorem mem_freeClusters {c : Nat} : c ∈ freeClusters s ↔ s.clusterFree c := by
  unfold freeClusters State.clusterFree
  simp only [List.mem_filter, List.mem_range, Bool.and_eq_true, Bool.not_eq_true', List.contains_eq_mem, decide_eq_false_iff_not,
    List.mem_flatMap, mem_holders, not_exists, not_and]
  tauto
theorem mem_freeSlots {c : Nat × Nat} : c ∈ freeSlots s ↔ s.slotFree c := by
  have at_ : c ∈ (List.range 32).flatMap (fun c => [(c, 0), (c, 1)]) ↔ c.1 < 32 ∧ c.2 < 2 := by
    obtain ⟨a, b⟩ := c
    simp only [List.mem_flatMap, List.mem_range, List.mem_cons, Prod.mk.injEq, List.not_mem_nil, or_false]
    constructor
    · rintro ⟨k, lt, ⟨rfl, rfl⟩ | ⟨rfl, rfl⟩⟩ <;> omega
    · rintro ⟨lt, h⟩
      exact ⟨a, lt, by omega⟩
  unfold freeSlots State.slotFree
  simp only [List.mem_filter, at_, Bool.not_eq_true', List.contains_eq_mem, decide_eq_false_iff_not, List.mem_flatMap, mem_holders,
    not_exists, not_and, and_assoc]
theorem freeStrings_nodup (s : State) : (freeStrings s).Nodup := List.nodup_range.filter _
theorem freeClusters_nodup (s : State) : (freeClusters s).Nodup := List.nodup_range.filter _
theorem freeSlots_nodup (s : State) : (freeSlots s).Nodup := by
  have all : ((List.range 32).flatMap fun c => [(c, 0), (c, 1)]).Nodup := by decide
  unfold freeSlots
  exact all.filter _
theorem slotsFor_some {crf : Bool} {n : Nat} {l : List (Nat × Nat)} (h : slotsFor s crf n = some l) :
    l.length = n ∧ l.Nodup ∧ (∀ c, c ∈ l → s.slotFree c) ∧ (crf = true → ∃ q, ∀ c, c ∈ l → c.1 / 16 = q) := by
  have taken {m : List (Nat × Nat)} (sub : m.Sublist (freeSlots s)) (le : n ≤ m.length) :
      (m.take n).length = n ∧ (m.take n).Nodup ∧ ∀ c, c ∈ m.take n → s.slotFree c :=
    ⟨List.length_take_of_le le, (freeSlots_nodup s).sublist ((List.take_sublist _ _).trans sub),
      fun c hc => mem_freeSlots.1 (sub.subset (List.mem_of_mem_take hc))⟩
  unfold slotsFor at h
  cases crf with
  | true =>
    obtain ⟨-, q, -, -, e, -⟩ := List.findSome?_eq_some_iff.1 h
    dsimp only at e
    split at e
    · next k =>
      cases e
      rw [Bool.and_eq_true, decide_eq_true_eq] at k
      obtain ⟨len, nd, free⟩ := taken List.filter_sublist k.2
      exact ⟨len, nd, free, fun _ => ⟨q, fun c hc => by simpa using (List.mem_filter.1 (List.mem_of_mem_take hc)).2⟩⟩
    · cases e
  | false =>
    rw [if_neg Bool.false_ne_true] at h
    split at h
    · next le =>
      cases h
      obtain ⟨len, nd, free⟩ := taken (.refl _) le
      exact ⟨len, nd, free, nofun⟩
    · cases h

/-! ## The budget (03:R77) -/

/-- The strings' estimate lies within the free pool. -/
def State.paid (s : State) (l : List Nat) : Prop :=
  (l.map fun i => (if i < 640 then (10 : Int) else 13) - ((s.str i).demand : Int)).sum ≤ (s.sched.freePool : Int) ∧
    ¬ (s.sched.freePool = 0 ∧ ∃ y, y ∈ s.strings ∧ y.spow = 48)
theorem funded_iff {cls : Class} (h : cls ≠ .c) (l : List Nat) : funded s cls l = true ↔ s.paid l := by
  have e : estimate s l = (l.map fun i => (if i < 640 then (10 : Int) else 13) - ((s.str i).demand : Int)).sum := by
    unfold estimate nominalTokens
    congr 1
    refine List.map_congr_left fun i _ => ?_
    split <;> rfl
  have c : (cls == .c) = false := by simpa using h
  unfold funded State.paid
  rw [c, e]
  simp only [Bool.false_or, Bool.and_eq_true, Bool.not_eq_true', Bool.and_eq_false_iff, decide_eq_false_iff_not, List.any_eq_false,
    decide_eq_true_eq, not_and, not_exists]
  rw [and_comm]
  refine and_congr Iff.rfl ?_
  rw [← imp_iff_not_or]

/-! ## Places on V cores (03:R75) -/

theorem clusterSpots_length (lanes c : Nat) : (clusterSpots lanes c).length = 4 / lanes * 8 := by
  simp [clusterSpots]
theorem mem_clusterSpots {lanes c : Nat} {p : Nat × Nat} (h : p ∈ clusterSpots lanes c) : p.1 / 8 = c := by
  simp only [clusterSpots, List.mem_flatMap, List.mem_map] at h
  obtain ⟨j, -, k, hk, rfl⟩ := h
  have : k < 8 := by
    simp only [List.mem_cons, List.not_mem_nil, or_false] at hk
    omega
  dsimp only
  omega
theorem clusterSpots_nodup (r c : Nat) : (clusterSpots (recLanes r) c).Nodup := by
  have lanes : recLanes r = 1 ∨ recLanes r = 2 ∨ recLanes r = 4 := by
    unfold recLanes laneCount
    split
    · exact .inl rfl
    · split
      · exact .inr (.inl rfl)
      · exact .inr (.inr rfl)
  unfold clusterSpots
  refine List.nodup_flatMap.2 ⟨fun j _ => ?_, ?_⟩
  · refine List.Nodup.map (fun a b h => ?_) (by decide)
    simp only [Prod.mk.injEq, and_true] at h
    omega
  · refine List.nodup_range.imp fun {i j} ne => ?_
    simp only [Function.onFun, List.disjoint_left, List.mem_map, not_exists, not_and, forall_exists_index, and_imp]
    rintro p k - rfl k' - h
    simp only [Prod.mk.injEq] at h
    exact ne (Nat.eq_of_mul_eq_mul_right (by omega) h.2).symm
theorem spots_fill (r n : Nat) : recHarts r ≤ ceilDiv (recHarts r * recLanes r + n) 32 * (4 / recLanes r * 8) := by
  have lanes : recLanes r = 1 ∨ recLanes r = 2 ∨ recLanes r = 4 := by
    unfold recLanes laneCount
    split
    · exact .inl rfl
    · split
      · exact .inr (.inl rfl)
      · exact .inr (.inr rfl)
  unfold ceilDiv
  obtain h | h | h := lanes <;> rw [h] <;> omega
theorem spots_some (r : Nat) {cl : List Nat} (nd : cl.Nodup) (len : cl.length = ceilDiv (recHarts r * recLanes r + recMresv r) 32) :
    let spots := (cl.flatMap (clusterSpots (recLanes r))).take (recHarts r)
    spots.length = recHarts r ∧ spots.Nodup ∧ ∀ c, c ∈ spots → c.1 / 8 ∈ cl := by
  intro spots
  refine ⟨List.length_take_of_le ?_, List.Nodup.sublist (List.take_sublist _ _) (List.nodup_flatMap.2 ⟨fun c _ => clusterSpots_nodup r c, ?_⟩),
    fun c hc => ?_⟩
  · rw [List.length_flatMap]
    simp only [clusterSpots_length, List.map_const', List.sum_replicate, smul_eq_mul, len]
    exact spots_fill r _
  · refine nd.imp fun {a b} ne => ?_
    simp only [Function.onFun, List.disjoint_left]
    exact fun p ha hb => ne ((mem_clusterSpots ha).symm.trans (mem_clusterSpots hb))
  · obtain ⟨x, hx, hp⟩ := List.mem_flatMap.1 (List.mem_of_mem_take hc)
    rw [mem_clusterSpots hp]
    exact hx
end

/-! ## Placings -/

section
variable {s : State} {r : Nat} {p : Placing}
theorem place_fits (h : place s r = some p) : fit s r = some p ∧ funded s (classOf (recClass r)) p.strings = true := by
  unfold place at h
  split at h
  · next q e =>
    split at h
    · next f =>
      cases h
      exact ⟨e, f⟩
    · cases h
  · cases h
theorem chip_string {i : Nat} (h : i ∈ freeStrings s) : i / 40 < 16 := by
  have := (mem_freeStrings.1 h).1
  omega
theorem chip_cluster {c : Nat} (h : c ∈ freeClusters s) : c / 8 < 8 := by
  have := (mem_freeClusters.1 h).1
  omega
/-- A T record's placing. -/
theorem place_strings (h : place s r = some p) (t : recClass r = 2) : p.strings.length = recHarts r / 1024 ∧ p.strings.Nodup ∧
    (∀ i, i ∈ p.strings → s.stringFree i) ∧ s.paid p.strings ∧ p.clusters = [] ∧ p.cslots = [] ∧
    ∀ l : List Nat, l.length = recHarts r / 1024 → l.Nodup → (∀ i, i ∈ l → s.stringFree i) →
      chipsOf (· / 40) p.strings ≤ chipsOf (· / 40) l := by
  obtain ⟨f, paid⟩ := place_fits h
  unfold fit at f
  rw [if_pos t] at f
  obtain ⟨l, hl, rfl⟩ := Option.map_eq_some_iff.1 f
  obtain ⟨len, nd, mem, few⟩ := spread_some (freeStrings_nodup s) (fun i => chip_string) hl
  refine ⟨len, nd, fun i hi => mem_freeStrings.1 (mem i hi), ?_, rfl, rfl, fun m ml md mf => few m ml md fun i hi => mem_freeStrings.2 (mf i hi)⟩
  rw [t] at paid
  exact (funded_iff (by decide) _).1 paid
/-- A placing of a C or V record. -/
theorem place_clusters (h : place s r = some p) (t : recClass r ≠ 2) :
    p.strings = p.clusters.flatMap (fun c => [640 + 2 * c, 641 + 2 * c]) ∧ p.clusters.length = recClusters r ∧ p.clusters.Nodup ∧
    (∀ c, c ∈ p.clusters → s.clusterFree c) ∧ (recClass r ≠ 0 → s.paid p.strings) ∧
    (∀ l : List Nat, l.length = recClusters r → l.Nodup → (∀ c, c ∈ l → s.clusterFree c) → chipsOf (· / 8) p.clusters ≤ chipsOf (· / 8) l) ∧
    p.cslots.length = (if recClass r = 0 then recHarts r else 0) + recMresc r ∧ p.cslots.Nodup ∧ (∀ c, c ∈ p.cslots → s.slotFree c) ∧
    (recCrf r = true → ∃ q, ∀ c, c ∈ p.cslots → c.1 / 16 = q) ∧
    (recClass r = 1 → p.spots.length = recHarts r ∧ p.spots.Nodup ∧ ∀ c, c ∈ p.spots → c.1 / 8 ∈ p.clusters) := by
  obtain ⟨f, paid⟩ := place_fits h
  unfold fit at f
  rw [if_neg t] at f
  split at f
  · next cl cs hcl hcs =>
    cases f
    obtain ⟨len, nd, mem, few⟩ := spread_some (freeClusters_nodup s) (fun i => chip_cluster) hcl
    obtain ⟨slen, snd, sfree, crf⟩ := slotsFor_some hcs
    refine ⟨rfl, len, nd, fun c hc => mem_freeClusters.1 (mem c hc), fun z => ?_,
      fun m ml md mf => few m ml md fun i hi => mem_freeClusters.2 (mf i hi), slen, snd, sfree, crf, fun one => ?_⟩
    · refine (funded_iff ?_ _).1 paid
      unfold classOf
      rw [if_neg z]
      split <;> decide
    · have v := spots_some r nd (by rw [len, recClusters, if_pos one])
      dsimp only
      rw [if_pos one]
      exact v
  · cases f
/-- Where a T record has no placing, strings or budget are short. -/
theorem place_none (h : place s r = none) (t : recClass r = 2) :
    (∀ l : List Nat, l.length = recHarts r / 1024 → l.Nodup → ¬ ∀ i, i ∈ l → s.stringFree i) ∨
      ∃ l : List Nat, l.length = recHarts r / 1024 ∧ l.Nodup ∧ (∀ i, i ∈ l → s.stringFree i) ∧ ¬ s.paid l := by
  unfold place fit at h
  rw [if_pos t] at h
  cases e : spread (· / 40) 16 (hotString s) (freeStrings s) (recHarts r / 1024) with
  | none => exact .inl fun l len nd free => spread_none (fun i => chip_string) e len nd fun i hi => mem_freeStrings.2 (free i hi)
  | some l =>
    rw [e] at h
    obtain ⟨len, nd, mem, -⟩ := spread_some (freeStrings_nodup s) (fun i => chip_string) e
    refine .inr ⟨l, len, nd, fun i hi => mem_freeStrings.1 (mem i hi), fun paid => ?_⟩
    have f : funded s (classOf (recClass r)) l = true := (funded_iff (by rw [t]; decide) l).2 paid
    dsimp only [Option.map_some] at h
    rw [if_pos f] at h
    cases h
end

end Sys2Proof.Machine
end

section
/-! SUPPORT. What the scheduler's visits and a dispatch leave, and the harts and the gang a dispatch makes (02:R42, R43;
03:R71). -/
namespace Sys2Proof.Machine
open Sys2Proof
variable {s t : State}

theorem accessFrame.gangs (h : accessFrame s t) : t.gangs = s.gangs := by unfold accessFrame at h; rw [h]
theorem accessFrame.icache (h : accessFrame s t) : t.icache = s.icache := by unfold accessFrame at h; rw [h]
theorem accessFrame.files (h : accessFrame s t) : t.files = s.files := by unfold accessFrame at h; rw [h]
theorem accessFrame.harts (h : accessFrame s t) : t.harts = s.harts := by unfold State.harts; rw [h.hart, h.others]

/-! ## Visits write DEF alone -/

theorem frame_setDef (s : State) (q v : Nat) : accessFrame s (setDef s q v) := frame_descPut ..
theorem frame_idleDefs (s : State) : accessFrame s (idleDefs s) := by
  unfold idleDefs
  generalize s.sched.heads.filter _ = l
  induction l generalizing s with
  | nil => exact .rfl
  | cons h l ih => exact (frame_setDef ..).trans (ih _)
theorem frame_visitAll : ∀ (l : List Head) (s : State), accessFrame s (visitAll l s).2
  | [], _ => .rfl
  | h :: l, s => by
    rw [visitAll]
    split
    · exact frame_setDef ..
    · exact (frame_setDef ..).trans (frame_visitAll l _)
theorem frame_visitRounds : ∀ (n : Nat) (l : List Head) (s : State), accessFrame s (visitRounds n l s).2
  | 0, _, _ => .rfl
  | n + 1, l, s => by
    have once := frame_visitAll l s
    rw [visitRounds]
    split
    case h_1 _ _ e => rw [e] at once; exact once
    case h_2 _ e => rw [e] at once; exact once.trans (frame_visitRounds n l _)
theorem frame_nextAt {level : Nat} {h : Head} (e : nextAt s level = some (h, t)) : accessFrame s t := by
  unfold nextAt at e
  extract_lets l at e
  split at e
  · cases e
  · split at e
    · cases e; exact .rfl
    · have rounds := frame_visitRounds roundLimit (visits s level) s
      split at e
      · next found => cases e; rw [found] at rounds; exact rounds
      · cases e
theorem frame_schedNext {h : Head} (e : schedNext s = some (h, t)) : accessFrame s t := by
  obtain ⟨_, _, at_⟩ := List.exists_of_findSome?_eq_some e
  exact frame_nextAt at_

/-! ## What comes to be -/

/-- The identity of the gang that a dispatch makes. -/
def State.freshId (s : State) : BitVec 32 := freshGang (s.gangs.map (·.id)) (s.gangs.length + 2) s.sched.nextGang
/-- The harts of a record's gang, with the device's cycles. -/
def newHarts (s : State) (id : BitVec 32) (r : Nat) (p : Placing) : List Hart :=
  (List.range (recHarts r)).map fun ix => (newHart id r p ix).joinWindow s
theorem length_newHarts (s : State) (id : BitVec 32) (r : Nat) (p : Placing) : (newHarts s id r p).length = recHarts r := by
  simp [newHarts]
theorem getElem_newHarts {id : BitVec 32} {r n : Nat} {p : Placing} {o : Hart} (h : (newHarts s id r p)[n]? = some o) :
    o = (newHart id r p n).joinWindow s := by
  unfold newHarts at h
  rw [List.getElem?_map, Option.map_eq_some_iff] at h
  obtain ⟨ix, at_, rfl⟩ := h
  obtain ⟨lt, at_⟩ := List.getElem?_eq_some_iff.1 at_
  rw [List.getElem_range] at at_
  rw [at_]
theorem reset_getX (x : Reg) : Hart.reset.getX x = 0 := by
  unfold Hart.getX Hart.reset
  split
  · rfl
  · simp
/-- What a hart holds as its gang is dispatched (02:R42). -/
theorem newHart_fields (id : BitVec 32) (r : Nat) (p : Placing) (n : Nat) :
    let o := newHart id r p n
    o.id = ⟨id, n⟩ ∧ o.cls = classOf (recClass r) ∧ o.pc = recEntry r ∧ o.lv = .a ∧ o.getX 1 = recArg r ∧
      o.getX 2 = BitVec.ofNat 64 n ∧ o.getX 3 = BitVec.ofNat 64 (recHarts r) ∧ ∀ x : Reg, 3 < x.toNat → o.getX x = 0 := by
  refine ⟨by simp [newHart], by simp [newHart], by simp [newHart], by simp [newHart, Hart.reset],
    by simp [newHart, Hart.getX_setX], by simp [newHart, Hart.getX_setX], by simp [newHart, Hart.getX_setX], fun x hx => ?_⟩
  have other (y : Reg) (low : y.toNat ≤ 3) (h : Hart) (v : Word) : (h.setX y v).getX x = h.getX x := by
    have ne : x ≠ y := fun e => by subst e; omega
    have ne0 : x ≠ 0 := fun e => by subst e; exact absurd hx (by decide)
    rw [Hart.getX_setX, if_neg ne0, if_neg ne]
  unfold newHart
  rw [other 3 (by decide), other 2 (by decide), other 1 (by decide)]
  exact reset_getX x

/-- The state with a dispatched gang's harts and files. -/
def State.withGang (s : State) (h : Head) (p : Placing) : State :=
  let r := h.record.toNat
  let s1 := spend s (classOf (recClass r)) p.strings
  giveFiles { s1 with gangs := s1.gangs ++ [newGang s h s.freshId p], others := s1.others ++ newHarts s s.freshId r p }
    (newFiles s.freshId (recCrf r) p)
/-- DEF and the slot of a dispatched head. -/
def State.slotTold (s : State) (h : Head) (id : BitVec 32) : State :=
  let s1 := setDef s h.queue (defBits (defOf s h.queue - cost h.record.toNat))
  slotPut (slotPut s1 h.queue h.index 28 (leBytes 1 2)) h.queue h.index 56 (leBytes 4 id.toNat)
/-- The schedule after a dispatch, and no fetched line. -/
def State.afterVisit (s : State) (h : Head) (id : BitVec 32) (seq : Nat) : State :=
  { s.syncBuckets with
    icache := []
    sched := { s.sched with
      nextGang := id + 1, nextSeq := seq, last := if q : h.eff < 8 then s.sched.last.set h.eff h.queue q else s.sched.last,
      visit := some (h.queue, h.eff) } }
theorem dispatch_eq (s : State) (h : Head) (p : Placing) : dispatch s h p =
    advanceHead (((s.withGang h p).slotTold h s.freshId).afterVisit h s.freshId (s.sched.nextSeq + 1)) h.queue := by
  unfold dispatch
  extract_lets r id g s1 s2 s3 s4 last
  have told : s4 = (s.withGang h p).slotTold h s.freshId := Eq.refl s4
  rw [← told]
  rfl
theorem withGang_leaves (s : State) (h : Head) (p : Placing) : (s.withGang h p).hart = s.hart ∧
    (s.withGang h p).others = s.others ++ newHarts s s.freshId h.record.toNat p ∧
    (s.withGang h p).gangs = s.gangs ++ [newGang s h s.freshId p] := by
  unfold State.withGang
  dsimp only [giveFiles]
  unfold spend
  split <;> exact ⟨rfl, rfl, rfl⟩
theorem frame_slotTold (s : State) (h : Head) (id : BitVec 32) : accessFrame s (s.slotTold h id) :=
  (frame_setDef ..).trans ((frame_slotPut ..).trans (frame_slotPut ..))

/-- What a dispatch leaves beside memory and the schedule. -/
theorem dispatch_leaves (s : State) (h : Head) (p : Placing) :
    (dispatch s h p).hart = s.hart ∧ (dispatch s h p).others = s.others ++ newHarts s s.freshId h.record.toNat p ∧
      (dispatch s h p).gangs = s.gangs ++ [newGang s h s.freshId p] ∧ (dispatch s h p).icache = [] ∧
      (dispatch s h p).sched.head h.queue = none := by
  rw [dispatch_eq]
  obtain ⟨hart, others, gangs⟩ := withGang_leaves s h p
  have told := frame_slotTold (s.withGang h p) h s.freshId
  generalize (s.withGang h p).slotTold h s.freshId = u at told ⊢
  have adv := frame_advanceHead (u.afterVisit h s.freshId (s.sched.nextSeq + 1)) h.queue
  generalize advanceHead _ _ = t at adv ⊢
  rw [← hart, ← others, ← gangs, ← told.hart, ← told.others, ← told.gangs, adv.sched, head_dropHead, if_pos (Eq.refl _)]
  exact ⟨adv.hart, adv.others, adv.gangs, adv.icache, Eq.refl _⟩

/-- GANG_DISPATCH of the next head (02:R42). -/
theorem gangDispatch_next {h : Head} {u : State} {p : Placing} (up : s.up = true) (next : schedNext (idleDefs s) = some (h, u))
    (fits : place u h.record.toNat = some p) (plan : planErr u (descAsid (u.desc h.queue)) h.record.toNat = 0) :
    exec (.gangDispatch h.queue) s = .next (dispatch u h p) := by
  show execGangDispatch h.queue s = _
  simp [execGangDispatch, next, fits, plan, up]

/-- What GANG_DISPATCH of the next head leaves. -/
theorem gangDispatch_leaves {h : Head} {u : State} {p : Placing} (up : s.up = true) (next : schedNext (idleDefs s) = some (h, u))
    (fits : place u h.record.toNat = some p) (plan : planErr u (descAsid (u.desc h.queue)) h.record.toNat = 0) :
    let r := h.record.toNat
    ∃ t k, exec (.gangDispatch h.queue) s = .next t ∧ t.hart = s.hart ∧ t.sched.head h.queue = none ∧ t.icache = [] ∧
      t.others.take s.others.length = s.others ∧ t.others.length = s.others.length + recHarts r ∧
      (∀ n o, n < recHarts r → t.others[s.others.length + n]? = some o →
        o.id = ⟨k, n⟩ ∧ o.cls = classOf (recClass r) ∧ o.pc = recEntry r ∧ o.lv = .a ∧ o.getX 1 = recArg r ∧
        o.getX 2 = BitVec.ofNat 64 n ∧ o.getX 3 = BitVec.ofNat 64 (recHarts r) ∧ ∀ x, 3 < x.toNat → o.getX x = 0) ∧
      ∃ x, t.gangs = s.gangs ++ [x] ∧ x.id = k ∧ x.cls = classOf (recClass r) ∧ x.tenant = recTenant r ∧ x.harts = recHarts r ∧
        x.prio = recPrio r ∧ x.prom = h.prom ∧ x.queue = h.queue ∧ x.index = h.index ∧ x.strings = p.strings ∧
        x.clusters = p.clusters := by
  intro r
  have frame := (frame_idleDefs s).trans (frame_schedNext next)
  obtain ⟨hart, others, gangs, icache, head⟩ := dispatch_leaves u h p
  rw [frame.hart] at hart
  rw [frame.others] at others
  rw [frame.gangs] at gangs
  refine ⟨dispatch u h p, u.freshId, gangDispatch_next up next fits plan, hart, head, icache, ?_, ?_, ?_, newGang u h u.freshId p, gangs,
    Eq.refl _, Eq.refl _, Eq.refl _, Eq.refl _, Eq.refl _, Eq.refl _, Eq.refl _, Eq.refl _, Eq.refl _, Eq.refl _⟩
  · rw [others, List.take_left]
  · rw [others, List.length_append, length_newHarts]
  · intro n o _ at_
    rw [others, List.getElem?_append_right (Nat.le_add_right ..), Nat.add_sub_cancel_left] at at_
    rw [getElem_newHarts at_]
    exact newHart_fields u.freshId r p n

end Sys2Proof.Machine
end

section
/-! SUPPORT. PREEMPT raised on gangs, and the save of a gang (03:R79, R80; 12:R340, R341). -/
namespace Sys2Proof.Machine
open Sys2Proof
variable {s t : State} {g : Gang} {id : BitVec 32}

/-! ## PREEMPT -/

/-- PREEMPT outstanding for a hart of some gangs. -/
def Hart.asked (ids : List (BitVec 32)) (d : Bool) (h : Hart) : Hart :=
  if ids.contains h.id.gang && !h.ended then { h with preempt := some d } else h
theorem asked_cons (a : BitVec 32) (l : List (BitVec 32)) (d : Bool) (h : Hart) : (h.asked [a] d).asked l d = h.asked (a :: l) d := by
  unfold Hart.asked
  by_cases e : h.ended = true
  · simp [e]
  · by_cases k : h.id.gang = a <;> by_cases m : h.id.gang ∈ l <;> simp [e, k, m]
theorem raisePreempt_form (s : State) (id : BitVec 32) (d : Bool) : raisePreempt s id d =
    { s with hart := s.hart.asked [id] d, others := s.others.map (Hart.asked [id] d),
             gangs := s.gangs.map fun x => if x.id = id then { x with run := .preempting d } else x } := by
  unfold raisePreempt
  rw [modGang_map]
  unfold State.modHarts Hart.asked
  simp only [List.contains_cons, List.contains_nil, Bool.or_false]
/-- PREEMPT on gangs in turn. -/
theorem raisePreempts_leave (d : Bool) : ∀ (l : List (BitVec 32)) (s : State),
    let t := l.foldl (fun s id => raisePreempt s id d) s
    t.hart = s.hart.asked l d ∧ t.others = s.others.map (Hart.asked l d) ∧
      t = { s with hart := t.hart, others := t.others, gangs := t.gangs }
  | [], s => ⟨Eq.refl _, (List.map_id' s.others).symm, Eq.refl _⟩
  | id :: l, s => by
    intro t
    obtain ⟨hart, others, rest⟩ := raisePreempts_leave d l (raisePreempt s id d)
    change t.hart = _ at hart
    change t.others = _ at others
    change t = { raisePreempt s id d with hart := t.hart, others := t.others, gangs := t.gangs } at rest
    clear_value t
    rw [raisePreempt_form] at hart others rest
    refine ⟨hart.trans (asked_cons ..), others.trans ?_, rest⟩
    rw [List.map_map]
    exact List.map_congr_left fun h _ => asked_cons id l d h
theorem preemptDecision_leaves (up : s.up = true) (some_ : victims s ≠ []) : ∃ t, exec .preemptDecision s = .next t ∧
    t.hart = s.hart.asked (victims s) false ∧ t.others = s.others.map (Hart.asked (victims s) false) ∧
    t = { s with hart := t.hart, others := t.others, gangs := t.gangs } := by
  refine ⟨_, given_next _ _ ?_, raisePreempts_leave false (victims s) s⟩
  simp [up, some_]
theorem deschedule_next (up : s.up = true) (found : s.gang id = some g) (can : canDeschedule s g = true) :
    let u := s.until (s.time.toNat + 50000)
    exec (.gangDeschedule id) s = .next { u with
      hart := u.hart.asked [id] true, others := u.others.map (Hart.asked [id] true),
      gangs := s.gangs.map fun x => if x.id = id then { x with watch := watchOf s x, run := .preempting true } else x } := by
  intro u
  show execGangDeschedule id s = _
  unfold execGangDeschedule
  rw [found]
  show given _ _ _ = _
  rw [given_next _ _ (by rw [up, can]; rfl), raisePreempt_form, modGang_map]
  congr 1
  have gangs : (((s.until (s.time.toNat + 50000)).gangs.map fun x => if x.id = id then { x with watch := watchOf s x } else x).map
      fun x => if x.id = id then { x with run := .preempting true } else x) =
      s.gangs.map fun x => if x.id = id then { x with watch := watchOf s x, run := .preempting true } else x := by
    rw [List.map_map]
    refine List.map_congr_left fun x _ => ?_
    by_cases e : x.id = id <;> simp [e]
  exact congrArg (fun l => ({ u with hart := u.hart.asked [id] true, others := u.others.map (Hart.asked [id] true), gangs := l } : State)) gangs
theorem restore_next (up : s.up = true) (found : s.gang id = some g) (run : g.run = .saved true) (wake : wakes s g = true) :
    exec (.gangRestore id) s = .next { s with
      gangs := s.gangs.map fun x => if x.id = id then { x with run := .saved false, watch := [] } else x } := by
  show execGangRestore id s = _
  unfold execGangRestore
  rw [found]
  show given _ _ _ = _
  rw [given_next _ _ (by rw [up, run, wake]; rfl), modGang_map]

/-! ## The save -/

theorem gang_id (found : s.gang id = some g) : g.id = id := by simpa using List.find?_some found
theorem frame_writeMem (s : State) (c : Ctx) (va : Word) (b : List Byte) : accessFrame s (runM (writeMem c va b) s).2 := by
  rw [writeMem, runM_bind]
  cases e : reachN s c .write va b.length false with
  | ok pas =>
    rw [runM_addresses_ok e]
    exact (accessFrame_note ..).trans (accessFrame_put ..)
  | error p =>
    rw [runM_addresses_fault e]
    exact accessFrame_note ..
theorem frame_writeParts (c : Ctx) (base : Word) : ∀ (l : List (Nat × List Byte)) (s : State),
    accessFrame s (runM (writeParts c base l) s).2
  | [], _ => .rfl
  | (o, b) :: t, s => by
    have first := frame_writeMem s c (base + BitVec.ofNat 64 o) b
    unfold writeParts
    split
    · exact frame_writeParts c base t s
    · rw [runM_bind]
      split
      · next w => rw [w] at first; exact first.trans (frame_writeParts c base t _)
      · next w => rw [w] at first; exact first
theorem frame_saveHarts (g : Gang) : ∀ (l : List Hart) {s t : State}, saveHarts g l s = .ok t → accessFrame s t
  | [], s, t, e => by cases e; exact .rfl
  | h :: l, s, t, e => by
    unfold saveHarts at e
    have wrote := frame_writeParts (devCtx g.asid) (blockVa g h 0) (saveParts s g h) s
    split at e
    · cases e
    · split at e
      · next w => rw [w] at wrote; exact wrote.trans (frame_saveHarts g l e)
      · cases e
      · cases e

/-- A hart of a saved gang. -/
def Hart.putAway (s : State) (id : BitVec 32) (h : Hart) : Hart :=
  if h.id.gang = id then { (h.leaveWindow s) with resident := false, blind := 0, blindSteps := none } else h
/-- The harts of a gang that is about to be saved leave their strings. -/
def State.windowsLeft (s : State) (id : BitVec 32) : State := s.modHarts (fun h => h.id.gang == id) (Hart.leaveWindow s)
theorem windowsLeft_form (s : State) (id : BitVec 32) : s.windowsLeft id =
    { s with hart := if s.hart.id.gang = id then s.hart.leaveWindow s else s.hart,
             others := s.others.map fun h => if h.id.gang = id then h.leaveWindow s else h } := by
  unfold State.windowsLeft State.modHarts
  simp only [beq_iff_eq]
theorem gangSave_eq (up : s.up = true) (found : s.gang id = some g) (can : canSave s g = true) :
    exec (.gangSave id) s = .next (match saveHarts g ((s.windowsLeft id).sorted.filter fun h => h.id.gang == id) (s.windowsLeft id) with
      | .ok w => savedGang w g (g.run == .preempting true)
      | .error (hid, a) => saveFault (s.windowsLeft id) hid a (g.run == .preempting true)) := by
  show execGangSave id s = _
  unfold execGangSave
  rw [found]
  exact given_next _ _ (by rw [up, can]; rfl)
theorem leaveWindow_id (s : State) (h : Hart) : (h.leaveWindow s).id = h.id := by
  unfold Hart.leaveWindow Hart.passWindow
  dsimp only
  split <;> rfl
/-- A hart of a gang is not resident any more. -/
def Hart.offCore (id : BitVec 32) (h : Hart) : Hart :=
  if h.id.gang == id then { h with resident := false, blind := 0, blindSteps := none } else h
theorem offCore_of_left (s : State) (id : BitVec 32) (h : Hart) :
    (if h.id.gang = id then h.leaveWindow s else h).offCore id = h.putAway s id := by
  unfold Hart.offCore Hart.putAway
  by_cases e : h.id.gang = id <;> simp [e, leaveWindow_id]
theorem gangSave_leaves {w : State} (up : s.up = true) (found : s.gang id = some g) (can : canSave s g = true)
    (saved : saveHarts g ((s.windowsLeft id).sorted.filter fun h => h.id.gang == id) (s.windowsLeft id) = .ok w) :
    ∃ t, exec (.gangSave id) s = .next t ∧ t.mem = w.mem ∧ t.hart = s.hart.putAway s id ∧ t.others = s.others.map (Hart.putAway s id) ∧
      t.gangs = (s.gangs.map fun x => if x.id = id then { x with run := .saved (g.run == .preempting true) } else x) ∧
      t.files = s.files.filter fun f => f.2.gang != id := by
  have frame := frame_saveHarts g _ saved
  have run := gangSave_eq up found can
  rw [saved] at run
  refine ⟨_, run, Eq.refl _, ?_, ?_, ?_, ?_⟩
  · show w.hart.offCore g.id = _
    rw [frame.hart, gang_id found, windowsLeft_form]
    exact offCore_of_left s id s.hart
  · show w.others.map (Hart.offCore g.id) = _
    rw [frame.others, gang_id found, windowsLeft_form]
    show (s.others.map _).map (Hart.offCore id) = _
    rw [List.map_map]
    exact List.map_congr_left fun h _ => offCore_of_left s id h
  · show (w.modGang g.id _).gangs = _
    rw [modGang_map, gang_id found, frame.gangs, windowsLeft_form]
  · show w.files.filter _ = _
    rw [frame.files, gang_id found, windowsLeft_form]

end Sys2Proof.Machine
end

section
/-! SUPPORT. What a hart's arrival, a gang's resumption and its retirement leave of the harts (02:R45; 05:R165; 12:R342). -/
namespace Sys2Proof.Machine
open Sys2Proof
variable {s t : State} {g : Gang} {id : BitVec 32}

/-! ## A hart's vector state on arrival (05:R165) -/

theorem resetSection_form (h : Hart) (n : Nat) : h.resetSection n =
    { h with v := (h.resetSection n).v, m := (h.resetSection n).m, k := (h.resetSection n).k, sc := (h.resetSection n).sc,
             ct := (h.resetSection n).ct, perm := (h.resetSection n).perm, sh := (h.resetSection n).sh } := by
  unfold Hart.resetSection
  split_ifs <;> rfl
theorem resetSections_form (h : Hart) (mask : BitVec 12) : ∀ n : Nat, h.resetSections mask n =
    { h with v := (h.resetSections mask n).v, m := (h.resetSections mask n).m, k := (h.resetSections mask n).k,
             sc := (h.resetSections mask n).sc, ct := (h.resetSections mask n).ct, perm := (h.resetSections mask n).perm,
             sh := (h.resetSections mask n).sh }
  | 0 => rfl
  | n + 1 => by
    have ih := resetSections_form h mask n
    rw [Hart.resetSections]
    generalize h.resetSections mask n = k at ih ⊢
    split
    · rw [resetSection_form k n]
      generalize k.resetSection n = j
      rw [ih]
    · exact ih
/-- Register groups that bindings carry with them (13:R380). -/
def Hart.boundGroups (h : Hart) : BitVec 12 := h.bindings.foldl (fun m b => m ||| ((1 : BitVec 12) <<< (b.vd.toNat / 8))) 0
/-- An arrived hart before its pending chunks are folded. -/
def Hart.unfolded (h : Hart) : Hart :=
  { h.resetSections (~~~(h.live ||| h.boundGroups)) 12 with nres := h.live &&& ~~~h.boundGroups, vdirty := h.vdirty &&& ~~~h.boundGroups }
theorem arriveState_eq (h : Hart) :
    h.arriveState = if (h.live &&& ~~~h.boundGroups).getLsbD 8 then h.unfolded else h.unfolded.foldChunks := rfl
theorem unfolded_form (h : Hart) : h.unfolded =
    { h with v := h.unfolded.v, m := h.unfolded.m, k := h.unfolded.k, sc := h.unfolded.sc, ct := h.unfolded.ct,
             perm := h.unfolded.perm, sh := h.unfolded.sh, nres := h.live &&& ~~~h.boundGroups, vdirty := h.vdirty &&& ~~~h.boundGroups } := by
  unfold Hart.unfolded
  rw [resetSections_form]
theorem foldChunks_form (h : Hart) : h.foldChunks =
    { h with k := h.foldChunks.k, vdirty := h.foldChunks.vdirty, live := h.foldChunks.live, pendClr := h.foldChunks.pendClr,
             pendSet := h.foldChunks.pendSet } := rfl
theorem arriveState_form (h : Hart) : h.arriveState =
    { h with v := h.unfolded.v, m := h.arriveState.m, k := h.arriveState.k, sc := h.arriveState.sc, ct := h.arriveState.ct,
             perm := h.arriveState.perm, sh := h.arriveState.sh, nres := h.live &&& ~~~h.boundGroups, vdirty := h.arriveState.vdirty,
             live := h.arriveState.live, pendClr := h.arriveState.pendClr, pendSet := h.arriveState.pendSet } := by
  have form := unfolded_form h
  rw [arriveState_eq]
  generalize h.unfolded = k at form ⊢
  rw [form]
  split
  · rfl
  · rw [foldChunks_form]

/-! ## The numbers of the harts -/

/-- The same harts, by their numbers. -/
def sameHarts (s t : State) : Prop := t.harts.map (·.id) = s.harts.map (·.id)
theorem sameHarts.rfl : sameHarts s s := Eq.refl _
theorem sameHarts.trans {u : State} (h : sameHarts s t) (k : sameHarts t u) : sameHarts s u := Eq.trans k h
theorem accessFrame.sameHarts (h : accessFrame s t) : Machine.sameHarts s t := by unfold Machine.sameHarts; rw [h.harts]
theorem sameHarts_modHartOf (s : State) (i : HartId) {f : Hart → Hart} (keeps : ∀ h, h.id = i → (f h).id = i) :
    sameHarts s (s.modHartOf i f) := by
  unfold sameHarts State.modHartOf
  rw [harts_modHarts, List.map_map]
  refine List.map_congr_left fun h _ => ?_
  by_cases e : h.id = i
  · simp [e, keeps]
  · simp [e]
theorem sameHarts_foldl {α : Type} {f : State → α → State} (step : ∀ s a, sameHarts s (f s a)) : ∀ (l : List α) (s : State),
    sameHarts s (l.foldl f s)
  | [], _ => .rfl
  | a :: l, s => (step s a).trans (sameHarts_foldl step l _)
theorem sameHarts.mem_gang (h : sameHarts s t) {o : Hart} (ho : o ∈ t.harts) : ∃ p, p ∈ s.harts ∧ p.id = o.id := by
  have m : o.id ∈ s.harts.map (·.id) := h ▸ List.mem_map_of_mem ho
  exact List.mem_map.1 m

/-! ## Resumption (12:R342) -/

theorem remapHart_fields (m : Remap) (h : Hart) : (m.hart h).id = h.id := by
  unfold Remap.hart
  split <;> rfl
/-- A hart back on a core. -/
def Remap.back (m : Remap) (h : Hart) : Hart :=
  let h := { m.hart h with resident := true, yielded := false }
  if h.cls == .c then h else h.arriveState
theorem remapBack_fields (m : Remap) (h : Hart) :
    (m.back h).id = h.id ∧ (m.back h).resident = true ∧ (m.back h).yielded = false := by
  unfold Remap.back
  dsimp only
  split
  · exact ⟨remapHart_fields m h, rfl, rfl⟩
  · rw [arriveState_form]
    exact ⟨remapHart_fields m h, rfl, rfl⟩
theorem loadCommon_id {b : List Byte} {h k : Hart} (e : loadCommon b h = some k) : k.id = h.id := by
  unfold loadCommon at e
  dsimp only at e
  split at e
  · cases e
  · cases e; rfl
/-- Whatever a computation answers has a property. -/
def Answers {α : Type} (P : α → Prop) (m : Except Word α) : Prop := ∀ a, m = .ok a → P a
theorem Answers.pure {α : Type} {P : α → Prop} {a : α} (h : P a) : Answers P (pure a) := fun _ e => by cases e; exact h
theorem Answers.bind {α β : Type} {P : β → Prop} {Q : α → Prop} {m : Except Word α} {f : α → Except Word β} (hm : Answers Q m)
    (hf : ∀ a, Q a → Answers P (f a)) : Answers P (m >>= f) := by
  cases m with
  | ok a => exact hf a (hm a rfl)
  | error x => exact fun _ e => nomatch e
theorem Answers.any {α : Type} {m : Except Word α} : Answers (fun _ => True) m := fun _ _ => trivial
/-- Harts and gangs as they were. -/
def sameTeams (s t : State) : Prop := t.harts = s.harts ∧ t.gangs = s.gangs
theorem accessFrame.sameTeams (h : accessFrame s t) : Machine.sameTeams s t := ⟨h.harts, h.gangs⟩
theorem glance_sameTeams (s : State) (a : BitVec 16) (va : Word) (n : Nat) : sameTeams s (s.glance a va n) :=
  (tracksOnly_glance s a va n).accessFrame.sameTeams
theorem sameTeams.trans {u : State} (h : sameTeams s t) (k : sameTeams t u) : sameTeams s u :=
  ⟨k.1.trans h.1, k.2.trans h.2⟩
/-- A hart that has been reloaded, and the state that is left: the same hart, and harts and gangs as they were. -/
def Reloaded (s : State) (h : Hart) (r : Hart × State) : Prop := r.1.id = h.id ∧ sameTeams s r.2
/-- A hart's share is read back. -/
def reloadShare (s : State) (old : Gang) (cls : Class) (h : Hart) : Option Share → Except Word State
  | some sh => do
    let b ← blockRead s old h 4928 sh.size
    pure (s.putN (sharePa cls sh) b)
  | none => pure s
/-- The files of a hart's block are read back. -/
def reloadFiles (s s1 : State) (old new : Gang) (m : Remap) (files : List Nat) (h : Hart) : Except Word State :=
  if files.isEmpty then pure s1
  else do
    let b ← blockRead s old h 4352 576
    pure (giveFiles s1 (files.map fun n => (if n < 64 then renum m.clusters n else 64 + (new.cslots.headD (0, 0)).1 / 16, loadFile new.id b)))
/-- A T hart's tiles are read back. -/
def reloadTiles (s : State) (old : Gang) (n : Nat) (h h1 : Hart) : Except Word Hart :=
  if h.cls == .t then do
    let b ← blockRead s old h (4928 + n) 10240
    pure (loadTiles b h1)
  else pure h1
theorem reload_eq (s : State) (old new : Gang) (m : Remap) (files : List Nat) (h : Hart) : reload s old new m files h = (do
    let c ← blockRead s old h 3328 1024
    let h1 ← ((loadCommon c h).elim (.error (BitVec.ofNat 64 h.ctxBase)) pure : Except Word Hart)
    let s1 ← reloadShare s old new.cls h (new.shares.lookup h.id.ix)
    let s2 ← reloadFiles s s1 old new m files h
    let n := ((new.shares.lookup h.id.ix).map (·.size)).getD 0
    let h2 ← reloadTiles s old n h h1
    pure (h2, s2.glance old.asid (blockVa old h 3328) (1600 + n + if h.cls == .t then 10240 else 0))) := by
  unfold reload
  refine congrArg _ (funext fun c => ?_)
  unfold reloadShare reloadFiles reloadTiles
  dsimp only
  cases loadCommon c h with
  | none => rfl
  | some x =>
    cases new.shares.lookup h.id.ix <;> by_cases f : files.isEmpty = true <;> by_cases k : (h.cls == .t) = true <;> simp [f, k]
theorem reload_leaves (s : State) (old new : Gang) (m : Remap) (files : List Nat) (h : Hart) :
    Answers (Reloaded s h) (reload s old new m files h) := by
  have regs (c : List Byte) (w : Word) : Answers (fun k => k.id = h.id) ((loadCommon c h).elim (.error w) pure : Except Word Hart) := by
    obtain e | ⟨x, e⟩ := Option.eq_none_or_eq_some (loadCommon c h)
    · rw [e, Option.elim_none]
      intro k f
      cases f
    · rw [e, Option.elim_some]
      exact .pure (loadCommon_id e)
  have share : Answers (sameTeams s) (reloadShare s old new.cls h (new.shares.lookup h.id.ix)) := by
    unfold reloadShare
    split
    · exact .bind .any fun b _ => .pure (frame_putN ..).sameTeams
    · exact .pure ⟨Eq.refl _, Eq.refl _⟩
  have files (s1 : State) (k : sameTeams s s1) : Answers (sameTeams s) (reloadFiles s s1 old new m files h) := by
    unfold reloadFiles
    split
    · exact .pure k
    · exact .bind .any fun b _ => .pure (k.trans ⟨Eq.refl _, Eq.refl _⟩)
  have tiles (n : Nat) (k : Hart) (id : k.id = h.id) : Answers (fun k => k.id = h.id) (reloadTiles s old n h k) := by
    unfold reloadTiles
    split
    · exact .bind .any fun b _ => .pure id
    · exact .pure id
  rw [reload_eq]
  exact .bind .any fun c _ => .bind (regs c _) fun h1 id1 => .bind share fun s1 k1 => .bind (files s1 k1) fun s2 k2 =>
    .bind (tiles _ h1 id1) fun h2 id2 => .pure ⟨id2, k2.trans (glance_sameTeams ..)⟩
/-- One hart of a gang resumes: it is put back in its place, beside what else it takes up. -/
theorem resumeHart_form (old new : Gang) (m : Remap) (s : State) (p : Hart × List Nat) :
    ∃ x u, resumeHart old new m s p = u.modHartOf p.1.id (fun _ => x) ∧ sameTeams s u ∧ x.id = p.1.id ∧ x.resident = true ∧
      x.yielded = false := by
  have run := reload_leaves s old new m p.2 p.1
  unfold resumeHart
  extract_lets h files back
  have back_eq : back = m.back := rfl
  rw [back_eq]
  split
  · next k u e =>
    obtain ⟨kid, same⟩ := run _ e
    obtain ⟨id, res, yld⟩ := remapBack_fields m k
    exact ⟨_, _, Eq.refl _, same, id.trans kid, res, yld⟩
  · obtain ⟨id, res, yld⟩ := remapBack_fields m h
    exact ⟨_, _, Eq.refl _, ⟨rfl, rfl⟩, id, res, yld⟩
/-- Harts with these numbers are back. -/
def State.areBack (s : State) (l : List HartId) : Prop := ∀ o, o ∈ s.harts → o.id ∈ l → o.resident = true ∧ o.yielded = false
theorem resumeHarts_back (old new : Gang) (m : Remap) : ∀ (l : List (Hart × List Nat)) (done : List HartId) (s : State), s.areBack done →
    let t := l.foldl (resumeHart old new m) s
    t.areBack (done ++ l.map (·.1.id)) ∧ sameHarts s t ∧ t.gangs = s.gangs
  | [], done, s, h => ⟨by simpa using h, .rfl, Eq.refl _⟩
  | p :: l, done, s, h => by
    obtain ⟨x, u, form, ⟨harts, gangs⟩, id, res, yld⟩ := resumeHart_form old new m s p
    have next : (resumeHart old new m s p).areBack (done ++ [p.1.id]) := by
      intro o ho mine
      rw [form, State.modHartOf, harts_modHarts, List.mem_map] at ho
      obtain ⟨q, hq, rfl⟩ := ho
      by_cases e : q.id = p.1.id
      · simp only [e, beq_self_eq_true, if_true]
        exact ⟨res, yld⟩
      · simp only [beq_eq_false_iff_ne.2 e, Bool.false_eq_true, if_false] at mine ⊢
        exact h q (harts ▸ hq) (by simpa [e] using mine)
    obtain ⟨all, same, keeps⟩ := resumeHarts_back old new m l _ _ next
    rw [List.append_assoc, List.singleton_append] at all
    rw [List.map_cons, List.foldl_cons]
    refine ⟨all, ?_, keeps.trans ?_⟩
    · refine sameHarts.trans ?_ same
      rw [form]
      refine sameHarts.trans (t := u) ?_ (sameHarts_modHartOf u _ fun _ _ => id)
      unfold sameHarts
      rw [harts]
    · rw [form]; exact gangs

theorem insertHart_perm (h : Hart) : ∀ l : List Hart, (insertHart h l).Perm (h :: l)
  | [] => .refl _
  | x :: l => by
    unfold insertHart
    split
    · exact .refl _
    · exact ((insertHart_perm h l).cons x).trans (.swap h x l)
theorem mem_sorted {o : Hart} : o ∈ s.sorted ↔ o ∈ s.harts := by
  unfold State.sorted
  induction s.harts with
  | nil => exact Iff.rfl
  | cons h l ih => rw [List.foldr_cons, (insertHart_perm h _).mem_iff, List.mem_cons, List.mem_cons, ih]
theorem spend_sameTeams (s : State) (cls : Class) (l : List Nat) : sameTeams s (spend s cls l) := by
  unfold spend
  split <;> exact ⟨rfl, rfl⟩
/-- The harts of a gang with the files of their blocks. -/
def resumed (s : State) (g : Gang) (id : BitVec 32) : List (Hart × List Nat) :=
  (s.sorted.filter fun h => h.id.gang == id).map fun h => (h, filesOf s g h.id.ix)
/-- A gang's harts have been put back on the resources it now has. -/
def State.refilled (s : State) (g new : Gang) (id : BitVec 32) (m : Remap) : State :=
  (resumed s g id).foldl (resumeHart g new m) (giveFiles (spend s g.cls new.strings) (new.clusters.map fun c => (c, .fresh id)))
theorem resume_eq {m : Remap} (up : s.up = true) (found : s.gang id = some g) (run : g.run = .saved false) (turn : resumeTurn s g = true)
    (fits : resumePlace s g = some m) : exec (.gangResume id) s =
      .next (((s.refilled g (m.gang g) id m).modGang id fun _ => m.gang g).modHarts (fun h => h.id.gang == id) (Hart.joinWindow s)).syncBuckets := by
  show execGangResume id s = _
  unfold execGangResume
  rw [found]
  dsimp only
  rw [if_pos (by rw [up, run, turn]; rfl), fits]
  rfl
theorem refilled_back (s : State) (g new : Gang) (id : BitVec 32) (m : Remap) :
    (∀ o, o ∈ (s.refilled g new id m).harts → o.id.gang = id → o.resident = true ∧ o.yielded = false) ∧
      (s.refilled g new id m).gangs = s.gangs := by
  have start : sameTeams s (giveFiles (spend s g.cls new.strings) (new.clusters.map fun c => (c, .fresh id))) :=
    (spend_sameTeams ..).trans ⟨rfl, rfl⟩
  unfold State.refilled
  generalize giveFiles _ _ = u at start ⊢
  obtain ⟨back, same, gangs⟩ := resumeHarts_back g new m (resumed s g id) [] u fun _ _ k => absurd k List.not_mem_nil
  refine ⟨fun o ho mine => back o ho ?_, gangs.trans start.2⟩
  obtain ⟨p, hp, e⟩ := same.mem_gang ho
  rw [List.nil_append, ← e]
  unfold resumed
  rw [List.map_map]
  refine List.mem_map.2 ⟨p, List.mem_filter.2 ⟨mem_sorted.2 (start.1 ▸ hp), ?_⟩, rfl⟩
  rw [e, mine, beq_self_eq_true]
theorem resume_leaves (up : s.up = true) (found : s.gang id = some g) (run : g.run = .saved false) (turn : resumeTurn s g = true)
    (fits : (resumePlace s g).isSome = true) : ∃ t, exec (.gangResume id) s = .next t ∧
      (∃ x, x ∈ t.gangs ∧ x.id = id ∧ x.run = .resident) ∧
      ∀ h, h ∈ t.harts → h.id.gang = id → h.resident = true ∧ h.yielded = false := by
  obtain ⟨m, fits⟩ := Option.isSome_iff_exists.1 fits
  obtain ⟨back, gangs⟩ := refilled_back s g (m.gang g) id m
  refine ⟨_, resume_eq up found run turn fits, ⟨m.gang g, ?_, (show (m.gang g).id = g.id from rfl).trans (gang_id found), rfl⟩, fun h hh mine => ?_⟩
  · show m.gang g ∈ ((s.refilled g (m.gang g) id m).modGang id fun _ => m.gang g).gangs
    rw [modGang_map, gangs]
    exact List.mem_map.2 ⟨g, List.mem_of_find?_eq_some found, if_pos (gang_id found)⟩
  · generalize s.refilled g (m.gang g) id m = u at back hh
    have joined : h ∈ ((u.modGang id fun _ => m.gang g).modHarts (fun h => h.id.gang == id) (Hart.joinWindow s)).harts := hh
    rw [harts_modHarts, List.mem_map] at joined
    obtain ⟨o, ho, rfl⟩ := joined
    split at mine
    · next e => rw [if_pos e]; exact back o ho mine
    · next e => rw [if_neg e]; exact back o ho mine

/-! ## Retirement (02:R45) -/

theorem leaveByte_sameHarts (c : Ctx) (base : Word) (s : State) (p : Byte × Nat) : sameHarts s (leaveByte c base s p) := by
  have wrote := frame_writeMem s c (base + BitVec.ofNat 64 p.2) [p.1]
  unfold leaveByte
  split
  · split
    · next e => rw [e] at wrote; exact wrote.sameHarts
    · exact .rfl
  · exact .rfl
theorem leaveDest_sameHarts (s : State) (h : Hart) (b : Binding) : sameHarts s (leaveDest s h b) := by
  unfold leaveDest
  split
  · exact .rfl
  · exact sameHarts_foldl (fun s j => sameHarts_foldl (leaveByte_sameHarts _ _) _ s) _ s
theorem sendPeers_sameHarts (s : State) (l : List (BitVec 64)) (o : Out) : sameHarts s (s.sendPeers l o) := by
  unfold State.sendPeers
  split_ifs <;> exact Eq.refl _
theorem freeBinding_sameHarts (s : State) (i : HartId) (b : Binding) : sameHarts s (freeBinding s i b) := by
  unfold freeBinding
  extract_lets u s1
  have left : sameHarts s u := by
    subst u
    split
    · exact leaveDest_sameHarts ..
    · exact .rfl
  have without : sameHarts s s1 := left.trans (sameHarts_modHartOf u i fun _ e => e)
  clear_value s1
  split
  · refine without.trans ((sendPeers_sameHarts ..).trans (sameHarts_foldl (fun s p => ?_) _ _))
    split <;> exact Eq.refl _
  · exact without
theorem dropHarts_left {p : Hart → Bool} (some_ : ∃ h, h ∈ s.harts ∧ p h = false) : ∀ h, h ∈ (s.dropHarts p).harts → p h = false := by
  have others (h : Hart) (m : h ∈ s.others.filter fun h => !p h) : p h = false := by simpa using (List.mem_filter.1 m).2
  intro h
  unfold State.dropHarts
  dsimp only
  split
  · next first =>
    split
    · next a l e =>
      intro m
      exact others h (e ▸ m)
    · next e =>
      obtain ⟨o, ho, out⟩ := some_
      rcases List.mem_cons.1 ho with rfl | ho
      · rw [first] at out; cases out
      · have m : o ∈ s.others.filter fun h => !p h := List.mem_filter.2 ⟨ho, by rw [out]; rfl⟩
        rw [e] at m
        cases m
  · next first =>
    intro m
    rcases List.mem_cons.1 m with rfl | m
    · simpa using first
    · exact others h m

/-- The bindings of a gang's harts end. -/
def State.unbound (s : State) (id : BitVec 32) : State :=
  ((s.gangHarts id).flatMap fun h => h.bindings.map fun b => (h.id, b)).foldl (fun s p => freeBinding s p.1 p.2) s
theorem unbound_sameHarts (s : State) (id : BitVec 32) : sameHarts s (s.unbound id) :=
  sameHarts_foldl (fun s (p : HartId × Binding) => freeBinding_sameHarts s p.1 p.2) _ s
theorem unbound_none (none_ : ∀ h, h ∈ s.harts → h.id.gang = id → h.bindings = []) : s.unbound id = s := by
  unfold State.unbound
  have empty : ((s.gangHarts id).flatMap fun h => h.bindings.map fun b => (h.id, b)) = [] := by
    rw [List.flatMap_eq_nil_iff]
    intro h hh
    obtain ⟨m, e⟩ := mem_gangHarts.1 hh
    rw [none_ h m e, List.map_nil]
  rw [empty, List.foldl_nil]
/-- A retiring gang's slot and signals are written. -/
def State.signed (s : State) (g : Gang) : State :=
  signalVa (signalVa (slotPut s g.queue g.index 28 (leBytes 1 3)) g.asid g.sig0 (BitVec.allOnes 32)) g.asid g.sig1 (BitVec.allOnes 32)
theorem frame_signed (s : State) (g : Gang) : accessFrame s (s.signed g) :=
  (frame_slotPut ..).trans ((frame_signalVa ..).trans (frame_signalVa ..))
theorem signalVa_zero (s : State) (a : BitVec 16) (v : BitVec 32) : signalVa s a 0 v = s := if_pos rfl
theorem slotPut_wrote {q i off : Nat} {b : List Byte} {pas : List Nat} (ok : s.memOk) (d : pas.Nodup)
    (hx : xlatN s (devCtx (descAsid (s.desc q))) .write (slotVa (s.desc q) i + BitVec.ofNat 64 off) b.length = .ok pas)
    (hp : physCheck s .write (slotVa (s.desc q) i + BitVec.ofNat 64 off) pas false = .ok ()) :
    s.memAfter (slotPut s q i off b) (pas.zip b) := by
  have e : devPut s (descAsid (s.desc q)) (slotVa (s.desc q) i + BitVec.ofNat 64 off) b =
      some ((noteXlat s (devCtx (descAsid (s.desc q))) (slotVa (s.desc q) i + BitVec.ofNat 64 off) b.length).putAt pas b) := by
    unfold devPut
    rw [writeMem, runM_bind, runM_addresses_ok (reachN_ok hx hp)]
    rfl
  unfold slotPut
  dsimp only
  rw [e]
  exact (memAfter_nil (noteXlat_mem ..)).append (putAt_memAfter (by unfold State.memOk; rw [noteXlat_mem]; exact ok) d (xlatN_length hx).symm)
theorem retire_mem (s : State) (g : Gang) : (retire s g).mem = ((s.unbound g.id).signed g).mem := by
  show (((s.unbound g.id).signed g).dropHarts fun h => h.id.gang == g.id).mem = _
  unfold State.dropHarts
  dsimp only
  split
  · split <;> rfl
  · rfl
theorem retire_harts (s : State) (g : Gang) :
    (retire s g).harts = (((s.unbound g.id).signed g).dropHarts fun h => h.id.gang == g.id).harts := rfl
theorem retire_leaves (up : s.up = true) (found : s.gang id = some g) (can : canRetire s g = true) :
    ∃ t, exec (.gangRetire id) s = .next t ∧ (∀ x, x ∈ t.gangs → x.id ≠ id) ∧ (∀ f, f ∈ t.files → f.2.gang ≠ id) ∧
      ((∃ h, h ∈ s.harts ∧ h.id.gang ≠ id) → ∀ h, h ∈ t.harts → h.id.gang ≠ id) ∧
      ∀ p, (∀ h, h ∈ s.harts → h.id.gang = id → h.bindings = []) → g.sig0 = 0 → g.sig1 = 0 → s.memOk →
        xlatN s (devCtx (descAsid (s.desc g.queue))) .write (slotVa (s.desc g.queue) g.index + 28) 1 = .ok [p] →
        physCheck s .write (slotVa (s.desc g.queue) g.index + 28) [p] false = .ok () → s.memAfter t [(p, 3)] := by
  have gid := gang_id found
  have run : exec (.gangRetire id) s = .next (retire s g) := by
    show execGangRetire id s = _
    unfold execGangRetire
    rw [found]
    exact given_next _ _ (by rw [up, can]; rfl)
  refine ⟨_, run, fun x hx => ?_, fun f hf => ?_, fun ⟨h, hh, out⟩ o ho => ?_, fun p none_ sig0 sig1 ok hx hp => ?_⟩
  · have m := (List.mem_filter.1 (show x ∈ List.filter _ _ from hx)).2
    rw [← gid]
    simpa using m
  · have m := (List.mem_filter.1 (show f ∈ List.filter _ _ from hf)).2
    rw [← gid]
    simpa using m
  · have same := (unbound_sameHarts s g.id).trans (frame_signed (s.unbound g.id) g).sameHarts
    rw [retire_harts] at ho
    rw [gid] at same ho
    obtain ⟨q, hq, e⟩ := List.mem_map.1 (show h.id ∈ ((s.unbound id).signed g).harts.map (·.id) from same ▸ List.mem_map_of_mem hh)
    have away := dropHarts_left ⟨q, hq, show (q.id.gang == id) = false by rw [e]; exact beq_false_of_ne out⟩ o ho
    exact ne_of_beq_false away
  · refine (?_ : s.memAfter _ _)
    have wrote := slotPut_wrote (b := leBytes 1 3) ok (List.nodup_singleton p) hx hp
    have e : (s.unbound g.id).signed g = slotPut s g.queue g.index 28 (leBytes 1 3) := by
      rw [unbound_none (gid ▸ none_)]
      unfold State.signed
      rw [sig0, sig1, signalVa_zero, signalVa_zero]
    unfold State.memAfter at wrote ⊢
    rw [retire_mem, e]
    exact wrote

end Sys2Proof.Machine
end

section
/-! SUPPORT. The device's write of an image leaves VDIRTY (05:R166, R169). -/
namespace Sys2Proof.Machine
open Sys2Proof

/-- An action leaves VDIRTY as it was, wherever it stops. -/
def KeepsDirty {α : Type} (m : M α) : Prop := ∀ s, (runM m s).2.hart.vdirty = s.hart.vdirty

section
variable {α β : Type}
theorem KeepsDirty.pure {a : α} : KeepsDirty (pure a) := fun _ => rfl
theorem KeepsDirty.throw {e : Stop} : KeepsDirty (throw e : M α) := fun _ => rfl
theorem KeepsDirty.modify {f : State → State} (hf : ∀ s, (f s).hart = s.hart) : KeepsDirty (modify f : M PUnit) :=
  fun s => congrArg Hart.vdirty (hf s)
theorem KeepsDirty.ves {f : Hart → BitVec 32} : KeepsDirty (modHart fun h => { h with ves := f h }) := fun _ => rfl
theorem KeepsDirty.bind {m : M α} {f : α → M β} (hm : KeepsDirty m) (hf : ∀ a, KeepsDirty (f a)) : KeepsDirty (m >>= f) := by
  intro s
  have k := hm s
  rw [runM_bind]
  split
  · next e => rw [e] at k; exact (hf _ _).trans k
  · next e => rw [e] at k; exact k
theorem KeepsDirty.get {f : State → M β} (hf : ∀ s, KeepsDirty (f s)) : KeepsDirty (get >>= f) := fun s => by
  rw [runM_bind, runM_get]; exact hf s s
theorem KeepsDirty.getHart {f : Hart → M β} (hf : ∀ h, KeepsDirty (f h)) : KeepsDirty (getHart >>= f) := fun s => by
  rw [runM_bind, runM_getHart]; exact hf s.hart s
theorem KeepsDirty.atUnit {i : Nat} {m : M α} (hm : KeepsDirty m) : KeepsDirty (atUnit i m) := by
  intro s
  have k := hm s
  rw [Machine.atUnit, runM_tryCatch]
  split
  · next e => rw [e] at k; exact k
  · next e =>
    rw [e] at k
    refine Eq.trans ?_ k
    split
    · exact KeepsDirty.bind .ves (fun _ => .throw) _
    · rfl
end

theorem KeepsDirty.addresses {c : Ctx} {k : AccKind} {va : Word} {n : Nat} {d : Bool} : KeepsDirty (addresses c k va n d) := by
  refine .get fun s => .bind (.modify fun _ => noteXlat_hart ..) fun _ => ?_
  unfold liftX
  split
  · exact .pure
  · exact .throw
theorem KeepsDirty.imageRead {va : Word} {n : Nat} : KeepsDirty (imageRead true va n) :=
  .get fun _ => .bind .addresses fun _ => .bind (.modify fun _ => (accessFrame_touch ..).hart) fun _ => .get fun _ => .pure
theorem KeepsDirty.imageWrite {va : Word} {b : List Byte} : KeepsDirty (imageWrite true va b) :=
  .get fun _ => .bind .addresses fun _ => .modify fun _ => (accessFrame_put ..).hart
theorem KeepsDirty.imageRest {stop : Option Nat} {o : Nat} : KeepsDirty (imageRest stop o) := by
  unfold Machine.imageRest
  split
  · split
    · exact .bind .ves fun _ => .throw
    · exact .pure
  · exact .pure
theorem KeepsDirty.saveBlocks {base : Word} {stop : Option Nat} {start off v : Nat} :
    ∀ {n j : Nat}, KeepsDirty (saveBlocks true base stop start off v n j)
  | 0, _ => .pure
  | _ + 1, _ => by
    unfold Machine.saveBlocks
    split
    · exact .bind .imageRest fun _ => .bind (.atUnit .imageWrite) fun _ => .saveBlocks
    · exact .saveBlocks
theorem KeepsDirty.saveSpans {base : Word} {mask : BitVec 12} {stop : Option Nat} {start b : Nat} :
    ∀ {l : List (Nat × Nat × Nat)}, KeepsDirty (saveSpans true base mask stop start b l)
  | [] => .pure
  | _ :: _ => by
    unfold Machine.saveSpans
    split
    · exact .getHart fun _ => .bind .saveBlocks fun _ => .saveSpans
    · exact .saveSpans
theorem KeepsDirty.saveImage {base : Word} {mask : BitVec 12} : KeepsDirty (saveImage true base mask) :=
  .getHart fun _ => .bind .imageRead fun _ => .bind .saveSpans fun _ => .bind .imageRest fun _ => .atUnit .imageWrite

theorem and_eq_self_of_not {v n : BitVec 12} (h : v &&& ~~~n = 0) : v &&& n = v := by
  refine BitVec.eq_of_getLsbD_eq fun i hi => ?_
  have k := congrArg (·.getLsbD i) h
  simp [hi] at k ⊢
  exact k
theorem and_not_and_not (v n : BitVec 12) : v &&& ~~~(v &&& ~~~n) = v &&& n := by
  refine BitVec.eq_of_getLsbD_eq fun i hi => ?_
  simp only [BitVec.getLsbD_and, BitVec.getLsbD_not, hi]
  cases v.getLsbD i <;> cases n.getLsbD i <;> rfl
/-- What the Peel leaves dirty: the sections that were not resident. -/
theorem peelImage_dirty {s t : State} (h : runM peelImage s = (.ok (), t)) : t.hart.vdirty = s.hart.vdirty &&& s.hart.nres := by
  rw [peelImage, runM_bind, runM_getHart] at h
  dsimp only at h
  split at h
  · rw [runM_bind, runM_modHart] at h
    dsimp only at h
    rw [runM_bind, runM_tryM] at h
    have keeps := KeepsDirty.saveImage (base := BitVec.ofNat 64 s.hart.ctxBase) (mask := s.hart.vdirty &&& ~~~s.hart.nres)
      { s with hart := { s.hart with ves := 0 } }
    generalize runM (saveImage _ _ _) _ = r at keeps h
    obtain ⟨r | ⟨⟨⟩⟩, u⟩ := r
    · cases h
    · cases h
      show u.hart.vdirty &&& _ = _
      rw [keeps]
      exact and_not_and_not ..
  · next clean =>
    cases h
    exact (and_eq_self_of_not (by simpa using clean)).symm

end Sys2Proof.Machine
end

section
/-! SUPPORT. The end of a hart's mix window (03:R100). -/
namespace Sys2Proof.Machine
open Sys2Proof
variable {s : State}

/-- Windows in a row that have called for a move, with the one that ends. -/
def Hart.mixRuns (h : Hart) : Nat := if h.mixCalls then h.mixRun + 1 else 0
/-- The counts of a new window. -/
def State.newWindow (s : State) : State :=
  { s with hart := { s.hart with mixCount := 0, mixHits := 0, mixMoves := 0, mixRun := s.hart.mixRuns, mixHold := s.hart.mixHold - 1 } }
theorem hartOf_self (s : State) : s.hartOf s.hart.id = some s.hart := by
  unfold State.hartOf State.harts
  rw [List.find?_cons, beq_self_eq_true]
theorem asHart_self (s : State) (f : State → State) : s.asHart s.hart.id f = f s := by
  unfold State.asHart
  rw [if_pos (beq_self_eq_true _)]
theorem mixWindowEnd_next (up : s.up = true) (ready : s.hart.mixReady = true) : exec (.mixWindowEnd s.hart.id) s = .next (mixEnd s) := by
  show execMixWindowEnd s.hart.id s = _
  unfold execMixWindowEnd
  rw [hartOf_self]
  dsimp only
  rw [if_pos (by rw [up, ready]; rfl), asHart_self]
theorem mixWindowEnd_some {i : HartId} {h : Hart} (up : s.up = true) (found : s.hartOf i = some h) (ready : h.mixReady = true) :
    ∃ t, exec (.mixWindowEnd i) s = .next t := by
  refine ⟨s.asHart i mixEnd, ?_⟩
  show execMixWindowEnd i s = _
  unfold execMixWindowEnd
  rw [found]
  dsimp only
  rw [if_pos (by rw [up, ready]; rfl)]
theorem mixEnd_stays (h : s.hart.mixRuns < 4 ∨ s.hart.mixHold ≠ 0) : mixEnd s = s.newWindow := by
  refine if_neg ?_
  show ¬ (decide (4 ≤ s.hart.mixRuns) && decide (s.hart.mixHold = 0)) = true
  simp only [Bool.and_eq_true, decide_eq_true_eq]
  omega
theorem mixEnd_moves (n : 4 ≤ s.hart.mixRuns) (hold : s.hart.mixHold = 0) : mixEnd s = mixMove s.newWindow := by
  refine if_pos ?_
  show (decide (4 ≤ s.hart.mixRuns) && decide (s.hart.mixHold = 0)) = true
  simp only [n, hold, decide_true, Bool.and_self]
theorem newWindow_canArrive (s : State) (dst : Class) : s.newWindow.canArrive dst = s.canArrive dst :=
  canArrive_seat (s := s) (t := s.newWindow) rfl rfl rfl rfl dst
theorem newWindow_mayLeaveV (s : State) : s.newWindow.mayLeaveV = s.mayLeaveV := by
  unfold State.mayLeaveV
  rw [newWindow_canArrive]
  rfl

/-! ## The move that a window calls for -/

/-- The counts start again where the hart stays. -/
def State.restarted (s : State) (hold : Nat) : State := { s with hart := s.hart.restartMix hold }
theorem mixMove_c_stays (cls : s.hart.cls = .c) (full : s.canArrive .v = false) : mixMove s = s.restarted 0 := by
  unfold mixMove
  rw [cls]
  dsimp only
  rw [full]
  rfl
theorem mixMove_c_goes (cls : s.hart.cls = .c) (free : s.canArrive .v = true) : mixMove s = startMove (s.restarted 16) .v := by
  unfold mixMove
  rw [cls]
  dsimp only
  rw [if_pos free]
  rfl
theorem mixMove_v_full (cls : s.hart.cls = .v) (q : s.hart.vq = []) (full : s.canArrive .c = false) : mixMove s = s.restarted 0 := by
  unfold mixMove
  rw [cls]
  dsimp only
  rw [q, full]
  rfl
theorem mixMove_v_busy (cls : s.hart.cls = .v) (h : s.hart.vq ≠ [] ∨ s.canArrive .c = true ∧ s.mayLeaveV = false) : mixMove s = s := by
  unfold mixMove
  rw [cls]
  dsimp only
  by_cases q : s.hart.vq = []
  · obtain h | ⟨free, stays⟩ := h
    · exact absurd q h
    · rw [q, free, stays]
      rfl
  · rw [if_pos (by simpa using q)]
theorem mixMove_v_goes (cls : s.hart.cls = .v) (q : s.hart.vq = []) (may : s.mayLeaveV = true) :
    mixMove s = match runM peelImage s with
      | (.ok _, v) => startMove (v.restarted 16) .c
      | (.error _, v) => v.restarted 0 := by
  unfold mixMove
  rw [cls]
  dsimp only
  rw [q, mayLeaveV_canArrive may, may]
  rfl

/-! ## What a move leaves of the hart -/

theorem leaveWindow_form (s : State) (h : Hart) : h.leaveWindow s =
    { h with fill := (h.leaveWindow s).fill, thrBal := (h.leaveWindow s).thrBal, thrPow := (h.leaveWindow s).thrPow, seen := (0, 0) } := by
  unfold Hart.leaveWindow
  cases c : h.counts with
  | false => rw [passWindow_silent s c]
  | true => rw [passWindow_counts s c]; rfl
/-- A hart that has left in the Peel: the same PC and the same dirty sections. -/
structure Departed (s t : State) (dst : Class) : Prop where
  flying : t.hart.flying = some dst
  resident : t.hart.resident = false
  pc : t.hart.pc = s.hart.pc
  vdirty : t.hart.vdirty = s.hart.vdirty
  agenda : t.agenda = s.agenda ++ [.peelArrival s.hart.id]
/-- The state that a move's state follows, one instruction before. -/
def State.before (s : State) : State := { s with hart := { s.hart with pc := s.hart.pc - 4 } }
theorem before_migrating (s : State) : s.before.migrating = s.restarted 16 := by
  unfold State.migrating State.before State.restarted
  show ({ s with hart := { s.hart.restartMix 16 with pc := s.hart.pc - 4 + 4 } } : State) = _
  rw [BitVec.sub_add_cancel]
  rfl
theorem departed_of_flew {t : State} {dst : Class} (f : s.before.flew t dst) : Departed s t dst := by
  obtain ⟨hart, -, agenda, -⟩ := f
  have left := leaveWindow_form s.before s.before.hart
  refine ⟨?_, ?_, ?_, ?_, agenda⟩
  · rw [hart]
  · rw [hart]
  · rw [hart]
    exact BitVec.sub_add_cancel ..
  · rw [hart, left]
    rfl
theorem startMove_departed_v (free : s.canArrive .v = true) : Departed s (startMove (s.restarted 16) .v) .v := by
  rw [← before_migrating]
  exact departed_of_flew (startMove_flew_v ((canArrive_seat (s := s) (t := s.before) rfl rfl rfl rfl .v).trans free))
theorem startMove_departed_c (free : s.canArrive .c = true) : Departed s (startMove (s.restarted 16) .c) .c := by
  rw [← before_migrating]
  exact departed_of_flew (startMove_flew_c ((canArrive_seat (s := s) (t := s.before) rfl rfl rfl rfl .c).trans free))
theorem startMove_mem (s : State) (dst : Class) : (startMove s dst).mem = s.mem := by
  unfold startMove
  split
  · rfl
  · split
    · split
      · rfl
      · split <;> rfl
    · split <;> rfl
    · rfl

/-- A V hart's move, where the Peel's write comes to this. -/
theorem mixEnd_v_goes (n : 4 ≤ s.hart.mixRuns) (hold : s.hart.mixHold = 0) (cls : s.hart.cls = .v) (q : s.hart.vq = [])
    (may : s.mayLeaveV = true) {r : Except Stop Unit} {v : State} (run : runM peelImage s.newWindow = (r, v)) :
    (mixEnd s).mem = v.mem ∧ (∀ e, r = .error e → mixEnd s = { v with hart := v.hart.restartMix 0 }) ∧
      (r = .ok () → (mixEnd s).hart.flying = some .c ∧ (mixEnd s).hart.resident = false ∧ (mixEnd s).hart.pc = s.hart.pc ∧
        (mixEnd s).hart.vdirty = s.hart.vdirty &&& s.hart.nres ∧ (mixEnd s).agenda = v.agenda ++ [.peelArrival s.hart.id]) := by
  have moves := mixMove_v_goes (s := s.newWindow) cls q ((newWindow_mayLeaveV s).trans may)
  rw [mixEnd_moves n hold, moves, run]
  have frame : imageFrame s.newWindow (runM peelImage s.newWindow).2 := Frames.peelImage s.newWindow
  rw [run] at frame
  replace frame : imageFrame s.newWindow v := frame
  cases r with
  | error e => exact ⟨rfl, fun _ _ => rfl, nofun⟩
  | ok u =>
    have seat : v.hart.seat = s.newWindow.hart.seat := by rw [frame]; rfl
    have free : v.canArrive .c = true := by
      rw [canArrive_seat (s := s.newWindow) (by rw [frame]) (by rw [frame]) frame.others seat, newWindow_canArrive]
      exact mayLeaveV_canArrive may
    have gone := startMove_departed_c free
    refine ⟨startMove_mem .., nofun, fun _ => ⟨gone.flying, gone.resident, gone.pc.trans ?_, gone.vdirty.trans (peelImage_dirty (s := s.newWindow) run), ?_⟩⟩
    · rw [frame]; rfl
    · rw [gone.agenda, frame.hartId]; rfl
/-- A C hart's move. -/
theorem mixEnd_c_goes (n : 4 ≤ s.hart.mixRuns) (hold : s.hart.mixHold = 0) (cls : s.hart.cls = .c) (free : s.canArrive .v = true) :
    Departed s (mixEnd s) .v := by
  have gone := startMove_departed_v ((newWindow_canArrive s .v).trans free)
  rw [← mixMove_c_goes (s := s.newWindow) cls ((newWindow_canArrive s .v).trans free), ← mixEnd_moves n hold] at gone
  exact ⟨gone.flying, gone.resident, gone.pc, gone.vdirty, gone.agenda⟩

end Sys2Proof.Machine
end

section
/-! SUPPORT. A hart's arrival from the Peel (02:R53-R55; 05:R160, R165; 12:R344). -/
namespace Sys2Proof.Machine
open Sys2Proof
variable {s : State} {i : HartId} {dst : Class} {p : Nat × Nat × Nat}

/-- A hart that has arrived: lost where its tile has stopped, and told of an error in its transfer. -/
def Hart.settled (s : State) (dst : Class) (p : Nat × Nat × Nat) (err : Bool) (g : Hart) : Hart :=
  { g.joinWindow s with
    dead := g.dead || (dst == .v && s.vTripped p.1)
    mcheck := if err then g.mcheck ++ [mcheckV 2 0] else g.mcheck }
/-- A hart as it arrives at a place. -/
def Hart.landed (s : State) (dst : Class) (p : Nat × Nat × Nat) (h : Hart) : Hart :=
  (arrive (if h.peelErr then h.lose s.tick else h) dst p).settled s dst p h.peelErr
/-- The state after an arrival. -/
def State.peeled (s : State) (i : HartId) (dst : Class) (p : Nat × Nat × Nat) : State :=
  ((s.land i).modHartOf i (Hart.landed s dst p)).syncBuckets
theorem peelArrival_next {h : Hart} (up : s.up = true) (found : s.hartOf i = some h) (fly : h.flying = some dst) (goal : h.goal = some p) :
    exec (.peelArrival i) s = .next (s.peeled i dst p) := by
  show execPeelArrival i s = _
  unfold execPeelArrival
  rw [found]
  dsimp only
  rw [fly, goal]
  exact given_next _ _ up
theorem land_none (h : ((s.gang i.gang).bind fun g => g.landing.lookup i.ix) = none) : s.land i = s := by
  unfold State.land
  rw [h]
theorem land_some {sh : Share} (h : ((s.gang i.gang).bind fun g => g.landing.lookup i.ix) = some sh) :
    s.land i = s.bindShare i.gang i.ix sh := by
  unfold State.land
  rw [h]
theorem land_form (s : State) (i : HartId) : s.land i =
    { s with gangs := (s.land i).gangs, mem := (s.land i).mem, bad := (s.land i).bad, unseen := (s.land i).unseen } := by
  unfold State.land
  split <;> rfl
theorem land_harts (s : State) (i : HartId) : (s.land i).harts = s.harts := by
  rw [land_form]
  rfl
/-- A share bound on arrival reads zero (09:R255). -/
theorem land_clears {sh : Share} (ok : s.memOk) (h : ((s.gang i.gang).bind fun g => g.landing.lookup i.ix) = some sh) (a : Nat) :
    memRead (s.land i).mem a = if sh.holds a then 0 else memRead s.mem a := by
  rw [land_some h]
  show memRead (s.mem.filter fun c => !sh.holds c.1) a = _
  rw [memRead_filter (fun a => !sh.holds a) a ok]
  cases sh.holds a <;> rfl
theorem peeled_form (s : State) (i : HartId) (dst : Class) (p : Nat × Nat × Nat) :
    s.peeled i dst p = { s with
      hart := (s.peeled i dst p).hart, others := (s.peeled i dst p).others, bellows := (s.peeled i dst p).bellows,
      gangs := (s.land i).gangs, mem := (s.land i).mem, bad := (s.land i).bad, unseen := (s.land i).unseen } := by
  have form := land_form s i
  unfold State.peeled
  generalize s.land i = u at form ⊢
  rw [form]
  rfl
theorem peeled_harts (s : State) (i : HartId) (dst : Class) (p : Nat × Nat × Nat) :
    (s.peeled i dst p).harts = s.harts.map fun o => if o.id == i then o.landed s dst p else o := by
  show ((s.land i).modHartOf i (Hart.landed s dst p)).harts = _
  unfold State.modHartOf
  rw [harts_modHarts, land_harts]
theorem mem_peeled_same {o : Hart} (m : o ∈ s.harts) (e : o.id = i) : o.landed s dst p ∈ (s.peeled i dst p).harts := by
  rw [peeled_harts, List.mem_map]
  exact ⟨o, m, if_pos (beq_iff_eq.2 e)⟩
theorem mem_peeled_other {o : Hart} (m : o ∈ s.harts) (e : o.id ≠ i) : o ∈ (s.peeled i dst p).harts := by
  rw [peeled_harts, List.mem_map]
  exact ⟨o, m, if_neg (by simpa using e)⟩

/-! ## The hart at its place -/

theorem arrive_c (h : Hart) (p : Nat × Nat × Nat) : arrive h .c p =
    { h with cls := .c, core := p.1, slot := p.2.1, lg := p.2.2, flying := none, goal := none, peelErr := false, resident := true } := rfl
/-- A hart at its place on V before its vector state is there. -/
def Hart.onV (h : Hart) (p : Nat × Nat × Nat) : Hart :=
  { h with cls := .v, core := p.1, slot := p.2.1, lg := p.2.2, flying := none, goal := none, peelErr := false, resident := true }
/-- The vector configuration at a VLEN. -/
def Hart.fitted (h : Hart) : VCfg := { h.vc with vl := BitVec.ofNat 32 (min h.vc.vl.toNat (vlmaxOf h.vlen h.vc.vt)) }
theorem arrive_v (h : Hart) (p : Nat × Nat × Nat) : arrive h .v p =
    { (h.onV p).arriveState with vc := (h.onV p).fitted, pcfg := (h.onV p).fitted, desc := none } := rfl
theorem arrive_keeps (h : Hart) (dst : Class) (p : Nat × Nat × Nat) : (arrive h dst p).id = h.id ∧ (arrive h dst p).mcheck = h.mcheck := by
  cases dst with
  | c => exact ⟨rfl, rfl⟩
  | t => exact ⟨rfl, rfl⟩
  | v => rw [arrive_v, arriveState_form]; exact ⟨rfl, rfl⟩
theorem lose_keeps (n : Nat) (h : Hart) : (h.lose n).id = h.id ∧ (h.lose n).mcheck = h.mcheck := by
  unfold Hart.lose
  exact ⟨Eq.refl _, Eq.refl _⟩
theorem landed_lost {h : Hart} (e : h.peelErr = true) :
    (h.landed s dst p).id = h.id ∧ (h.landed s dst p).mcheck = h.mcheck ++ [mcheckV 2 0] := by
  obtain ⟨id, mcheck⟩ := arrive_keeps (h.lose s.tick) dst p
  obtain ⟨lid, lmcheck⟩ := lose_keeps s.tick h
  unfold Hart.landed
  rw [e, if_pos rfl]
  exact ⟨id.trans lid, congrArg (· ++ [mcheckV 2 0]) (mcheck.trans lmcheck)⟩
theorem landed_ok {h : Hart} (e : h.peelErr = false) : h.landed s dst p =
    { (arrive h dst p).joinWindow s with dead := (arrive h dst p).dead || (dst == .v && s.vTripped p.1) } := by
  unfold Hart.landed
  rw [e, if_neg Bool.false_ne_true]
  rfl
theorem landed_c {h : Hart} (e : h.peelErr = false) : h.landed s .c p = { h with
    cls := .c, core := p.1, slot := p.2.1, lg := p.2.2, flying := none, goal := none, resident := true, peelErr := false,
    seen := (Config.elapsed s.tick (2 * hartSite h.id) % 65, 0) } := by
  rw [landed_ok e, arrive_c, show (Class.c == Class.v) = false from rfl, Bool.false_and, Bool.or_false]
  rfl

/-! ## Vector registers on arrival -/

theorem resetSection_v (h : Hart) (n : Nat) (k : Fin 32) : (h.resetSection n).v[k] = if n < 4 ∧ k.val / 8 = n then 0 else h.v[k] := by
  unfold Hart.resetSection
  by_cases low : n < 4
  · rw [if_pos low]
    simp only [low, true_and, Fin.getElem_fin, Vector.getElem_ofFn]
  · have stays : (if n < 4 ∧ k.val / 8 = n then 0 else h.v[k]) = h.v[k] := if_neg fun both => low both.1
    rw [stays, if_neg low]
    split_ifs <;> rfl
theorem resetSections_v (h : Hart) (mask : BitVec 12) (k : Fin 32) : ∀ n : Nat,
    (h.resetSections mask n).v[k] = if k.val / 8 < n ∧ mask.getLsbD (k.val / 8) = true then 0 else h.v[k]
  | 0 => by simp [Hart.resetSections]
  | n + 1 => by
    have ih := resetSections_v h mask k n
    have low : k.val / 8 < 4 := by omega
    rw [Hart.resetSections]
    by_cases here : k.val / 8 = n
    · subst here
      split
      · next bit => rw [resetSection_v, if_pos ⟨low, rfl⟩, if_pos ⟨Nat.lt_succ_self _, bit⟩]
      · next bit => rw [ih, if_neg fun both => bit both.2, if_neg fun both => bit both.2]
    · have step : k.val / 8 < n + 1 ↔ k.val / 8 < n := by omega
      simp only [step]
      rw [← ih]
      split
      · rw [resetSection_v, if_neg fun both => here both.2]
      · rfl
theorem boundGroups_none {h : Hart} (none_ : h.bindings = []) : h.boundGroups = 0 := by
  unfold Hart.boundGroups
  rw [none_]
  rfl
/-- A group of registers that is neither live nor bound reads zero. -/
theorem arriveState_getV {h : Hart} (none_ : h.bindings = []) {r : Reg} (dead : h.live.getLsbD (r.toNat / 8) = false) :
    h.arriveState.getV r = 0 := by
  have low : r.toNat / 8 < 12 := by have := r.isLt; omega
  rw [arriveState_form]
  show h.unfolded.v[(⟨r.toNat, r.isLt⟩ : Fin 32)] = 0
  unfold Hart.unfolded
  rw [boundGroups_none none_]
  show (h.resetSections _ 12).v[(⟨r.toNat, r.isLt⟩ : Fin 32)] = 0
  refine (resetSections_v ..).trans (if_pos ⟨low, ?_⟩)
  show (~~~(h.live ||| 0#12)).getLsbD (r.toNat / 8) = true
  rw [BitVec.or_zero, BitVec.getLsbD_not, dead, decide_eq_true low]
  rfl
/-- What an arrival on V leaves of the hart's registers and configuration. -/
theorem landed_v_fields {h : Hart} (e : h.peelErr = false) :
    let x := h.landed s .v p
    x.id = h.id ∧ x.cls = .v ∧ x.flying = none ∧ x.resident = true ∧ (h.bindings = [] → x.nres = h.live) ∧ x.x = h.x ∧ x.f = h.f ∧
      x.pc = h.pc ∧ x.vc.vl.toNat = min h.vc.vl.toNat (4096 * p.2.2 / etSew h.vc.vt.et) ∧
      (h.bindings = [] → ∀ n : Reg, h.live.getLsbD (n.toNat / 8) = false → x.getV n = 0) := by
  have form := arriveState_form (h.onV p)
  have zero (none_ : h.bindings = []) (n : Reg) (dead : h.live.getLsbD (n.toNat / 8) = false) : (h.onV p).arriveState.getV n = 0 :=
    arriveState_getV (h := h.onV p) none_ dead
  have groups (none_ : h.bindings = []) : (h.onV p).boundGroups = 0 := boundGroups_none (h := h.onV p) none_
  rw [landed_ok e, arrive_v]
  generalize (h.onV p).arriveState = g at form zero
  refine ⟨by rw [form]; rfl, by rw [form]; rfl, by rw [form]; rfl, by rw [form]; rfl, fun none_ => ?_, by rw [form]; rfl, by rw [form]; rfl,
    by rw [form]; rfl, ?_, fun none_ n dead => zero none_ n dead⟩
  · rw [form]
    show h.live &&& ~~~(h.onV p).boundGroups = _
    rw [groups none_, show ~~~(0 : BitVec 12) = BitVec.allOnes 12 from rfl, BitVec.and_allOnes]
  · show (BitVec.ofNat 32 (min h.vc.vl.toNat (4096 * p.2.2 / etSew h.vc.vt.et))).toNat = _
    rw [BitVec.toNat_ofNat]
    exact Nat.mod_eq_of_lt (lt_of_le_of_lt (Nat.min_le_left ..) h.vc.vl.isLt)

/-! ## The event -/

theorem arrival_errs {h : Hart} (found : s.hartOf i = some h) (err : h.peelErr = true) :
    ∃ x, x ∈ (s.peeled i dst p).harts ∧ x.id = i ∧ x.mcheck = h.mcheck ++ [mcheckV 2 0] := by
  obtain ⟨id, mcheck⟩ := landed_lost (s := s) (dst := dst) (p := p) err
  exact ⟨_, mem_peeled_same (List.mem_of_find?_eq_some found) (hartOf_id found), id.trans (hartOf_id found), mcheck⟩
/-- A hart that arrives on C, where no share waits for it. -/
def Hart.landsC (s : State) (i : HartId) (p : Nat × Nat × Nat) (o : Hart) : Hart :=
  if o.id = i then { o with
    cls := .c, core := p.1, slot := p.2.1, lg := p.2.2, flying := none, goal := none, resident := true, peelErr := false,
    seen := (Config.elapsed s.tick (2 * hartSite o.id) % 65, 0) } else o
theorem peeled_c (first : ((s.gang i.gang).bind fun g => g.landing.lookup i.ix) = none)
    (whole : ∀ o, o ∈ s.harts → o.id = i → o.peelErr = false) :
    s.peeled i .c p = { s with hart := s.hart.landsC s i p, others := s.others.map (Hart.landsC s i p), bellows := (s.peeled i .c p).bellows } := by
  have each (o : Hart) (m : o ∈ s.harts) : (if o.id == i then o.landed s .c p else o) = o.landsC s i p := by
    unfold Hart.landsC
    by_cases e : o.id = i
    · rw [if_pos (beq_iff_eq.2 e), if_pos e, landed_c (whole o m e)]
    · rw [if_neg (by simpa using e), if_neg e]
  have list := (peeled_harts s i .c p).trans (List.map_congr_left each)
  obtain ⟨hart, others⟩ := List.cons.inj list
  have form := peeled_form s i .c p
  rw [land_none first, hart, others] at form
  exact form
/-- What an arrival on V leaves. -/
theorem peeled_v (whole : ∀ o, o ∈ s.harts → o.id = i → o.peelErr = false) (ok : s.memOk) :
    let t := s.peeled i .v p
    let first := (s.gang i.gang).bind fun g => g.landing.lookup i.ix
    t = { s with
      hart := t.hart, others := t.others, bellows := t.bellows, gangs := t.gangs, mem := t.mem, bad := t.bad, unseen := t.unseen } ∧
    (first = none → t.mem = s.mem ∧ t.gangs = s.gangs) ∧
    (∀ sh, first = some sh → ∀ a, memRead t.mem a = if sh.holds a then 0 else memRead s.mem a) ∧
    ∀ o, o ∈ s.harts → (o.id ≠ i → o ∈ t.harts) ∧ (o.id = i → ∃ x, x ∈ t.harts ∧ x.id = i ∧ x.cls = .v ∧ x.flying = none ∧
      x.resident = true ∧ (o.bindings = [] → x.nres = o.live) ∧ x.x = o.x ∧ x.f = o.f ∧ x.pc = o.pc ∧
      x.vc.vl.toNat = min o.vc.vl.toNat (4096 * p.2.2 / etSew o.vc.vt.et) ∧
      (o.bindings = [] → ∀ n : Reg, o.live.getLsbD (n.toNat / 8) = false → x.getV n = 0)) := by
  intro t first
  have form := peeled_form s i .v p
  have mem : t.mem = (s.land i).mem := Eq.refl _
  have gangs : t.gangs = (s.land i).gangs := Eq.refl _
  refine ⟨?_, fun none_ => ?_, fun sh some_ a => ?_, fun o m => ⟨mem_peeled_other m, fun e => ?_⟩⟩
  · exact form
  · rw [mem, gangs, land_none none_]
    exact ⟨Eq.refl _, Eq.refl _⟩
  · rw [mem]
    exact land_clears ok some_ a
  · obtain ⟨id, rest⟩ := landed_v_fields (s := s) (p := p) (whole o m e)
    exact ⟨_, mem_peeled_same m e, id.trans e, rest⟩

end Sys2Proof.Machine
end

section
/-! SUPPORT. Gangs and their harts' moves (02:R42-R55; 03:R72-R80, R100; 12:R340-R342). -/
namespace Sys2Proof.Machine
open Sys2Proof

/-- Settles O47: each event's clause rests on what the scheduler's choice and its writes leave of the harts. -/
theorem gangEvents : Obligations.GangEvents := by
  refine ⟨fun s g id hid up => ⟨fun h u p next fits plan => gangDispatch_leaves up next fits plan, preemptDecision_leaves up, fun found =>
    ⟨deschedule_next up found, restore_next up found, fun w can saved => ?_, fun can => ⟨_, gangSave_eq up found can⟩,
      resume_leaves up found, retire_leaves up found⟩, fun ready => ?_, fun h found ready => mixWindowEnd_some up found ready,
    fun h dst p found fly goal => ?_⟩, ?_⟩
  · exact gangSave_leaves up found can (by rw [windowsLeft_form]; exact saved)
  · have run := mixWindowEnd_next up ready
    refine ⟨fun stays => ?_, fun n hold cls full => ?_, fun n hold cls q full => ?_, fun n hold cls busy => ?_,
      fun n hold cls q may r v peel => ?_, fun n hold cls free => ?_⟩
    · rw [run, mixEnd_stays stays]; rfl
    · rw [run, mixEnd_moves n hold, mixMove_c_stays (s := s.newWindow) cls ((newWindow_canArrive s .v).trans full)]; rfl
    · rw [run, mixEnd_moves n hold, mixMove_v_full (s := s.newWindow) cls q ((newWindow_canArrive s .c).trans full)]; rfl
    · rw [run, mixEnd_moves n hold, mixMove_v_busy (s := s.newWindow) cls ?_]
      · rfl
      · rw [newWindow_canArrive, newWindow_mayLeaveV]; exact busy
    · exact ⟨_, run, mixEnd_v_goes n hold cls q may peel⟩
    · obtain ⟨flying, resident, pc, -, agenda⟩ := mixEnd_c_goes n hold cls free
      exact ⟨_, run, flying, resident, pc, agenda⟩
  · intro first whole
    have run := peelArrival_next up found fly goal
    refine ⟨⟨_, run, arrival_errs found⟩, fun cls none_ sound => ?_, fun cls sound ok => ?_⟩
    · subst cls
      exact ⟨_, run.trans (congrArg _ (peeled_c none_ sound))⟩
    · subst cls
      exact ⟨_, run, peeled_v sound ok⟩
  · intro s g x h r p
    exact ⟨canSave_iff s g, canRetire_iff s g, canDeschedule_iff s g, pinnedHeads_perm s, pinnedHeads_sorted s, victimOk_iff s h x,
      ⟨candidates s h, sortBy_perm _ _, candidates_sorted s h, victimsFor_iff s h⟩, fun _ _ _ => victims_first, victims_none,
      fun fits => ⟨place_strings fits, place_clusters fits⟩, place_none⟩

end Sys2Proof.Machine
end

section
/-! SUPPORT. Fields of machine words: what a field of joined words is, and when joined words are a given word. The laws of the type of the
library are stated at a sum of widths; `no_index` lets simp use them where the sum has been computed (04:R105, R107). -/
namespace Sys2Proof

section
variable {v w lo len s l : Nat} {x : BitVec v} {y : BitVec w}

@[simp] theorem extractLsb'_append_high (h : w ≤ lo) :
    BitVec.extractLsb' lo len (HAppend.hAppend (γ := no_index (BitVec (v + w))) x y) = x.extractLsb' (lo - w) len :=
  BitVec.extractLsb'_append_eq_of_le h
@[simp] theorem extractLsb'_append_low (h : lo + len ≤ w) :
    BitVec.extractLsb' lo len (HAppend.hAppend (γ := no_index (BitVec (v + w))) x y) = y.extractLsb' lo len :=
  BitVec.extractLsb'_append_eq_of_add_le h
@[simp] theorem extractLsb'_whole : x.extractLsb' 0 v = x := BitVec.extractLsb'_eq_self
@[simp] theorem extractLsb'_extractLsb'_of_le (h : lo + len ≤ l) :
    (x.extractLsb' s l).extractLsb' lo len = x.extractLsb' (s + lo) len := by
  ext i hi
  simp [show lo + i < l by omega, Nat.add_assoc]
theorem extractLsb'_split (x : BitVec v) (lo m n : Nat) :
    x.extractLsb' lo (m + n) = x.extractLsb' (lo + n) m ++ x.extractLsb' lo n :=
  (BitVec.extractLsb'_append_extractLsb'_eq_extractLsb' rfl).symm
/-- Joined words are a word when each is the field of it in its place. -/
theorem append_eq_iff {z : BitVec (v + w)} :
    (@Eq (no_index (BitVec (v + w))) (HAppend.hAppend (γ := no_index (BitVec (v + w))) x y) z) ↔
      x = z.extractLsb' w v ∧ y = z.extractLsb' 0 w := by
  constructor
  · rintro rfl
    simp
  · rintro ⟨rfl, rfl⟩
    rw [BitVec.extractLsb'_append_extractLsb'_eq_extractLsb' (by omega), BitVec.extractLsb'_eq_self]
theorem append_fields (z : BitVec (v + w)) : z.extractLsb' w v ++ z.extractLsb' 0 w = z := append_eq_iff.mpr ⟨rfl, rfl⟩
theorem eq_ofNat_of_toNat {n : Nat} (h : x.toNat = n) : x = BitVec.ofNat v n := by
  rw [← h, BitVec.ofNat_toNat, BitVec.setWidth_eq]
theorem toNat_eq_iff {n : Nat} (h : n < 2 ^ v) : x.toNat = n ↔ x = BitVec.ofNat v n :=
  ⟨eq_ofNat_of_toNat, fun e => by rw [e, BitVec.toNat_ofNat, Nat.mod_eq_of_lt h]⟩
theorem getLsbD_eq_field (n : Nat) : x.getLsbD n = (x.extractLsb' n 1 == 1#1) := by
  rw [Bool.eq_iff_iff, beq_iff_eq]
  constructor
  · intro h
    ext i hi
    simp [show i = 0 by omega, h]
  · intro h
    simpa using congrArg (·.getLsbD 0) h
@[simp] theorem toNat_zero_append (m : Nat) : (HAppend.hAppend (γ := no_index (BitVec (m + v))) (0#m) x).toNat = x.toNat := by
  simp
@[simp] theorem setWidth_zero_append (m : Nat) :
    (HAppend.hAppend (γ := no_index (BitVec (m + v))) (0#m) x).setWidth v = x := by
  apply BitVec.eq_of_toNat_eq
  simp
end

/-! ## Small numbers -/

@[simp] theorem toNat_lt_eight {x : BitVec 5} : x.toNat < 8 ↔ x.extractLsb' 3 2 = 0#2 := by revert x; decide
@[simp] theorem toNat_lt_four {x : BitVec 5} : x.toNat < 4 ↔ x.extractLsb' 2 3 = 0#3 := by revert x; decide
theorem toNat_lt_twentyfive {x : BitVec 5} : x.toNat < 25 ↔ x.toNat ≤ 24 := Nat.lt_succ_iff
theorem eq_three_of_ne {x : BitVec 2} (a : x ≠ 0#2) (b : x ≠ 1#2) (c : x ≠ 2#2) : x = 3#2 := by revert x; decide
theorem eq_zero_of_ne_one {x : BitVec 1} (h : x ≠ 1#1) : x = 0#1 := by revert x; decide
/-- A function byte is its form and its operation (16:R466, R478). -/
theorem fn_eq_iff {x y : BitVec 8} :
    x = y ↔ x.extractLsb' 6 2 = y.extractLsb' 6 2 ∧ x.extractLsb' 0 6 = y.extractLsb' 0 6 := by
  rw [← append_eq_iff (v := 2) (w := 6), append_fields (v := 2) (w := 6) x]

/-! ## Bits as fields -/

@[simp] theorem bitB_false : bitB false = 0#1 := rfl
@[simp] theorem bitB_true : bitB true = 1#1 := rfl
@[simp] theorem bitB_beq_one (b : Bool) : (bitB b == 1#1) = b := by cases b <;> rfl
@[simp] theorem bitB_of_beq_one (x : BitVec 1) : bitB (x == 1#1) = x := by revert x; decide
@[simp] theorem bitB_inj {x y : Bool} : bitB x = bitB y ↔ x = y := by cases x <;> cases y <;> simp
theorem zero_append_bitB {x : BitVec 2} (h : x.toNat ≤ 1) : 0#1 ++ bitB (x == 1#2) = x := by revert x; decide

/-! ## Fields of a parcel -/

theorem extractLsb'_eq_fld (h : Parcel) (lo len : Nat) : h.extractLsb' lo len = fld h lo len := rfl
@[simp] theorem extractLsb'_fld {h : Parcel} {s l lo len : Nat} (e : lo + len ≤ l) :
    (fld h s l).extractLsb' lo len = fld h (s + lo) len :=
  extractLsb'_extractLsb'_of_le e
theorem fld_split (h : Parcel) (lo m n : Nat) : fld h lo (m + n) = fld h (lo + n) m ++ fld h lo n := extractLsb'_split h lo m n
theorem bit_eq_field (h : Parcel) (n : Nat) : bit h n = (h.extractLsb' n 1 == 1#1) := getLsbD_eq_field n
@[simp] theorem fld_one_eq_bitB (h : Parcel) (n : Nat) : fld h n 1 = bitB (bit h n) := by
  rw [bit_eq_field, bitB_of_beq_one]
  rfl
theorem fld_major (h : Parcel) : (fld h 26 6).toNat = h.toNat / 2 ^ 26 := by
  simp only [fld, BitVec.extractLsb'_toNat, Nat.shiftRight_eq_div_pow]
  omega

end Sys2Proof
end

section
/-! SUPPORT. The code tables read both ways (04:R109-R113, R118-R122, R129-R131, R135): a code names a value exactly when it is the value's
code. -/
namespace Sys2Proof

@[simp] theorem condOf_eq_some {x : BitVec 3} {z : Cond} : condOf x.toNat = some z ↔ x = condCode z := by
  cases z <;> revert x <;> decide
@[simp] theorem cmpOf_eq_some {x : BitVec 3} {z : Cmp} : cmpOf x.toNat = some z ↔ x = cmpCode z := by
  cases z <;> revert x <;> decide
@[simp] theorem scopeOf_eq_some {x : BitVec 3} {z : Scope} : scopeOf x.toNat = some z ↔ x = scopeCode z := by
  cases z <;> revert x <;> decide
@[simp] theorem rmOf_eq_some {x : BitVec 3} {z : Rm} : rmOf x.toNat = some z ↔ x = rmCode z := by
  cases z <;> revert x <;> decide
@[simp] theorem rmDynOf_eq_some {x : BitVec 3} {z : RmDyn} : rmDynOf x.toNat = some z ↔ x = rmDynCode z := by
  rcases z with (_ | _) | _ <;> revert x <;> decide
@[simp] theorem ffmtOf_eq_some {x : BitVec 3} {z : FFmt} : ffmtOf x.toNat = some z ↔ x = ffmtCode z := by
  cases z <;> revert x <;> decide
@[simp] theorem etOf_eq_some {x : BitVec 5} {z : ET} : etOf x.toNat = some z ↔ x = etCode z := by
  cases z <;> revert x <;> decide
@[simp] theorem blOf_eq_some {x : BitVec 2} {z : Bl} : blOf x.toNat = some z ↔ x = blCode z := by
  cases z <;> revert x <;> decide
@[simp] theorem accOf_eq_some {x : BitVec 2} {z : Acc} : accOf x.toNat = some z ↔ x = accCode z := by
  cases z <;> revert x <;> decide
@[simp] theorem amoOf_eq_some {x : BitVec 4} {z : AmoOp} : amoOf x.toNat = some z ↔ x = amoCode z := by
  cases z <;> revert x <;> decide
@[simp] theorem ldSizeOf_eq_some {x : BitVec 3} {z : LdSize} : ldSizeOf x.toNat = some z ↔ x = ldSizeCode z := by
  cases z <;> revert x <;> decide
@[simp] theorem sizeOf_eq_some {x : BitVec 2} {z : Size} : sizeOf x.toNat = some z ↔ x = sizeCode z := by
  cases z <;> revert x <;> decide
@[simp] theorem asizeOf_eq_some {x : BitVec 2} {z : ASize} : asizeOf x.toNat = some z ↔ x = asizeCode z := by
  cases z <;> revert x <;> decide
@[simp] theorem accSetOf_eq_some {x : BitVec 2} {z : AccSet} : accSetOf x.toNat = some z ↔ x = accSetCode z := by
  cases z <;> revert x <;> decide
@[simp] theorem fcvtOf_eq_some {x : BitVec 5} {z : FcvtKind} : fcvtOf x.toNat = some z ↔ x = fcvtCode z := by
  rcases z with (_ | _) | (_ | _) | (_ | _) <;> revert x <;> decide
@[simp] theorem fmovOf_eq_some {x : BitVec 5} {z : FmovDir} : fmovOf x.toNat = some z ↔ x = fmovCode z := by
  cases z <;> revert x <;> decide
@[simp] theorem redOf_eq_some {x : BitVec 4} {z : RedOp} : redOf x.toNat = some z ↔ x = redCode z := by
  cases z <;> revert x <;> decide
@[simp] theorem unitOf_eq_some {x : BitVec 3} {z : VUnit} : unitOf x.toNat = some z ↔ x = unitCode z := by
  cases z <;> revert x <;> decide
@[simp] theorem tileOf_eq_some {x : BitVec 5} {z : Tile} : tileOf x.toNat = some z ↔ x = tileCode z := by
  rcases z with n | n <;> revert x n <;> decide

@[simp] theorem condOf_condCode (z : Cond) : condOf (condCode z).toNat = some z := condOf_eq_some.mpr rfl
@[simp] theorem cmpOf_cmpCode (z : Cmp) : cmpOf (cmpCode z).toNat = some z := cmpOf_eq_some.mpr rfl
@[simp] theorem scopeOf_scopeCode (z : Scope) : scopeOf (scopeCode z).toNat = some z := scopeOf_eq_some.mpr rfl
@[simp] theorem rmOf_rmCode (z : Rm) : rmOf (rmCode z).toNat = some z := rmOf_eq_some.mpr rfl
@[simp] theorem rmDynOf_rmDynCode (z : RmDyn) : rmDynOf (rmDynCode z).toNat = some z := rmDynOf_eq_some.mpr rfl
@[simp] theorem ffmtOf_ffmtCode (z : FFmt) : ffmtOf (ffmtCode z).toNat = some z := ffmtOf_eq_some.mpr rfl
@[simp] theorem etOf_etCode (z : ET) : etOf (etCode z).toNat = some z := etOf_eq_some.mpr rfl
@[simp] theorem blOf_blCode (z : Bl) : blOf (blCode z).toNat = some z := blOf_eq_some.mpr rfl
@[simp] theorem accOf_accCode (z : Acc) : accOf (accCode z).toNat = some z := accOf_eq_some.mpr rfl
@[simp] theorem amoOf_amoCode (z : AmoOp) : amoOf (amoCode z).toNat = some z := amoOf_eq_some.mpr rfl
@[simp] theorem ldSizeOf_ldSizeCode (z : LdSize) : ldSizeOf (ldSizeCode z).toNat = some z := ldSizeOf_eq_some.mpr rfl
@[simp] theorem sizeOf_sizeCode (z : Size) : sizeOf (sizeCode z).toNat = some z := sizeOf_eq_some.mpr rfl
@[simp] theorem asizeOf_asizeCode (z : ASize) : asizeOf (asizeCode z).toNat = some z := asizeOf_eq_some.mpr rfl
@[simp] theorem accSetOf_accSetCode (z : AccSet) : accSetOf (accSetCode z).toNat = some z := accSetOf_eq_some.mpr rfl
@[simp] theorem fcvtOf_fcvtCode (z : FcvtKind) : fcvtOf (fcvtCode z).toNat = some z := fcvtOf_eq_some.mpr rfl
@[simp] theorem fmovOf_fmovCode (z : FmovDir) : fmovOf (fmovCode z).toNat = some z := fmovOf_eq_some.mpr rfl
@[simp] theorem redOf_redCode (z : RedOp) : redOf (redCode z).toNat = some z := redOf_eq_some.mpr rfl
@[simp] theorem unitOf_unitCode (z : VUnit) : unitOf (unitCode z).toNat = some z := unitOf_eq_some.mpr rfl
@[simp] theorem tileOf_tileCode (z : Tile) : tileOf (tileCode z).toNat = some z := tileOf_eq_some.mpr rfl
@[simp] theorem sizeOf_eq_some_of_three {x : BitVec 3} {z : Size} : sizeOf x.toNat = some z ↔ x = 0#1 ++ sizeCode z := by
  cases z <;> revert x <;> decide
@[simp] theorem rmDynOf_zero : rmDynOf 0 = some (.st .rne) := rfl
@[simp] theorem vfKindOf_vfKindCode (z : VfKind) : vfKindOf (vfKindCode z).toNat = z := by cases z <;> rfl
@[simp] theorem vfKindCode_vfKindOf (x : BitVec 2) : vfKindCode (vfKindOf x.toNat) = x := by revert x; decide

@[simp] theorem vtypeOf_vtypeBits (t : VType) : vtypeOf (vtypeBits t) = some t := by
  simp [vtypeOf, vtypeBits, getLsbD_eq_field, -BitVec.getLsbD_eq_getElem]
@[simp] theorem vtypeOf_eq_some {x : BitVec 14} {t : VType} : vtypeOf x = some t ↔ x = vtypeBits t := by
  refine ⟨fun e => ?_, fun e => e ▸ vtypeOf_vtypeBits t⟩
  unfold vtypeOf at e
  split at e
  · next et bl acc rm =>
    cases e
    symm
    simp_all [vtypeBits, append_eq_iff, getLsbD_eq_field, -BitVec.getLsbD_eq_getElem, -BitVec.extractLsb'_toNat]
  · cases e

end Sys2Proof
end

section
/-! SUPPORT. The parcels of each format, field by field (04:R105, R107). -/
namespace Sys2Proof

section
variable {h t : Parcel} {op : BitVec 6} {d a b vc : Reg}

@[simp] theorem encA_eq_iff {fn : BitVec 11} :
    encA op d a b fn = [h] ↔ op = fld h 26 6 ∧ d = fld h 21 5 ∧ a = fld h 16 5 ∧ b = fld h 11 5 ∧ fn = fld h 0 11 := by
  simp [encA, append_eq_iff, extractLsb'_eq_fld, and_assoc]
@[simp] theorem encI_eq_iff {i : BitVec 16} :
    encI op d a i = [h] ↔ op = fld h 26 6 ∧ d = fld h 21 5 ∧ a = fld h 16 5 ∧ i = fld h 0 16 := by
  simp [encI, append_eq_iff, extractLsb'_eq_fld, and_assoc]
@[simp] theorem encL_eq_iff {i : BitVec 21} : encL op d i = [h] ↔ op = fld h 26 6 ∧ d = fld h 21 5 ∧ i = fld h 0 21 := by
  simp [encL, append_eq_iff, extractLsb'_eq_fld, and_assoc]
@[simp] theorem encB_eq_iff {c : BitVec 3} {i : BitVec 13} :
    encB op a b c i = [h] ↔ op = fld h 26 6 ∧ a = fld h 21 5 ∧ b = fld h 16 5 ∧ c = fld h 13 3 ∧ i = fld h 0 13 := by
  simp [encB, append_eq_iff, extractLsb'_eq_fld, and_assoc]
@[simp] theorem encJ_eq_iff {i : BitVec 26} : encJ op i = [h] ↔ op = fld h 26 6 ∧ i = fld h 0 26 := by
  simp [encJ, append_eq_iff, extractLsb'_eq_fld]
theorem encA_zero : encA op d a 0#5 0#11 = encI op d a 0#16 := by
  simp [encI, append_eq_iff, encA]

/-- The two parcels of a V-format instruction of a major (04:R107). -/
def VFields.words (op : BitVec 6) (v : VFields) : List Parcel :=
  encV op v.fn v.vd v.va v.vb v.k v.vc v.kz v.rm v.ord v.aux
theorem words_vFields : (vFields h t).words (fld h 26 6) = [h, t] := by
  simp [VFields.words, encV, vFields, append_eq_iff, extractLsb'_eq_fld]
@[simp] theorem encV_eq_words_iff {fn : BitVec 8} {k rm : BitVec 3} {kz : Bool} {ord : BitVec 2} {aux : BitVec 21} {v : VFields} :
    encV op fn d a b k vc kz rm ord aux = v.words op ↔
      fn = v.fn ∧ d = v.vd ∧ a = v.va ∧ b = v.vb ∧ k = v.k ∧ vc = v.vc ∧ kz = v.kz ∧ rm = v.rm ∧ ord = v.ord ∧ aux = v.aux := by
  simp [VFields.words, encV, append_eq_iff, and_assoc]

end

/-! ## Slots of a CONVOY header (04:R135) -/

theorem convoyUnits_cons_eq_some {h : Parcel} {i : Nat} {is : List Nat} {us : List VUnit} :
    convoyUnits h (i :: is) = some us ↔
      ∃ u rest, us = u :: rest ∧ unitOf (convoySlot h i).toNat = some u ∧ convoyUnits h is = some rest := by
  rw [convoyUnits]
  split
  · next u rest unit tail => simp [unit, tail, eq_comm]
  · next none_ => simpa using fun u rest _ unit tail => none_ u rest unit tail
/-- The units read from some slots are those whose codes the slots hold. -/
theorem convoyUnits_eq_some {h : Parcel} {l : List Nat} {us : List VUnit} :
    convoyUnits h l = some us ↔ us.map unitCode = l.map (convoySlot h) := by
  induction l generalizing us with
  | nil => simp [convoyUnits, eq_comm]
  | cons i is ih =>
    rw [convoyUnits_cons_eq_some]
    simp only [unitOf_eq_some, ih]
    cases us with
    | nil => simp
    | cons u rest => simp [eq_comm]
theorem encSlots_eq (us : List VUnit) (i : Nat) : encSlots us i = ((us.map unitCode)[i]?).getD 0 := by
  unfold encSlots
  rw [List.getElem?_map]
  cases us[i]? <;> rfl
theorem encSlots_eq_convoySlot {h : Parcel} {us : List VUnit} {n i : Nat}
    (slots : us.map unitCode = (List.range n).map (convoySlot h)) (unused : n ≤ i → convoySlot h i = 0) :
    encSlots us i = convoySlot h i := by
  rw [encSlots_eq, slots, List.getElem?_map]
  by_cases used : i < n
  · simp [used]
  · simp [used, unused (Nat.le_of_not_lt used)]

end Sys2Proof
end

section
/-! SUPPORT. What a decoder reads: a decoder is faithful to some parcels when every instruction it gives is well formed, is no event and has
those parcels (04:R106, R133). One rule for each check of the decoders. -/
namespace Sys2Proof

/-- Every instruction that r is, if any, is well formed, is no event and is encoded by these parcels. -/
def Faithful (ws : List Parcel) (r : Except Reject Instr) : Prop :=
  ∀ i, r = .ok i → wellFormed i = true ∧ isEvent i = false ∧ encode i = ws

section
variable {ws : List Parcel} {v : VFields} {k : Except Reject Instr}

theorem faithful_ok {i : Instr} : Faithful ws (.ok i) ↔ wellFormed i = true ∧ isEvent i = false ∧ encode i = ws := by
  simp [Faithful]
theorem faithful_error {r : Reject} : Faithful ws (.error r) := by
  simp [Faithful]
theorem faithful_chk {c : Bool} {r : Reject} : Faithful ws (chk c r k) ↔ (c = true → Faithful ws k) := by
  cases c <;> simp [Faithful, chk]
theorem faithful_opt {α : Type} {o : Option α} {f : α → Except Reject Instr} :
    Faithful ws (opt o f) ↔ ∀ a, o = some a → Faithful ws (f a) := by
  cases o <;> simp [Faithful, opt]
theorem faithful_zf {n : Nat} {x : BitVec n} : Faithful ws (zf x k) ↔ (x = 0 → Faithful ws k) := by
  simp [zf, faithful_chk]
theorem faithful_small {n : Nat} {x : Reg} : Faithful ws (small n x k) ↔ (x.toNat < n → Faithful ws k) := by
  simp [small, faithful_chk]
theorem faithful_predF {f : Pred → Except Reject Instr} :
    Faithful ws (predF v f) ↔ (Pred.wf ⟨v.k, v.kz⟩ = true → Faithful ws (f ⟨v.k, v.kz⟩)) :=
  faithful_chk
theorem faithful_noKz : Faithful ws (noKz v k) ↔ (v.kz = false → Faithful ws k) := by
  simp [noKz, faithful_chk]
theorem faithful_noMask : Faithful ws (noMask v k) ↔ (v.k = 0 → v.kz = false → Faithful ws k) := by
  simp [noMask, faithful_chk, faithful_noKz]
theorem faithful_ldOrd {f : Bool → Except Reject Instr} :
    Faithful ws (ldOrd v f) ↔ ∀ q, v.ord = 0#1 ++ bitB q → (!q || v.k != 0) = true → Faithful ws (f q) := by
  have code (x : BitVec 2) (q : Bool) : x = 0#1 ++ bitB q ↔ x.toNat = q.toNat := by revert x q; decide
  unfold ldOrd
  split
  · next e => simp [code, e]
  · next e => simp [code, e, faithful_chk]
  · next a b => simpa [code, faithful_error] using ⟨fun e => (a e).elim, fun e => (b e).elim⟩

/-! ## Second operands (04:R131) -/

/-- The fields hold b as the second operand of an integer form. -/
def VFields.HasVSrc (v : VFields) (form : Nat) : VSrc → Prop
  | .vv vb => form = 0 ∧ v.vb = vb ∧ v.vc = 0 ∧ v.aux.extractLsb' 0 16 = 0
  | .vx xs => form = 1 ∧ v.vb = 0 ∧ v.vc = xs ∧ v.aux.extractLsb' 0 16 = 0
  | .vi i => form = 2 ∧ v.vb = 0 ∧ v.vc = 0 ∧ v.aux.extractLsb' 0 16 = i
/-- The fields hold b as the second operand of a floating form. -/
def VFields.HasFSrc (v : VFields) (form : Nat) : FSrc → Prop
  | .vv vb => form = 0 ∧ v.vb = vb ∧ v.vc = 0
  | .vf fs => form = 1 ∧ v.vb = 0 ∧ v.vc = fs

theorem faithful_vsrcF {n : Nat} {f : VSrc → Except Reject Instr} (h : ∀ b, v.HasVSrc n b → Faithful ws (f b)) :
    Faithful ws (vsrcF v n f) := by
  unfold vsrcF
  split
  all_goals simp only [faithful_zf, faithful_error]
  · exact fun c a => h (.vv v.vb) ⟨rfl, rfl, c, a⟩
  · exact fun b a => h (.vx v.vc) ⟨rfl, b, rfl, a⟩
  · exact fun b c => h (.vi _) ⟨rfl, b, c, rfl⟩
theorem faithful_fsrcF {n : Nat} {f : FSrc → Except Reject Instr} (h : ∀ b, v.HasFSrc n b → Faithful ws (f b)) :
    Faithful ws (fsrcF v n f) := by
  unfold fsrcF
  split
  all_goals simp only [faithful_zf, faithful_error]
  · exact fun c => h (.vv v.vb) ⟨rfl, rfl, c⟩
  · exact fun b => h (.vf v.vc) ⟨rfl, b, rfl⟩
theorem encVInt_of_hasVSrc {b : VSrc} {fn : BitVec 6} (s : v.HasVSrc (v.fn.extractLsb' 6 2).toNat b) (f : fn = v.fn.extractLsb' 0 6)
    (rm : v.rm = 0) (ord : v.ord = 0) (aux : v.aux.extractLsb' 16 5 = 0) :
    encVInt fn v.vd v.va b ⟨v.k, v.kz⟩ = v.words 49 := by
  have whole := append_fields (v := 5) (w := 16) v.aux
  cases b
  all_goals simp_all [VFields.HasVSrc, encVInt, fn_eq_iff, toNat_eq_iff, -BitVec.extractLsb'_toNat]
theorem encVFp_of_hasFSrc {b : FSrc} {fn : BitVec 6} {rm : BitVec 3} (s : v.HasFSrc (v.fn.extractLsb' 6 2).toNat b)
    (f : fn = v.fn.extractLsb' 0 6) (e : rm = v.rm) (ord : v.ord = 0) (aux : v.aux = 0) :
    encVFp fn v.vd v.va b rm ⟨v.k, v.kz⟩ = v.words 50 := by
  cases b
  all_goals simp_all [VFields.HasFSrc, encVFp, fn_eq_iff, toNat_eq_iff, -BitVec.extractLsb'_toNat]

end

end Sys2Proof
end

section
/-! SUPPORT. The decoders of the 32-bit majors are faithful to the parcel they read (04:R114-R130, R135). Each proof takes the checks as
hypotheses, splits on the function field and compares the encoding of what is read with the parcel, field by field. -/
namespace Sys2Proof

section
variable {h : Parcel}

theorem faithful_decAlu (op : fld h 26 6 = 0) : Faithful [h] (decAlu h) := by
  simp only [decAlu, faithful_chk]
  intros
  split
  all_goals simp only [faithful_chk, faithful_opt, faithful_error, faithful_ok]
  all_goals unfold wellFormed isEvent encode
  all_goals simp_all +contextual [encAlu, append_eq_iff, toNat_eq_iff, -BitVec.reduceAppend]
theorem faithful_decShiftImm (op : fld h 26 6 = 5) : Faithful [h] (decShiftImm h) := by
  simp only [decShiftImm, faithful_chk]
  intros
  split
  all_goals simp only [faithful_error, faithful_ok]
  all_goals unfold wellFormed isEvent encode
  all_goals simp_all +contextual [encShift, append_eq_iff, toNat_eq_iff, -BitVec.reduceAppend]
theorem faithful_decFieldImm (op : fld h 26 6 = 7) : Faithful [h] (decFieldImm h) := by
  simp only [decFieldImm, faithful_chk]
  intros
  split
  all_goals simp only [faithful_chk, faithful_ok]
  all_goals unfold wellFormed isEvent encode
  all_goals simp_all +contextual [append_eq_iff, -BitVec.reduceAppend]
theorem faithful_decAtomic (op : fld h 26 6 = 18) : Faithful [h] (decAtomic h) := by
  simp only [decAtomic, faithful_opt]
  intros
  split
  all_goals simp only [faithful_chk, faithful_opt, faithful_ok]
  all_goals unfold wellFormed isEvent encode
  all_goals simp_all +contextual [append_eq_iff, toNat_eq_iff, eq_three_of_ne, -BitVec.reduceAppend]
theorem faithful_decFence (op : fld h 26 6 = 19) : Faithful [h] (decFence h) := by
  simp only [decFence, faithful_chk, fld_split h 11 5 10, fld_split h 11 5 5]
  intros
  split
  all_goals simp only [faithful_chk, faithful_opt, faithful_error, faithful_ok]
  all_goals unfold wellFormed isEvent encode
  all_goals simp_all +contextual [append_eq_iff, toNat_eq_iff, -BitVec.reduceAppend]
theorem faithful_decFp (op : fld h 26 6 = 32) : Faithful [h] (decFp h) := by
  simp only [decFp, faithful_opt]
  intros
  split
  all_goals simp only [faithful_chk, faithful_opt, faithful_error, faithful_ok]
  all_goals unfold wellFormed isEvent encode
  all_goals simp_all +contextual [encFp, append_eq_iff, toNat_eq_iff, -BitVec.reduceAppend]
theorem faithful_decCluster (op : fld h 26 6 = 34) : Faithful [h] (decCluster h) := by
  simp only [decCluster]
  split
  all_goals simp only [faithful_chk, faithful_error, faithful_ok]
  all_goals unfold wellFormed isEvent encode
  all_goals simp_all +contextual [append_eq_iff, toNat_eq_iff, -BitVec.reduceAppend]
theorem faithful_decSystem (op : fld h 26 6 = 35) : Faithful [h] (decSystem h) := by
  simp only [decSystem, faithful_chk]
  intros
  split
  case h_4 =>
    rw [faithful_chk, faithful_chk]
    intros
    split
    all_goals rw [faithful_ok]
    all_goals unfold wellFormed isEvent encode
    all_goals simp_all [toNat_eq_iff, fld_split h 0 4 12, fld_split h 0 11 1]
  case h_6 =>
    rw [faithful_chk, faithful_chk]
    intros
    split
    all_goals simp only [faithful_error, faithful_ok]
    all_goals unfold wellFormed isEvent encode
    all_goals simp_all [toNat_eq_iff, fld_split h 0 4 12, fld_split h 0 10 2]
  all_goals simp only [faithful_chk, faithful_error, faithful_ok]
  all_goals unfold wellFormed isEvent encode
  case h_3 => simp_all +contextual [toNat_eq_iff, fld_split h 0 4 12]
  all_goals simp_all +contextual [append_eq_iff, toNat_eq_iff, -BitVec.reduceAppend]
theorem faithful_decCsr (op : fld h 26 6 = 36) : Faithful [h] (decCsr h) := by
  simp only [decCsr, faithful_chk]
  intros
  split
  all_goals simp only [faithful_chk, faithful_error, faithful_ok]
  all_goals unfold wellFormed isEvent encode
  all_goals simp_all +contextual [append_eq_iff, toNat_eq_iff, -BitVec.reduceAppend]
theorem faithful_decTask (op : fld h 26 6 = 37) : Faithful [h] (decTask h) := by
  simp only [decTask, faithful_chk, fld_split h 11 5 10, fld_split h 11 5 5]
  intros
  split
  all_goals simp only [faithful_chk, faithful_opt, faithful_error, faithful_ok]
  all_goals unfold wellFormed isEvent encode
  case h_1 | h_2 | h_4 =>
    simp_all +contextual [append_eq_iff, toNat_eq_iff, fld_split h 0 3 8, fld_split h 0 3 5, fld_split h 0 3 2]
  all_goals simp_all +contextual [append_eq_iff, toNat_eq_iff, -BitVec.reduceAppend]
theorem faithful_decConfig (op : fld h 26 6 = 39) : Faithful [h] (decConfig h) := by
  simp only [decConfig]
  split
  all_goals simp only [faithful_chk, faithful_opt, faithful_error, faithful_ok]
  all_goals unfold wellFormed isEvent encode
  all_goals simp_all +contextual [toNat_eq_iff, fld_split h 0 2 14]
theorem faithful_decTile (op : fld h 26 6 = 40) : Faithful [h] (decTile h) := by
  simp only [decTile]
  split
  all_goals simp only [faithful_chk, faithful_opt, faithful_error, faithful_ok]
  all_goals unfold wellFormed isEvent encode
  all_goals simp_all +contextual [append_eq_iff, toNat_eq_iff, -BitVec.reduceAppend]
theorem faithful_decTmma (op : fld h 26 6 = 41) : Faithful [h] (decTmma h) := by
  simp only [decTmma, faithful_chk, faithful_opt]
  intros
  split
  all_goals simp only [faithful_chk, faithful_error, faithful_ok]
  all_goals unfold wellFormed isEvent encode
  all_goals simp_all +contextual [append_eq_iff, toNat_eq_iff, -BitVec.reduceAppend]
theorem faithful_decExchange (op : fld h 26 6 = 42) : Faithful [h] (decExchange h) := by
  simp only [decExchange, faithful_chk, fld_split h 11 5 5]
  intros
  split
  all_goals simp only [faithful_chk, faithful_error, faithful_ok]
  all_goals unfold wellFormed isEvent encode
  all_goals simp_all +contextual [append_eq_iff, toNat_eq_iff, fld_split h 0 2 9]
theorem faithful_decConvoy (op : fld h 26 6 = 47) : Faithful [h] (decConvoy h) := by
  simp only [decConvoy, faithful_chk, faithful_opt, faithful_ok, convoyUnits_eq_some]
  intro few low unused us slots
  have len : us.length = (fld h 23 3).toNat + 2 := by simpa using congrArg List.length slots
  have slot (i : Nat) (lt : i < 6) : encSlots us i = convoySlot h i := by
    refine encSlots_eq_convoySlot slots fun le => ?_
    simpa [Nat.not_lt.mpr le] using List.all_eq_true.mp unused i (List.mem_range.mpr lt)
  unfold wellFormed isEvent encode
  refine ⟨?_, rfl, ?_⟩
  · simpa [len] using few
  · simp_all [append_eq_iff, extractLsb'_eq_fld, convoySlot, -BitVec.reduceAppend]

end

/-- Majors 0 to 47 (04:R114). -/
theorem faithful_decode1 (h : Parcel) : Faithful [h] (decode1 h) := by
  unfold decode1
  split
  case h_1 op => exact faithful_decAlu (eq_ofNat_of_toNat op)
  case h_6 op => exact faithful_decShiftImm (eq_ofNat_of_toNat op)
  case h_8 op => exact faithful_decFieldImm (eq_ofNat_of_toNat op)
  case h_14 op => exact faithful_decAtomic (eq_ofNat_of_toNat op)
  case h_15 op => exact faithful_decFence (eq_ofNat_of_toNat op)
  case h_22 op => exact faithful_decFp (eq_ofNat_of_toNat op)
  case h_24 op => exact faithful_decCluster (eq_ofNat_of_toNat op)
  case h_25 op => exact faithful_decSystem (eq_ofNat_of_toNat op)
  case h_26 op => exact faithful_decCsr (eq_ofNat_of_toNat op)
  case h_27 op => exact faithful_decTask (eq_ofNat_of_toNat op)
  case h_29 op => exact faithful_decConfig (eq_ofNat_of_toNat op)
  case h_30 op => exact faithful_decTile (eq_ofNat_of_toNat op)
  case h_31 op => exact faithful_decTmma (eq_ofNat_of_toNat op)
  case h_32 op => exact faithful_decExchange (eq_ofNat_of_toNat op)
  case h_33 op => exact faithful_decConvoy (eq_ofNat_of_toNat op)
  case h_21 op =>
    rw [faithful_chk, faithful_chk]
    intros
    split
    all_goals simp only [faithful_error, faithful_ok]
    all_goals unfold wellFormed isEvent encode
    all_goals simp_all [append_eq_iff, toNat_eq_iff, -BitVec.reduceAppend]
  all_goals simp only [faithful_chk, faithful_opt, faithful_error, faithful_ok, fld_split h 0 5 11]
  all_goals unfold wellFormed isEvent encode
  case h_13 => simp_all +contextual [toNat_eq_iff]
  all_goals simp_all +contextual [append_eq_iff, toNat_eq_iff, -BitVec.reduceAppend]

end Sys2Proof
end

section
/-! SUPPORT. The decoders of the 64-bit majors are faithful to the two parcels they read (04:R107, R131), and with them the whole decoder.
  -/
namespace Sys2Proof

section
variable (v : VFields)

theorem faithful_decVMem : Faithful (v.words 48) (decVMem v) := by
  simp only [decVMem, faithful_zf]
  intros
  split
  all_goals simp only [faithful_zf, faithful_predF, faithful_noKz, faithful_noMask, faithful_ldOrd, faithful_error, faithful_ok]
  all_goals unfold wellFormed isEvent encode
  all_goals simp_all +contextual [append_eq_iff, toNat_eq_iff, -BitVec.reduceAppend]
theorem faithful_decVInt : Faithful (v.words 49) (decVInt v) := by
  simp only [decVInt, faithful_zf, faithful_predF]
  intro rm ord aux wf
  refine faithful_vsrcF fun b s => ?_
  split
  all_goals simp only [faithful_error, faithful_ok]
  all_goals unfold wellFormed isEvent encode
  all_goals refine ⟨wf, rfl, encVInt_of_hasVSrc s ?_ rm ord aux⟩
  all_goals simp_all [toNat_eq_iff, -BitVec.extractLsb'_toNat]
theorem faithful_decVFp : Faithful (v.words 50) (decVFp v) := by
  simp only [decVFp, faithful_zf, faithful_predF, faithful_opt, rmDynOf_eq_some]
  intro ord aux wf r rm
  split
  case h_5 =>
    split
    all_goals simp only [faithful_error, faithful_ok]
    all_goals unfold wellFormed isEvent encode
    all_goals simp_all [fn_eq_iff, toNat_eq_iff, -BitVec.extractLsb'_toNat]
  case h_1 | h_2 | h_3 | h_4 =>
    refine faithful_fsrcF fun b s => faithful_ok.mpr ?_
    unfold wellFormed isEvent encode
    refine ⟨wf, rfl, encVFp_of_hasFSrc s ?_ rm.symm ord aux⟩
    simp_all [toNat_eq_iff, -BitVec.extractLsb'_toNat]
  case h_7 | h_8 =>
    rw [faithful_zf]
    refine fun none_ => faithful_fsrcF fun b s => faithful_ok.mpr ?_
    unfold wellFormed isEvent encode
    refine ⟨wf, rfl, encVFp_of_hasFSrc s ?_ none_.symm ord aux⟩
    simp_all [toNat_eq_iff, -BitVec.extractLsb'_toNat]
  all_goals simp only [faithful_chk, faithful_zf, faithful_error, faithful_ok]
  all_goals unfold wellFormed isEvent encode
  all_goals simp_all +contextual [fn_eq_iff, toNat_eq_iff, -BitVec.extractLsb'_toNat]
theorem faithful_decVCv : Faithful (v.words 51) (decVCv v) := by
  simp only [decVCv, faithful_zf, faithful_predF]
  intros
  split
  all_goals simp only [faithful_zf, faithful_opt, faithful_error, faithful_ok]
  all_goals unfold wellFormed isEvent encode
  all_goals simp_all +contextual [append_eq_iff, toNat_eq_iff, -BitVec.extractLsb'_toNat, -BitVec.reduceAppend]
theorem faithful_decVPerm : Faithful (v.words 52) (decVPerm v) := by
  simp only [decVPerm, faithful_zf]
  intros
  split
  all_goals simp only [faithful_zf, faithful_predF, faithful_noKz, faithful_noMask, faithful_error, faithful_ok]
  all_goals unfold wellFormed isEvent encode
  all_goals simp_all +contextual [append_eq_iff, toNat_eq_iff, getLsbD_eq_field, -BitVec.getLsbD_eq_getElem, -BitVec.extractLsb'_toNat,
    -BitVec.reduceAppend]
theorem faithful_decVMask : Faithful (v.words 53) (decVMask v) := by
  simp only [decVMask, faithful_zf]
  intro rm ord
  split
  case h_1 =>
    simp only [faithful_small, faithful_zf, faithful_predF]
    intro vd aux wf
    refine faithful_vsrcF fun b s => faithful_opt.mpr fun c code => faithful_ok.mpr ?_
    cases b
    all_goals unfold wellFormed isEvent encode
    all_goals simp_all [VFields.HasVSrc, append_eq_iff, fn_eq_iff, toNat_eq_iff, BitVec.setWidth_eq_extractLsb',
      -BitVec.extractLsb'_toNat, -BitVec.reduceAppend]
  all_goals simp only [faithful_chk, faithful_small, faithful_zf, faithful_noKz, faithful_predF, faithful_error, faithful_ok]
  all_goals unfold wellFormed isEvent encode
  all_goals simp_all +contextual [append_eq_iff, fn_eq_iff, toNat_eq_iff, BitVec.setWidth_eq_extractLsb', -BitVec.extractLsb'_toNat]
theorem faithful_decVRed : Faithful (v.words 54) (decVRed v) := by
  simp only [decVRed, faithful_zf, faithful_chk, faithful_opt]
  intros
  split
  all_goals simp only [faithful_noKz, faithful_predF, faithful_error, faithful_ok]
  all_goals unfold wellFormed isEvent encode
  all_goals simp_all +contextual [zero_append_bitB, append_eq_iff, toNat_eq_iff, -BitVec.extractLsb'_toNat, -BitVec.reduceAppend]
theorem faithful_decVAmo : Faithful (v.words 55) (decVAmo v) := by
  simp only [decVAmo, faithful_zf, faithful_noKz, faithful_chk, faithful_opt, scopeOf_eq_some, amoOf_eq_some]
  intros
  have low := extractLsb'_split v.fn 0 3 1
  split
  all_goals rw [faithful_ok]
  all_goals unfold wellFormed isEvent encode
  all_goals simp_all [append_eq_iff, getLsbD_eq_field, eq_zero_of_ne_one, -BitVec.getLsbD_eq_getElem]
theorem faithful_decVMat : Faithful (v.words 56) (decVMat v) := by
  simp only [decVMat, faithful_zf]
  intros
  split
  all_goals simp only [faithful_zf, faithful_small, faithful_noKz, faithful_noMask, faithful_opt, faithful_error, faithful_ok]
  all_goals unfold wellFormed isEvent encode
  all_goals simp_all +contextual [toNat_lt_twentyfive, append_eq_iff, toNat_eq_iff, BitVec.setWidth_eq_extractLsb', -BitVec.reduceAppend]
theorem faithful_decVProj : Faithful (v.words 57) (decVProj v) := by
  simp only [decVProj, faithful_zf, faithful_small, faithful_noMask]
  intros
  split
  all_goals simp only [faithful_zf, faithful_small, faithful_error, faithful_ok]
  all_goals unfold wellFormed isEvent encode
  all_goals simp_all +contextual [append_eq_iff, toNat_eq_iff, BitVec.setWidth_eq_extractLsb', -BitVec.reduceAppend]
theorem faithful_decVScale : Faithful (v.words 58) (decVScale v) := by
  simp only [decVScale, faithful_zf, faithful_noMask]
  intros
  split
  all_goals simp only [faithful_zf, faithful_small, faithful_error, faithful_ok]
  all_goals unfold wellFormed isEvent encode
  all_goals simp_all +contextual [append_eq_iff, toNat_eq_iff, BitVec.setWidth_eq_extractLsb', -BitVec.reduceAppend]
theorem faithful_decVCopy : Faithful (v.words 59) (decVCopy v) := by
  simp only [decVCopy, faithful_zf, faithful_noKz]
  intros
  split
  case h_1 =>
    rw [faithful_zf]
    intros
    split
    all_goals simp only [faithful_zf, faithful_chk, faithful_opt, scopeOf_eq_some, faithful_error, faithful_ok]
    all_goals unfold wellFormed isEvent encode
    all_goals simp_all +contextual [append_eq_iff, toNat_eq_iff]
  all_goals simp only [faithful_zf, faithful_error, faithful_ok]
  all_goals unfold wellFormed isEvent encode
  all_goals simp_all +contextual [toNat_eq_iff]
theorem faithful_decVColl : Faithful (v.words 60) (decVColl v) := by
  simp only [decVColl, faithful_zf, faithful_noMask]
  intros
  split
  all_goals simp only [faithful_zf, faithful_error, faithful_ok]
  all_goals unfold wellFormed isEvent encode
  all_goals simp_all +contextual [toNat_eq_iff]
theorem faithful_decVRemote : Faithful (v.words 61) (decVRemote v) := by
  simp only [decVRemote, faithful_zf, faithful_noMask]
  intros
  split
  all_goals simp only [faithful_zf, faithful_opt, faithful_error, faithful_ok]
  all_goals unfold wellFormed isEvent encode
  all_goals simp_all +contextual [append_eq_iff, toNat_eq_iff, -BitVec.extractLsb'_toNat, -BitVec.reduceAppend]
theorem faithful_decVLoop : Faithful (v.words 62) (decVLoop v) := by
  simp only [decVLoop, faithful_zf, faithful_noMask]
  intros
  split
  all_goals simp only [faithful_error, faithful_ok]
  all_goals unfold wellFormed isEvent encode
  all_goals simp_all +contextual [append_eq_iff, toNat_eq_iff, -BitVec.reduceAppend]

end

/-- Majors 48 to 63 (04:R131). -/
theorem faithful_decode2 (h t : Parcel) : Faithful [h, t] (decode2 h t) := by
  rw [← words_vFields]
  unfold decode2
  split
  case h_1 op => rw [eq_ofNat_of_toNat op]; exact faithful_decVMem _
  case h_2 op => rw [eq_ofNat_of_toNat op]; exact faithful_decVInt _
  case h_3 op => rw [eq_ofNat_of_toNat op]; exact faithful_decVFp _
  case h_4 op => rw [eq_ofNat_of_toNat op]; exact faithful_decVCv _
  case h_5 op => rw [eq_ofNat_of_toNat op]; exact faithful_decVPerm _
  case h_6 op => rw [eq_ofNat_of_toNat op]; exact faithful_decVMask _
  case h_7 op => rw [eq_ofNat_of_toNat op]; exact faithful_decVRed _
  case h_8 op => rw [eq_ofNat_of_toNat op]; exact faithful_decVAmo _
  case h_9 op => rw [eq_ofNat_of_toNat op]; exact faithful_decVMat _
  case h_10 op => rw [eq_ofNat_of_toNat op]; exact faithful_decVProj _
  case h_11 op => rw [eq_ofNat_of_toNat op]; exact faithful_decVScale _
  case h_12 op => rw [eq_ofNat_of_toNat op]; exact faithful_decVCopy _
  case h_13 op => rw [eq_ofNat_of_toNat op]; exact faithful_decVColl _
  case h_14 op => rw [eq_ofNat_of_toNat op]; exact faithful_decVRemote _
  case h_15 op => rw [eq_ofNat_of_toNat op]; exact faithful_decVLoop _
  case h_16 => exact faithful_error

/-- Settles O56: the decoder of each major is faithful to the parcels it reads. -/
theorem decodeExact : Obligations.DecodeExact := by
  intro h t i ok
  unfold decode at ok
  split at ok
  · next long =>
    obtain ⟨wf, event, words⟩ := faithful_decode2 h t i ok
    simp [headOf, tailOf, wf, event, words, long]
  · next short =>
    obtain ⟨wf, event, words⟩ := faithful_decode1 h i ok
    simp [headOf, tailOf, wf, event, words, short]

end Sys2Proof
end

section
/-! SUPPORT. What is encoded decodes to itself: the instructions of each decoder by the fields of their words (04:R105-R131). -/
namespace Sys2Proof

/-- Decoding the words of i gives i. -/
def Decodes (i : Instr) : Prop := decode (headOf i) (tailOf i) = .ok i

@[simp] theorem chk_eq_ok {α : Type} {c : Bool} {r : Reject} {k : Except Reject α} {a : α} :
    chk c r k = .ok a ↔ c = true ∧ k = .ok a := by
  cases c <;> simp [chk]
@[simp] theorem chk_true {α : Type} (r : Reject) (k : Except Reject α) : chk true r k = k := rfl
@[simp] theorem opt_some {α β : Type} (a : α) (k : α → Except Reject β) : opt (some a) k = k a := rfl
@[simp] theorem zf_zero {n : Nat} (k : Except Reject Instr) : zf 0#n k = k := by simp [zf]
@[simp] theorem small_eight (x : BitVec 3) (k : Except Reject Instr) : small 8 (0#2 ++ x) k = k := by
  simp [small, x.isLt]
@[simp] theorem small_four (x : BitVec 2) (k : Except Reject Instr) : small 4 (0#3 ++ x) k = k := by
  simp [small, x.isLt]
theorem ldOrd_eq_ok {v : VFields} {q : Bool} {f : Bool → Except Reject Instr} {i : Instr} (ord : v.ord = 0#1 ++ bitB q) :
    ldOrd v f = .ok i ↔ (!q || v.k != 0) = true ∧ f q = .ok i := by
  cases q <;> simp [ldOrd, ord]

/-! ## 32-bit instructions -/

theorem decodes_alu (d a b : Reg) (w u : Bool) (c : Cond) : ∀ i ∈ [Instr.add d a b w, .sub d a b w, .mul d a b w, .mulh d a b w u,
    .div d a b w u, .rem d a b w u, .and d a b, .or d a b, .xor d a b, .andn d a b, .shl d a b w, .shr d a b w, .sar d a b w,
    .ror d a b w, .min d a b u, .max d a b u, .set d a b c, .sel d a b, .clz d a w, .ctz d a w, .popc d a w, .bswap d a, .ext d a b u,
    .ins d a b], Decodes i := by
  simp only [List.forall_mem_cons, List.not_mem_nil, false_implies, implies_true, and_true]
  and_intros
  all_goals unfold Decodes headOf tailOf encode
  all_goals simp [encAlu, encA, decAlu, decode, isLong, fld, bit_eq_field, decode1]
theorem decodes_immediate (d a b : Reg) (c : Cond) (s : BitVec 2) (i16 : BitVec 16) (i13 : BitVec 13) (i21 : BitVec 21) :
    ∀ i ∈ [
    Instr.addImm d a i16, .andImm d a i16, .orImm d a i16, .xorImm d a i16, .setImm d a c i13, .lim d i21, .addpc d i21, .lea d a b s,
    .blind i21], Decodes i := by
  simp only [List.forall_mem_cons, List.not_mem_nil, false_implies, implies_true, and_true]
  and_intros
  all_goals unfold Decodes headOf tailOf encode
  all_goals simp [encI, encL, encA, decode, isLong, fld, decode1]
theorem decodes_shiftImm (d a : Reg) (w : Bool) (s : BitVec 6) : ∀ i ∈ [Instr.shlImm d a w s, .shrImm d a w s, .sarImm d a w s,
    .rorImm d a w s], wellFormed i = true → Decodes i := by
  simp only [List.forall_mem_cons, List.not_mem_nil, false_implies, implies_true, and_true]
  and_intros
  all_goals intro wf
  all_goals unfold Decodes headOf tailOf encode
  all_goals unfold wellFormed at wf
  all_goals simp_all [encShift, encI, decShiftImm, decode, isLong, fld, bit_eq_field, decode1]
theorem decodes_fieldImm (d a : Reg) (u : Bool) (p l : BitVec 6) : ∀ i ∈ [Instr.extImm d a u p l,
    .insImm d a p l], wellFormed i = true → Decodes i := by
  simp only [List.forall_mem_cons, List.not_mem_nil, false_implies, implies_true, and_true]
  and_intros
  all_goals intro wf
  all_goals unfold Decodes headOf tailOf encode
  all_goals unfold wellFormed at wf
  all_goals simp_all [encI, decFieldImm, decode, isLong, fld, bit_eq_field, decode1]
theorem decodes_memory (d a b : Reg) (p : Scope) (y : LdSize) (z : Size) (x : ASize) (o : AmoOp) (i13 : BitVec 13) :
    ∀ i ∈ [
    Instr.ld d a y i13, .st d a z i13, .ldaq d a p z, .strl a b p z, .amo d a b p x o, .cas d a b p x], Decodes i := by
  simp only [List.forall_mem_cons, List.not_mem_nil, false_implies, implies_true, and_true]
  and_intros
  all_goals unfold Decodes headOf tailOf encode
  all_goals simp [encB, encA, decAtomic, decode, isLong, fld, decode1]
theorem decodes_fence (p : Scope) (x y : AccSet) (k : VfKind) : ∀ i ∈ [Instr.fence p x y, .ifence p, .vfence k], Decodes i := by
  simp only [List.forall_mem_cons, List.not_mem_nil, false_implies, implies_true, and_true]
  and_intros
  all_goals unfold Decodes headOf tailOf encode
  all_goals simp [encA, decFence, decode, isLong, fld, decode1]
theorem decodes_control (a b : Reg) (c : Cond) (i13 : BitVec 13) (i26 : BitVec 26) (n : BitVec 11) (k : BitVec 3) :
    ∀ i ∈ [
    Instr.b a b c i13, .j i26, .call i26, .btab a b n, .bvany k i13, .bvall k i13], Decodes i := by
  simp only [List.forall_mem_cons, List.not_mem_nil, false_implies, implies_true, and_true]
  and_intros
  all_goals unfold Decodes headOf tailOf encode
  all_goals simp [encB, encJ, encA, decode, isLong, fld, decode1]
theorem decodes_float (d a b c : Reg) (t : FcvtKind) (m : FmovDir) (x : Cmp) (f : FFmt) (r : Rm) : ∀ i ∈ [Instr.fadd d a b f r,
    .fsub d a b f r, .fmul d a b f r, .fdiv d a b f r, .fsqrt d a f r, .fmin d a b f, .fmax d a b f, .fcmp d a b f x, .fcvt d a t f r,
    .fmov d a m f, .fclass d a f, .fma d a b c f r], Decodes i := by
  simp only [List.forall_mem_cons, List.not_mem_nil, false_implies, implies_true, and_true]
  and_intros
  all_goals unfold Decodes headOf tailOf encode
  all_goals simp [encFp, encA, decFp, decode, isLong, fld, decode1]
theorem decodes_cluster (r : Reg) (n : BitVec 6) (m : BitVec 8) : ∀ i ∈ [Instr.crld r n, .crst r n, .semts m, .semtry r m,
    .semclr m], Decodes i := by
  simp only [List.forall_mem_cons, List.not_mem_nil, false_implies, implies_true, and_true]
  and_intros
  all_goals unfold Decodes headOf tailOf encode
  all_goals simp [encI, decCluster, decode, isLong, fld, decode1]
theorem decodes_system (a : Reg) (c : BitVec 8) (n : BitVec 12) : ∀ i ∈ [Instr.sysc n, .trap a c, .brk n, .tret, .idle, .idleX, .migrC,
    .migrV], Decodes i := by
  simp only [List.forall_mem_cons, List.not_mem_nil, false_implies, implies_true, and_true]
  and_intros
  all_goals unfold Decodes headOf tailOf encode
  all_goals simp [encI, decSystem, decode, isLong, fld, bit_eq_field, decode1]
theorem decodes_csr (d a : Reg) (c : BitVec 12) : ∀ i ∈ [Instr.csrr d c, .csrw a c, .csrx d a c], wellFormed i = true → Decodes i := by
  simp only [List.forall_mem_cons, List.not_mem_nil, false_implies, implies_true, and_true]
  and_intros
  all_goals intro wf
  all_goals unfold Decodes headOf tailOf encode
  all_goals unfold wellFormed at wf
  all_goals simp_all [encI, decCsr, decode, isLong, fld, decode1]
theorem decodes_task (d a b : Reg) (c : Cond) (p : Scope) : ∀ i ∈ [Instr.launch d a b, .signal a b p, .waitsig a b c,
    .gbar], Decodes i := by
  simp only [List.forall_mem_cons, List.not_mem_nil, false_implies, implies_true, and_true]
  and_intros
  all_goals unfold Decodes headOf tailOf encode
  all_goals simp [encA, decTask, decode, isLong, fld, decode1]
theorem decodes_config (d a : Reg) (t : VType) : ∀ i ∈ [Instr.setvl d a, .setvt d t, .setmr d a], Decodes i := by
  simp only [List.forall_mem_cons, List.not_mem_nil, false_implies, implies_true, and_true]
  and_intros
  all_goals unfold Decodes headOf tailOf encode
  all_goals simp [encI, decConfig, decode, isLong, fld, decode1]
theorem decodes_tile (t : Tile) (x : Reg) (n : BitVec 3) (a : BitVec 1) (e : ET) (r : Rm) (i13 : BitVec 13) : ∀ i ∈ [Instr.tld t x i13,
    .tst t x i13, .tcvt n a e r], wellFormed i = true → Decodes i := by
  simp only [List.forall_mem_cons, List.not_mem_nil, false_implies, implies_true, and_true]
  and_intros
  all_goals intro wf
  all_goals unfold Decodes headOf tailOf encode
  all_goals unfold wellFormed at wf
  all_goals simp_all [encB, decTile, n.isLt, decode, isLong, fld, decode1]
theorem decodes_tmma (d : BitVec 1) (a b m : BitVec 3) (s : Bool) (e : ET) : ∀ i ∈ [Instr.tmma d a b s e, .tmmaS d a b .n16 m s e,
    .tmmaS d a b .n32 m s e], wellFormed i = true → Decodes i := by
  simp only [List.forall_mem_cons, List.not_mem_nil, false_implies, implies_true, and_true]
  and_intros
  all_goals intro wf
  all_goals unfold Decodes headOf tailOf encode
  all_goals unfold wellFormed at wf
  all_goals simp_all [encA, decTmma, decode, isLong, fld, bit_eq_field, decode1]
theorem decodes_exchange (a b : Reg) (l : BitVec 9) : ∀ i ∈ [Instr.tsend a b l, .tsync], Decodes i := by
  simp only [List.forall_mem_cons, List.not_mem_nil, false_implies, implies_true, and_true]
  and_intros
  all_goals unfold Decodes headOf tailOf encode
  all_goals simp [encA, decExchange, decode, isLong, fld, decode1]
theorem decodes_jr (d a : Reg) : Decodes (.jr d a) := by
  unfold Decodes headOf tailOf encode
  simp [encA_zero, encI, decode, isLong, fld, decode1]
theorem decodes_convoy (us : List VUnit) (wf : wellFormed (.convoy us) = true) : Decodes (.convoy us) := by
  have len : 2 ≤ us.length ∧ us.length ≤ 6 := by simpa [wellFormed] using wf
  have slot : ∀ i < 6, convoySlot (headOf (.convoy us)) i = encSlots us i := by
    intro i lt
    unfold convoySlot headOf encode
    interval_cases i <;> simp [fld]
  have count : (fld (headOf (.convoy us)) 23 3).toNat + 2 = us.length := by
    unfold headOf encode
    simp [fld, -BitVec.extractLsb'_toNat]
    omega
  have units : us.map unitCode = (List.range us.length).map (convoySlot (headOf (.convoy us))) := by
    refine List.ext_getElem (by simp) fun i lt _ => ?_
    simp only [List.length_map] at lt
    simp [slot i (by omega), encSlots_eq, lt]
  have unused : ((List.range 6).all fun i => i < us.length || convoySlot (headOf (.convoy us)) i == 0) = true := by
    refine List.all_eq_true.mpr fun i lt => ?_
    have lt6 : i < 6 := List.mem_range.mp lt
    by_cases used : i < us.length
    · simp [used]
    · simp [used, slot i lt6, encSlots_eq]
  have head : fld (headOf (.convoy us)) 26 6 = 47 ∧ fld (headOf (.convoy us)) 0 5 = 0 := by
    unfold headOf encode
    simp [fld]
  simp only [Decodes, decode, isLong, decode1, head.1]
  show decConvoy _ = _
  simp only [decConvoy, count, chk_eq_ok, head.2, unused, convoyUnits_eq_some.mpr units, opt_some]
  simp [len.2]

/-! ## 64-bit instructions -/

theorem decodes_vmem (d s t : Reg) (n : BitVec 21) (q : Bool) (h : BitVec 2) (k : BitVec 3) (x : BitVec 12) (m : Pred) :
    ∀ i ∈ [
    Instr.vld d s n q m, .vlds d s t n q m, .vldx d s t h q m, .vst d s n k, .vsts d s t n k, .vstx d s t h k, .vsave s x,
    .vrstr s x], wellFormed i = true → Decodes i := by
  simp only [List.forall_mem_cons, List.not_mem_nil, false_implies, implies_true, and_true]
  and_intros
  all_goals intro wf
  all_goals unfold Decodes headOf tailOf encode
  all_goals unfold wellFormed at wf
  all_goals simp_all [encV, decode, isLong, fld, decode2, vFields, bit_eq_field, Pred.wf, predF, noKz, noMask, ldOrd_eq_ok (q := q),
    decVMem]
theorem decodes_vint (d a : Reg) (b : VSrc) (m : Pred) : ∀ i ∈ [Instr.vadd d a b m, .vsub d a b m, .vmul d a b m, .vmulh d a b m,
    .vand d a b m, .vor d a b m, .vxor d a b m, .vshl d a b m, .vshr d a b m, .vsar d a b m, .vmin d a b m, .vmax d a b m, .vsadd d a b m,
    .vssub d a b m], wellFormed i = true → Decodes i := by
  simp only [List.forall_mem_cons, List.not_mem_nil, false_implies, implies_true, and_true]
  and_intros
  all_goals intro wf
  all_goals cases b
  all_goals unfold Decodes headOf tailOf encode
  all_goals unfold wellFormed at wf
  all_goals simp_all [encV, decode, isLong, fld, decode2, vFields, bit_eq_field, encVInt, Pred.wf, predF, vsrcF, decVInt]
theorem decodes_vfp (d a : Reg) (b : FSrc) (r : RmDyn) (m : Pred) : ∀ i ∈ [Instr.vfadd d a b r m, .vfsub d a b r m, .vfmul d a b r m,
    .vfdiv d a b r m, .vfmin d a b m, .vfmax d a b m], wellFormed i = true → Decodes i := by
  simp only [List.forall_mem_cons, List.not_mem_nil, false_implies, implies_true, and_true]
  and_intros
  all_goals intro wf
  all_goals cases b
  all_goals unfold Decodes headOf tailOf encode
  all_goals unfold wellFormed at wf
  all_goals simp_all [encV, decode, isLong, fld, decode2, vFields, bit_eq_field, encVFp, Pred.wf, predF, fsrcF, decVFp]
theorem decodes_vfma (d a b c : Reg) (r : RmDyn) (m : Pred) : ∀ i ∈ [Instr.vfma d a (.vv b c) r m, .vfma d a (.vf b c) r m,
    .vfsqrt d a r m, .vfexp2 d a r m, .vfrcp d a r m], wellFormed i = true → Decodes i := by
  simp only [List.forall_mem_cons, List.not_mem_nil, false_implies, implies_true, and_true]
  and_intros
  all_goals intro wf
  all_goals unfold Decodes headOf tailOf encode
  all_goals unfold wellFormed at wf
  all_goals simp_all [encV, decode, isLong, fld, decode2, vFields, bit_eq_field, Pred.wf, predF, decVFp]
theorem decodes_vcv (d a : Reg) (e : ET) (l : BitVec 5) (n : BitVec 2) (r : RmDyn) (m : Pred) : ∀ i ∈ [Instr.vcvt d a e r m, .vqenc d a m,
    .vqdec d a m, .vhbfly d a l r m, .vscale d a n r m], wellFormed i = true → Decodes i := by
  simp only [List.forall_mem_cons, List.not_mem_nil, false_implies, implies_true, and_true]
  and_intros
  all_goals intro wf
  all_goals unfold Decodes headOf tailOf encode
  all_goals unfold wellFormed at wf
  all_goals simp_all [encV, decode, isLong, fld, decode2, vFields, bit_eq_field, Pred.wf, predF, decVCv]
theorem decodes_vperm (d a b : Reg) (dn : Bool) (k : BitVec 3) (n : BitVec 16) (m : Pred) : ∀ i ∈ [Instr.vperm d a b m,
    .vslide d a b dn m, .vsplat d a m, .vmerge d a b k, .vcompr d a m, .vidx d m, .vmvx d a n,
    .vmxv d a n], wellFormed i = true → Decodes i := by
  simp only [List.forall_mem_cons, List.not_mem_nil, false_implies, implies_true, and_true]
  and_intros
  all_goals intro wf
  all_goals unfold Decodes headOf tailOf encode
  all_goals unfold wellFormed at wf
  all_goals simp_all [encV, decode, isLong, fld, decode2, vFields, bit_eq_field, Pred.wf, predF, noKz, noMask, getLsbD_eq_field,
    -BitVec.getLsbD_eq_getElem, decVPerm]
theorem decodes_vcmp (d : BitVec 3) (a b : Reg) (n : BitVec 16) (c : Cmp) (m : Pred) : ∀ i ∈ [Instr.vcmp d a (.vv b) c m,
    .vcmp d a (.vx b) c m, .vcmp d a (.vi n) c m], wellFormed i = true → Decodes i := by
  simp only [List.forall_mem_cons, List.not_mem_nil, false_implies, implies_true, and_true]
  and_intros
  all_goals intro wf
  all_goals unfold Decodes headOf tailOf encode
  all_goals unfold wellFormed at wf
  all_goals simp_all [encV, decode, isLong, fld, decode2, vFields, bit_eq_field, Pred.wf, predF, vsrcF, decVMask]
theorem decodes_vmask (x : Reg) (d a b k : BitVec 3) (t : BitVec 4) (m : Pred) : ∀ i ∈ [Instr.kop d a b t m, .kpopc x a k, .kfirst x a k,
    .kmov d a m], wellFormed i = true → Decodes i := by
  simp only [List.forall_mem_cons, List.not_mem_nil, false_implies, implies_true, and_true]
  and_intros
  all_goals intro wf
  all_goals unfold Decodes headOf tailOf encode
  all_goals unfold wellFormed at wf
  all_goals simp_all [encV, decode, isLong, fld, decode2, vFields, bit_eq_field, Pred.wf, predF, noKz, decVMask]
theorem decodes_vred (d a : Reg) (o : RedOp) (l : Bool) (n : BitVec 1) (r : RmDyn) (k : BitVec 3) (m : Pred) :
    ∀ i ∈ [
    Instr.vred d a o l n r k, .vscan d a o l n r m], wellFormed i = true → Decodes i := by
  simp only [List.forall_mem_cons, List.not_mem_nil, false_implies, implies_true, and_true]
  and_intros
  all_goals intro wf
  all_goals cases l
  all_goals unfold Decodes headOf tailOf encode
  all_goals unfold wellFormed at wf
  all_goals simp_all [encV, decode, isLong, fld, decode2, vFields, bit_eq_field, Pred.wf, predF, noKz, decVRed]
theorem decodes_vamo (d a b s : Reg) (o : AmoOp) (p : Scope) (r : Bool) (n : BitVec 2) (k : BitVec 3) :
    ∀ i ∈ [
    Instr.vamo d a b s o p r n k, .vamom d a b s o p r n k], wellFormed i = true → Decodes i := by
  simp only [List.forall_mem_cons, List.not_mem_nil, false_implies, implies_true, and_true]
  and_intros
  all_goals intro wf
  all_goals unfold Decodes headOf tailOf encode
  all_goals unfold wellFormed at wf
  all_goals simp_all [encV, decode, isLong, fld, decode2, vFields, bit_eq_field, noKz, getLsbD_eq_field, -BitVec.getLsbD_eq_getElem,
    decVAmo]
theorem decodes_vmat (d : BitVec 2) (a b : Reg) (x y : BitVec 2) (w : BitVec 4) (r : RmDyn) (k : BitVec 3) : ∀ i ∈ [Instr.mzero d,
    .mma d a b x y, .mrd a d w r k, .mwr a d w], wellFormed i = true → Decodes i := by
  simp only [List.forall_mem_cons, List.not_mem_nil, false_implies, implies_true, and_true]
  and_intros
  all_goals intro wf
  all_goals unfold Decodes headOf tailOf encode
  all_goals unfold wellFormed at wf
  all_goals simp_all [encV, decode, isLong, fld, decode2, vFields, bit_eq_field, noKz, noMask, small, d.isLt, toNat_lt_twentyfive, decVMat]
theorem decodes_vproj (d c : BitVec 2) (a b s : Reg) (k : BitVec 8) (n : BitVec 21) : ∀ i ∈ [Instr.xproj d a s k, .xprojb d a b s k,
    .xmerge d c, .xhload d s n, .xhstore d s n], Decodes i := by
  simp only [List.forall_mem_cons, List.not_mem_nil, false_implies, implies_true, and_true]
  and_intros
  all_goals unfold Decodes headOf tailOf encode
  all_goals simp [encV, decode, isLong, fld, decode2, vFields, bit_eq_field, noKz, noMask, decVProj]
theorem decodes_vscaleTable (n : BitVec 2) (s t : Reg) (l : BitVec 21) : ∀ i ∈ [Instr.scld n s t l, .scst n s t l, .ctld s l,
    .ctst s l], Decodes i := by
  simp only [List.forall_mem_cons, List.not_mem_nil, false_implies, implies_true, and_true]
  and_intros
  all_goals unfold Decodes headOf tailOf encode
  all_goals simp [encV, decode, isLong, fld, decode2, vFields, bit_eq_field, noKz, noMask, decVScale]
theorem decodes_vcopy (t s : Reg) (k : BitVec 3) (p : Scope) : ∀ i ∈ [Instr.cpy t s k none, .cpy t s k (some p), .cpywt t,
    .cpycan t], wellFormed i = true → Decodes i := by
  simp only [List.forall_mem_cons, List.not_mem_nil, false_implies, implies_true, and_true]
  and_intros
  all_goals intro wf
  all_goals unfold Decodes headOf tailOf encode
  all_goals unfold wellFormed at wf
  all_goals simp_all [encV, decode, isLong, fld, decode2, vFields, bit_eq_field, noKz, decVCopy]
theorem decodes_vcoll (d s : Reg) : ∀ i ∈ [Instr.colbind d s, .colfree d, .colwait d], Decodes i := by
  simp only [List.forall_mem_cons, List.not_mem_nil, false_implies, implies_true, and_true]
  and_intros
  all_goals unfold Decodes headOf tailOf encode
  all_goals simp [encV, decode, isLong, fld, decode2, vFields, bit_eq_field, noKz, noMask, decVColl]
theorem decodes_vremote (d a b c : Reg) (o : AmoOp) (z : ASize) (p : Scope) : ∀ i ∈ [Instr.nput d a b c, .nget d a b c, .namo d a b c o z,
    .nflush c p], Decodes i := by
  simp only [List.forall_mem_cons, List.not_mem_nil, false_implies, implies_true, and_true]
  and_intros
  all_goals unfold Decodes headOf tailOf encode
  all_goals simp [encV, decode, isLong, fld, decode2, vFields, bit_eq_field, noKz, noMask, decVRemote]
theorem decodes_vloop (s : Reg) (n : BitVec 5) : ∀ i ∈ [Instr.vloop s n], Decodes i := by
  simp only [List.forall_mem_cons, List.not_mem_nil, false_implies, implies_true, and_true]
  all_goals unfold Decodes headOf tailOf encode
  all_goals simp [encV, decode, isLong, fld, decode2, vFields, bit_eq_field, noKz, noMask, decVLoop]

/-- Settles O55, each instruction by the lemma of its decoder. -/
theorem roundTrip : Obligations.RoundTrip := by
  intro i wf event
  cases i
  case add d a b w | sub d a b w | mul d a b w | shl d a b w | shr d a b w | sar d a b w | ror d a b w =>
    exact decodes_alu d a b w false .eq _ (by simp)
  case mulh d a b w u | div d a b w u | rem d a b w u => exact decodes_alu d a b w u .eq _ (by simp)
  case and d a b | or d a b | xor d a b | andn d a b | sel d a b | ins d a b => exact decodes_alu d a b false false .eq _ (by simp)
  case min d a b u | max d a b u | ext d a b u => exact decodes_alu d a b false u .eq _ (by simp)
  case set d a b c => exact decodes_alu d a b false false c _ (by simp)
  case clz d a w | ctz d a w | popc d a w => exact decodes_alu d a 0 w false .eq _ (by simp)
  case bswap d a => exact decodes_alu d a 0 false false .eq _ (by simp)
  case addImm d a i | andImm d a i | orImm d a i | xorImm d a i => exact decodes_immediate d a 0 .eq 0 i 0 0 _ (by simp)
  case setImm d a c i => exact decodes_immediate d a 0 c 0 0 i 0 _ (by simp)
  case lim d i | addpc d i => exact decodes_immediate d 0 0 .eq 0 0 0 i _ (by simp)
  case lea d a b s => exact decodes_immediate d a b .eq s 0 0 0 _ (by simp)
  case blind i => exact decodes_immediate 0 0 0 .eq 0 0 0 i _ (by simp)
  case shlImm d a w s | shrImm d a w s | sarImm d a w s | rorImm d a w s => exact decodes_shiftImm d a w s _ (by simp) wf
  case extImm d a u p l => exact decodes_fieldImm d a u p l _ (by simp) wf
  case insImm d a p l => exact decodes_fieldImm d a false p l _ (by simp) wf
  case ld d a z i => exact decodes_memory d a 0 .h z .b .w .add i _ (by simp)
  case st d a z i => exact decodes_memory d a 0 .h .b z .w .add i _ (by simp)
  case ldaq d a p z => exact decodes_memory d a 0 p .b z .w .add 0 _ (by simp)
  case strl a b p z => exact decodes_memory 0 a b p .b z .w .add 0 _ (by simp)
  case amo d a b p z o => exact decodes_memory d a b p .b .b z o 0 _ (by simp)
  case cas d a b p z => exact decodes_memory d a b p .b .b z .add 0 _ (by simp)
  case fence p x y => exact decodes_fence p x y .sv _ (by simp)
  case ifence p => exact decodes_fence p .l .l .sv _ (by simp)
  case vfence k => exact decodes_fence .h .l .l k _ (by simp)
  case b x y c i => exact decodes_control x y c i 0 0 0 _ (by simp)
  case j i | call i => exact decodes_control 0 0 .eq 0 i 0 0 _ (by simp)
  case jr d a => exact decodes_jr d a
  case btab x y n => exact decodes_control x y .eq 0 0 n 0 _ (by simp)
  case bvany k i | bvall k i => exact decodes_control 0 0 .eq i 0 0 k _ (by simp)
  case fadd d a b f r | fsub d a b f r | fmul d a b f r | fdiv d a b f r => exact decodes_float d a b 0 (.toF f) .ff .eq f r _ (by simp)
  case fsqrt d a f r => exact decodes_float d a 0 0 (.toF f) .ff .eq f r _ (by simp)
  case fmin d a b f | fmax d a b f => exact decodes_float d a b 0 (.toF f) .ff .eq f .rne _ (by simp)
  case fcmp d a b f c => exact decodes_float d a b 0 (.toF f) .ff c f .rne _ (by simp)
  case fcvt d a t f r => exact decodes_float d a 0 0 t .ff .eq f r _ (by simp)
  case fmov d a t f => exact decodes_float d a 0 0 (.toF f) t .eq f .rne _ (by simp)
  case fclass d a f => exact decodes_float d a 0 0 (.toF f) .ff .eq f .rne _ (by simp)
  case fma d a b c f r => exact decodes_float d a b c (.toF f) .ff .eq f r _ (by simp)
  case crld r n | crst r n => exact decodes_cluster r n 0 _ (by simp)
  case semts n | semclr n => exact decodes_cluster 0 0 n _ (by simp)
  case semtry r n => exact decodes_cluster r 0 n _ (by simp)
  case sysc n | brk n => exact decodes_system 0 0 n _ (by simp)
  case trap a c => exact decodes_system a c 0 _ (by simp)
  case tret | idle | idleX | migrC | migrV => exact decodes_system 0 0 0 _ (by simp)
  case csrr d c => exact decodes_csr d 0 c _ (by simp) wf
  case csrw a c => exact decodes_csr 0 a c _ (by simp) wf
  case csrx d a c => exact decodes_csr d a c _ (by simp) wf
  case launch d a b => exact decodes_task d a b .eq .h _ (by simp)
  case signal a b p => exact decodes_task 0 a b .eq p _ (by simp)
  case waitsig a b c => exact decodes_task 0 a b c .h _ (by simp)
  case gbar => exact decodes_task 0 0 0 .eq .h _ (by simp)
  case setvl d a | setmr d a => exact decodes_config d a ⟨.fp64, .b16, false, false, .fp32, .rne⟩ _ (by simp)
  case setvt d t => exact decodes_config d 0 t _ (by simp)
  case tld t a i | tst t a i => exact decodes_tile t a 0 0 .fp64 .rne i _ (by simp) wf
  case tcvt t a e r => exact decodes_tile (.w t) 0 t a e r 0 _ (by simp) wf
  case tmma d a b s e => exact decodes_tmma d a b 0 s e _ (by simp) wf
  case tmmaS d a b n m s e => cases n <;> exact decodes_tmma d a b m s e _ (by simp) wf
  case tsend a b l => exact decodes_exchange a b l _ (by simp)
  case tsync => exact decodes_exchange 0 0 0 _ (by simp)
  case convoy us => exact decodes_convoy us wf
  case vld d s n q m => exact decodes_vmem d s 0 n q 0 0 0 m _ (by simp) wf
  case vlds d s t n q m => exact decodes_vmem d s t n q 0 0 0 m _ (by simp) wf
  case vldx d s t h q m => exact decodes_vmem d s t 0 q h 0 0 m _ (by simp) wf
  case vst d s n k => exact decodes_vmem d s 0 n false 0 k 0 ⟨0, false⟩ _ (by simp) wf
  case vsts d s t n k => exact decodes_vmem d s t n false 0 k 0 ⟨0, false⟩ _ (by simp) wf
  case vstx d s t h k => exact decodes_vmem d s t 0 false h k 0 ⟨0, false⟩ _ (by simp) wf
  case vsave s x | vrstr s x => exact decodes_vmem 0 s 0 0 false 0 0 x ⟨0, false⟩ _ (by simp) wf
  case vadd d a b m | vsub d a b m | vmul d a b m | vmulh d a b m | vand d a b m | vor d a b m | vxor d a b m | vshl d a b m
      | vshr d a b m | vsar d a b m | vmin d a b m | vmax d a b m | vsadd d a b m | vssub d a b m =>
    exact decodes_vint d a b m _ (by simp) wf
  case vfadd d a b r m | vfsub d a b r m | vfmul d a b r m | vfdiv d a b r m => exact decodes_vfp d a b r m _ (by simp) wf
  case vfmin d a b m | vfmax d a b m => exact decodes_vfp d a b .dyn m _ (by simp) wf
  case vfma d a b r m =>
    cases b with
    | vv b c => exact decodes_vfma d a b c r m _ (by simp) wf
    | vf b c => exact decodes_vfma d a b c r m _ (by simp) wf
  case vfsqrt d a r m | vfexp2 d a r m | vfrcp d a r m => exact decodes_vfma d a 0 0 r m _ (by simp) wf
  case vcvt d a e r m => exact decodes_vcv d a e 0 0 r m _ (by simp) wf
  case vqenc d a m | vqdec d a m => exact decodes_vcv d a .fp64 0 0 .dyn m _ (by simp) wf
  case vhbfly d a l r m => exact decodes_vcv d a .fp64 l 0 r m _ (by simp) wf
  case vscale d a n r m => exact decodes_vcv d a .fp64 0 n r m _ (by simp) wf
  case vperm d a b m => exact decodes_vperm d a b false 0 0 m _ (by simp) wf
  case vslide d a b dn m => exact decodes_vperm d a b dn 0 0 m _ (by simp) wf
  case vsplat d a m | vcompr d a m => exact decodes_vperm d a 0 false 0 0 m _ (by simp) wf
  case vmerge d a b k => exact decodes_vperm d a b false k 0 ⟨0, false⟩ _ (by simp) wf
  case vidx d m => exact decodes_vperm d 0 0 false 0 0 m _ (by simp) wf
  case vmvx d a n | vmxv d a n => exact decodes_vperm d a 0 false 0 n ⟨0, false⟩ _ (by simp) wf
  case vcmp d a b c m =>
    cases b with
    | vv b => exact decodes_vcmp d a b 0 c m _ (by simp) wf
    | vx b => exact decodes_vcmp d a b 0 c m _ (by simp) wf
    | vi n => exact decodes_vcmp d a 0 n c m _ (by simp) wf
  case kop d a b t m => exact decodes_vmask 0 d a b 0 t m _ (by simp) wf
  case kpopc x a k | kfirst x a k => exact decodes_vmask x 0 a 0 k 0 ⟨0, false⟩ _ (by simp) wf
  case kmov d a m => exact decodes_vmask 0 d a 0 0 0 m _ (by simp) wf
  case vred d a o l n r k => exact decodes_vred d a o l n r k ⟨0, false⟩ _ (by simp) wf
  case vscan d a o l n r m => exact decodes_vred d a o l n r 0 m _ (by simp) wf
  case vamo d a b s o p r n k | vamom d a b s o p r n k => exact decodes_vamo d a b s o p r n k _ (by simp) wf
  case mzero d => exact decodes_vmat d 0 0 0 0 0 .dyn 0 _ (by simp) wf
  case mma d a b x y => exact decodes_vmat d a b x y 0 .dyn 0 _ (by simp) wf
  case mrd a d w r k => exact decodes_vmat d a 0 0 0 w r k _ (by simp) wf
  case mwr a d w => exact decodes_vmat d a 0 0 0 w .dyn 0 _ (by simp) wf
  case xproj d a s k => exact decodes_vproj d 0 a 0 s k 0 _ (by simp)
  case xprojb d a b s k => exact decodes_vproj d 0 a b s k 0 _ (by simp)
  case xmerge d c => exact decodes_vproj d c 0 0 0 0 0 _ (by simp)
  case xhload d s n | xhstore d s n => exact decodes_vproj d 0 0 0 s 0 n _ (by simp)
  case scld n s t l | scst n s t l => exact decodes_vscaleTable n s t l _ (by simp)
  case ctld s l | ctst s l => exact decodes_vscaleTable 0 s 0 l _ (by simp)
  case cpy t s k rel =>
    cases rel with
    | none => exact decodes_vcopy t s k .h _ (by simp) wf
    | some p => exact decodes_vcopy t s k p _ (by simp) wf
  case cpywt t | cpycan t => exact decodes_vcopy t 0 0 .h _ (by simp) wf
  case colbind d s => exact decodes_vcoll d s _ (by simp)
  case colfree d | colwait d => exact decodes_vcoll d 0 _ (by simp)
  case nput a b c d | nget a b c d => exact decodes_vremote a b c d .add .w .h _ (by simp)
  case namo d a b c o z => exact decodes_vremote d a b c o z .h _ (by simp)
  case nflush c p => exact decodes_vremote 0 0 0 c .add .w p _ (by simp)
  case vloop s n => exact decodes_vloop s n _ (by simp)
  all_goals cases event

end Sys2Proof
end

section
/-! SUPPORT. Words written out from the encoding tables, and the majors that are no instruction (04:R105-R133). -/
namespace Sys2Proof

/-- The majors that the tables assign to nothing. -/
theorem decode_unassigned {h t : Parcel} {m : Nat} (e : (fld h 26 6).toNat = m)
    (u : m ∈ [11, 12, 13, 14, 15, 20, 21, 22, 23, 30, 31, 43, 44, 45, 46, 63]) : decode h t = .error .unassigned := by
  unfold decode isLong decode1 decode2
  rw [e]
  fin_cases u <;> rfl

/-- Settles O57: each word by decoding it, and a major of no instruction by the decoder's last case. -/
theorem specWords : Obligations.SpecWords := by
  refine ⟨rfl, rfl, rfl, rfl, rfl, rfl, rfl, rfl, rfl, rfl, fun h t m => ⟨_, decode_unassigned (fld_major h) ?_⟩⟩
  simp only [List.mem_cons, List.not_mem_nil, or_false]
  omega

end Sys2Proof
end
section
/-! SUPPORT. Where the caches hold memory's bytes, a fetch reads the parcels that memory holds (04:R103, R104; 09:R256, R261, R268). -/
namespace Sys2Proof.Machine
open Sys2Proof

/-! ## What a fetch changes -/

/-- The lines that instruction caches hold are memory's bytes. -/
def State.codeFresh (s : State) : Prop := ∀ l, l ∈ s.icache → l.bytes = memReadN s.mem (64 * l.line) 64
/-- Nothing differs but what a fetch remembers: translations, code lines, and copies the host gives up. -/
def fetchFrame (s t : State) : Prop :=
  t = { s with tlb := t.tlb, walks := t.walks, icache := t.icache, hostCopies := t.hostCopies, out := t.out }
/-- A fetch under way: nothing but what a fetch remembers differs from its start, and what is remembered agrees with memory. -/
structure Fetching (s t : State) : Prop where
  frame : fetchFrame s t
  fresh : t.tlbFresh
  code : t.codeFresh

section
variable {s t u : State}
theorem fetchFrame.trans (h : fetchFrame s t) (k : fetchFrame t u) : fetchFrame s u := by
  unfold fetchFrame at *
  rw [h] at k
  exact k
theorem fetchFrame_note (s : State) (c : Ctx) (va : Word) (n : Nat) : fetchFrame s (noteXlat s c va n) := by
  unfold fetchFrame
  rw [noteXlat_form]
theorem fetchFrame.mem (h : fetchFrame s t) : t.mem = s.mem := by unfold fetchFrame at h; rw [h]
theorem fetchFrame.bad (h : fetchFrame s t) : t.bad = s.bad := by unfold fetchFrame at h; rw [h]
theorem fetchFrame.hart (h : fetchFrame s t) : t.hart = s.hart := by unfold fetchFrame at h; rw [h]
theorem fetchFrame.ctx (h : fetchFrame s t) : t.ctx = s.ctx := by
  unfold fetchFrame at h
  rw [h]
  rfl
/-- A translation during a fetch is that at its start: the walk of tables that stand. -/
theorem fetchFrame.xlat (f : fetchFrame s t) (hs : s.tlbFresh) (ht : t.tlbFresh) (c : Ctx) (k : AccKind) (site : Nat) (va : Word) :
    xlat t c k site va = xlat s c k site va := by
  unfold Machine.xlat
  dsimp only
  rw [leafFor_fresh ht, leafFor_fresh hs, walk_same f.mem f.bad]
  unfold fetchFrame at f
  rw [f]
  rfl
theorem fetchFrame.xlatEach (f : fetchFrame s t) (hs : s.tlbFresh) (ht : t.tlbFresh) (c : Ctx) (k : AccKind) (start : Word) (n : Nat) :
    ∀ (m : Nat) (va : Word), xlatEach t c k start n va m = xlatEach s c k start n va m
  | 0, _ => rfl
  | m + 1, _ => by
    unfold Machine.xlatEach
    simp only [f.xlat hs ht, f.xlatEach hs ht c k start n m]
/-- What an access reaches at the start of a fetch it reaches during it. -/
theorem Fetching.reaches (f : Fetching s t) (hs : s.tlbFresh) {k : AccKind} {va : Word} {n : Nat} {pas : List Nat}
    (r : s.reaches k va n pas) : xlatN t t.ctx k va n = .ok pas ∧ physCheck t k va pas false = .ok () := by
  obtain ⟨hx, hp⟩ := r
  constructor
  · rw [← hx, f.frame.ctx]
    unfold Machine.xlatN
    simp only [f.frame.xlat hs f.fresh, f.frame.xlatEach hs f.fresh]
  · have g := f.frame
    unfold fetchFrame at g
    rw [← hp, g]
    rfl
theorem Fetching.start (hs : s.tlbFresh) (hc : s.codeFresh) : Fetching s s := ⟨rfl, hs, hc⟩
theorem Fetching.note (f : Fetching s t) (c : Ctx) (va : Word) (n : Nat) : Fetching s (noteXlat t c va n) :=
  ⟨f.frame.trans (fetchFrame_note t c va n), noteXlat_fresh f.fresh c va n, by
    unfold State.codeFresh
    rw [noteXlat_icache, noteXlat_mem]
    exact f.code⟩

/-! ## Code lines -/

/-- Where every version held is memory's, a fetch reads memory's. -/
theorem codeLine_fresh (h : s.codeFresh) (line : Nat) : s.codeLine line = s.codeNow line := by
  have none : (s.codeHeld line).filter (· != s.codeNow line) = [] := by
    refine List.filter_eq_nil_iff.2 fun b hb => ?_
    obtain ⟨l, hl, rfl⟩ := List.mem_map.1 hb
    obtain ⟨hl, here⟩ := List.mem_filter.1 hl
    simp only [Bool.and_eq_true, beq_iff_eq] at here
    rw [h l hl, here.2]
    simp [State.codeNow]
  unfold State.codeLine
  dsimp only
  rw [none, pickHeld_nil]
  rfl
theorem run_getElem? : ∀ {n i : Nat} (a : Nat), i < n → (run a n)[i]? = some (a + i)
  | n + 1, 0, _, _ => rfl
  | n + 1, i + 1, a, h => by
    rw [run, List.getElem?_cons_succ, run_getElem? (a + 1) (Nat.lt_of_succ_lt_succ h)]
    congr 1
    omega
/-- A byte of a line as memory holds it. -/
theorem codeNow_getD (s : State) (pa : Nat) : (s.codeNow (pa / 64)).getD (pa % 64) 0 = memRead s.mem pa := by
  have at' : 64 * (pa / 64) + pa % 64 = pa := Nat.div_add_mod pa 64
  rw [State.codeNow, memReadN_eq_map, List.getD_eq_getElem?_getD, List.getElem?_map, run_getElem? _ (Nat.mod_lt _ (by decide)), at']
  rfl
theorem holdLine_icache (s : State) (line : Nat) :
    (s.holdLine line).icache = addNew s.icache ⟨s.hart.cls, s.hart.agent, line, s.codeLine line⟩ := rfl
theorem holdLine_mem (s : State) (line : Nat) : (s.holdLine line).mem = s.mem := rfl
theorem holdLine_bad (s : State) (line : Nat) : (s.holdLine line).bad = s.bad := rfl
theorem holdLine_fresh (h : s.tlbFresh) (line : Nat) : (s.holdLine line).tlbFresh := by
  unfold State.tlbFresh
  simp only [walk_same (holdLine_mem s line) (holdLine_bad s line)]
  exact h
theorem holdLine_codeFresh (h : s.codeFresh) (line : Nat) : (s.holdLine line).codeFresh := fun l hl => by
  rw [holdLine_icache] at hl
  obtain hl | rfl := mem_addNew hl
  · exact h l hl
  · exact codeLine_fresh h line
theorem Fetching.holdLine (f : Fetching s t) (line : Nat) : Fetching s (t.holdLine line) :=
  ⟨f.frame.trans rfl, holdLine_fresh f.fresh line, holdLine_codeFresh f.code line⟩
theorem Fetching.holdLines (f : Fetching s t) : ∀ l : List Nat, Fetching s (l.foldl State.holdLine t) := by
  intro l
  induction l generalizing t with
  | nil => exact f
  | cons line l ih => exact ih (f.holdLine line)
/-- The bytes that a fetch takes from code lines are memory's. -/
theorem Fetching.bytes (f : Fetching s t) (pas : List Nat) :
    pas.map (fun pa => (t.codeLine (pa / 64)).getD (pa % 64) 0) = memReadAt s.mem pas :=
  List.map_congr_left fun pa _ => by rw [codeLine_fresh f.code, codeNow_getD, f.frame.mem]
/-- A fetch whose address translates reads each byte's line and holds it. -/
theorem runM_fetchParcel {va : Word} {pas : List Nat} (h : runM (addresses t.ctx .fetch va 4 false) t = (.ok pas, u)) :
    runM (fetchParcel va) t = (.ok (BitVec.ofNat 32 (leNat (pas.map fun pa => (u.codeLine (pa / 64)).getD (pa % 64) 0))),
      ((pas.map (· / 64)).eraseDups).foldl State.holdLine u) := by
  rw [fetchParcel, runM_bind, runM_get]
  dsimp only
  rw [runM_bind, h]
  rfl
/-- A parcel that can be reached is fetched as memory holds it. -/
theorem Fetching.parcel (f : Fetching s t) (hs : s.tlbFresh) {va : Word} {p : List Nat} (r : s.reaches .fetch va 4 p) :
    ∃ w, runM (fetchParcel va) t = (.ok (BitVec.ofNat 32 (leNat (memReadAt s.mem p))), w) ∧ Fetching s w := by
  obtain ⟨hx, hp⟩ := f.reaches hs r
  have g := f.note t.ctx va 4
  refine ⟨_, ?_, g.holdLines ((p.map (· / 64)).eraseDups)⟩
  rw [runM_fetchParcel (runM_addresses hx hp), g.bytes]

/-! ## The instruction at the pc -/

/-- The parcels that memory holds at the pc, where caches agree with memory and no check stops the fetch. -/
structure CodeAt (s : State) (head tail : Parcel) : Prop where
  fresh : s.tlbFresh
  code : s.codeFresh
  first : ∃ p, s.reaches .fetch s.hart.pc 4 p ∧ head = BitVec.ofNat 32 (leNat (memReadAt s.mem p))
  long : isLong head = true → ∃ q, s.reaches .fetch (s.hart.pc + 4) 4 q ∧ tail = BitVec.ofNat 32 (leNat (memReadAt s.mem q))
  short : isLong head = false → tail = 0
theorem CodeAt.parcels {head tail : Parcel} (c : CodeAt s head tail) :
    ∃ w, runM (fetchParcels s.hart.pc) s = (.ok (head, tail), w) ∧ fetchFrame s w := by
  obtain ⟨p, hp, rfl⟩ := c.first
  obtain ⟨t, first, f⟩ := (Fetching.start c.fresh c.code).parcel c.fresh hp
  rw [fetchParcels, runM_bind, first]
  dsimp only
  cases long : isLong (BitVec.ofNat 32 (leNat (memReadAt s.mem p))) with
  | false => exact ⟨t, by rw [if_neg nofun, c.short long, runM_pure], f.frame⟩
  | true =>
    obtain ⟨q, hq, rfl⟩ := c.long long
    obtain ⟨w, second, g⟩ := f.parcel c.fresh hq
    refine ⟨w, ?_, g.frame⟩
    rw [if_pos rfl, runM_bind, second]
    rfl
/-- The fetch gives the instruction that they decode to. -/
theorem CodeAt.fetch {head tail : Parcel} {i : Instr} (c : CodeAt s head tail) (d : decode head tail = .ok i)
    (priv : ¬ (i = .tret ∧ s.hart.lv = .a)) : ∃ w, Machine.fetch s = .instr i w ∧ fetchFrame s w := by
  obtain ⟨w, run, f⟩ := c.parcels
  refine ⟨w, ?_, f⟩
  rw [Machine.fetch, run]
  dsimp only
  rw [d]
  dsimp only
  rw [if_neg (by simpa using priv)]
end

end Sys2Proof.Machine
end

section
/-! SUPPORT. A step of the acting hart: how it comes to its turn, and what surrounds the instruction (03:R81; 04:R138; 12:R346). -/
namespace Sys2Proof.Machine
open Sys2Proof

/-! ## The hart's turn -/

section
variable {s u v w : State} {i : Instr}
theorem whatNext_hartTurn (due : s.due = none) (up : s.phase = .running) (quiet : s.stimuli = [])
    (send : s.toSend = [] ∨ Config.choice s.tick 2 = false) (hu : u = s.takeTurn.rotate)
    (dev : deviceEvents u = [] ∨ Config.choice u.tick 1 = true) (acts : u.hart.acts = true) : s.whatNext = hartTurn u := by
  have none : maySend s = none := by
    unfold maySend
    obtain h | h := send
    · rw [h]
    · split
      · rfl
      · rw [h]; rfl
  have turn : mayAct u (deviceEvents u) = hartTurn u := by
    unfold mayAct
    split
    case h_1 => rw [if_pos acts]
    case h_2 e t h =>
      obtain d | d := dev
      · rw [h] at d; exact nomatch d
      · rw [acts, d]; rfl
  have running : s.up = true := by rw [State.up, up]; rfl
  rw [State.whatNext, quiet, due]
  dsimp only
  rw [if_pos running, State.runsNext, none]
  dsimp only
  rw [← hu, turn]
theorem hartTurn_hartNext (calm : u.asyncNow = none) (goes : vectorGoes u = (.ok (), v)) (on : v.hart.halted = false)
    (live : v.hart.live' = true) : hartTurn u = hartNext v := by
  rw [hartTurn, calm, goes]
  dsimp only
  rw [on, live]
  rfl
/-- An instruction fetched waits for a register, takes DATAERR, or executes. -/
theorem hartNext_fetched (room : v.hart.mixFull = false) (got : fetch v = .instr i w) :
    hartNext v =
      if w.hart.mustWait i then .out (.next { w.count with hart := w.hart.startConvoy })
      else
        match w.hart.inError (issueReads i) with
        | some e => .out (takeTrap w .dataerr e v.hart.pc)
        | none => .instr i w := by
  rw [hartNext, room, got]
  rfl
/-- A convoy that the instruction is no member of is over, and in a single step the vector side stands. -/
theorem leaveConvoy_heldBack (w : State) (i : Instr) :
    (w.leaveConvoy i).heldBack =
      { w with hart := { w.hart with convoyLeft := if w.hart.convoyLeft ≠ 0 ∧ isPosted i = false then 0 else w.hart.convoyLeft },
               pace := if w.hart.stepping then (0, 0) :: w.pace else w.pace } := by
  have left : w.leaveConvoy i =
      { w with hart := { w.hart with convoyLeft := if w.hart.convoyLeft ≠ 0 ∧ isPosted i = false then 0 else w.hart.convoyLeft } } := by
    unfold State.leaveConvoy
    by_cases h : w.hart.convoyLeft ≠ 0 ∧ isPosted i = false
    · rw [if_pos h, if_pos (by simpa using h)]
    · rw [if_neg h, if_neg (by simpa using h)]
  rw [left, State.heldBack]
  dsimp only
  split <;> rfl
end

/-! ## After the instruction -/

/-- What surrounds an instruction leaves of the hart it gives: the counts, the halt and the registers in error may differ, a register
comes into error by none of it, a hart that does not step does not halt, and one outside a mix window keeps its counts. -/
structure Ended (g h : Hart) : Prop where
  frame : h = { g with mixCount := h.mixCount, mixHits := h.mixHits, mixMoves := h.mixMoves, halted := h.halted, stepping := h.stepping,
                       badRegs := h.badRegs }
  regs : ∀ r, r ∈ h.badRegs → r ∈ g.badRegs
  halts : g.stepping = false → h.halted = g.halted ∧ h.stepping = false
  counts : g.migMix = false → h.mixCount = g.mixCount ∧ h.mixHits = g.mixHits ∧ h.mixMoves = g.mixMoves

section
variable {g h k : Hart}
theorem Ended.refl (g : Hart) : Ended g g := ⟨rfl, fun _ m => m, fun e => ⟨rfl, e⟩, fun _ => ⟨rfl, rfl, rfl⟩⟩
theorem Ended.trans (a : Ended g h) (b : Ended h k) : Ended g k := by
  have mix : h.migMix = g.migMix := by rw [a.frame]
  refine ⟨?_, fun r m => a.regs r (b.regs r m), fun e => ?_, fun e => ?_⟩
  · have f := b.frame
    rw [a.frame] at f
    exact f
  · obtain ⟨ha, hs⟩ := a.halts e
    obtain ⟨ka, ks⟩ := b.halts hs
    exact ⟨ka.trans ha, ks⟩
  · obtain ⟨a1, a2, a3⟩ := a.counts e
    obtain ⟨b1, b2, b3⟩ := b.counts (mix.trans e)
    exact ⟨b1.trans a1, b2.trans a2, b3.trans a3⟩
theorem Ended.endStep (a : Ended g h) : Ended g h.endStep := by
  refine a.trans ?_
  unfold Hart.endStep
  split
  next e =>
    have st : h.stepping = true := (Bool.and_eq_true_iff.1 e).1
    exact ⟨rfl, fun _ m => m, fun f => absurd (st.symm.trans f) nofun, fun _ => ⟨rfl, rfl, rfl⟩⟩
  next => exact .refl h
theorem Ended.cleanse (a : Ended g h) (l : List (Nat × Nat)) : Ended g (h.cleanse l) := by
  refine a.trans ?_
  unfold Hart.cleanse
  split
  · exact .refl h
  · exact ⟨rfl, fun r m => List.mem_of_mem_filter m, fun e => ⟨rfl, e⟩, fun _ => ⟨rfl, rfl, rfl⟩⟩
theorem Ended.countMix (a : Ended g h) (i : Instr) (s t : State) : Ended g (h.countMix i s t) := by
  refine a.trans ?_
  unfold Hart.countMix
  split
  next => exact .refl h
  next e =>
    have mix : h.migMix ≠ false := fun f => e (by rw [f]; rfl)
    exact ⟨rfl, fun _ m => m, fun e => ⟨rfl, e⟩, fun f => absurd f mix⟩
end

section
variable (s t : State) (i : Instr)
theorem countHold_form : t.countHold = { t with hold := t.countHold.hold } := by
  unfold State.countHold
  split <;> rfl
theorem letGo_form : s.letGo t = { t with pace := if s.hart.stepping then s.pace else t.pace } := by
  unfold State.letGo
  split <;> rfl
/-- The hart is left as the single step's end leaves it; other harts change only where one steps. -/
theorem stepsEnd_form : ∃ h o, stepsEnd s t = { t with hart := h, others := o } ∧ Ended t.hart h ∧
    ((∀ g, g ∈ t.others → g.stepping = false) → o = t.others) := by
  refine ⟨_, _, rfl, ?_, fun still => ?_⟩
  · split
    · exact (Ended.refl _).endStep
    · exact .refl _
  · refine (List.map_congr_left fun g m => ?_).trans (List.map_id _)
    rw [if_neg (by simp [still g m])]
    rfl
/-- What follows on the instruction changes the hart alone. -/
theorem afterInstr_ended (t' : State) (form : stepsEnd s (s.letGo t).count.countHold = t') :
    ∃ h, afterInstr i s (.next t) = .next { t' with hart := h } ∧ Ended t'.hart h := by
  unfold afterInstr
  dsimp only
  rw [form]
  have here := Ended.refl t'.hart
  split
  · exact ⟨_, rfl, here⟩
  · split
    · exact ⟨_, rfl, ((here.cleanse _).countMix i s t').endStep⟩
    · split
      · exact ⟨_, rfl, (here.countMix i s t').endStep⟩
      · exact ⟨_, rfl, here.countMix i s t'⟩
/-- After an instruction, the hart and the others are left so, and nothing else differs but the counts of choices and the pace. -/
theorem afterInstr_next : ∃ h l o, afterInstr i s (.next t) = .next { t with
      tick := t.tick + 1, hart := h, hold := l, others := o, pace := if s.hart.stepping then s.pace else t.pace } ∧
    ((∀ g, g ∈ t.others → g.stepping = false) → o = t.others) ∧ Ended t.hart h := by
  obtain ⟨h, o, form, ended, still⟩ := stepsEnd_form s (s.letGo t).count.countHold
  obtain ⟨k, after, more⟩ := afterInstr_ended s t i _ form
  rw [countHold_form, letGo_form] at ended still
  rw [countHold_form, letGo_form] at after
  exact ⟨k, _, o, after, still, ended.trans more⟩
end

end Sys2Proof.Machine
end

section
namespace Sys2Proof
open Sys2Proof.Machine
/-- Settles O58: the fetch reads the parcels that memory holds (`CodeAt.fetch`), the turn comes to the acting hart's instruction
(`whatNext_hartTurn`, `hartNext_fetched`), and what surrounds it is that of `leaveConvoy_heldBack` and `afterInstr_next`. -/
theorem stepRunsDecoded : Obligations.StepRunsDecoded := by
  unfold Obligations.StepRunsDecoded
  intro s u v i head tail p q due up quiet send hu dev acts calm goes on live room fresh code first hhead long short dec priv
  obtain ⟨w, got, frame⟩ := CodeAt.fetch ⟨fresh, code, ⟨p, first, hhead⟩, fun l => ⟨q, long l⟩, short⟩ dec priv
  have next : s.whatNext = _ :=
    (whatNext_hartTurn due up quiet send hu dev acts).trans
      ((hartTurn_hartNext calm goes on live).trans (hartNext_fetched room got))
  have runs : w.hart.mustWait i = false → w.hart.inError (issueReads i) = none →
      step s = afterInstr i w (exec i (w.leaveConvoy i).heldBack) := fun waits clean => by
    rw [step, next, waits, clean]
    rfl
  refine ⟨w, frame, fun waits => ?_, fun e waits bad => ?_, fun waits clean => ?_⟩
  · rw [step, next, waits]
    rfl
  · rw [step, next, waits, bad, frame.hart]
    rfl
  · have same := leaveConvoy_heldBack w i
    intro left x
    refine ⟨fun f ran => ?_, fun r ran => ?_, fun t ran => ?_⟩
    · rw [runs waits clean, same, ran]
      rfl
    · rw [runs waits clean, same, ran]
      rfl
    · obtain ⟨h, l, o, after, still, ended⟩ := afterInstr_next w t i
      rw [runs waits clean, same, ran, after]
      exact ⟨h, l, o, rfl, still, ended.frame, ended.regs, ended.halts, ended.counts⟩
end Sys2Proof
end
